-- ==== Sys2Proof/Word.lean ====
section
/-! DEFINITION. The words the NY-7160 is described in: bytes, registers, byte strings and sparse maps. -/

namespace Sys2Proof

/-- One byte of a register, a memory or a frame. -/
abbrev Byte := BitVec 8
/-- A 32-bit register or a 32-bit vector lane. -/
abbrev W32 := BitVec 32
/-- A 64-bit control-core or scalar register. -/
abbrev W64 := BitVec 64
/-- A byte string: a payload, a frame, a slice. -/
abbrev Bytes := List Byte

/-- Sparse data by number: pairs of a key and a value, keys strictly rising.
A key that is not listed holds the default that its reader names. -/
abbrev Map (α : Type) := List (Nat × α)

/-- Sparse memory: an address that is not listed reads as the byte 0, and no listed byte is 0. -/
abbrev Mem := Map Byte

end Sys2Proof
end

