-- ==== Sys2Proof/Syntax.lean ====
section
/-! DEFINITION. The commands and events of the part: one constructor of `Instr` for each row of the opcode table,
in the table's order, with what the sender or the environment supplies as its operands. -/

namespace Sys2Proof

/-- What the published cryptography answers about a request (R473, R497, R501, R504): an input of the model,
since no key is readable state. -/
structure Crypto where
  /-- The payload's signature verifies; for TA_ADD, its certificate parses and holds a P-256 key. -/
  sigOk : Bool
  /-- Bit i < 8: the payload's certificate chains to anchor slot i. Bit 8: to the vendor debug root. For TA_ADD, bit i: the
  certificate of session i chains to the anchor that the payload brings. -/
  chain : Nat
deriving DecidableEq, Repr

/-- A mailbox request as a session rings it (R458). -/
structure Req where
  mbx : Nat
  sess : Nat
  seq : Nat
  ifv : Nat
  flags : Nat
  rsvd : Nat
  payload : Bytes
  cr : Crypto
deriving DecidableEq, Repr

/-- An entry of a parity-protected memory, named as R563 names it in DETAIL. A trie entry is named by the address
bits that select it, with its place in the pool, which the spec leaves to the part. -/
inductive PRef where
  | trie (fam stage path pos : Nat)
  | exact (table key : Nat)
  | learn (bucket way : Nat)
  | flow (index : Nat)
  | rule (set off : Nat)
  | score (map off : Nat)
  | comp (ens off : Nat)
deriving DecidableEq, Repr

/-- What a compass unit evaluates a block for (R177): a slice of port q, or the job sample at the head of its die's queue. -/
inductive CWork where
  | slice (q seq : Nat)
  | job
deriving DecidableEq, Repr

/-- A Brixvia frame of an open session as it arrives (R471): the header fields, whether the authentication tag checks,
and the decrypted body. -/
structure BxFrame where
  port : Nat
  sess : Nat
  pn : Nat
  fseq : Nat
  fack : Nat
  flags : Nat
  tagOk : Bool
  body : Bytes
deriving DecidableEq, Repr

/-- PTP messages that the part uses (R379), and any other. -/
inductive PtpKind where
  | announce
  | sync
  | followUp
  | delayReq
  | delayResp
  | pdelayReq
  | pdelayResp
  | pdelayRespFollowUp
  | other
deriving DecidableEq, Repr

/-- The dataset that a PTP master announces (R379): the members that the comparison of IEEE 1588-2019 reads. -/
structure PtpDs where
  prio1 : Nat
  clockClass : Nat
  accuracy : Nat
  variance : Nat
  prio2 : Nat
  identity : Nat
  steps : Nat
deriving DecidableEq, Repr

/-- A PTP message as it arrives: its sender's port identity, its domain, whether it carries unicast negotiation or security TLVs,
and, where it completes a comparison by the standard's arithmetic, the reference minus the chronometer in 1/256 ns (R379). -/
structure PtpMsg where
  kind : PtpKind
  src : Nat
  domain : Nat
  barred : Bool
  /-- An Announce: its dataset, and for how many ns it holds. -/
  ds : Option PtpDs
  ttl : Nat
  off : Option Int
deriving DecidableEq, Repr

/-- One 64-byte word of a slice port, with its 2-bit type (R52). -/
structure SpWord where
  ty : Nat
  data : Bytes
deriving DecidableEq, Repr

/-- A JTAG instruction (R503, R558). The codes of the instruction register lie in the separate boundary-scan file. -/
inductive JtagOp where
  | bypass
  | idcode
  | samplePreload
  /-- Instructions of IEEE 1149.6 other than the two below. -/
  | ac
  | extest
  | extestPulse
  | extestTrain
  /-- A debug access to the register at `off`: a read, or a write of `w` (R9, R460). -/
  | access (off : Nat) (w : Option Nat)
  /-- Any other vendor instruction. -/
  | vendor
deriving DecidableEq, Repr

/-- A core that saves its context, and the save area in HBM that the helm names for it (R293, R294). -/
structure SaveAt where
  core : Nat
  area : Nat
deriving DecidableEq, Repr

/-- A core whose DJOB sends its job; with `acc`, whose oldest DJOB to another chip learns that status (R281, R310). -/
structure DjobAt where
  core : Nat
  acc : Option Nat
deriving DecidableEq, Repr

/-- The symbols in error in the two reads of an HBM line (R353, R354), and whether the pattern of each forms another codeword's
correctable one. -/
structure Reread where
  first : List Nat
  second : List Nat
  wild1 : Bool
  wild2 : Bool
deriving DecidableEq, Repr

/-- A link that loses codeword lock, and whether the partner's reset is the cause (R344, R407). -/
structure LinkLoss where
  link : Nat
  reset : Bool
deriving DecidableEq, Repr

/-- A flit as it arrives: its 2-bit type and its bytes (R396). -/
structure ClFlit where
  ty : Nat
  bytes : Bytes
deriving DecidableEq, Repr

/-- A received codeword: its lane on a chain link, 0 on a slice port, and the number of its symbols in error (R51, R395). -/
structure Codeword where
  lane : Nat
  errs : Nat
deriving DecidableEq, Repr

/-- The commands and events of the NY-7160, in the order of the opcode table. -/
inductive Instr where
  /-- HELLO (R466): Negotiates and sets the session's mailbox interface version and returns device identity and state. -/
  | hello (r : Req)
  /-- REG_READ (R452): Reads COUNT consecutive registers of the register space in ascending offset order. -/
  | regRead (r : Req)
  /-- REG_WRITE (R452): Writes COUNT consecutive registers of the register space in ascending offset order under the access rules of R10. -/
  | regWrite (r : Req)
  /-- EVT_CTL (R469): Sets which event types and fault classes the issuing session receives. -/
  | evtCtl (r : Req)
  /-- DLC_STAGE (R73): Stages one deadline class with its budget and fallback verdict for the next version. -/
  | dlcStage (r : Req)
  /-- PG_STAGE (R105): Writes bytes into the staged parse-graph image and clears any earlier seal. -/
  | pgStage (r : Req)
  /-- PG_SEAL (R106): Checks the staged parse-graph image whole and marks it sealed. -/
  | pgSeal (r : Req)
  /-- RC_STAGE (R127): Writes bytes into a staged rule set, selection table or score map. -/
  | rcStage (r : Req)
  /-- RC_DELETE (R128): Stages the removal of a rule set or score map from the next version. -/
  | rcDelete (r : Req)
  /-- RC_SEAL (R129): Checks every rule-classifier object as it would stand after the commit and seals them. -/
  | rcSeal (r : Req)
  /-- TB_PLAN_STAGE (R154): Writes bytes into the staged lookup plan. -/
  | tbPlanStage (r : Req)
  /-- TB_SEAL (R155): Checks the staged lookup plan and prefix pools and seals the tables group. -/
  | tbSeal (r : Req)
  /-- CP_STAGE (R184): Writes bytes into the staged image of one ensemble. -/
  | cpStage (r : Req)
  /-- CP_DELETE (R185): Stages the removal of an ensemble from the next version. -/
  | cpDelete (r : Req)
  /-- CP_SEAL (R186): Checks every ensemble as it would stand after the commit and seals the compass group. -/
  | cpSeal (r : Req)
  /-- JOB_SUBMIT (R310): Queues a host-submitted job on a model instance and returns its assigned WORK_ID. -/
  | jobSubmit (r : Req)
  /-- MODEL_STAGE (R321): Checks a container and placement and stages the model for the next version. -/
  | modelStage (r : Req)
  /-- MODEL_DELETE (R308): Stages the removal of a model from the next version, blocking its streams. -/
  | modelDelete (r : Req)
  /-- CORE_BRK_SET (R296): Sets or clears one breakpoint of a core. -/
  | coreBrkSet (r : Req)
  /-- CORE_CONT (R296): Resumes a halted core or single-steps one control instruction. -/
  | coreCont (r : Req)
  /-- CORE_STATE_READ (R296): Returns the 160-byte state record of a logical core. -/
  | coreStateRead (r : Req)
  /-- SC_STAGE (R322): Writes bytes into the staged stream-context templates or stream-key map. -/
  | scStage (r : Req)
  /-- SC_SEAL (R323): Checks the staged templates and key map against the next version and seals them. -/
  | scSeal (r : Req)
  /-- SC_CTL (R300): Reads, arms, pauses, resets or clears the counters of one stream context. -/
  | scCtl (r : Req)
  /-- SYNC_READ (R346): Returns consistent records of up to 16 sync objects. -/
  | syncRead (r : Req)
  /-- SYNC_TREE (R345): Configures a hub object as a tree-barrier node owned by the helm, or frees it. -/
  | syncTree (r : Req)
  /-- MEM_PCH_RETIRE (R371): Retires a pseudo-channel and starts migration of its half. -/
  | memPchRetire (r : Req)
  /-- CH_SOURCE (R378): Selects the chronometer reference source and returns the servo to ACQUIRING. -/
  | chSource (r : Req)
  /-- CH_SET (R394): Sets the chronometer at the next 1PPS edge or steps it by a signed amount while no version is live. -/
  | chSet (r : Req)
  /-- PWR_STATE (R385): Requests the RUN, BANKED or SLEEP power state. -/
  | pwrState (r : Req)
  /-- CL_CHIP_ID (R420): Assigns the chip id. -/
  | clChipId (r : Req)
  /-- CL_ROUTE_SET (R414): Writes routing-table entries in both I/O dies together. -/
  | clRouteSet (r : Req)
  /-- CL_UNRETIRE (R412): Removes named lanes and their link from the MRAM retired list so the link retrains. -/
  | clUnretire (r : Req)
  /-- CL_RELAY (R421): Wraps an inner mailbox command in a kind 5 frame to another chip and returns its response. -/
  | clRelay (r : Req)
  /-- VER_OPEN (R436): Opens a staging round with the number of the next version. -/
  | verOpen (r : Req)
  /-- VER_ABORT (R443): Discards the open staging round and its staged objects. -/
  | verAbort (r : Req)
  /-- COMMIT_AT (R439): Arms the staging round for a commit at a chronometer instant. -/
  | commitAt (r : Req)
  /-- VER_STATUS (R442): Returns the version summary or the object records of a version. -/
  | verStatus (r : Req)
  /-- VER_CTL (R445): Sets the bearing-mismatch policy, aggregation tree and RETAIN_MS. -/
  | verCtl (r : Req)
  /-- RST (R481): Requests a system reset or a core reset. -/
  | rst (r : Req)
  /-- BLK_CTL (R487): Resets, disables or enables a single unit through the quiesce handshake. -/
  | blkCtl (r : Req)
  /-- QUIESCE_SET (R486): Sets the chip-wide quiesce timeout. -/
  | quiesceSet (r : Req)
  /-- RST_REMOTE (R481): Sends a reset request to the partner chip on a Weltix link. -/
  | rstRemote (r : Req)
  /-- TA_ADD (R501): Installs an operator trust anchor in MRAM. -/
  | taAdd (r : Req)
  /-- TA_REMOVE (R474): Removes an operator trust anchor and closes sessions that chained only to it. -/
  | taRemove (r : Req)
  /-- ATTEST (R500): Returns a signed attestation report over firmware, configuration and models. -/
  | attest (r : Req)
  /-- CERT_READ (R499): Returns the vendor-signed device certificate. -/
  | certRead (r : Req)
  /-- DBG_CHALLENGE (R504): Returns a fresh debug-unlock challenge. -/
  | dbgChallenge (r : Req)
  /-- DBG_UNLOCK (R504): Verifies a debug token and unlocks the scopes it grants. -/
  | dbgUnlock (r : Req)
  /-- FW_LOAD (R496): Writes bytes into the helm's firmware load buffer. -/
  | fwLoad (r : Req)
  /-- FW_INSTALL (R497): Verifies the load buffer and writes it to the inactive slot as PENDING, or starts it from the boot ROM. -/
  | fwInstall (r : Req)
  /-- FW_CONFIRM (R498): Marks the running image's slot ACTIVE and raises the rollback counter. -/
  | fwConfirm (r : Req)
  /-- FLT_THRESH_STAGE (R514): Stages the retirement thresholds object. -/
  | fltThreshStage (r : Req)
  /-- FLT_RING_READ (R506): Returns fault records from the ring and optionally advances CW_FLT_RD. -/
  | fltRingRead (r : Req)
  /-- OBS_CORE_READ (R525): Returns and optionally clears the utilisation counter record of a logical core. -/
  | obsCoreRead (r : Req)
  /-- LOG_CTL (R529): Configures, flushes or stops a logbook. -/
  | logCtl (r : Req)
  /-- DUMP_ARM (R532): Arms or disarms a tensor dump slot of a core. -/
  | dumpArm (r : Req)
  /-- HV_ARM (R536): Arms a heave-to, cancels it, or schedules a resume. -/
  | hvArm (r : Req)
  /-- HV_READ (R540): Returns bytes of a record of the heave-to capture. -/
  | hvRead (r : Req)
  /-- PWR_CAP (R550): Sets the damper's package power cap. -/
  | pwrCap (r : Req)
  /-- PWR_READ (R553): Returns power, caps, temperatures, rail voltages and energy. -/
  | pwrRead (r : Req)
  /-- TBL_READ (R149): Table command READ, started by GO, reads an entry or record of a table unit. -/
  | tblRead (u v : Nat)
  /-- TBL_WRITE (R149): Table command WRITE writes a whole exact, learning or flow entry. -/
  | tblWrite (u v : Nat)
  /-- TBL_INSERT (R149): Table command INSERT adds a prefix or a learning entry. -/
  | tblInsert (u v : Nat)
  /-- TBL_DELETE (R149): Table command DELETE removes a prefix, exact entry, learning entry or flow record. -/
  | tblDelete (u v : Nat)
  /-- TBL_SEARCH (R149): Table command SEARCH looks up a prefix, learning key or flow record. -/
  | tblSearch (u v : Nat)
  /-- TBL_AGE_SCAN (R149): Table command AGE_SCAN sweeps the learning table or a die's flow records. -/
  | tblAgeScan (u v : Nat)
  /-- TBL_CMD_COMPLETE (R149): A table command completes, setting STATUS, DETAIL and results, clearing BUSY and setting DONE. -/
  | tblCmdComplete (u : Nat)
  /-- TBL_REG_COLLIDE (R149): A write to a table unit register while BUSY is ignored and sets COLLIDE. -/
  | tblRegCollide (u off v : Nat)
  /-- CW_MBX_DB_RING (R460): A REG_WRITE to CW_MBX_DB rings the named mailboxes for the writing session. -/
  | cwMbxDbRing (sess mask : Nat)
  /-- CW_MBX_DONE_CLEAR (R459): Clearing a CW_MBX_DONE bit returns the mailbox from DONE to IDLE. -/
  | cwMbxDoneClear (mask : Nat)
  /-- HEAVE_CTL_ARM (R536): Writing CW_HEAVE_CTL.ARM arms a heave-to at CW_HEAVE_T with the next number. -/
  | heaveCtlArm
  /-- HEAVE_CTL_RESUME (R541): Writing CW_HEAVE_CTL.RESUME resumes from the cut within 10 µs. -/
  | heaveCtlResume
  /-- HEAVE_CTL_CANCEL (R542): Writing CW_HEAVE_CTL.CANCEL disarms an armed heave-to. -/
  | heaveCtlCancel
  /-- CW_DBG_LOCK (R502): Writing CW_DBG.LOCK ends the debug unlock. -/
  | cwDbgLock
  /-- SP_PORT_ENABLE (R82): Setting SP_PORT_CTL.EN starts training of a slice port. -/
  | spPortEnable (q : Nat)
  /-- SP_PORT_DISABLE (R82): Clearing SP_PORT_CTL.EN quiesces the slice port and idles its transmitters. -/
  | spPortDisable (q : Nat)
  /-- SP_PORT_WIDTH_SET (R83): Writing SP_PORT_CTL.WIDTH splits or joins a lane group and resets the odd identifier. -/
  | spPortWidthSet (q : Nat) (two : Bool)
  /-- CL_LINK_ENABLE (R430): Setting CL_LINK_CTL.EN lets a chain link train and run. -/
  | clLinkEnable (n : Nat)
  /-- CL_LINK_DISABLE (R430): Clearing CL_LINK_CTL.EN quiesces the link, drains replay, sends DOWN and idles it. -/
  | clLinkDisable (n : Nat)
  /-- COUNTER_CLEAR (R14): Writing 0 to a counter's low word clears the counter and its flag. -/
  | counterClear (off : Nat)
  /-- LOW_WORD_READ_LATCH (R9): Reading the low word of a 64-bit register latches its high word and fraction for that accessor. -/
  | lowWordReadLatch (acc off : Nat)
  /-- REGISTER_WRITE (R10): A write to a register field without behaviour of its own sets, clears or ignores it by its access type. -/
  | registerWrite (acc off val : Nat)
  /-- MBX_START (R461): A QUEUED mailbox command starts once its fences are met and the helm is free. -/
  | mbxStart (m : Nat) (cr : Crypto)
  /-- MBX_COMPLETE (R459): A running command completes; its response is stored and sent in MBX_RESP. -/
  | mbxComplete (m : Nat)
  /-- HS_INIT (R473): A received HS_INIT starts a session handshake answered with HS_RESP or HS_FAIL. -/
  | hsInit (port : Nat) (body : Bytes)
  /-- HS_FIN (R473): A received HS_FIN is verified, keys are derived and the session opens. -/
  | hsFin (port sess : Nat) (body : Bytes) (peer : Nat) (cr : Crypto)
  /-- MBX_WRITE (R472): A received MBX_WRITE writes a mailbox request area and may ring it. -/
  | mbxWrite (f : BxFrame)
  /-- MBX_READ (R472): A received MBX_READ is answered with the mailbox's stored response. -/
  | mbxRead (f : BxFrame)
  /-- BULK_WRITE (R476): A received BULK_WRITE frame writes HBM, ending with BULK_STATUS after LAST. -/
  | bulkWrite (f : BxFrame)
  /-- BULK_READ (R476): A received BULK_READ starts a read answered with BULK_DATA frames. -/
  | bulkRead (f : BxFrame)
  /-- BX_ACK (R472): A received ACK advances the acknowledged frame sequence. -/
  | bxAck (f : BxFrame)
  /-- KEEPALIVE (R475): A received KEEPALIVE refreshes the session on its port. -/
  | keepalive (f : BxFrame)
  /-- CLOSE (R475): A received CLOSE closes the session and ends its bulk transfers. -/
  | close (f : BxFrame)
  /-- PTP_MESSAGE (R379): A PTP message on a Brixvia port is stamped and used by the servo or discarded. -/
  | ptpMessage (port : Nat) (m : PtpMsg)
  /-- BX_RETX_TIMEOUT (R472): FACK has not advanced for 250 µs and the sender retransmits from the oldest frame. -/
  | bxRetxTimeout (sess : Nat)
  /-- BX_ACK_SEND (R472): An ACK is sent within 20 µs of taking a sequenced frame not otherwise acknowledged. -/
  | bxAckSend (sess : Nat)
  /-- KEEPALIVE_SEND (R475): Each millisecond a KEEPALIVE is sent per open session on every lit port. -/
  | keepaliveSend
  /-- SESSION_IDLE_TIMEOUT (R475): No authenticated frame for 100 ms closes the session. -/
  | sessionIdleTimeout (sess : Nat)
  /-- HANDSHAKE_TIMEOUT (R473): A handshake not finished within 100 ms is dropped. -/
  | handshakeTimeout (sess : Nat)
  /-- ACTIVE_PORT_SWITCH (R475): A session's active port fails its lock or 3 ms test and the other port becomes active. -/
  | activePortSwitch (sess : Nat)
  /-- EVENT_FRAME_SEND (R469): A queued event leaves its session queue as an EVENT frame once the window allows. -/
  | eventFrameSend (sess : Nat)
  /-- HELM_TAKEOVER (R450): The standby helm pair takes over after the active pair stops. -/
  | helmTakeover
  /-- HELM_LOCKSTEP_STOP (R449): The cores of a helm pair disagree and the pair stops. -/
  | helmLockstepStop (i : Nat)
  /-- SLICE_ARRIVAL (R55): A slice is received on a port and its header is checked. -/
  | sliceArrival (q : Nat) (words : List SpWord)
  /-- RESYNC (R55): A RESYNC control word from the switch restores slice framing at the next data word. -/
  | resync (q : Nat) (word : Bytes)
  /-- SP_CREDIT (R64): A CREDIT control word returns verdict or result-data credits to the device. -/
  | spCredit (q : Nat) (word : Bytes)
  /-- SP_TRAIN (R67): A TRAIN control word advances slice-port training and version negotiation. -/
  | spTrain (q : Nat) (word : Bytes)
  /-- SP_TRAIN_TIMEOUT (R67): A training step exceeds its limit and training fails. -/
  | spTrainTimeout (q : Nat)
  /-- SP_TRAIN_RETRY (R67): Training starts again at step 1 100 ms after a failure. -/
  | spTrainRetry (q : Nat)
  /-- SP_LOCK_LOSS (R68): Codeword lock lost for over 1 µs drops the port from trained and discards its pending verdicts. -/
  | spLockLoss (q : Nat)
  /-- SP_TIME_SEND (R63): A TIME control word is sent on every trained port each 2^20 ns. -/
  | spTimeSend
  /-- PARSE_WALK (R96): A parse pipeline walks the slice through the parse graph and builds the key vector. -/
  | parseWalk (pipe : Nat) (parity : Bool)
  /-- SLICE_LOOKUP (R134): The lookup stage runs LPM, exact, learning and flow-record searches and the rule classifier in parallel. -/
  | sliceLookup (q seq : Nat) (pf : List PRef)
  /-- LEARN_EVENT_FORWARD (R141): A learning event forwarded from the other die is judged and applied by the owner. -/
  | learnEventForward (d : Nat)
  /-- LEARN_AGE_SWEEP (R142): Once per second each owner sweeps its buckets and removes aged entries. -/
  | learnAgeSweep (d : Nat)
  /-- FLOW_FETCH_RETURN (R146): A flow-cache miss fetch returns from HBM and queued updates are applied or a record created. -/
  | flowFetchReturn (die bucket tag poison : Nat)
  /-- TABLE_REPAIR (R153): The helm rewrites a parity-failed entry from its shadow copy. -/
  | tableRepair (place : Nat) (ref : PRef) (ok : Bool)
  /-- COMPASS_BLOCK_EVAL (R177): A compass unit evaluates one block for a slice or job sample. -/
  | compassBlockEval (u : Nat) (wk : CWork) (pf : List PRef) (bad : List Nat)
  /-- VERDICT_COMPOSE (R122): The composer merges rank sources into the slice's verdict slot. -/
  | verdictCompose (q seq : Nat) (pf : List PRef)
  /-- FALLBACK_INSTANT (R74): A slice's fallback instant passes and fallbacks and DEADLINE_MISS are given. -/
  | fallbackInstant (q : Nat)
  /-- VERDICT_WORD_SEND (R71): A verdict word is sent when ready verdicts may leave in order and a credit is held. -/
  | verdictWordSend (q : Nat)
  /-- RESULT_FRAME_SEND (R60): A result frame is sent on a slice v2 port when result credits allow. -/
  | resultFrameSend (q : Nat)
  /-- RECORD_APPEND (R302): The home dispatcher resolves a measurement record and appends it to its stream's ring. -/
  | recordAppend (d : Nat)
  /-- CADENCE_TICK (R304): A time cadence tick of a stream falls due. -/
  | cadenceTick (i : Nat)
  /-- JOB_ARRIVE (R310): A job from a dispatcher, the helm, a DJOB or another chip is queued on its instance or refused. -/
  | jobArrive (i : Nat)
  /-- JOB_START (R311): The head job of an instance queue starts once every rank is idle, or is discarded as late. -/
  | jobStart (i : Nat)
  /-- CONTEXT_SAVE (R294): At a pre-emption point the core saves its context and its objects become ORPHANED. -/
  | contextSave (w : SaveAt)
  /-- JOB_RESUME (R295): The helm restores a saved context and resumes the pre-empted job. -/
  | jobResume (i wid : Nat)
  /-- JOB_COMPLETE (R312): Every rank of a job has ended and the job completes with its status. -/
  | jobComplete (i : Nat)
  /-- RESULT_ROUTE (R315): The result router delivers a job result's frame, event, overrides and return. -/
  | resultRoute (d : Nat)
  /-- RETURN_ARRIVE (R316): A result return reaches its originating chip and is tested for lateness and written. -/
  | returnArrive (i : Nat)
  /-- NOP (R264): Control instruction that does nothing. -/
  | nop (p : Nat)
  /-- ISSUE (R268): Decodes a patched template into its engine queue with scoreboard tickets. -/
  | issue (p : Nat)
  /-- SETK (R264): Sets a K register to a sign-extended immediate. -/
  | setk (p : Nat)
  /-- ADDK (R264): Adds an immediate to a K register. -/
  | addk (p : Nat)
  /-- ALU (R264): Computes a K register from two K registers. -/
  | alu (p : Nat)
  /-- BR (R264): Branches on a condition of two K registers. -/
  | br (p : Nat)
  /-- LOOP (R264): Decrements a K register and branches while it is not zero. -/
  | loopK (p : Nat)
  /-- RBEGIN (R286): Opens a retry region and snapshots the registers. -/
  | rbegin (p : Nat)
  /-- REND (R286): Closes the open retry region and waits for it to pass. -/
  | rend (p : Nat)
  /-- PSAFE (R293): Marks a pre-emption point. -/
  | psafe (p : Nat)
  /-- STEPI (R264): Increments the STEP counter. -/
  | stepi (p : Nat)
  /-- WAITQ (R264): Holds decode until earlier instructions of the masked queues complete. -/
  | waitq (p : Nat)
  /-- GETJ (R264): Loads a job field into a K register. -/
  | getj (p : Nat)
  /-- END (R292): Ends the job with OK or FAULTED once earlier instructions complete. -/
  | endJob (p : Nat)
  /-- BRK (R296): Acts as a breakpoint hit. -/
  | brk (p : Nat)
  /-- INSTR_RELEASE (R271): A queue head passing its scoreboard and slot test is released to its engine. -/
  | instrRelease (p q : Nat)
  /-- INSTR_COMPLETE (R269): An engine instruction completes and its scoreboard counts advance. -/
  | instrComplete (p q : Nat)
  /-- REGION_PASS (R286): A closed retry region passes and its deferred signals are flushed. -/
  | regionPass (p : Nat)
  /-- REGION_RETRY (R287): After a failure inside a region the core restores its snapshot and re-executes or ends FAULTED. -/
  | regionRetry (p : Nat)
  /-- BREAKPOINT_HIT (R296): A breakpoint matches and the core halts once its engines drain. -/
  | breakpointHit (p : Nat)
  /-- ALOAD (R192): Fills a staging half from core store. -/
  | aload (p : Nat) (skew : Option (Nat × Nat))
  /-- AMUL (R199): Streams weight rows through named arrays against a staging half. -/
  | amul (p : Nat) (skew : Option (Nat × Nat × Nat))
  /-- ADRAIN (R212): Checks and drains one accumulator slot of each named array. -/
  | adrain (p : Nat) (flips : List (Nat × Nat × Nat))
  /-- MVMUL (R225): Computes a checked row-times-matrix product on the matrix-vector path. -/
  | mvmul (p : Nat) (skew : Option (Nat × Nat)) (flips : List (Nat × Nat))
  /-- VLD (R274): Loads vector register groups from core store. -/
  | vld (p eng : Nat)
  /-- VST (R274): Stores vector register groups to core store. -/
  | vst (p eng : Nat)
  /-- VARITH (R275): Performs FP32 or BF16 lane arithmetic. -/
  | varith (p eng : Nat) (r : Option Nat)
  /-- VCMP (R274): Compares lanes into a predicate. -/
  | vcmp (p eng : Nat)
  /-- VSEL (R274): Selects lanes by predicate. -/
  | vsel (p eng : Nat)
  /-- VRED (R275): Reduces the groups to a sum, maximum, minimum or argmax. -/
  | vred (p eng : Nat) (r : Option Nat)
  /-- VSFN (R276): Applies a special function to each lane. -/
  | vsfn (p eng : Nat) (r : Option Nat)
  /-- VQUANT (R277): Block-quantises one row and updates its check vector. -/
  | vquant (p eng : Nat) (r : Option Nat)
  /-- VDEQ (R277): Dequantises one row to FP32. -/
  | vdeq (p eng : Nat) (r : Option Nat)
  /-- VBC (R274): Broadcasts an immediate to every lane. -/
  | vbc (p eng : Nat)
  /-- VKX (R274): Copies lane 0 of a vector register into a K register. -/
  | vkx (p eng : Nat)
  /-- SALU (R280): Scalar register arithmetic. -/
  | salu (p eng : Nat)
  /-- SLI (R280): Loads a scalar immediate. -/
  | sli (p eng : Nat)
  /-- SADDI (R280): Adds an immediate to a scalar register. -/
  | saddi (p eng : Nat)
  /-- SLD (R280): Loads 8 bytes from core store into a scalar register. -/
  | sld (p eng : Nat)
  /-- SST (R280): Stores a scalar register to core store. -/
  | sst (p eng : Nat)
  /-- SMOVK (R280): Copies a scalar register into a K register. -/
  | smovk (p eng : Nat)
  /-- SGETK (R280): Copies a K register into a scalar register. -/
  | sgetk (p eng : Nat)
  /-- DCOPY (R281): Copies rows locally or to another chip, optionally transposing. -/
  | dcopy (p : Nat)
  /-- DJOB (R281): Sends a job descriptor as a kind 2 job. -/
  | djob (d : DjobAt)
  /-- SIGNAL (R329): Adds n to a counter object, deferred inside a region. -/
  | signal (p : Nat)
  /-- WAIT (R329): Holds the sync queue until an object's value reaches v. -/
  | waitSync (p : Nat)
  /-- DECREMENT (R329): Subtracts 1 from a counter object, clamping at 0. -/
  | decrement (p : Nat)
  /-- BARRIER (R335): Arrives at a barrier object. -/
  | barrier (p : Nat)
  /-- INIT (R329): Initialises or claims a sync object as counter or barrier. -/
  | initSync (p : Nat)
  /-- CJOB (R283): Submits a compass job and receives its status. -/
  | cjob (p : Nat)
  /-- QWAIT (R284): Holds a queue until earlier instructions of masked queues complete. -/
  | qwait (p q : Nat)
  /-- TMARK (R284): Writes a mark record to the core's logbook. -/
  | tmark (p q : Nat)
  /-- DUMP (R532): Fires an armed tensor dump at its turn in the queue. -/
  | dump (p q : Nat)
  /-- DUMP_COPY (R533): A fired dump's data is copied to its HBM entry within the observation cap. -/
  | dumpCopy (p : Nat)
  /-- COMPASS_JOB_COMPLETE (R181): A compass job's last record is written and its result returns to the core. -/
  | compassJobComplete (d : Nat)
  /-- SYNC_REMOTE_REQUEST (R332): A kind 4 sync request tag from another core or chip is applied to an object. -/
  | syncRemoteRequest (i : Nat)
  /-- SYNC_REPLY (R339): A REPLY tag completes or registers a remote sync operation. -/
  | syncReply (i : Nat)
  /-- SYNC_RELEASE (R334): A RELEASE reaches a sync block, which acknowledges it. -/
  | syncRelease (i : Nat)
  /-- RELEASE_ACK (R335): A RELEASE_ACK lowers LEAVING and may return the barrier to GATHER. -/
  | releaseAck (i : Nat)
  /-- TREE_ARRIVE (R342): A child's TREE_ARRIVE counts as one arrival at a tree node. -/
  | treeArrive (i : Nat)
  /-- TREE_RELEASE (R335): A parent's TREE_RELEASE completes the round at a tree node. -/
  | treeRelease (i : Nat)
  /-- ORPHAN (R344): An ORPHAN tag orphans a tree node, which forwards it on its other links. -/
  | orphan (i : Nat)
  /-- WITHDRAW (R338): A reset core withdraws its held WAIT or BARRIER from an object. -/
  | withdraw (i : Nat)
  /-- SYNC_TIMEOUT (R340): A remote request without a first reply within 100 µs ends with TIMEOUT. -/
  | syncTimeout (p : Nat)
  /-- HBM_REREAD (R354): An uncorrectable HBM read is re-read and cleared or poisoned. -/
  | hbmReread (a row : Nat) (e : Reread)
  /-- HBM_ROW_REPAIR (R356): A row is repaired by soft post-package repair while its pseudo-channel is held. -/
  | hbmRowRepair (pch row : Nat) (lost : List Nat) (spare : Bool)
  /-- MIGRATION_COMPLETE (R360): Background migration of a half ends, starting any queued retirement. -/
  | migrationComplete (h : Nat) (lost : List Nat)
  /-- HBM_TEMP_READ (R349): Every 1 ms the stack temperatures are read for the damper. -/
  | hbmTempRead (temps odecc rfm : List Nat)
  /-- PATROL_SCRUB (R367): The patrol scrub reads core-store words in free cycles. -/
  | patrolScrub (p off outcome : Nat)
  /-- BANK_SPARED (R368): A spare bank's copy ends and it takes the failing bank's number. -/
  | bankSpared (p : Nat) (lost : List Nat)
  /-- CH_REF_COMPARE (R380): A valid reference comparison steps, slews or locks the chronometer servo. -/
  | chRefCompare (off : Int)
  /-- TIME_HOLDOVER (R380): No valid comparison for 3 s, or an excessive offset, enters HOLDOVER. -/
  | timeHoldover
  /-- CH_SET_PPS_EDGE (R394): A waiting CH_SET OP 0 takes effect at the 1PPS edge. -/
  | chSetPpsEdge
  /-- CH_SET_TIMEOUT (R394): No 1PPS edge within 1.1 s ends CH_SET with TIMEOUT. -/
  | chSetTimeout
  /-- ALARM_FIRE (R389): An alarm comparator fires when the chronometer reaches its value. -/
  | alarmFire (n : Nat)
  /-- WAKE_COMPARATOR_FIRE (R390): A WAKE pin comparator fires after 32 samples past its threshold. -/
  | wakeComparatorFire (n mv : Nat)
  /-- LIGHT_DETECT (R390): A light-detect comparator fires after 32 samples above −18 dBm. -/
  | lightDetect (p : Nat) (on lock : Bool)
  /-- COUNT_ONLY_ENTRY (R377): No 10 MHz edge for 1 µs in SLEEP switches the count to the crystal. -/
  | countOnlyEntry
  /-- BANKED_ENTRY (R386): With every instance idle, the core islands are stopped for BANKED. -/
  | bankedEntry
  /-- CL_TRAIN (R405): A TRAIN flit advances chain-link training and lane negotiation. -/
  | clTrain (n : Nat) (flit : Bytes)
  /-- CL_TRAIN_RETRY (R405): A failed link training attempt is repeated after 100 ms. -/
  | clTrainRetry (n : Nat)
  /-- CL_LOCK_LOSS (R407): A link loses codeword lock for over 1 µs, leaves up and retrains. -/
  | clLockLoss (x : LinkLoss)
  /-- CL_DATA_FLIT (R409): A data flit is accepted in SEQ order or discarded with a NACK. -/
  | clDataFlit (n : Nat) (f : ClFlit)
  /-- NACK (R409): A received NACK replays data flits from the named SEQ. -/
  | nack (n : Nat) (flit : Bytes)
  /-- CREDIT (R404): A received CREDIT flit returns VC credits and carries ACK. -/
  | credit (n : Nat) (flit : Bytes)
  /-- CL_CREDIT_SEND (R399): A CREDIT flit is sent at least every 64 ns when no news is carried. -/
  | clCreditSend (n : Nat)
  /-- CL_REPLAY_TIMEOUT (R409): ACK not advancing for max(4 × RTT, 10 µs) replays from the oldest flit. -/
  | clReplayTimeout (n : Nat)
  /-- LANE_REQ (R411): A received LANE_REQ proposes a new active-lane mask and is answered. -/
  | laneReq (n : Nat) (flit : Bytes)
  /-- LANE_ACK (R411): A received LANE_ACK completes a lane switch. -/
  | laneAck (n : Nat) (flit : Bytes)
  /-- LANE_ACK_TIMEOUT (R411): No LANE_ACK within 1 ms makes the link retrain without the lane. -/
  | laneAckTimeout (n : Nat)
  /-- DOWN (R399): A received DOWN flit reports that the partner is quiescing the link. -/
  | down (n : Nat) (flit : Bytes)
  /-- TIME_REQ (R422): A received TIME_REQ is answered with TIME_RESP within 2 µs. -/
  | timeReq (n : Nat) (flit : Bytes)
  /-- TIME_RESP (R422): A received TIME_RESP yields an offset comparison for the servo. -/
  | timeResp (n : Nat) (flit : Bytes)
  /-- TIME_REQ_SEND (R422): Every 2^20 ns a TIME_REQ is sent on the chronometer's source link. -/
  | timeReqSend
  /-- BEARING_EXCHANGE_SEND (R423): At each 2^30 ns instant or link-up a bearing exchange frame is sent. -/
  | bearingExchangeSend (n : Nat)
  /-- BEARING_EXCHANGE (R446): A partner's bearing exchange body sets the link's agreement state. -/
  | bearingExchange (i : Nat)
  /-- AGG_REPORT_SEND (R447): A chip builds and sends its bearing report after its children report or the deadline passes. -/
  | aggReportSend
  /-- AGG_CHILD_REPORT (R447): A child's bearing report for a period arrives and is added in. -/
  | aggChildReport (i : Nat)
  /-- UNREACH (R418): A received UNREACH marks the route to a chip lost for 10 ms. -/
  | unreach (i : Nat)
  /-- CONTROL_FRAME (R421): A relayed kind 5 control frame is executed as a mailbox command and answered. -/
  | controlFrame (i : Nat) (cr : Crypto)
  /-- CL_RELAY_TIMEOUT (R421): No inner response within TIMEOUT_MS ends CL_RELAY with TIMEOUT. -/
  | clRelayTimeout (who : Nat)
  /-- DCOPY_CONFIRM (R403): A copy confirmation frame completes a remote DCOPY. -/
  | dcopyConfirm (i : Nat)
  /-- DCOPY_CONFIRM_TIMEOUT (R403): No confirmation within 10 ms refuses the DCOPY and faults its job. -/
  | dcopyConfirmTimeout
  /-- REMOTE_RESET_REQUEST (R481): A reset request from a link partner asserts a system reset. -/
  | remoteResetRequest (i : Nat)
  /-- HEAVE_TO_MARKER (R424): A received heave-to marker closes a link's in-flight state or stops the chip. -/
  | heaveToMarker (n : Nat)
  /-- COMMIT_INSTANT (R439): At the armed instant the complete round becomes the newest version or COMMIT_MISSED is raised. -/
  | commitInstant
  /-- VERSION_RETIRE (R442): The older live version retires once its in-flight count is zero and RETAIN_MS has passed. -/
  | versionRetire
  /-- FAULT_PERIOD_END (R507): A rate-limit period ends and writes a SUMMARY record or closes. -/
  | faultPeriodEnd (code chan : Nat)
  /-- QUIESCE_ACK (R486): A quiescing unit acknowledges it is empty and becomes IDLE. -/
  | quiesceAck (u i : Nat)
  /-- QUIESCE_TIMEOUT (R486): The quiesce timeout expires, the unit is FORCED and FORCED_RESET is raised. -/
  | quiesceTimeout (u i reads : Nat) (lines : List Nat)
  /-- POWER_ON_RESET (R480): A power-on source asserts and the device takes the power-on reset. -/
  | powerOnReset
  /-- SYS_RST_N (R482): The filtered low level of SYS_RST_N asserts a system reset. -/
  | sysRstN
  /-- CORE_RST_N (R482): The filtered low level of CORE_RST_N asserts a core reset. -/
  | coreRstN
  /-- SUPPLY_TRIP (R481): A main rail falls below its trip level and a power-on reset is asserted. -/
  | supplyTrip (rail : Nat)
  /-- REFCLK_LOSS (R555): The 100 MHz reference absent for 10 µs asserts a power-on reset. -/
  | refclkLoss
  /-- THERMAL_TRIP (R481): A sensor or stack at 105 °C asserts a system reset. -/
  | thermalTrip
  /-- THERMAL_WARNING (R513): A junction sensor reaching 95 °C raises THERMAL detail 1 and HOT. -/
  | thermalWarning (sensor temp : Nat)
  /-- WATCHDOG_EXPIRY (R481): 250 ms without a firmware kick resets the system or stops the active pair. -/
  | watchdogExpiry
  /-- RESET_RELEASE (R483): The last source of a level is released and the device leaves or narrows its reset. -/
  | resetRelease (k : Nat)
  /-- BOOT_ROM_START (R493): The boot ROM starts on both helm pairs and turns on the Brixvia transmitters. -/
  | bootRomStart (samples : List Nat) (idOk : Bool) (torn : List Nat)
  /-- FIRMWARE_START (R497): The boot ROM verifies firmware slots and starts the first that verifies. -/
  | firmwareStart (sig : Nat)
  /-- STANDBY_SELF_TEST (R451): The standby helm pair passes or fails its self-test. -/
  | standbySelfTest (pass : Bool)
  /-- HBM_INIT_COMPLETE (R357): HBM initialisation completes after hard repairs are made permanent. -/
  | hbmInitComplete
  /-- DAMPER_MEASURE (R551): Each 1 µs the damper measures power and applies or undoes a throttling step. -/
  | damperMeasure (rails : List Nat) (mw busy : Nat)
  /-- WORKING_CAP_STEP (R552): Each ms the working cap falls or rises by 25 W by thermal state. -/
  | workingCapStep (tj : List Nat)
  /-- LOGBOOK_DRAIN (R529): A logbook drains its records to its HBM ring or Brixvia. -/
  | logbookDrain (k : Nat)
  /-- HEAVE_TO_STOP (R536): At instant T every stopping island freezes and markers are sent. -/
  | heaveToStop
  /-- HEAVE_TO_RESUME (R541): At instant R the islands restart from the cut. -/
  | heaveToResume
  /-- SMBUS_READ (R557): An SMBus Read Word or Block Read returns a status value. -/
  | smbusRead (code : Nat)
  /-- JTAG_INSTRUCTION (R503): A JTAG instruction is executed if available. -/
  | jtagInstruction (op : JtagOp) (dr : Bytes)
  /-- SP_LANE_LOCK (R67): A slice port's lanes achieve lane lock, then codeword lock and deskew, moving training through steps 1 and 2. -/
  | spLaneLock (q : Nat) (fast codeword : Bool)
  /-- CL_LANE_LOCK (R405): A chain link's lanes achieve lane lock, then codeword lock and deskew, so TRAIN offers can be exchanged. -/
  | clLaneLock (n : Nat) (fast codeword : Bool) (bad : Nat)
  /-- UNCORRECTABLE_CODEWORD (R51): A received codeword has more than 15 symbol errors, its words are discarded, framing is lost on a slice port, and it counts towards lane retirement on a chain lane. -/
  | uncorrectableCodeword (chain : Bool) (i : Nat) (c : Codeword)
  /-- REF10M_LOSS (R376): The 10 MHz signal disappears and the time clock relocks to the 100 MHz core reference. -/
  | ref10mLoss
  /-- REF10M_RETURN (R376): The 10 MHz signal returns and the time clock relocks to it. -/
  | ref10mReturn
  /-- VBK_LOSS (R481): VBK is lost, ending the always-on domain with the chronometer count and the reset counters. -/
  | vbkLoss
  /-- VBK_APPLIED (R377): VBK is first applied, setting the chronometer count and the reset counters to 0 and starting the always-on domain. -/
  | vbkApplied
  /-- THERMAL_WARNING_CLEAR (R513): Every junction sensor reads below 90 °C, HOT clears and THERMAL detail 1 may be raised again. -/
  | thermalWarningClear (tj : List Nat)
  /-- PLACEMENT_RELOAD_COMPLETE (R309): The helm finishes reloading a core's or instance's placements from the container, and jobs may start on it. -/
  | placementReloadComplete (i : Nat)
  /-- BLOCK_RESET_DONE (R487): A unit under block reset finishes clearing, an HBM controller retrains or a compass unit's block memory is rewritten, and the unit returns to RUNNING and BLK_CTL responds. -/
  | blockResetDone (u i : Nat)
  /-- CORE_STORE_REWRITE (R367): The helm rewrites a core-store word that was found uncorrectable from the container within 100 µs, clearing its poison. -/
  | coreStoreRewrite (p off : Nat)
  /-- STAGED_BEARING_READY (R438): The digest computation of the staged round ends and the staged bearing becomes ready. -/
  | stagedBearingReady
  /-- DEBUG_EXPIRY (R502): The unlock token's EXPIRY passes on the chronometer and debug is locked again. -/
  | debugExpiry
  /-- MBX_SYS_ASSERT (R481): 1 ms after the RST LEVEL 1 response is sent, the mailbox system-reset source is asserted for 10 µs. -/
  | mbxSysAssert
deriving DecidableEq, Repr

end Sys2Proof
end

