-- ==== Sys2Proof/Decode.lean ====
section
/-! DEFINITION. Commands as words of the table. No row of the table carries bits: the spec gives the part's commands no common
encoding, so no word spells one. -/

namespace Sys2Proof

/-- The command that a word of `nbits` bits spells by the table's bits: none, since no row has any. -/
def decodeTableWord (nbits w : Nat) : Option Instr :=
  match nbits, w with
  | _, _ => none

end Sys2Proof
end

