-- ==== Sys2Proof/Machine/Bytes.lean ====
section
/-! DEFINITION. Fields, byte orders and sparse maps: the helpers every other file of the machine uses. -/

namespace Sys2Proof.Machine

open Sys2Proof

/-! ### Sparse maps, keys strictly rising -/

/-- The value listed at `k`. -/
def mget {α : Type} (m : Map α) (k : Nat) : Option α :=
  match m with
  | [] => none
  | (j, v) :: r => if j = k then some v else mget r k

/-- The value at `k`, or `d` where nothing is listed. -/
def mgetD {α : Type} (m : Map α) (k : Nat) (d : α) : α := (mget m k).getD d

/-- `m` with `v` listed at `k`. -/
def mset {α : Type} (m : Map α) (k : Nat) (v : α) : Map α :=
  match m with
  | [] => [(k, v)]
  | (j, w) :: r => if k < j then (k, v) :: (j, w) :: r else if k = j then (k, v) :: r else (j, w) :: mset r k v

/-- `m` with nothing listed at `k`. -/
def mdel {α : Type} (m : Map α) (k : Nat) : Map α :=
  match m with
  | [] => []
  | (j, w) :: r => if k < j then (j, w) :: r else if k = j then r else (j, w) :: mdel r k

/-- `m` with `v` listed at `k`, unless `v` is the default `d`, which is never listed. -/
def msetD {α : Type} [DecidableEq α] (m : Map α) (k : Nat) (v d : α) : Map α :=
  if v = d then mdel m k else mset m k v

/-- `m` with the value at `k` changed by `f`, from `d` where nothing is listed. -/
def mupd {α : Type} (m : Map α) (k : Nat) (d : α) (f : α → α) : Map α := mset m k (f (mgetD m k d))

/-- Keys rise strictly. -/
def mwf {α : Type} (m : Map α) : Bool :=
  match m with
  | [] => true
  | [_] => true
  | (j, _) :: (k, w) :: r => decide (j < k) && mwf ((k, w) :: r)

/-! ### Sets of numbers, strictly rising -/

/-- `l` with `k` in it. -/
def sadd (l : List Nat) (k : Nat) : List Nat :=
  match l with
  | [] => [k]
  | j :: r => if k < j then k :: j :: r else if k = j then j :: r else j :: sadd r k
/-- `l` without `k`. -/
def sdel (l : List Nat) (k : Nat) : List Nat := l.filter (· != k)

/-! ### Memory: one byte at an address -/

/-- The byte at address `a`; an address that is not listed reads as 0. -/
def Mem.read (m : Mem) (a : Nat) : Byte := mgetD m a 0
/-- `m` with byte `b` at address `a`, in the canonical form. -/
def Mem.write (m : Mem) (a : Nat) (b : Byte) : Mem := msetD m a b 0
/-- The canonical form: addresses strictly rising, and no listed byte equal to what an unlisted address reads as. -/
def Mem.wf (m : Mem) : Bool := mwf m && m.all fun c => c.2 != 0
/-- `n` bytes from address `a`. -/
def Mem.bytes (m : Mem) (a n : Nat) : Bytes := (List.range n).map fun i => Mem.read m (a + i)
/-- `m` with the bytes `b` from address `a` on. -/
def Mem.store (m : Mem) (a : Nat) (b : Bytes) : Mem :=
  match b with
  | [] => m
  | x :: r => Mem.store (Mem.write m a x) (a + 1) r
/-- `m` with the bytes from `a` up to `a + n` all zero. -/
def Mem.clear (m : Mem) (a n : Nat) : Mem := m.filter fun c => c.1 < a || a + n ≤ c.1

/-! ### Bits and fields of numbers (R5) -/

/-- Field [hi:lo] of `x`. -/
def bits (x hi lo : Nat) : Nat := x / 2 ^ lo % 2 ^ (hi + 1 - lo)
/-- Bit `i` of `x`. -/
def bit (x i : Nat) : Bool := x.testBit i
/-- The number 1 or 0 of a truth value. -/
def b2n (b : Bool) : Nat := if b then 1 else 0
/-- `x` with bit `i` set. -/
def setBit (x i : Nat) : Nat := x ||| 2 ^ i
/-- `x` with bit `i` clear. -/
def clrBit (x i : Nat) : Nat := if x.testBit i then x - 2 ^ i else x
/-- `x` with the bits of `m` clear. -/
def clrMask (x m : Nat) : Nat := x - (x &&& m)
/-- How many bits of `x` below `n` are set. -/
def popcount (x n : Nat) : Nat := ((List.range n).filter fun i => x.testBit i).length
/-- `x` as a two's complement number of `w` bits. -/
def toSigned (w x : Nat) : Int := if 2 ^ (w - 1) ≤ x % 2 ^ w then (x % 2 ^ w : Nat) - (2 ^ w : Nat) else (x % 2 ^ w : Nat)
/-- `x` modulo 2^w, as a number from 0. -/
def ofSigned (w : Nat) (x : Int) : Nat := (x % (2 ^ w : Nat)).toNat
/-- `x` held between `lo` and `hi`. -/
def clampI (lo hi x : Int) : Int := if x < lo then lo else if hi < x then hi else x

/-! ### Byte orders (R6) -/

/-- The little-endian number of a byte string. -/
def leNat (b : Bytes) : Nat := b.foldr (fun x a => x.toNat + 256 * a) 0
/-- The big-endian number of a byte string. -/
def beNat (b : Bytes) : Nat := b.foldl (fun a x => 256 * a + x.toNat) 0
/-- `x` as `n` little-endian bytes. -/
def le (n x : Nat) : Bytes := (List.range n).map fun i => BitVec.ofNat 8 (x / 256 ^ i)
/-- `x` as `n` big-endian bytes. -/
def be (n x : Nat) : Bytes := (le n x).reverse
/-- `n` bytes of `b` from `off`, short where `b` ends. -/
def sub (b : Bytes) (off n : Nat) : Bytes := (b.drop off).take n
/-- Byte `off` of `b`, 0 past its end. -/
def u8 (b : Bytes) (off : Nat) : Nat := (b.getD off 0).toNat
/-- The little-endian field of `n` bytes at `off`. -/
def leAt (b : Bytes) (off n : Nat) : Nat := leNat (sub b off n)
/-- The big-endian field of `n` bytes at `off`. -/
def beAt (b : Bytes) (off n : Nat) : Nat := beNat (sub b off n)
/-- Every byte of `b` from `off` over `n` bytes is zero. -/
def zeroAt (b : Bytes) (off n : Nat) : Bool := (sub b off n).all (· == 0)
/-- `n` zero bytes. -/
def zeros (n : Nat) : Bytes := List.replicate n 0
/-- `b` cut or padded with zeros to `n` bytes. -/
def padTo (n : Nat) (b : Bytes) : Bytes := b.take n ++ zeros (n - b.length)
/-- The little-endian field of `n` bytes at `a` of a memory. -/
def Mem.leAt (m : Mem) (a n : Nat) : Nat := leNat (Mem.bytes m a n)
/-- Every byte of a memory over `n` bytes from `a` is zero. -/
def Mem.zeroAt (m : Mem) (a n : Nat) : Bool := m.all fun c => c.1 < a || a + n ≤ c.1 || c.2 == 0

/-! ### Exact ratios -/

/-- floor(log2 x), 0 for 0. -/
def log2 (x : Nat) : Nat := Nat.log2 x

end Sys2Proof.Machine
end

