-- ==== Sys2Proof/Machine/Digest.lean ====
section
/-! DEFINITION. The published digests the spec names: SHA-256 (FIPS 180-4; R434, R437, R444), CRC-32C
(learning buckets, flow buckets, R138, R143) and the IEEE 802.3 CRC-32 (R143). -/

namespace Sys2Proof.Machine

open Sys2Proof

/-- The initial hash value of SHA-256. -/
def shaInit : List W32 := [0x6a09e667, 0xbb67ae85, 0x3c6ef372, 0xa54ff53a, 0x510e527f, 0x9b05688c, 0x1f83d9ab, 0x5be0cd19]

/-- The 64 round constants of SHA-256. -/
def shaK : List W32 :=
  [0x428a2f98, 0x71374491, 0xb5c0fbcf, 0xe9b5dba5, 0x3956c25b, 0x59f111f1, 0x923f82a4, 0xab1c5ed5] ++
  [0xd807aa98, 0x12835b01, 0x243185be, 0x550c7dc3, 0x72be5d74, 0x80deb1fe, 0x9bdc06a7, 0xc19bf174] ++
  [0xe49b69c1, 0xefbe4786, 0xfc19dc6, 0x240ca1cc, 0x2de92c6f, 0x4a7484aa, 0x5cb0a9dc, 0x76f988da] ++
  [0x983e5152, 0xa831c66d, 0xb00327c8, 0xbf597fc7, 0xc6e00bf3, 0xd5a79147, 0x6ca6351, 0x14292967] ++
  [0x27b70a85, 0x2e1b2138, 0x4d2c6dfc, 0x53380d13, 0x650a7354, 0x766a0abb, 0x81c2c92e, 0x92722c85] ++
  [0xa2bfe8a1, 0xa81a664b, 0xc24b8b70, 0xc76c51a3, 0xd192e819, 0xd6990624, 0xf40e3585, 0x106aa070] ++
  [0x19a4c116, 0x1e376c08, 0x2748774c, 0x34b0bcb5, 0x391c0cb3, 0x4ed8aa4a, 0x5b9cca4f, 0x682e6ff3] ++
  [0x748f82ee, 0x78a5636f, 0x84c87814, 0x8cc70208, 0x90befffa, 0xa4506ceb, 0xbef9a3f7, 0xc67178f2]

/-- The message schedule from sixteen words: `n` further words, newest first in `w`. -/
def shaSchedule : Nat → List W32 → List W32
  | 0, w => w
  | n + 1, w =>
    let s0 := fun (x : W32) => x.rotateRight 7 ^^^ x.rotateRight 18 ^^^ (x >>> 3)
    let s1 := fun (x : W32) => x.rotateRight 17 ^^^ x.rotateRight 19 ^^^ (x >>> 10)
    shaSchedule n ((s1 (w.getD 1 0) + w.getD 6 0 + s0 (w.getD 14 0) + w.getD 15 0) :: w)

/-- One round of SHA-256 on the working variables a to h. -/
def shaRound (v : List W32) (kw : W32) : List W32 :=
  match v with
  | [a, b, c, d, e, f, g, h] =>
    let t1 := h + (e.rotateRight 6 ^^^ e.rotateRight 11 ^^^ e.rotateRight 25) + ((e &&& f) ^^^ (~~~ e &&& g)) + kw
    let t2 := (a.rotateRight 2 ^^^ a.rotateRight 13 ^^^ a.rotateRight 22) + ((a &&& b) ^^^ (a &&& c) ^^^ (b &&& c))
    [t1 + t2, a, b, c, d + t1, e, f, g]
  | v => v

/-- One 64-byte block folded into the hash value. -/
def shaBlock (h : List W32) (block : Bytes) : List W32 :=
  let w16 := (List.range 16).map fun i => BitVec.ofNat 32 (beAt block (4 * i) 4)
  let w := (shaSchedule 48 w16.reverse).reverse
  let v := (List.zipWith (· + ·) shaK w).foldl shaRound h
  List.zipWith (· + ·) h v

/-- The 64-byte blocks of a byte string, at most `n` of them. -/
def shaBlocks : Nat → Bytes → List W32 → List W32
  | 0, _, h => h
  | n + 1, b, h => if b.length < 64 then h else shaBlocks n (b.drop 64) (shaBlock h (b.take 64))

/-- SHA-256 of a byte string (FIPS 180-4). -/
def sha256 (b : Bytes) : Bytes :=
  let p := b ++ [0x80] ++ zeros ((119 - b.length % 64) % 64) ++ be 8 (8 * b.length)
  (shaBlocks (p.length / 64) p shaInit).flatMap fun w => be 4 w.toNat

/-- One bit of a reflected CRC-32 with the polynomial `poly`. -/
def crcBit (poly : W32) (c : W32) : W32 := if c.getLsbD 0 then (c >>> 1) ^^^ poly else c >>> 1

/-- One byte of a reflected CRC-32. -/
def crcByte (poly : W32) (c : W32) (x : Byte) : W32 :=
  (List.range 8).foldl (fun a _ => crcBit poly a) (c ^^^ x.setWidth 32)

/-- A reflected CRC-32 with all-ones preset and final complement. -/
def crc (poly : W32) (b : Bytes) : Nat := (~~~ (b.foldl (crcByte poly) 0xFFFFFFFF)).toNat

/-- CRC-32C (Castagnoli). -/
def crc32c (b : Bytes) : Nat := crc 0x82F63B78 b
/-- CRC-32 of IEEE 802.3. -/
def crc32 (b : Bytes) : Nat := crc 0xEDB88320 b

end Sys2Proof.Machine
end

