-- ==== Sys2Proof/Config.lean ====
section
/-! DEFINITION. What the spec leaves open: values without a body, of which no proof can see more than the type. -/

namespace Sys2Proof.Config

/-- The 16 dither bits of the n-th stochastic rounding (R245, R246): drawn by a free-running
generator whose values the spec does not give. -/
opaque dither : Nat → BitVec 16

/-- Error, in units of the last place, of special function `fn` on FP32 code `x` (R276 gives only a bound;
the reader clamps this to the bound). -/
opaque sfnError : Nat → BitVec 32 → Int

/-- Result of special function `fn` on `x` where R276 states neither a value nor a bound. -/
opaque sfnOpen : Nat → BitVec 32 → BitVec 32

/-- Minimum (4) or maximum (5) of two FP32 codes of which one is a NaN, or which are zeros of both signs (R274, R275 do
not say which operand is taken). -/
opaque minMaxOpen : Nat → BitVec 32 → BitVec 32 → Bool

/-- "Field at fault" of an illegal instruction (R509 gives the place in DETAIL, not the numbering), by control word and,
for an engine instruction, its 128 bits. -/
opaque fieldAtFault : Nat → Nat → BitVec 4

/-- Rows and columns minus 1 that an accumulator slot holds before any AMUL has named them (R230 says that zeros are
drained, not how many). -/
opaque idleRows : BitVec 6
opaque idleCols : BitVec 6

/-- Array, and slot, on which the n-th group of 512 columns of an MVMUL runs where it runs on the arrays (R229 does not name
them): the reader takes the array among those that are not retired. -/
opaque mvArray : Nat → BitVec 2
opaque mvSlot : Nat → BitVec 2

/-- VALUE in the result word of the n-th SIGNAL that was deferred inside a retry region and names a K register: the instruction
completes before the object has applied it (R288, R330). -/
opaque deferredValue : Nat → BitVec 32

/-- The byte that table memory or MRAM shows at an address, at the n-th draw, where the spec does not place an object
there (R131 gives regions, not the layout within them). -/
opaque tableByte : Nat → Nat → BitVec 8

/-- Device-owned MiB at the bottom of HBM half `h`, set at boot (CW_HBM_RSVD_h, R455). -/
opaque hbmReserved : Nat → BitVec 16

/-- The servo's rate-word adjustment, in units of 2^-32, after the n-th comparison or entry to HOLDOVER (R376, R380 give its
range and what it is for, not the control law; the reader clamps it to ±500 ppm). -/
opaque servoRate : Nat → Int

/-- The codeword of its transmit count at which a link switches lanes, in its n-th LANE_REQ or LANE_ACK (R411 asks only that it lie
512 codewords ahead). -/
opaque switchWord : Nat → BitVec 16

/-- What the part's identity gives (R470, R473, R499): its public key of 65 bytes, its certificate of at most 1,024 bytes. -/
opaque identityKey : List (BitVec 8)
opaque certificate : List (BitVec 8)
/-- The attestation public key and the endorsement by firmware digest (R499): 65 and 64 bytes. -/
opaque attestKey : List (BitVec 8) → List (BitVec 8)
opaque endorsement : List (BitVec 8) → List (BitVec 8)
/-- Signature of the n-th draw over the bytes given (R473, R500), under the key that the first argument names: 64 bytes. -/
opaque signature : List (BitVec 8) → List (BitVec 8) → Nat → List (BitVec 8)
/-- Bytes of the entropy source at the n-th draw: nonces, challenges and ephemeral public keys (R473, R504). -/
opaque entropy : Nat → List (BitVec 8)

/-- Silicon stepping of the die (CW_FW.STEPPING, R455, R558). -/
opaque stepping : BitVec 8
/-- VID in steps of 5 mV above 650 mV (R547); the reader keeps it within 30 steps. -/
opaque vid : Nat
/-- The share of cycles, in steps, at which release is wholly withheld (R551 says that the share rises, not by how much). -/
opaque holdSteps : Nat
/-- What a JTAG scan shows of the boundary-scan cells at the n-th draw (R558: the chain's order lies in a separate file). -/
opaque scanCells : Nat → List (BitVec 8)

/-- Progress of a migration in 1/128 parts at a chronometer instant in ns (HB_MIGRATE.DONE, R372: the pace is left to the part). -/
opaque migrateDone : Nat → BitVec 7

/-- Picoseconds by which the supply's droop stretches the k-th cycle that core island `i` may end in the n-th tick (R381; the reader
keeps it within 1/8 period). -/
opaque droop : Nat → Nat → Nat → Nat

/-- A counter of what happens at the pins, of which no command tells: bytes at the HBM pins (R373). By its offset, the ns of its last
clear and the ns of the read. -/
opaque pinCount : Nat → Nat → Nat → BitVec 64

/-- A tag whose short bearing differs, at the n-th draw, crossed a Weltix v1 link on an earlier hop: R43 exempts it from the bearing
check, and the spec does not say how a later chip knows. -/
opaque crossedV1 : Nat → Bool

/-- What the controller takes for the 64 bytes of a line, at the n-th draw, when the error pattern forms another codeword's correctable
pattern: R353 makes no claim for it. -/
opaque miscorrected : Nat → List (BitVec 8)

end Sys2Proof.Config
end

