-- ==== Sys2Proof/Machine/State.lean ====
section
/-! DEFINITION. The state of the NY-7160: plain data, a field for everything the spec gives the part.
A structure's default values are its values after system reset. -/

namespace Sys2Proof.Machine

open Sys2Proof

/-! ### Faults, events and what leaves the part -/

/-- A fault record (R505); COUNT and DETAIL as written. -/
structure FltRec where
  code : Nat
  unit : Nat
  flags : Nat := 0
  chclass : Nat := 0xFF
  index : Nat := 0
  stamp : Nat := 0
  chip : Nat := 0
  version : Nat := 0
  count : Nat := 1
  detail : Nat := 0
deriving DecidableEq, Repr

/-- An open rate-limit period of a code and channel (R507). -/
structure FltPeriod where
  code : Nat
  chan : Nat
  ends : Nat
  limit : Nat
  pending : Nat := 0
  first : Nat := 0
  last : FltRec
deriving DecidableEq, Repr

/-- An event waiting for a session (R468): TYPE, STAMP and body. -/
structure Event where
  type : Nat
  stamp : Nat
  body : Bytes
deriving DecidableEq, Repr

/-- The fault ring, the rate limits and the channel histories (R506 to R522). -/
structure FltState where
  /-- Records by ring index (R506). -/
  ring : Map FltRec := []
  wr : Nat := 0
  lap : Nat := 0
  rd : Nat := 0
  pend : Nat := 0
  /-- FLT_ALARM_CTL [15:0] (R521). -/
  alarmCtl : Nat := 0xC024
  hot : Bool := false
  noStandby : Bool := false
  periods : List FltPeriod := []
  /-- Stamps of the counted events of each channel, newest first; the key names class, channel and cell (R512). -/
  hist : Map (List Nat) := []
  /-- Faults whose own chapter limits them to a rate without a record: instant of the last raise by key (R175, R445). -/
  lastRaise : Map Nat := []
deriving DecidableEq, Repr

/-- What the part sends to a partner, for an observer; newest first. The model's own record, not a register. -/
inductive Out where
  /-- A 64-byte word of type `ty` on slice port `q` (R52). -/
  | word (q ty : Nat) (data : Bytes)
  /-- A Brixvia frame on a port: session, type, flags, packet number, frame sequence, acknowledgement and plain body (R471). -/
  | bx (port sess type flags pn fseq fack : Nat) (body : Bytes)
  /-- A link-layer control flit on a Weltix link (R399). -/
  | flit (link : Nat) (data : Bytes)
  /-- A data flit on a Weltix link: virtual channel, sequence number and bytes (R398). -/
  | dataFlit (link vc seq : Nat) (data : Bytes)
  /-- An SMBus answer (R557). -/
  | smbus (data : Bytes)
  /-- A JTAG answer (R503, R558). -/
  | jtag (data : Bytes)
  /-- A PTP message sent on a Brixvia port (R379). -/
  | ptp (port : Nat) (kind : PtpKind)
deriving DecidableEq, Repr

/-! ### Configuration versions (chapter 15) -/

/-- An entry that failed parity and has not been repaired (R126, R152, R174): I/O die 0 or 1, or 2 + compass unit; the entry; and, for
an entry of a versioned object, the live versions whose storage it is (R440). -/
structure BadEnt where
  place : Nat
  ref : PRef
  vers : List Nat := []
  /-- A corruption that parity does not detect: the leaf entries of the tree whose first one is `ref` (R159, R175). -/
  silent : Bool := false
deriving DecidableEq, Repr

/-- What a staging round writes anew: image objects, exact keys as 65,536 x table + key, and prefixes as family, address and length. -/
structure Wrote where
  imgs : List Nat := []
  exact : List Nat := []
  pfx : List (Nat × Nat × Nat) := []
deriving DecidableEq, Repr

/-- The bytes of a versioned object: its length, and its bytes other than zero. -/
structure Img where
  len : Nat
  data : Mem := []
deriving DecidableEq, Repr

/-- A prefix with its 20-bit result (R133 to R136): the address as a number, its most significant bit first. -/
structure Pfx where
  addr : Nat
  len : Nat
  res : Nat
deriving DecidableEq, Repr

/-- A staged model: where its container lies and where its instances are placed (R307, R308). -/
structure Model where
  /-- Device address of the container in HBM. -/
  addr : Nat
  /-- LENGTH of the container. -/
  length : Nat
  place : Nat
  instances : Nat
  firstCore : Nat
  ranks : Nat
  kvBytes : Nat
  /-- Numbers of its instances, in placement order (R308). -/
  nums : List Nat
  /-- SHA-256 of the container. -/
  digest : Bytes
deriving DecidableEq, Repr

/-- The objects of a configuration version (R432, R433). -/
structure Objs where
  /-- Objects held as images, by object id. -/
  img : Map Img := []
  /-- IPv4 prefixes, by ascending address and then length. -/
  pfx4 : List Pfx := []
  /-- IPv6 prefixes, in the same order. -/
  pfx6 : List Pfx := []
  /-- VALID exact entries, 32 bytes each, by 65,536 x table + key (R137). -/
  exact : Map Bytes := []
  /-- Models by number. -/
  models : Map Model := []
  /-- The image of the stream-context templates: that of context s at 64 x s (R298, R322). -/
  sc : Mem := []
deriving DecidableEq, Repr

/-- A live version (R439): its number, its objects, the instant it took effect and its bearing. -/
structure Live where
  num : Nat := 0
  objs : Objs := {}
  since : Nat := 0
  bearing : Bytes := []
deriving DecidableEq, Repr

/-- The open staging round (R436 to R438). -/
structure Round where
  num : Nat
  objs : Objs
  armed : Option Nat := none
  /-- By object id, bit k: the 32-byte block k of the staged image has been written in this round; listed only for
  images staged in this round. -/
  written : Map Nat := []
  /-- Bit g: group g holds a change, or its seal was cleared, since its last seal (R438): 0 parser, 1 rule classifier,
  2 tables, 3 compass, 4 stream contexts. -/
  pending : Nat := 0
  /-- Bit g: group g was sealed in this round and its seal stands. -/
  sealed : Nat := 0
  /-- Bit g: group g has been changed in this round and not sealed since (R562). -/
  dirty : Nat := 0
  bearingReady : Bool := false
  /-- Prefixes written in this round, as family, address and length: they name the trie blocks copied (R136). -/
  touched : List (Nat × Nat × Nat) := []
  /-- Exact keys written in this round, as 65,536 x table + key. -/
  exactW : List Nat := []
deriving DecidableEq, Repr

/-- Versions, the round, VER_CTL and the aggregation of reports (R432 to R448). -/
structure VerState where
  newest : Live := {}
  /-- The older live version and the instant that superseded it. -/
  older : Option (Live × Nat) := none
  /-- What the last round to commit wrote: everything else is one storage in both live versions (R440). -/
  wrote : Wrote := {}
  round : Option Round := none
  policy : Nat := 1
  parent : Nat := 0xFF
  children : Nat := 0
  height : Nat := 0
  retainMs : Nat := 10
  /-- The last commit instant raised COMMIT_MISSED and no commit has taken effect since (R447). -/
  missed : Bool := false
  /-- Tags that raised BEARING_MISMATCH since the previous exchange instant (R447). -/
  bmis : Nat := 0
  /-- Agreement state of each link (R446): 0 UNKNOWN, 1 AGREE, 2 LAG, 3 DIFFER. -/
  link : Map Nat := []
  /-- Period k of the exchange last received on each link. -/
  exchRx : Map Nat := []
  /-- Period last sent in a report, plus one; 0: none. -/
  aggSent : Nat := 0
  /-- How the chip counted itself 1 ms after an exchange instant: its period and the seven counts (R447). -/
  own : Option (Nat × List Nat) := none
  /-- Children's reports as period, link and the seven counts (R447). -/
  reports : List (Nat × Nat × List Nat) := []
deriving DecidableEq, Repr

/-! ### The slice ports (chapter 02) -/

/-- A slice received without a verdict sent (R70 to R76): F in units of 1/2560 ns. -/
structure Pend where
  seq : Nat
  sliceId : Nat
  dl : Nat
  version : Nat
  fInst : Nat
  /-- t_in in units of 1/256 ns (R73). -/
  tIn : Nat := 0
  ready : Option Bytes := none
deriving DecidableEq, Repr

/-- A slice port q (R48 to R86). -/
structure Port where
  en : Bool := false
  width : Bool := false
  maxVer : Nat := 2
  stampLocal : Bool := false
  /-- SP_PORT_STAT.STATE: 0 disabled, 1 lane lock, 2 codeword lock, 3 offer, 4 accept, 5 trained, 6 framing lost, 7 quiescing. -/
  st : Nat := 0
  ver : Nat := 0
  swStamps : Bool := false
  /-- The lanes locked at 106.25 GBd. -/
  fast : Bool := false
  /-- The switch's offer: version, verdict credits and result credits. -/
  offer : Option (Nat × Nat × Nat) := none
  /-- Instant at which the present training attempt or its present step began, ns. -/
  since : Nat := 0
  /-- Training failed; instant at which it starts again (R67). -/
  retryAt : Option Nat := none
  /-- Bytes of the slice stream not yet a whole slice, and the stamp of the first of them (1/256 ns). -/
  buf : Bytes := []
  bufT : Nat := 0
  /-- Framing is lost, and slice data is discarded until RESYNC (R55); STATE shows it as 6, unless the port quiesces. -/
  lost : Bool := false
  /-- Data words received since training, and how many of them have been freed (R64). -/
  rxWords : Nat := 0
  freed : Nat := 0
  /-- Slice-data credits the switch holds, and the verdict and result credits the device holds. -/
  dcred : Nat := 0
  vcred : Nat := 0
  rcred : Nat := 0
  /-- SEQ of the next slice (R32). -/
  seq : Nat := 0
  pend : List Pend := []
  /-- Result frames that wait to leave (R60), and what is still to be sent of the one that has begun. -/
  results : List Bytes := []
  resTx : Bytes := []
  /-- Words that arrived while a heave-to holds and are taken at resume (R537), oldest first. -/
  held : List SpWord := []
  /-- Chronometer period of 2^20 ns in which TIME was last sent, plus one (R63). -/
  timeSent : Nat := 0
deriving DecidableEq, Repr

/-- What the lookup stage found for a slice (R117, R121, R139, R146). -/
structure Lookup where
  /-- The slice's rule set, 16 for none (R111). -/
  set : Nat := 16
  /-- The ACTION of the rule result (R117). -/
  rule : Option Bytes := none
  /-- The override that applies (R121), its 16 bytes. -/
  ovr : Option Bytes := none
  /-- Egress hint of the learning lookup (R139). -/
  egress : Nat := 0xFFFF
  /-- Verdict flags known so far (R59). -/
  flags : Nat := 0
  /-- The slice's ensemble, 0 for none (R119). -/
  ens : Nat := 0
  /-- Flow features as the record was read, by FIELD (R162, R163). -/
  flow : Option (List Nat) := none
  /-- AGE of R162; none where it is missing. -/
  age : Option Nat := none
  /-- DATA of each exact table that was hit, by table (R137). -/
  exact : Map Bytes := []
deriving DecidableEq, Repr

/-- A slice inside the fast path (R53 to R58, R96, R134, R171). -/
structure Slice where
  q : Nat
  seq : Nat
  version : Nat
  sliceId : Nat
  dl : Nat
  /-- DEADLINE of its tag (R73). -/
  deadline : Nat := 0xFFFFFFFF
  ingress : Nat
  frameLen : Nat
  sliceLen : Nat
  /-- Arrival stamp and its fraction as one number of 1/256 ns (R58). -/
  stamp : Nat
  data : Bytes
  /-- Place in the order of arrival at the pins (R302). -/
  arr : Nat := 0
  /-- Number of data words of the port that are free once this slice has been taken (R64). -/
  freeTo : Nat := 0
  /-- The slice received a fallback (R76). -/
  fb : Bool := false
  /-- Highest PARSE_ERR reason, 0 for none (R102, R109), and DEPTH_TRUNC. -/
  err : Nat := 0
  trunc : Bool := false
  /-- 0 waiting for a pipeline, 1 parsed, 2 looked up, 3 in the compass units, 4 ready to compose. -/
  stage : Nat := 0
  kv : Bytes := []
  present : Nat := 0
  level : Nat := 0
  insts : Nat := 0
  lk : Lookup := {}
  /-- Compass unit, next block, class sums, SUM_SAT and PARITY so far, and the SCORE once formed (R171). -/
  unit : Nat := 0
  blk : Nat := 0
  /-- When its last block entered the unit (R177). -/
  blkAt : Nat := 0
  codes : List Nat := []
  sums : List Int := []
  sumSat : Bool := false
  score : Option Nat := none
deriving DecidableEq, Repr

/-- The verdict flags' and parser's last error of a pipeline (R109), its queue of slices as port and SEQ (R87). -/
structure Pipe where
  queue : List (Nat × Nat) := []
  last : Nat := 0
deriving DecidableEq, Repr

/-! ### Tables (chapter 05) -/

/-- A learning-table entry (R138), reserved bits zero. -/
structure LEnt where
  mac : Nat := 0
  vlan : Nat := 0
  valid : Bool := false
  static : Bool := false
  shV : Bool := false
  port : Nat := 0
  stream : Nat := 0
  lastSec : Nat := 0
deriving DecidableEq, Repr

/-- A learning event on its way to the owner die (R141). -/
structure LEvt where
  mac : Nat
  vlan : Nat
  port : Nat
  sec : Nat
deriving DecidableEq, Repr

/-- A flow record (R144). -/
structure FRec where
  tag : Nat := 0
  srefV : Bool := false
  pkts : Nat := 0
  bytes : Nat := 0
  sref : Nat := 0
  lastSeen : Nat := 0
  gapMean : Nat := 0
  gapVar : Nat := 0
  hist : List Nat := [0, 0, 0, 0, 0, 0, 0, 0]
  syn : Nat := 0
  fr : Nat := 0
  /-- The override's 16 bytes (R120). -/
  ovr : Bytes := []
deriving DecidableEq, Repr

/-- A line of the flow cache: the record, whether it holds updates not written back, and the time of its last use. -/
structure FLine where
  r : FRec
  dirty : Bool := false
  used : Nat := 0
deriving DecidableEq, Repr

/-- A slice's update that waits for a fetch (R146). -/
structure FUpd where
  /-- Port, SEQ and version of the slice (R442). -/
  q : Nat
  seq : Nat
  version : Nat
  stamp : Nat
  frameLen : Nat
  k : Nat
  /-- TCP flags, where TCPF_SLOT is PRESENT. -/
  tcp : Option Nat
  /-- Stream context for a new record (R144). -/
  sref : Option Nat
deriving DecidableEq, Repr

/-- A fetch from HBM that is outstanding (R146): bucket, tag and the updates that wait, oldest first. -/
structure FMiss where
  bucket : Nat
  tag : Nat
  upd : List FUpd
deriving DecidableEq, Repr

/-- The tables of one I/O die that are not versioned (R131, R132). -/
structure Die where
  /-- Learning events forwarded to this die as owner, oldest first (R141). -/
  learnQ : List LEvt := []
  /-- Chronometer second of the last aging sweep, plus one (R142). -/
  swept : Nat := 0
  /-- Flow records in HBM by index, bucket x 4 + way (R143). -/
  flows : Map FRec := []
  /-- The flow cache by record index (R146). -/
  cache : Map FLine := []
  misses : List FMiss := []
  /-- Use counter of the flow cache's replacement (R146). -/
  clock : Nat := 0
  /-- Updates lost in the last second, and the second (R509, FLOW_UNAVAILABLE). -/
  lost : Nat := 0
  lostSec : Nat := 0
  /-- Chronometer us in which a fetch was last started, and how many were started in it (R146). -/
  fetchUs : Nat := 0
  fetchN : Nat := 0
deriving DecidableEq, Repr

/-- What a table command will publish when it completes (R149). -/
structure TblRes where
  status : Nat
  detail : Nat := 0
  data : Option Nat := none
deriving DecidableEq, Repr

/-- The command registers of a table unit (R148): KEY0 to KEY7 and DATA0 to DATA15 as one number each. -/
structure TUnit where
  ctl : Nat := 0
  busy : Bool := false
  done : Bool := false
  collide : Bool := false
  status : Nat := 0
  detail : Nat := 0
  arg : Nat := 0
  key : Nat := 0
  data : Nat := 0
  run : Option TblRes := none
deriving DecidableEq, Repr

/-! ### Compass jobs (chapter 06) -/

/-- A compass job on a die (R179 to R181). -/
structure CJobSt where
  id : Nat
  core : Nat
  prio : Nat
  version : Nat
  ens : Nat
  sumsOut : Bool
  samples : Nat
  inAddr : Nat
  outAddr : Nat
  stride : Nat
  sample : Nat := 0
  blk : Nat := 0
  codes : List Nat := []
  sums : List Int := []
  flags : Nat := 0
  status : Nat := 0
  finished : Bool := false
deriving DecidableEq, Repr

/-! ### Chronometer and power states (chapter 13) -/

/-- A CH_SET OP 0 that waits for its edge (R394): mailbox or relayed origin, seconds and the time limit. -/
structure SetWait where
  who : Nat
  value : Nat
  limit : Nat
deriving DecidableEq, Repr

/-- A PTP master that has been heard (R379): its port identity, its dataset, and the ns at which its last Announce lapses. -/
structure Master where
  src : Nat
  ds : PtpDs
  till : Nat
deriving DecidableEq, Repr

/-- The chronometer, its servo, its alarms and the power state (R374 to R394). -/
structure Chron where
  /-- The count with its 32 fractional bits (R376). -/
  cnt : Nat := 0
  /-- Rate-word adjustment in units of 2^-32 (CH_FREQ). -/
  adj : Int := 0
  /-- CH_OFFSET in 1/256 ns. -/
  offset : Int := 0
  source : Nat := 1
  link : Nat := 0
  domain : Nat := 0
  profile : Nat := 0
  delayPs : Int := 0
  /-- 0 FREE, 1 ACQUIRING, 2 LOCKED, 3 HOLDOVER. -/
  st : Nat := 1
  valid : Bool := false
  /-- No valid comparison has come since the source was selected (R380). -/
  first : Bool := true
  /-- Consecutive comparisons within 2 ns. -/
  inLock : Nat := 0
  /-- Instant of the last valid comparison, ns. -/
  lastCmp : Nat := 0
  /-- The last 60 s of lock, newest first: ns and the rate word's adjustment over them, up to `lockT` (R380). -/
  lockHist : List (Nat × Int) := []
  lockT : Nat := 0
  masters : List Master := []
  /-- The 10 MHz pin carries a signal (R376). -/
  ref10 : Bool := true
  setWait : Option SetWait := none
  alarm : Map Nat := []
  alEn : Nat := 0
  alEvent : Nat := 0
  alFired : Nat := 0
  /-- CH_WAKE_CTL as written: THR0 and THR1 0xF at power-on. -/
  wakeCtl : Nat := 0xF0F
  wakeCause : Nat := 0
  wakeLvl : Nat := 0
  light : Nat := 0
  /-- 0 RUN, 1 BANKED, 2 SLEEP, 3 in transition, to SLEEP where `toSleep`. -/
  pwr : Nat := 0
  toSleep : Bool := false
  /-- The last SLEEP ended in count-only mode (CH_PWR). -/
  countOnly : Bool := false
  /-- Count-only mode is in force (R377). -/
  crystal : Bool := false
  /-- Picoseconds of the cycle that runs, by core island (R381). -/
  phase : Map Nat := []
  wakeMask : Nat := 0
  /-- VBK is applied. -/
  vbk : Bool := true
deriving DecidableEq, Repr

/-! ### Mailboxes, sessions and Brixvia ports (chapter 16) -/

/-- A request as a mailbox copied it at its ring (R458, R459). -/
structure Rq where
  op : Nat
  len : Nat
  seq : Nat
  ifv : Nat
  flags : Nat
  rsvd : Nat
  payload : Bytes
deriving DecidableEq, Repr

/-- A response (R458), with the opcode of its request, which R462 compares. -/
structure Resp where
  op : Nat
  seq : Nat
  status : Nat
  detail : Nat := 0
  payload : Bytes := []
deriving DecidableEq, Repr

/-- A mailbox (R457 to R462). -/
structure Mbx where
  area : Mem := []
  /-- 0 IDLE, 1 QUEUED, 2 BUSY, 3 DONE. -/
  st : Nat := 0
  sess : Nat := 0
  /-- Generation of the session at the ring, so that a later session in the same slot is told apart. -/
  gen : Nat := 0
  rq : Option Rq := none
  /-- Order of the ring among all rings (R461). -/
  ticket : Nat := 0
  /-- Response stored by the last command that completed. -/
  resp : Option Resp := none
  /-- Response of the running command, once its effect is applied. -/
  ready : Option Resp := none
  /-- SEQ of the last request taken, and the session of the last ring, taken or not. -/
  seq : Nat := 0
  last : Nat := 0
  /-- BUSY and waiting for an island that a heave-to has stopped (R478). -/
  stalled : Bool := false
deriving DecidableEq, Repr

/-- A bulk transfer of a session (R476): its XID, whether it reads, the next address and the bytes left to read. -/
structure Bulk where
  xid : Nat
  reading : Bool
  addr : Nat := 0
  left : Nat := 0
  ended : Bool := false
deriving DecidableEq, Repr

/-- A sequenced frame sent and not yet acknowledged (R472). -/
structure TxFrame where
  fseq : Nat
  type : Nat
  flags : Nat
  body : Bytes
deriving DecidableEq, Repr

/-- A Brixvia session (R469 to R477). -/
structure Sess where
  opened : Bool := false
  gen : Nat := 0
  /-- Active port: 0 A, 1 B. -/
  port : Nat := 0
  ifv : Nat := 0
  /-- Bytes 0 to 3 of the SHA-256 of the peer's public key. -/
  peer : Nat := 0
  anchored : Bool := false
  /-- Bit i: the certificate chains to anchor slot i. -/
  anchors : Nat := 0
  /-- It closes once the response to the trust-anchor command has been sent (R501). -/
  doomed : Bool := false
  types : Nat := 0
  classes : Nat := 0
  eseq : Nat := 0
  lostBefore : Bool := false
  events : List Event := []
  /-- Next packet number to send; highest accepted plus one; accepted numbers within the window. -/
  pnTx : Nat := 0
  pnRx : Nat := 0
  pnSeen : List Nat := []
  fseqTx : Nat := 0
  fseqRx : Nat := 0
  unacked : List TxFrame := []
  /-- Sequenced frames that wait until fewer than 4,096 are unacknowledged (R469). -/
  waiting : List TxFrame := []
  /-- Instant at which FACK last advanced or the oldest frame was first sent. -/
  ackT : Nat := 0
  /-- A sequenced frame was taken and its acknowledgement has not been sent; instant it was taken. -/
  ackDue : Option Nat := none
  /-- Instants of the last authenticated frame on port A and on port B. -/
  heard : Map Nat := []
  /-- Frames that failed authentication in the second named beside it. -/
  fails : Nat := 0
  failSec : Nat := 0
  bulk : List Bulk := []
  /-- Instant of the last KEEPALIVE sent, plus one. -/
  kept : Nat := 0
deriving DecidableEq, Repr

/-- A handshake in progress (R473): port, start, the session it was given and both bodies so far. -/
structure Hs where
  port : Nat
  start : Nat
  sess : Nat
  init : Bytes
  resp : Bytes
deriving DecidableEq, Repr

/-- A Brixvia port (R470, R475). -/
structure BxPort where
  lock : Bool := false
  txOn : Bool := false
  /-- Instants of the HS_INIT frames of the last second, newest first (R473). -/
  inits : List Nat := []
deriving DecidableEq, Repr

/-- The helm, its mailboxes and its sessions (R449 to R478). -/
structure Helm where
  mbx : Map Mbx := []
  sess : Map Sess := []
  ports : Map BxPort := []
  hs : List Hs := []
  ticket : Nat := 0
  collide : Nat := 0
  /-- Active pair, and whether the other one stands by. -/
  active : Nat := 0
  standby : Bool := false
  /-- The active pair has stopped (R449). -/
  stopped : Bool := false
  /-- Pair held in block reset after a takeover (R450). -/
  heldPair : Option Nat := none
  gens : Nat := 0
  page : Nat := 2
deriving DecidableEq, Repr
/-! ### Memory (chapter 12) -/

/-- HBM, core store and MRAM contents, and what the controllers keep about them (R350 to R369). -/
structure MemState where
  /-- HBM by device address. -/
  hbm : Mem := []
  /-- Poisoned HBM lines, as address divided by 64, rising (R355). -/
  poison : List Nat := []
  /-- Core store by 2^26 x physical core + plain offset. -/
  cs : Mem := []
  /-- Poisoned core-store words, as the same address divided by 32, rising (R367). -/
  csPoison : List Nat := []
  /-- Core-store words corrected since their last write (R512, class 3). -/
  csCorr : List Nat := []
  /-- Stamps of corrected errors by row of a pseudo-channel, newest first (R356). -/
  rowHist : Map (List Nat) := []
  /-- Rows whose repair has been requested and not made: pseudo-channel and row (R356). -/
  repairs : List (Nat × Nat) := []
  /-- Pseudo-channel whose retirement half 0 or 1 is migrating (R360). -/
  migrate : Map Nat := []
  /-- Pseudo-channels retired whose re-interleaving waits for a migration, oldest first (R360). -/
  queued : List Nat := []
  /-- Banks of each physical core that wait for a spare's copy to end, the one being copied first (R368). -/
  copying : Map (List Nat) := []
  /-- HB_REPAIR_CTL [3:0] and [15:4]. -/
  rowCe : Nat := 2
  rowWin : Nat := 24
  /-- Stack temperatures in 1/16 °C as last read (R349). -/
  temps : Map Nat := []
  /-- HBM initialisation has ended since the last system reset (R357). -/
  ready : Bool := false
  /-- Stacks that their controllers hold in self-refresh, as a mask (R349). -/
  selfRef : Nat := 0
  /-- Pseudo-channels' refresh runs at the double rate: stacks above 85 °C, as a mask (R349). -/
  fastRef : Nat := 0
deriving DecidableEq, Repr

/-! ### Synchronisation objects (chapter 11) -/

/-- A held WAIT or BARRIER on an object (R325): the requesting unit of this chip, or an entry of the remote-waiter table. -/
structure Waiter where
  /-- Physical core on this chip, or the origin unit on another chip. -/
  unit : Nat
  chip : Nat := 0
  remote : Bool := false
  /-- A participant of a barrier; otherwise a WAIT for `v`. -/
  bar : Bool := false
  v : Nat := 0
  /-- WORK_ID and VERSION of the request tag (R339). -/
  wid : Nat := 0
  version : Nat := 0
  /-- A WAIT of this cycle, not yet compared with a value at a cycle's end (R332). -/
  fresh : Bool := false
deriving DecidableEq, Repr

/-- A synchronisation object (R325, R326). -/
structure SObj where
  value : Nat := 0
  flags : Nat := 0
  owner : Nat := 0xFF
  cur : Nat := 0
  next : Nat := 0
  leaving : Nat := 0
  waiters : List Waiter := []
  /-- Released participants whose RELEASE_ACK is due: chip and unit, or 65,536 + link and 0xE6 for a child link (R334). -/
  due : List (Nat × Nat) := []
  /-- Arrivals of the present round whose participants have withdrawn (R338). -/
  gone : Nat := 0
  /-- Last signaller: chip, origin unit, operation and ns. -/
  sigChip : Nat := 0
  sigUnit : Nat := 0
  sigOp : Nat := 0
  sigNs : Nat := 0
  /-- Parent link of a tree node plus one, 0 for none, and child-link mask (R342). -/
  parent : Nat := 0
  children : Nat := 0
  /-- VERSION of the arrival that completed the round that waits for its parent (R339). -/
  version : Nat := 0
deriving DecidableEq, Repr

/-- A work tag with its payload that has reached this chip or travels inside it, and waits to act (R26, R332). -/
structure InTag where
  /-- Link of arrival, or 8 for a tag of this chip. -/
  link : Nat := 8
  tag : Bytes
  body : Bytes
  /-- Routing bytes 0 to 9 of its frame (R401); empty for a tag of this chip. -/
  path : Bytes := []
  /-- It crossed a Weltix v1 link to get here (R43). -/
  v1 : Bool := false
  /-- Accepted under the flag policy of R445. -/
  bmis : Bool := false
  /-- Chronometer ns at which it arrived. -/
  at_ : Nat := 0
deriving DecidableEq, Repr

/-- What a receiver keeps of the tags of one origin unit, kind and chip (R32): the SEQ expected next, the numbers passed over and
not received since (first number and count), and the tags received twice. -/
structure SeqRx where
  next : Nat
  lost : List (Nat × Nat) := []
  dup : Nat := 0
deriving DecidableEq, Repr

/-! ### Cores (chapters 07 and 09) -/

/-- A staging half (R191): element codes one per byte, block scales and line references. -/
structure Half where
  loaded : Bool := false
  invalid : Bool := false
  fmt : Nat := 0
  scaled : Bool := false
  lines : Nat := 0
  k : Nat := 0
  elems : Mem := []
  scales : Mem := []
  refs : Mem := []
deriving DecidableEq, Repr

/-- What a chain records from its first AMUL (R204): mode, M, N, formats, SCALED bits and references. -/
structure Chain where
  mode : Nat
  m : Nat
  n : Nat
  afmt : Nat
  ascaled : Bool
  wfmt : Nat
  wscaled : Bool
  arefs : List Nat
  wrefs : List Nat
deriving DecidableEq, Repr

/-- An accumulator slot of an array (R189, R208, R209). Accumulators and checksums by 512 x row + column in mode 3
and 64 x row + column otherwise; what is not listed is 0. -/
structure Slot where
  acc : Map Int := []
  sat : List Nat := []
  cr : Map Nat := []
  cc : Map Nat := []
  accSat : Bool := false
  edgeSat : Bool := false
  invalid : Bool := false
  chain : Option Chain := none
  /-- Sequence the chain's next block must carry (R243). -/
  seq : Nat := 0
  /-- The chain began before the open region (R217). -/
  old : Bool := false
deriving DecidableEq, Repr

/-- A decoded engine instruction (R268, R269): its 128 bits after patching. -/
structure EI where
  w : Nat
  tpl : Nat := 0
  pc : Nat := 0
  /-- Decode order. -/
  ord : Nat := 0
  /-- Scoreboard names of the ISSUE and the counts each needs. -/
  rdA : Nat := 0
  rdB : Nat := 0
  wr : Nat := 0
  needA : Nat := 0
  needB : Nat := 0
  needW : Nat := 0
  needR : Nat := 0
  /-- K register as SGETK found it at decode (R280). -/
  kval : Nat := 0
  region : Bool := false
  /-- 0 in its queue, 1 released, 2 waiting for a reply or a release, 3 done. -/
  ph : Nat := 0
  /-- Result word for KD once the answer has come (R330, R283). -/
  res : Option Nat := none
  /-- Instant of a request to another chip (R340, R403) and the chip. -/
  sent : Nat := 0
  chip : Nat := 0
  wid : Nat := 0
  /-- VERSION of the tags that it has sent (R34, R440). -/
  ver : Nat := 0
  /-- The request's PENDING reply has come (R339). -/
  held : Bool := false
  /-- Place in the core's order of release (R279). -/
  rel : Nat := 0
deriving DecidableEq, Repr

/-- Counts of a scoreboard entry, modulo 2^16 (R269). -/
structure SbEnt where
  dw : Nat := 0
  dr : Nat := 0
  cw : Nat := 0
  crd : Nat := 0
deriving DecidableEq, Repr

/-- The snapshot of RBEGIN (R286). -/
structure Snap where
  k : Map Nat
  step : Nat
  s : Map Nat
deriving DecidableEq, Repr

/-- A breakpoint (R296). -/
structure Brk where
  kind : Nat := 0
  flags : Nat := 0
  value : Nat := 0
  count : Nat := 0
  seen : Nat := 0
deriving DecidableEq, Repr

/-- A program in program memory (R262, R263): control words, templates and the 48 sync entries. -/
structure Prog where
  /-- Model and container address that it came from. -/
  model : Nat
  addr : Nat
  entry : Nat
  mode : Nat
  used : Nat
  ctl : List Nat
  tpl : List Nat
  sync : List Nat
  /-- Its image read as poison when it was placed (R355). -/
  poison : Bool := false
deriving DecidableEq, Repr

/-- A region of core store that the helm loaded from a container (R307): local address (R365), length and device address of its bytes. -/
structure Region where
  dst : Nat
  len : Nat
  src : Nat
  model : Nat
deriving DecidableEq, Repr

/-- A tensor dump slot of a core (R532): an armed slot's fields, and the hits it has had. -/
structure DumpSlot where
  symbol : Nat
  step : Nat
  count : Nat
  addr : Nat
  bytes : Nat
  hits : Nat := 0
deriving DecidableEq, Repr

/-- A dump that fired and whose copy runs (R533): where its entry goes, its bytes, and TRUNC. -/
structure DumpRun where
  addr : Nat
  entry : Bytes
  trunc : Bool
  /-- Bytes of the entry that have been written. -/
  pos : Nat := 0
deriving DecidableEq, Repr

/-- A core, by physical number (R261). -/
structure Core where
  /-- 0 idle, 1 running, 2 halted, 3 saving, 4 restoring (CORE_STATE_READ). -/
  st : Nat := 0
  brkHit : Nat := 0xFF
  pc : Nat := 0
  k : Map Nat := []
  /-- K registers that decoded instructions will write, one entry for each (R265). -/
  kpend : List Nat := []
  step : Nat := 0
  mode : Nat := 0
  /-- Retry region: open flag, id, attempts, PC after RBEGIN and snapshot. -/
  open_ : Bool := false
  rid : Nat := 0
  att : Nat := 0
  rstart : Nat := 0
  snap : Option Snap := none
  /-- REND was decoded and the region has not passed. -/
  closing : Bool := false
  /-- A failure inside the region waits for the released instructions to end (R287). -/
  failed : Bool := false
  /-- The job ends with this status once the released instructions have ended (R218, R291). -/
  stop : Option Nat := none
  /-- The job's end comes from a hardware cause (R512, class 7). -/
  hw : Bool := false
  /-- Deferred SIGNALs, oldest first (R288). -/
  defer : List EI := []
  sb : Map SbEnt := []
  /-- Scalar registers by 32 x engine + register. -/
  s : Map Nat := []
  /-- Vector lanes by 4096 x engine + 64 x register + lane. -/
  v : Map Nat := []
  /-- Predicates by 8 x engine + register. -/
  p : Map Nat := []
  queues : Map (List EI) := []
  run : Map (List EI) := []
  ord : Nat := 0
  /-- Instructions released so far, and the queues that have released one in the present cycle (R271, R279). -/
  rels : Nat := 0
  relQ : List Nat := []
  halves : Map Half := []
  /-- Slots by 3 x array + slot. -/
  slots : Map Slot := []
  prog : Option Prog := none
  /-- A placement has come while the core was at work: the next job's program is placed anew (R263). -/
  progDue : Bool := false
  regions : List Region := []
  /-- Its core store has been lost and its placements are not loaded again yet (R309, R516). -/
  reload : Bool := false
  /-- Instance whose job the core runs. -/
  inst : Option Nat := none
  jobStatus : Option Nat := none
  brks : Map Brk := []
  /-- A breakpoint is about to halt the core; the halt steps one control instruction (R296). -/
  halting : Bool := false
  /-- The breakpoints on PC have been compared for the word at the PC. -/
  pass : Bool := false
  single : Bool := false
  /-- Pre-emption has been requested (R293). -/
  preempt : Bool := false
  sync : Map SObj := []
  dumps : Map DumpSlot := []
  dumping : List DumpRun := []
  /-- CH_ISL_CYC at the last part of a copy, plus one (R530). -/
  dumpCyc : Nat := 0
deriving DecidableEq, Repr

/-! ### Streams, instances and jobs (chapter 10) -/

/-- A stream context's state (R300). -/
structure SCtx where
  st : Nat := 0
  inflight : Nat := 0
  lastStatus : Nat := 0
  wr : Nat := 0
  oldest : Nat := 0
  since : Nat := 0
  lastDispatch : Nat := 0
  kvTokens : Nat := 0
  jobs : Nat := 0
  late : Nat := 0
  dropped : Nat := 0
  skipped : Nat := 0
  failed : Nat := 0
  lastResult : Nat := 0
  ovf : Nat := 0
  /-- Records appended since WR was last set to 0, without wrap (R306). -/
  count : Nat := 0
  /-- WIN_FIRST of the jobs in flight, oldest first. -/
  wins : List Nat := []
  /-- Versions whose commit changed the ring and of which no record has been appended, in order of commit (R303). -/
  fresh : List Nat := []
  /-- Last tick taken, and the last instants of a cadence event by a record and by a tick, each plus one (R304, R305). -/
  tick : Nat := 0
  evt : Nat := 0
  tickEvt : Nat := 0
deriving DecidableEq, Repr

/-- The saved context of one rank (R294): the physical core that saved it, the HBM address of the save area, and VALUE and FLAGS of the
hub objects that the core owned (R337). -/
structure Saved where
  core : Nat
  area : Nat
  hub : Map (Nat × Nat) := []
deriving DecidableEq, Repr

/-- A job in a queue or running (R310). -/
structure Job where
  desc : Bytes
  wid : Nat
  version : Nat
  /-- DEADLINE of its tag (R37). -/
  deadline : Nat
  /-- 0 and 1 the dispatchers, 2 the helm, 3 a core of this chip, 4 another chip. -/
  origin : Nat
  chip : Nat := 0
  unit : Nat := 0
  /-- Session slot and generation that submitted it; slot 4 for none (R469). -/
  sess : Nat := 4
  gen : Nat := 0
  /-- Accepted under the flag policy of R445. -/
  bmis : Bool := false
  /-- Contexts of its ranks where it was pre-empted (R313), by rank. -/
  saved : Map Saved := []
  /-- Status of each rank that has ended, and rank 0's result area as it stood at that rank's END (R312). -/
  ended : Map Nat := []
  area : Mem := []
deriving DecidableEq, Repr

/-- An instance of a model (R307 to R313). -/
structure Inst where
  model : Nat
  first : Nat
  ranks : Nat
  /-- Container address that its cores hold. -/
  addr : Nat
  queue : List Job := []
  running : Option Job := none
  /-- Its placements are being loaded again (R309, R516). -/
  loading : Bool := false
  /-- The version whose regions are loaded once the old version's jobs are done (R308), 0 for none. -/
  swap : Nat := 0
  /-- Out of service until a new placement (R517). -/
  out : Bool := false
deriving DecidableEq, Repr

/-- A result on its way to the router (R315). -/
structure Res where
  job : Job
  status : Nat
  inst : Nat
  area : Mem
deriving DecidableEq, Repr

/-! ### Weltix links (chapter 14) -/

/-- A TRAIN offer of the partner (R399, R405). -/
structure ClOffer where
  ver : Nat
  mask : Nat
  chip : Nat
  link : Nat
  valid : Bool
  cred : List Nat
deriving DecidableEq, Repr

/-- A Weltix link (R395 to R431). -/
structure Lnk where
  en : Bool := true
  maxVer : Nat := 2
  expectEn : Bool := false
  expChip : Nat := 0
  expLink : Nat := 0
  /-- CL_LINK_STAT.STATE: 0 disabled, 1 lane lock, 2 codeword lock and deskew, 3 offer, 4 accept, 5 up, 6 quiescing, 7 retired. -/
  st : Nat := 0
  ver : Nat := 0
  fast : Bool := false
  active : Nat := 0
  miswired : Bool := false
  partner : Option (Nat × Nat × Bool) := none
  rtt : Nat := 0
  since : Nat := 0
  retryAt : Option Nat := none
  offer : Option ClOffer := none
  /-- Next SEQ to send, first SEQ not acknowledged, and the flits between them, oldest first: virtual channel and bytes 4 to 59. -/
  tx : Nat := 0
  una : Nat := 0
  replay : List (Nat × Bytes) := []
  /-- Instant at which ACK last advanced or the oldest flit was sent, and the instant at which the oldest was sent first. -/
  ackT : Nat := 0
  sentT : Nat := 0
  rows : Nat := 0
  /-- Next SEQ expected, and a NACK for it was sent. -/
  rx : Nat := 0
  nacked : Bool := false
  /-- Credits held, credits granted to the partner and credits to return, by virtual channel. -/
  cred : List Nat := [0, 0, 0]
  grant : List Nat := [0, 0, 0]
  back : List Nat := [0, 0, 0]
  /-- Frames that wait to leave, by virtual channel, and the rest of the frame being sent. -/
  queue : Map (List Bytes) := []
  part : Map Bytes := []
  /-- Virtual channel 1 or 2 that had the last turn. -/
  turn : Nat := 2
  /-- Frames being received, by virtual channel: the arrival of the first flit in 1/256 ns, and the bytes so far. -/
  asm : Map (Nat × Bytes) := []
  epoch : Nat := 0
  laneReq : Option (Nat × Nat) := none
  /-- Consecutive trainings in which each lane failed to lock (R512). -/
  lockFail : Map Nat := []
  timeReq : Option Nat := none
  /-- Period of 2^20 ns of the last TIME_REQ, plus one. -/
  timeSent : Nat := 0
  /-- Period in which a bearing exchange was sent last since the link came up, plus one, and how many were sent (R423, R31). -/
  exch : Nat := 0
  exchNum : Nat := 0
  quiesceDown : Bool := false
  /-- A heave-to marker that has arrived and not acted yet, as number and T (R424, R541). -/
  marker : Option (Nat × Nat) := none
  /-- Flits that wait for resume: arrival in 1/256 ns, and bytes 4 to 59. -/
  held : List (Nat × Bytes) := []
deriving DecidableEq, Repr

/-- A CL_RELAY, or a relayed request executed here, that waits for its answer (R421). -/
structure Relay where
  mbx : Nat
  wid : Nat
  ends : Nat
  chip : Nat
deriving DecidableEq, Repr

/-- A relayed command that runs here and will be answered (R421): its number among those that wait, its routing bytes, origin
chip, link of arrival, WORK_ID and SEQ. -/
structure Inner where
  id : Nat
  path : Bytes
  chip : Nat
  link : Nat
  wid : Nat
  seq : Nat
deriving DecidableEq, Repr

/-- A reset request that was sent and waits for its acknowledgement (RST_REMOTE): who waits, the link, and the frame. -/
structure RstReq where
  who : Nat
  link : Nat
  frame : Bytes
deriving DecidableEq, Repr

/-- The chain side of the chip. -/
structure Chain8 where
  links : Map Lnk := []
  /-- Routing table: entries other than 0xFF by destination chip (R414). -/
  route : Map Nat := []
  /-- Instants until which a route is lost after an UNREACH (R418). -/
  unreach : Map Nat := []
  /-- Last UNREACH sent by destination (R417). -/
  unreachTx : Map Nat := []
  relays : List Relay := []
  inner : List Inner := []
  rstReqs : List RstReq := []
deriving DecidableEq, Repr


/-! ### MRAM, retirements and the system (chapters 17, 18 and 20) -/

/-- What MRAM holds (R490, R515). -/
structure Nvm where
  /-- Bit u: compass unit u is retired. -/
  cmpRetired : Nat := 0
  /-- Bit p: parse pipeline p is retired. -/
  pipeRetired : Nat := 0
  /-- Retired pseudo-channels, as a mask of 384 bits (R359), and the row repairs made, newest first (R356): pseudo-channel, row, and
  whether hard repair has made it permanent (R357). -/
  pchRetired : Nat := 0
  repaired : List (Nat × Nat × Bool) := []
  /-- Spared logical banks by physical core, oldest first (R368). -/
  spared : Map (List Nat) := []
  /-- Retired arrays by physical core, as a mask (R219); retired matrix-vector paths, as a mask of cores (R229); retired
  vector engines by physical core, as a mask (R279). -/
  arrRetired : Map Nat := []
  mvRetired : Nat := 0
  vecRetired : Map Nat := []
  /-- Retired physical cores, as a mask, and the logical cores that run on another core than their first (R516, R517). -/
  coreRetired : Nat := 0
  coreMap : Map Nat := []
  /-- Active core count (R517). -/
  cores : Nat := 128
  /-- Retired lanes by link, as a mask, and retired links, as a mask (R412). -/
  laneRetired : Map Nat := []
  linkRetired : Nat := 0
  /-- Firmware slots A and B, the ACTIVE and PENDING marks and the rollback counter (R496). -/
  slots : Map Img := []
  active : Option Nat := none
  pending : Option Nat := none
  rollback : Nat := 0
  /-- Operator trust anchors by slot: FLAGS and certificate (R501). -/
  anchors : Map (Nat × Bytes) := []
deriving DecidableEq, Repr

/-- A unit under the quiesce handshake (R486). -/
structure Blk where
  /-- 0 RUNNING, 1 QUIESCING, 2 IDLE, 3 FORCED, 4 RESET, 5 DISABLED. -/
  st : Nat := 0
  /-- Instant of the entry to QUIESCING, and the timeout that counts from it, ns. -/
  since : Nat := 0
  limit : Nat := 100000
  /-- Operation in progress: 0 reset, 1 disable, 3 retirement, 4 pre-emption, 5 entry to SLEEP; none where EN was cleared or for BANKED. -/
  op : Option Nat := none
  /-- Who waits for the end: a mailbox, or 65,536 + a relayed command. -/
  who : Option Nat := none
  dropped : Nat := 0
  /-- The unit was DISABLED when its reset began. -/
  wasOff : Bool := false
deriving DecidableEq, Repr

/-- The JTAG port (R480, R558): the instruction in force, and what was last shifted into the boundary-scan cells. -/
structure Jtag where
  ir : JtagOp := .idcode
  cells : Bytes := []
deriving DecidableEq, Repr

/-- Boot, reset, trust and the states of the units (chapter 17). -/
structure Sys where
  /-- CW_STATUS.BOOT, and whether the boot ROM has started since the last system reset. -/
  boot : Nat := 0
  rom : Bool := false
  /-- Level of the reset that holds: 0 none, 1 core, 2 system, 3 power-on (R480), and the sources asserted, as a mask. -/
  level : Nat := 0
  srcs : Nat := 0
  /-- Instant at which each asserted source was asserted (R481). -/
  srcT : Map Nat := []
  /-- CW_RESET_CAUSE, and the always-on domain's second copy (R508). -/
  cause : Nat := 1
  causeNew : Nat := 1
  /-- CW_RESET_CNT_n with SAT in bit 24 (R484). -/
  cnt : Map Nat := [(0, 1)]
  /-- Rail of the last supply trip, 0xFF for none (R546). -/
  rail : Nat := 0xFF
  /-- Instant at which the last source of a system or power-on reset was released (R493). -/
  t0 : Nat := 0
  /-- CW_STRAP [11:0] (R492). -/
  strap : Nat := 0
  quiesceUs : Nat := 100
  /-- Identity could be reconstructed (R499). -/
  idOk : Bool := false
  /-- Running image: FW_VERSION, SVN, digest and slot (R496 to R498). -/
  fwVer : Nat := 0
  svn : Nat := 0
  fwDigest : Bytes := []
  fwSlot : Option Nat := none
  /-- The load buffer, and bit k: its 32-byte block k has been written (FW_LOAD). -/
  load : Mem := []
  loaded : Nat := 0
  /-- Current debug challenge and its instant; unlocked scopes and their expiry (R502 to R504). -/
  challenge : Option (Bytes × Nat) := none
  dbg : Nat := 0
  dbgExp : Option Nat := none
  /-- Instant from which the mailbox system-reset source may be asserted (R481). -/
  rstAt : Option Nat := none
  /-- Mailboxes or relayed commands whose RST with LEVEL 2 waits for the cores (RST). -/
  rstWait : List Nat := []
  /-- A core reset came during a heave-to hold and takes effect at resume (R542). -/
  coreRstHeld : Bool := false
  /-- Units by 65,536 x UNIT + INDEX (R487): 0 core, 1 compass unit, 2 slice port, 3 chain link, 4 HBM controller, 5 helm pair. -/
  blocks : Map Blk := []
deriving DecidableEq, Repr

/-! ### Observation and heave-to (chapter 19) -/

/-- A logbook (R526 to R531). -/
structure Logbook where
  types : Nat := 0
  sample : Nat := 0
  mark : Nat := 0
  brixvia : Bool := false
  sess : Nat := 0
  gen : Nat := 0
  addr : Nat := 0
  size : Nat := 16
  chip : Nat := 0
  xid : Nat := 0
  seq : Nat := 0
  lostBefore : Bool := false
  /-- Records not yet drained, oldest first. -/
  buf : List Bytes := []
  /-- Records written to the ring (WR of R529). -/
  wr : Nat := 0
  /-- A flush was asked for. -/
  flush : Bool := false
deriving DecidableEq, Repr

/-- What the capture keeps of a link (R540). -/
structure HvLink where
  sent : Bool := false
  got : Bool := false
  markerT : Nat := 0
  flits : List Bytes := []
deriving DecidableEq, Repr

/-- A heave-to (R536 to R542). -/
structure Heave where
  /-- CW_HEAVE_CTL.STATE: 0 running, 1 armed, 2 holding, 3 resuming. -/
  st : Nat := 0
  /-- CW_HEAVE_T. -/
  tReg : Nat := 0
  /-- CW_HEAVE_NUM, and whether any heave-to has stopped the chip since system reset. -/
  num : Nat := 0
  ever : Bool := false
  /-- Armed instant and number. -/
  t : Nat := 0
  armNum : Nat := 0
  byMarker : Bool := false
  /-- Chronometer ns at the stop, and by island whether it stood already and its CYC counter. -/
  stopT : Nat := 0
  islands : Map (Bool × Nat) := []
  /-- Divisions that the stopped islands keep (R561). -/
  divs : Map Nat := []
  links : Map HvLink := []
  /-- The staging round as it stood at the stop (R443). -/
  round : Option Round := none
  /-- Instant of the resume. -/
  r : Nat := 0
deriving DecidableEq, Repr

/-! ### Power (chapter 20) -/

/-- The damper and the measured values (R550 to R554). -/
structure Pwr where
  cap : Nat := 1850
  work : Nat := 1850
  /-- Averages over 10 us in mW and over 1 ms in W. -/
  avg : Nat := 0
  avgMs : Nat := 0
  /-- Energy since system reset in nJ (R553). -/
  energy : Nat := 0
  /-- Measurements of the last 10 us in mW, newest first; sum and number of those of the running ms (R550, R557). -/
  win : List Nat := []
  msSum : Nat := 0
  msN : Nat := 0
  /-- Junction sensors and rails as last read: 1/16 degree C as 16-bit two's complement, mV. -/
  tj : Map Nat := []
  rails : Map Nat := []
  /-- Clock division level of core islands, 0 to 3 for 1, 2, 4 and 8, and steps of withheld release. -/
  div : Map Nat := []
  hold : Nat := 0
  floor : Bool := false
  /-- Steps taken, last first: a core island, or 132 for a step of withheld release. -/
  steps : List Nat := []
  /-- Core island at which the rotation stands. -/
  rot : Nat := 0
  /-- Instant since which the average has stayed below the working cap less 3 %, and instant of the last undone step. -/
  below : Option Nat := none
  undone : Nat := 0
deriving DecidableEq, Repr

/-- The part's whole state, with the commands that wait. -/
structure State where
  /-- The commands that wait, first in, first out. -/
  pending : List Instr := []
  /-- The model's own counter of open values drawn so far. -/
  free : Nat := 0
  /-- The model's own record of what was sent, newest first. -/
  out : List Out := []
  /-- Counters by the offset of their low word (R13). -/
  ctrs : Map Nat := []
  /-- Overflow-flag registers by offset (R13, RW1C). -/
  ovf : Map Nat := []
  /-- High word and fraction latched by an accessor for a 64-bit register (R9); the key names both. -/
  latch : Map (Nat × Nat) := []
  /-- SEQ of the next tag by origin unit, kind and destination chip (R32). -/
  tagSeq : Map Nat := []
  /-- What arriving tags show of lost and duplicated ones, by the same key with the origin chip (R32). -/
  seqRx : Map SeqRx := []
  flt : FltState := {}
  ver : VerState := {}
  ports : Map Port := []
  /-- INLINE_OK as driven (R80). -/
  inlineOk : Bool := false
  pipes : Map Pipe := []
  /-- Slices inside the fast path by 2^24 x port + SEQ. -/
  slices : Map Slice := []
  dies : Map Die := []
  /-- The learning table by bucket x 4 + way (R138). -/
  learn : Map LEnt := []
  tunits : Map TUnit := []
  /-- Entries that failed parity and have not been repaired. -/
  failed : List BadEnt := []
  /-- Compass jobs of each die in queue order (R181). -/
  cjobs : Map (List CJobSt) := []
  /-- Block evaluations that entered each compass unit since the last tick (OBS_CMP_IDLE). -/
  evals : Map Nat := []
  /-- Slices that have arrived since reset: the next one's place in the order of arrival at the pins (R302). -/
  arrived : Nat := 0
  /-- Measurement records in the input buffer of each die's dispatcher, each with its slice's place in the order of arrival,
  oldest first (R101, R302). -/
  records : Map (List (Nat × Bytes)) := []
  ch : Chron := {}
  helm : Helm := {}
  /-- The chip id once assigned (R30). -/
  chip : Option Nat := none
  nv : Nvm := {}
  sys : Sys := {}
  jtag : Jtag := {}
  hv : Heave := {}
  /-- Logbooks by logical core, and 0x80, 0x81 for the I/O dies. -/
  logs : Map Logbook := []
  pw : Pwr := {}
  /-- HBM writes of observation traffic in the last 10 us, by half: instants and bytes (R530). -/
  obsW : Map (List (Nat × Nat)) := []
  mem : MemState := {}
  /-- Cores by physical number. -/
  cores : Map Core := []
  /-- Hub objects (R328). -/
  hub : Map SObj := []
  /-- Work tags that have reached their unit and wait to act, oldest first. -/
  inbox : List InTag := []
  /-- Stream contexts' states (R300). -/
  ctx : Map SCtx := []
  insts : Map Inst := []
  /-- A core reset's reloads are not all made yet, and no job starts (R309). -/
  reloading : Bool := false
  /-- Results on their way to their router, oldest first (R315). -/
  results : List Res := []
  /-- WORK_ID of the next job that the device numbers (R31). -/
  workId : Nat := 0
  /-- Jobs sent to other chips whose return is awaited: WORK_ID, chip and version (R36). -/
  away : List (Nat × Nat × Nat) := []
  cl : Chain8 := {}
deriving DecidableEq, Repr

/-- Reasons for which the machine stops with a fault. None is raised by this model. -/
inductive Fault where
  /-- Raised by no command. -/
  | none
deriving DecidableEq, Repr

/-- Reasons for which a command has no meaning here. -/
inductive Refusal where
  /-- A command whose arm has no meaning yet; safe. -/
  | notModelled (mnemonic : String)
  /-- A JTAG instruction for the vendor's test logic, whose effect the spec does not give (R558); safe. -/
  | vendorTest
deriving DecidableEq, Repr

/-- The part right after a system reset that followed power-on. -/
def State.reset : State := {}

end Sys2Proof.Machine
end

