-- ==== Sys2Proof/Machine/Ops.lean ====
section
/-! DEFINITION. The named operations over the state: time, counters, tags, events, faults and channel histories. -/

namespace Sys2Proof.Machine

open Sys2Proof

/-! ### Time (R374, R376) -/

/-- Chronometer time in whole ns. -/
def now (s : State) : Nat := s.ch.cnt / 2 ^ 32
/-- Chronometer time in units of 1/256 ns. -/
def now256 (s : State) : Nat := s.ch.cnt / 2 ^ 24
/-- Chronometer seconds (R374). -/
def nowSec (s : State) : Nat := now s / 1000000000

/-- The DEADLINE of a tag for the instant `d` (R37). -/
def deadlineOf (d : Nat) : Nat := min (d / 4 % 2 ^ 32) 0xFFFFFFFE
/-- Work with DEADLINE `d` is late at ns `t` (R38). -/
def isLate (d t : Nat) : Bool :=
  d != 0xFFFFFFFF && (let x := (t / 4 % 2 ^ 32 + 2 ^ 32 - d) % 2 ^ 32; 1 ≤ x && x < 2 ^ 31)

/-! ### What holds the part still (R385, R480, R536) -/

/-- A heave-to holds or has not resumed yet. -/
def holding (s : State) : Bool := s.hv.st == 2 || s.hv.st == 3
/-- A system or power-on reset, or SLEEP, holds every unit but the always-on domain. -/
def down (s : State) : Bool := decide (2 ≤ s.sys.level) || s.ch.pwr == 2
/-- The packet side, the networks and the cores stand still. -/
def frozen (s : State) : Bool := holding s || down s

/-! ### Register-space bases (R452) -/

def baseTbl : Nat := 0x1000
def baseSp : Nat := 0x2000
def baseFlt : Nat := 0x7000
def baseCl : Nat := 0x10000
def baseCh : Nat := 0x14000
def baseHb : Nat := 0x18000
def baseObs : Nat := 0x20000

/-! ### Counters (R13 to R16) -/

/-- The value of the counter at `off`. -/
def ctr (s : State) (off : Nat) : Nat := mgetD s.ctrs off 0
/-- A performance counter counts `n` (R13): 64 bits, wrapping. -/
def perf (off n : Nat) (s : State) : State :=
  { s with ctrs := msetD s.ctrs off ((ctr s off + n) % 2 ^ 64) 0 }
/-- An error-and-event counter counts `n` (R13): 32 bits, sticking; a lost increment sets bit `b` of the flag
register `ovf`. -/
def errc (off ovf b n : Nat) (s : State) : State :=
  let v := ctr s off + n
  let s := { s with ctrs := msetD s.ctrs off (min v 0xFFFFFFFF) 0 }
  if 0xFFFFFFFF < v then { s with ovf := msetD s.ovf ovf (setBit (mgetD s.ovf ovf 0) b) 0 } else s

/-- Slice-port counters of port `q` (R86): the error counter `k` places after SP_FEC_UNCORR. -/
def spErr (q k : Nat) (n : Nat) (s : State) : State :=
  errc (baseSp + 0x100 * q + 0x30 + 4 * k) (baseSp + 0x100 * q + 0x50) k n s
/-- Slice-port performance counter at port offset `o` (R86). -/
def spPerf (q o n : Nat) (s : State) : State := perf (baseSp + 0x100 * q + o) n s

/-! ### Components -/

def port (s : State) (q : Nat) : Port := mgetD s.ports q {}
def setPort (q : Nat) (p : Port) (s : State) : State := { s with ports := mset s.ports q p }
def pipe (s : State) (n : Nat) : Pipe := mgetD s.pipes n {}
def setPipe (n : Nat) (p : Pipe) (s : State) : State := { s with pipes := mset s.pipes n p }
def die (s : State) (d : Nat) : Die := mgetD s.dies d {}
def setDie (d : Nat) (x : Die) (s : State) : State := { s with dies := mset s.dies d x }
def sess (s : State) (i : Nat) : Sess := mgetD s.helm.sess i {}
def setSess (i : Nat) (x : Sess) (s : State) : State := { s with helm := { s.helm with sess := mset s.helm.sess i x } }
def mbx (s : State) (m : Nat) : Mbx := mgetD s.helm.mbx m {}
def setMbx (m : Nat) (x : Mbx) (s : State) : State := { s with helm := { s.helm with mbx := mset s.helm.mbx m x } }
def bxPort (s : State) (p : Nat) : BxPort := mgetD s.helm.ports p {}
def setBxPort (p : Nat) (x : BxPort) (s : State) : State :=
  { s with helm := { s.helm with ports := mset s.helm.ports p x } }
def tunit (s : State) (u : Nat) : TUnit := mgetD s.tunits u {}
def setTunit (u : Nat) (x : TUnit) (s : State) : State := { s with tunits := mset s.tunits u x }
def emit (o : Out) (s : State) : State := { s with out := o :: s.out }
/-- The key under which a slice of port `q` is held. -/
def sliceKey (q seq : Nat) : Nat := 2 ^ 24 * q + seq
def slice? (s : State) (q seq : Nat) : Option Slice := mget s.slices (sliceKey q seq)
def setSlice (x : Slice) (s : State) : State := { s with slices := mset s.slices (sliceKey x.q x.seq) x }
def delSlice (q seq : Nat) (s : State) : State := { s with slices := mdel s.slices (sliceKey q seq) }

def core (s : State) (p : Nat) : Core := mgetD s.cores p {}
def setCore (p : Nat) (x : Core) (s : State) : State := { s with cores := mset s.cores p x }
def ctxOf (s : State) (i : Nat) : SCtx := mgetD s.ctx i {}
def setCtx (i : Nat) (x : SCtx) (s : State) : State := { s with ctx := msetD s.ctx i x {} }
def inst? (s : State) (i : Nat) : Option Inst := mget s.insts i
def setInst (i : Nat) (x : Inst) (s : State) : State := { s with insts := mset s.insts i x }
def link (s : State) (n : Nat) : Lnk := mgetD s.cl.links n {}
def setLink (n : Nat) (x : Lnk) (s : State) : State := { s with cl := { s.cl with links := mset s.cl.links n x } }
/-- A unit under the quiesce handshake (R486): 0 core by physical number, 1 compass unit, 2 slice port, 3 chain link,
4 HBM controller, 5 helm pair. -/
def blk (s : State) (u i : Nat) : Blk := mgetD s.sys.blocks (65536 * u + i) {}
def setBlk (u i : Nat) (x : Blk) (s : State) : State :=
  { s with sys := { s.sys with blocks := msetD s.sys.blocks (65536 * u + i) x {} } }

/-- A unit begins to quiesce (R486): for operation `op`, with `who` waiting for its end. The timeout is the one set now. -/
def startQuiesce (u i : Nat) (op who : Option Nat) (s : State) : State :=
  setBlk u i { st := 1, since := now s, limit := s.sys.quiesceUs * 1000, op := op, who := who } s

/-- The physical core of logical core `c` (R23, R516): until a retirement, logical cores 0 to 63 are physical cores 0 to
63 and logical cores 64 to 127 are physical cores 66 to 129; the spares are 64, 65, 130 and 131. -/
def physOf (s : State) (c : Nat) : Nat := mgetD s.nv.coreMap c (if c < 64 then c else c + 2)
/-- The logical core that runs on physical core `p`. -/
def logOf (s : State) (p : Nat) : Option Nat := (List.range s.nv.cores).find? fun c => physOf s c == p

/-- The I/O die of port `q` (R48). -/
def dieOfPort (q : Nat) : Nat := q / 32

/-! ### Versions (R34, R433, R442) -/

/-- The objects of a version that is live on this chip. -/
def liveObjs (s : State) (v : Nat) : Option Objs :=
  if s.ver.newest.num = v && v != 0 then some s.ver.newest.objs
  else match s.ver.older with
    | some (l, _) => if l.num = v && v != 0 then some l.objs else none
    | none => none
/-- The objects of a version, empty where it is not live. -/
def objsOf (s : State) (v : Nat) : Objs := (liveObjs s v).getD {}
/-- The short bearing of a live version (R27, R444): byte 0 in the low half. -/
def shortBearing (s : State) (v : Nat) : Nat :=
  if s.ver.newest.num = v then leAt s.ver.newest.bearing 0 2
  else match s.ver.older with
    | some (l, _) => if l.num = v then leAt l.bearing 0 2 else 0
    | none => 0

/-- Object ids (R433). -/
def oidPg : Nat := 0x01000000
def oidSel : Nat := 0x02000000
def oidRule (n : Nat) : Nat := 0x03000000 + n
def oidScore (m : Nat) : Nat := 0x04000000 + m
def oidPlan : Nat := 0x05000000
def oidEns (e : Nat) : Nat := 0x09000000 + e
def oidDlc (c : Nat) : Nat := 0x0A000000 + c
def oidModel (m : Nat) : Nat := 0x0B000000 + m
def oidSc (n : Nat) : Nat := 0x0C000000 + n
def oidKeyMap : Nat := 0x0D000000
def oidThresh : Nat := 0x0E000000

/-- The template of stream context `i` is VALID (R299). -/
def scValid (o : Objs) (i : Nat) : Bool := bit (Mem.leAt o.sc (64 * i) 1) 0
/-- The template of stream context `i`, with OBJ_ID as the device sets it where it is VALID (R299, R433). -/
def scTpl (o : Objs) (i : Nat) : Bytes :=
  if scValid o i then Mem.bytes o.sc (64 * i) 56 ++ le 4 (oidSc i) ++ Mem.bytes o.sc (64 * i + 60) 4 else Mem.bytes o.sc (64 * i) 64
/-- An object of id `id` is present in a version (R433). -/
def hasObj (o : Objs) (id : Nat) : Bool :=
  let n := id % 2 ^ 24
  match id / 2 ^ 24 with
  | 0x01 | 0x02 | 0x05 | 0x0D | 0x0E => n == 0
  | 0x03 | 0x04 | 0x09 => (mget o.img id).isSome
  | 0x06 => n == 0 && !o.pfx4.isEmpty
  | 0x07 => n == 0 && !o.pfx6.isEmpty
  | 0x08 => decide (n < 8) && o.exact.any fun e => e.1 / 65536 == n
  | 0x0A => decide (n < 8)
  | 0x0B => (mget o.models n).isSome
  | 0x0C => decide (n < 65536) && scValid o n
  | _ => false

/-- The bytes of an image object; one that is absent, or was never staged, reads as zeros (R433). -/
def imgMem (o : Objs) (id : Nat) : Mem := match mget o.img id with | some i => i.data | none => []

/-- Defaults of R512: THRESH and WINDOW in ms by channel class. -/
def threshDefault : List (Nat × Nat) :=
  [(16, 1000), (256, 1000), (4, 86400000), (2, 86400000), (2, 10000), (2, 10000), (2, 10000), (3, 3600000),
   (4, 3600000), (2, 10000)]
/-- THRESH and WINDOW in force (R514): the newest active version's, or the defaults where it never staged them. -/
def threshOf (s : State) (cls : Nat) : Nat × Nat :=
  match mget s.ver.newest.objs.img oidThresh with
  | some i => (Mem.leAt i.data (8 * cls) 1, Mem.leAt i.data (8 * cls + 4) 4)
  | none => threshDefault.getD cls (1, 1)

/-! ### Work tags (R27 to R33) -/

/-- A work tag, field by field (R27). -/
structure Tag where
  chip : Nat
  unit : Nat
  kind : Nat
  workId : Nat
  version : Nat
  bearing : Nat
  deadline : Nat := 0xFFFFFFFF
  prio : Nat := 0
  dl : Nat := 0
  lateOk : Bool := false
  retry : Bool := false
  hops : Nat := 0
  seq : Nat := 0
deriving DecidableEq, Repr

/-- The 24 bytes of a tag, little-endian (R27). -/
def tagBytes (t : Tag) : Bytes :=
  le 2 t.chip ++ le 1 t.unit ++ le 1 t.kind ++ le 4 t.workId ++ le 2 t.version ++ le 2 t.bearing ++ le 4 t.deadline ++
  le 1 (t.prio % 8 + 8 * (t.dl % 8) + 64 * b2n t.lateOk + 128 * b2n t.retry) ++ zeros 3 ++ le 4 (t.hops + 256 * t.seq)

/-- The tag in 24 bytes; reserved bits are ignored (R7). -/
def tagOf (b : Bytes) : Tag :=
  let x := u8 b 16
  { chip := leAt b 0 2, unit := u8 b 2, kind := u8 b 3, workId := leAt b 4 4, version := leAt b 8 2,
    bearing := leAt b 10 2, deadline := leAt b 12 4, prio := bits x 2 0, dl := bits x 5 3, lateOk := bit x 6,
    retry := bit x 7, hops := u8 b 20, seq := leAt b 21 3 }

/-- A unit code that R28 reserves. -/
def unitReserved (u : Nat) : Bool :=
  (0x84 ≤ u && u ≤ 0xBF) || u == 0xE7 || u == 0xEE || u == 0xEF || (0xF2 ≤ u && u ≤ 0xFD) || u == 0xFF || 0xFF < u

/-- SEQ of the next tag from `unit` of `kind` to `chip`, and the state that has used it (R32). -/
def nextSeq (unit kind chip : Nat) (s : State) : Nat × State :=
  let k := (unit * 16 + kind) * 65536 + chip
  let v := mgetD s.tagSeq k 0
  (v, { s with tagSeq := msetD s.tagSeq k ((v + 1) % 2 ^ 24) 0 })

/-- The numbers from `q` on are no longer among the intervals `l` of 24-bit numbers: `q` itself is taken out. -/
def seqFound (q : Nat) (l : List (Nat × Nat)) : List (Nat × Nat) :=
  l.flatMap fun i =>
    let d := (q + 2 ^ 24 - i.1) % 2 ^ 24
    if d < i.2 then [(i.1, d), ((q + 1) % 2 ^ 24, i.2 - 1 - d)].filter (·.2 != 0) else [i]
/-- What the receiver of tag `t` learns from its SEQ (R32): numbers passed over are lost tags, one seen before is a duplicate, and the
first tag from a unit sets what is expected. -/
def noteSeq (t : Tag) (s : State) : State :=
  let k := (t.unit * 16 + t.kind) * 65536 + t.chip
  let x : SeqRx := mgetD s.seqRx k { next := t.seq }
  let d := (t.seq + 2 ^ 24 - x.next) % 2 ^ 24
  { s with seqRx := mset s.seqRx k <|
      if d < 2 ^ 23 then
        { x with next := (t.seq + 1) % 2 ^ 24, lost := if d = 0 then x.lost else x.lost ++ [(x.next, d)] }
      else if x.lost.any fun i => (t.seq + 2 ^ 24 - i.1) % 2 ^ 24 < i.2 then { x with lost := seqFound t.seq x.lost }
      else { x with dup := x.dup + 1 } }

/-- What a waiting tag competes for (R39): the object's owner for a sync request, the requester for an answer, else its kind. -/
def tagFor (t : Tag) : Nat :=
  if t.kind = 4 then (if 6 ≤ bits t.workId 19 16 && bits t.workId 19 16 ≤ 7 then 512 + bits t.workId 27 20 else 256 + bits t.workId 15 8)
  else t.kind
/-- The place of a tag among those of one ns (R310, R332): the chip's own units in ascending order, the helm after the cores, then the links. -/
def tagRank (x : InTag) : Nat := if x.link = 8 then (tagOf x.tag).unit else 256 + x.link
/-- Of two tags of equal priority, the first has arrived before the second. -/
def before (x y : InTag) : Bool := decide (x.at_ < y.at_) || (x.at_ == y.at_ && decide (tagRank x < tagRank y))
/-- Waiting tag `i` is served before every other that competes with it (R39): by PRIORITY, then by arrival. -/
def served (l : List InTag) (i : Nat) : Bool :=
  match l[i]? with
  | none => false
  | some x =>
    let t := tagOf x.tag
    l.zipIdx.all fun e =>
      let u := tagOf e.1.tag
      e.2 == i || tagFor u != tagFor t || u.prio < t.prio || (u.prio == t.prio && (before x e.1 || (!before e.1 x && decide (i < e.2))))

/-- This chip's id, 0 while none is assigned. -/
def chipId (s : State) : Nat := s.chip.getD 0
/-- The active helm pair's unit code (R29). -/
def helmUnit (s : State) : Nat := 0xF0 + s.helm.active

/-- The helm runs: its boot ROM or firmware, and the active pair has not stopped. -/
def helmUp (s : State) : Bool := s.sys.rom && decide (s.sys.level < 2) && !s.helm.stopped && s.ch.pwr != 2

/-! ### Events (R468, R469) -/

/-- Session `i` has enabled events of `type`, and for a FAULT its class. -/
def wants (x : Sess) (type cls : Nat) : Bool :=
  x.opened && (x.ifv == 0x10 || (bit x.types type && (type != 1 || bit x.classes (cls - 1))))

/-- An event joins the queue of session `i`, or is lost for it (R469). -/
def queueEvent (e : Event) (i : Nat) (s : State) : State :=
  let x := sess s i
  if x.events.length < 2048 then setSess i { x with events := x.events ++ [e] } s
  else errc 0x318 0x32C 2 1 (setSess i { x with lostBefore := true } s)

/-- An event goes to every open session that has enabled it (R469). -/
def sendEvent (type cls : Nat) (body : Bytes) (s : State) : State :=
  (List.range 4).foldl (fun s i => if wants (sess s i) type cls
    then queueEvent { type := type, stamp := now s, body := body } i s else s) s

/-! ### Faults (R505 to R508) -/

/-- The 32 bytes of a fault record (R505). -/
def fltBytes (f : FltRec) : Bytes :=
  le 2 f.code ++ le 1 f.unit ++ le 1 f.flags ++ le 1 f.chclass ++ [0] ++ le 2 f.index ++ le 8 f.stamp ++ le 2 f.chip ++
  le 2 f.version ++ le 4 f.count ++ le 8 f.detail

/-- A record is written into the ring and sent as an event (R506). -/
def writeFault (f : FltRec) (s : State) : State :=
  let x := s.flt
  let full := (x.wr + 1) % 4096 = x.rd
  let s := { s with flt := { x with
    ring := mset x.ring x.wr f, wr := (x.wr + 1) % 4096,
    lap := if x.wr + 1 = 4096 then (x.lap + 1) % 2 ^ 20 else x.lap,
    rd := if full then (x.rd + 1) % 4096 else x.rd } }
  let s := if full then errc 0x328 0x32C 6 1 s else s
  sendEvent 1 (f.code / 256) (fltBytes f) s

/-- The channel of a rate limit: that of R512 where the fault has one, else UNIT and INDEX (R507). -/
def fltChan (f : FltRec) : Nat :=
  if f.chclass = 0xFF then f.unit * 65536 + f.index else 2 ^ 32 + f.chclass * 65536 + f.index

/-- A period of the limit's length opens for the record's code and channel. -/
def openPeriod (f : FltRec) (limit : Nat) (s : State) : State :=
  { s with flt := { s.flt with periods := s.flt.periods ++ [{ code := f.code, chan := fltChan f, ends := now s + limit, limit := limit, last := f }] } }

/-- The period of a code and channel ends (R507): a summary record and a new period where raises are pending. -/
def endPeriod (code chan : Nat) (s : State) : State :=
  match s.flt.periods.find? fun p => p.code == code && p.chan == chan with
  | none => s
  | some p =>
    let s := { s with flt := { s.flt with periods := s.flt.periods.filter fun p => !(p.code == code && p.chan == chan) } }
    if p.pending = 0 then s
    else
      let f := { p.last with flags := setBit p.last.flags 2, stamp := p.first, count := min p.pending 0xFFFFFFFF }
      openPeriod f p.limit (writeFault f s)

/-- A raise (R507, R522): counted, its class marked in PEND, then recorded or added to the open period. -/
def raiseLim (limit : Nat) (f : FltRec) (s : State) : State :=
  let c := f.code / 256 - 1
  let f := { f with stamp := now s, chip := chipId s, flags := if s.chip.isSome then setBit f.flags 3 else f.flags }
  let s := errc (baseFlt + 0x40 + 4 * c) (baseFlt + 0x60) c 1 s
  let s := { s with flt := { s.flt with pend := setBit s.flt.pend c } }
  let k := fltChan f
  let s := match s.flt.periods.find? fun p => p.code == f.code && p.chan == k with
    | some p => if p.ends ≤ now s then endPeriod f.code k s else s
    | none => s
  match s.flt.periods.find? fun p => p.code == f.code && p.chan == k with
  | some _ =>
    { s with flt := { s.flt with periods := s.flt.periods.map fun p =>
        if p.code == f.code && p.chan == k then
          { p with pending := p.pending + 1, first := if p.pending = 0 then now s else p.first, last := f }
        else p } }
  | none => openPeriod f limit (writeFault f s)

/-- A raise at the common limit of one record per millisecond (R507). -/
def raiseF (f : FltRec) (s : State) : State := raiseLim 1000000 f s
/-- A raise whose chapter limits it to once per second. -/
def raise1s (f : FltRec) (s : State) : State := raiseLim 1000000000 f s
/-- The version a fault record names where no work is involved (R505). -/
def newestNum (s : State) : Nat := s.ver.newest.num

/-- Key of a channel's history (R512): class, INDEX and, for arrays, the cell. -/
def histKey (cls idx cell : Nat) : Nat := (cls * 65536 + idx) * 8192 + cell

/-- A counted event on a channel (R512): whether it retires the channel, and the state with its stamp in the history. -/
def channelEvent (cls idx cell : Nat) (s : State) : Bool × State :=
  let (th, win) := threshOf s cls
  let k := histKey cls idx cell
  let h := mgetD s.flt.hist k []
  let recent := h.take (th - 1)
  let retire := recent.length == th - 1 && recent.all fun t => now s ≤ t + win * 1000000
  if retire then (true, s)
  else (false, { s with flt := { s.flt with hist := mset s.flt.hist k ((now s :: h).take (th - 1)) } })

/-! ### Utilisation counters and logbooks (R525 to R531) -/

/-- Where the model keeps the utilisation counters of physical core `p`, which are no registers. -/
def utilKey (p : Nat) : Nat := 0x1000000 + 0x400 * p
/-- The utilisation counter at offset `o` of the record of R525 counts. -/
def util (p o n : Nat) (s : State) : State := perf (utilKey p + o) n s

/-- The 32 bytes of a logbook record (R527). -/
def logBytes (type unit flags seq t256 : Nat) (body : Bytes) : Bytes :=
  le 1 type ++ le 1 unit ++ le 1 flags ++ le 1 t256 ++ le 4 seq ++ le 8 (t256 / 256) ++ padTo 16 body
/-- A record of the instant `t256`, in 1/256 ns, is made in logbook `k` where LOG_CTL enables its type, or dropped for want of room
(R527, R531). -/
def logRecAt (k type unit flags t256 : Nat) (body : Bytes) (s : State) : State :=
  let x := mgetD s.logs k {}
  if !bit x.types type then s
  else
    let die := 0x80 ≤ k
    let p := physOf s k
    let y := sess s x.sess
    if (if die then 65536 else 8192) ≤ x.buf.length || (x.brixvia && !(y.opened && y.gen == x.gen)) then
      let s := { s with logs := mset s.logs k { x with seq := (x.seq + 1) % 2 ^ 32, lostBefore := true } }
      if die then errc (baseObs + 0x10510) (baseObs + 0x10520) 0 1 s else errc (utilKey p + 0x248) (utilKey p + 0x24C) 0 1 s
    else
      let r := logBytes type unit (flags + b2n x.lostBefore) x.seq t256 body
      let s := { s with logs := mset s.logs k { x with seq := (x.seq + 1) % 2 ^ 32, lostBefore := false, buf := x.buf ++ [r] } }
      if die then perf (baseObs + 0x10500) 1 s else util p 0x240 1 s
/-- A record of this instant. -/
def logRec (k type unit flags : Nat) (body : Bytes) (s : State) : State := logRecAt k type unit flags (now256 s) body s
/-- A record in the logbook of physical core `p`. -/
def coreLog (p type : Nat) (body : Bytes) (s : State) : State :=
  match logOf s p with
  | some l => logRec l type p 0 body s
  | none => s

/-! ### The damper's withheld release (R551) -/

/-- Steps of withheld release at which every release is withheld. -/
def fullHold : Nat := max 1 Config.holdSteps

/-! ### Open values -/

/-- The next number of the model's counter of open values. -/
def draw (s : State) : Nat × State := (s.free, { s with free := s.free + 1 })

end Sys2Proof.Machine
end

