-- ==== Sys2Proof/Machine/Links.lean ====
section
/-! DEFINITION. Sending on Weltix links (chapter 14): frames, routing, virtual channels and flits, and the tags that units of
this chip send to one another. -/

namespace Sys2Proof.Machine

open Sys2Proof

/-- Base of the registers of link `n` (R429). -/
def clLink (n : Nat) : Nat := baseCl + 0x100 * (n + 1)
/-- The link error counter `k` places after CL_FEC_UNCORR (R431). -/
def clErr (n k c : Nat) (s : State) : State := errc (clLink n + 0x38 + 4 * k) (clLink n + 0x54) k c s

/-! ### Frames (R401) -/

/-- A frame in table mode. -/
def tableFrame (dest : Nat) (tag body : Bytes) : Bytes :=
  be 2 dest ++ zeros 8 ++ be 2 body.length ++ tag ++ body
/-- A frame with routing bytes `path` as given (bytes 0 to 9). -/
def pathFrame (path tag body : Bytes) : Bytes := padTo 10 path ++ be 2 body.length ++ tag ++ body
/-- KIND of a frame's tag, and its PRIORITY. -/
def frameKind (f : Bytes) : Nat := u8 f 15
def framePrio (f : Bytes) : Nat := u8 f 28 % 8
/-- Virtual channel of a kind (R402). -/
def vcOf (kind : Nat) : Nat := if kind == 2 || kind == 3 then 1 else if kind == 6 then 2 else 0
/-- A frame as it crosses a Weltix v1 link: without bytes 10 and 11 of its tag (R43, R401). -/
def v1Frame (f : Bytes) : Bytes := f.take 22 ++ f.drop 24

/-- The 24 bytes of a tag as a frame on a link carries it, v1 without its bytes 10 and 11. -/
def wireTag (v1 : Bool) (f : Bytes) : Bytes := if v1 then sub f 12 10 ++ zeros 2 ++ sub f 22 12 else sub f 12 24

/-- LINKMARK in the logbook of link `n`'s I/O die (R528, R534), for a marked frame with tag `t`: direction, flags and stamp. -/
def linkMark (n dir flags t256 : Nat) (t : Tag) (s : State) : State :=
  let k := 0x80 + n / 4
  let m := (mgetD s.logs k {}).mark
  if m = 0 || t.kind < 2 || 4 < t.kind || t.seq % 2 ^ m ≠ 0 then s
  else logRecAt k 9 0xFE flags t256
    (le 1 n ++ le 1 dir ++ le 1 t.kind ++ le 1 t.unit ++ le 2 t.chip ++ zeros 2 ++ le 4 t.seq ++ le 4 t.workId) s

/-- The link carries frames (R406, R416). -/
def linkUp (s : State) (n : Nat) : Bool := n < 8 && (link s n).st == 5 && !(link s n).miswired
/-- The routing-table entry of chip `d` (R414). -/
def routeEntry (s : State) (d : Nat) : Nat := mgetD s.cl.route d 0xFF
/-- The link that a frame for chip `d` takes now (R416). -/
def routeTo (s : State) (d : Nat) : Option Nat :=
  let e := routeEntry s d
  if linkUp s (e % 16) then some (e % 16) else if linkUp s (e / 16) then some (e / 16) else none
/-- The route to chip `d` is lost for this chip (R418). -/
def routeLost (s : State) (d : Nat) : Bool :=
  (routeTo s d).isNone || (match mget s.cl.unreach d with | some t => decide (now s < t) | none => false)

/-- Agreement state of link `n` (R446): UNKNOWN where the link is down or the exchange of an instant has not come 1 ms after it. -/
def linkAgree (s : State) (n : Nat) : Nat :=
  let k := now s / 2 ^ 30
  let need := if 1000000 ≤ now s % 2 ^ 30 then k else k - 1
  match linkUp s n, mget s.ver.exchRx n with
  | true, some r => if r < need then 0 else mgetD s.ver.link n 0
  | _, _ => 0

/-! ### Flits (R398, R400, R404, R409, R410) -/

/-- The bytes of a data flit: sequence, acknowledgement, then bytes 4 to 59, and the check. -/
def flitBytes (seq ack : Nat) (rest : Bytes) : Bytes :=
  let b := be 2 seq ++ be 2 ack ++ padTo 56 rest
  b ++ be 4 (crc32c b)

/-- The virtual channel whose flit leaves next (R400): channel 0 first, then 1 and 2 in turn. -/
def nextVc (x : Lnk) : Option Nat :=
  let can := fun v : Nat => 0 < x.cred.getD v 0 && ((mget x.part v).isSome || (x.st == 5 && !(mgetD x.queue v []).isEmpty))
  if can 0 then some 0
  else
    let a := if x.turn = 1 then 2 else 1
    if can a then some a else if can (3 - a) then some (3 - a) else none

/-- One data flit leaves link `n`, where one may. -/
def sendFlit (n : Nat) (s : State) : State :=
  let x := link s n
  if !((x.st == 5 || x.st == 6) && !x.miswired && s.hv.st < 2 && x.replay.length < 12800) then s
  else match nextVc x with
    | none => s
    | some v =>
      let start := (mget x.part v).isNone
      let (cur, q) := match mget x.part v, mgetD x.queue v [] with
        | some f, q => (f, q)
        | none, f :: q => (if x.ver = 1 then v1Frame f else f, q)
        | none, [] => ([], [])
      let last := cur.length ≤ 54
      let pos := if start then (if last then 3 else 0) else (if last then 2 else 1)
      let rest := [BitVec.ofNat 8 (pos * 64 + v * 16), BitVec.ofNat 8 (min cur.length 54)] ++ padTo 54 (cur.take 54)
      let x := { x with
        part := if last then mdel x.part v else mset x.part v (cur.drop 54),
        queue := mset x.queue v q,
        turn := if v = 0 then x.turn else v,
        cred := x.cred.set v (x.cred.getD v 0 - 1),
        replay := x.replay ++ [(v, rest)],
        ackT := if x.replay.isEmpty then now s else x.ackT,
        sentT := if x.replay.isEmpty then now s else x.sentT,
        tx := (x.tx + 1) % 65536 }
      let s := perf (clLink n + 0x20) 1 (emit (.dataFlit n v ((x.tx + 65535) % 65536) (flitBytes ((x.tx + 65535) % 65536) x.rx rest))
        (setLink n x s))
      if start then linkMark n 0 0 (now256 s) (tagOf (wireTag (x.ver == 1) cur)) s else s

/-- Data flits leave link `n` while they may, at most `fuel` of them. -/
def pump (fuel n : Nat) (s : State) : State :=
  match fuel with
  | 0 => s
  | fuel + 1 =>
    let s' := sendFlit n s
    if (link s' n).replay.length = (link s n).replay.length then s' else pump fuel n s'
/-- Flits leave link `n` up to what its replay buffer holds. -/
def pumpLink (n : Nat) (s : State) : State := pump 12800 n s

/-- `f` takes its place in a channel's queue: after every frame of its priority or a higher one (R39, R400). -/
def insertFrame (f : Bytes) (q : List Bytes) : List Bytes :=
  match q with
  | [] => [f]
  | g :: r => if framePrio g < framePrio f then f :: g :: r else g :: insertFrame f r

/-- A frame joins the queue of link `n`. -/
def enqueue (n : Nat) (f : Bytes) (s : State) : State :=
  let x := link s n
  let v := vcOf (frameKind f)
  pumpLink n (setLink n { x with queue := mset x.queue v (insertFrame f (mgetD x.queue v [])) } s)

/-! ### Sending a tag (R26, R29, R32) -/

/-- The next tag of this chip from `unit` to chip `dest`, with its SEQ and the version's short bearing. -/
def newTag (unit kind dest wid version deadline prio dl : Nat) (lateOk retry : Bool) (s : State) : Tag × State :=
  let (q, s) := nextSeq unit kind dest s
  ({ chip := chipId s, unit := unit, kind := kind, workId := wid, version := version, bearing := shortBearing s version,
     deadline := deadline, prio := prio, dl := dl, lateOk := lateOk, retry := retry, seq := q }, s)

/-- A frame for chip `dest` leaves by the table, or is discarded for want of a route and counted; the helm's UNREACH goes
to the frame's origin, at most once per millisecond per destination (R416, R417). DESIGN CHOICE: its WORK_ID is 0, since it carries no
command whose mailbox sequence R31 could mean. -/
def sendRouted (dest : Nat) (f : Bytes) (s : State) : State :=
  match routeTo s dest with
  | some n => enqueue n f s
  | none =>
    let s := errc (baseCl + 0x04) (baseCl + 0x0C) 0 1 s
    let org := leAt f 12 2
    if org = chipId s then s
    else match routeTo s org, mget s.cl.unreachTx dest with
      | none, _ => s
      | some n, t =>
        if !helmUp s || (match t with | some t => decide (now s < t + 1000000) | none => false) then s
        else
          let (tag, s) := newTag (helmUnit s) 5 org 0 (newestNum s) 0xFFFFFFFF 7 0 false false s
          enqueue n (tableFrame org (tagBytes tag) (be 2 dest))
            { s with cl := { s.cl with unreachTx := mset s.cl.unreachTx dest (now s) } }

/-- A tag with its body goes to its chip: to the inbox of this one, or out on a link. Without a chip id nothing leaves (R30). -/
def sendTag (dest : Nat) (tag : Tag) (body : Bytes) (s : State) : State :=
  if dest = chipId s || (s.chip.isNone && dest = 0) then
    noteSeq tag { s with inbox := s.inbox ++ [{ tag := tagBytes tag, body := body, at_ := now s }] }
  else if s.chip.isNone then s
  else sendRouted dest (tableFrame dest (tagBytes tag) body) s

end Sys2Proof.Machine
end

