-- ==== Sys2Proof/Machine/Memory.lean ====
section
/-! DEFINITION. HBM and core store (chapter 12): the address map, poison, repair, retirement and migration, and the events
of the memory controllers. -/

namespace Sys2Proof.Machine

open Sys2Proof

/-! ### Retiring a core (R512 class 7, R516) -/

/-- A core begins its retirement: it is quiesced as for a block reset, and the rest follows when it is idle. A core that
is retired, or is being retired, is not retired twice (R519). -/
def retireCore (p : Nat) (s : State) : State :=
  let b := blk s 0 p
  if bit s.nv.coreRetired p || b.op == some 3 then s
  else startQuiesce 0 p (some 3) b.who s

/-! ### The halves of HBM (R351) -/

/-- The half of a pseudo-channel. -/
def halfOf (pch : Nat) : Nat := pch / 192
/-- Active pseudo-channels of half `h`, those whose re-interleaving waits included, by number within the stack and stack. -/
def activePch (s : State) (h : Nat) : List Nat :=
  ((List.range 32).flatMap fun i => (List.range 6).map fun k => (6 * h + k) * 32 + i).filter fun p =>
    !bit s.nv.pchRetired p || s.mem.queued.contains p
/-- N_h. -/
def activeN (s : State) (h : Nat) : Nat := (activePch s h).length
/-- Bytes of a pseudo-channel: 1.125 GiB (R348). -/
def pchBytes : Nat := 1207959552
/-- B_h (R350). -/
def halfBase (h : Nat) : Nat := h * 0x3600000000
/-- Mapped bytes of half `h`. -/
def halfSize (s : State) (h : Nat) : Nat := activeN s h * pchBytes
/-- The pseudo-channel of offset `a` of a half with the active list `l` (R351). -/
def pchIn (l : List Nat) (a : Nat) : Nat := l.getD (a / 256 % max l.length 1) 0
/-- The pseudo-channel of a mapped HBM address. -/
def pchOf (s : State) (a : Nat) : Nat :=
  let h := a / 0x3600000000
  pchIn (activePch s h) (a - halfBase h)

/-! ### The address map (R350) -/

/-- Where a device address lies: HBM, a core store by physical core and plain offset, table memory, MRAM or the control window. -/
inductive Loc where
  | hbm (a : Nat)
  | cs (p off : Nat)
  | tbl (a : Nat)
  | mram (a : Nat)
  | ctl (off : Nat)
deriving DecidableEq, Repr

/-- The plain offset of column-view offset `o` for granule 32 × `gw` (R364), or none where it is not mapped. -/
def colPlain (gw o : Nat) : Option Nat :=
  if gw = 0 then (if o < 2 ^ 26 then some o else none)
  else
    let g := 32 * gw
    if o < 2 ^ 26 / (64 * g) * (64 * g) then
      let u := o % (64 * g)
      let bb := o / (64 * g) * g + u % g
      some (bb / 32 * 2048 + u / g * 32 + bb % 32)
    else none
/-- The column-view offset that names plain offset `o`. -/
def plainCol (gw o : Nat) : Nat :=
  if gw = 0 then o
  else
    let g := 32 * gw
    let bb := o / 2048 * 32 + o % 32
    bb / g * (64 * g) + o / 32 % 64 * g + bb % g

/-- The location of a device address; none outside every range and in an unmapped part of one. -/
def locOf (s : State) (a : Nat) : Option Loc :=
  if a < 0x6C00000000 then
    let h := a / 0x3600000000
    if a - halfBase h < halfSize s h then some (.hbm a) else none
  else if 0x100000000000 ≤ a && a < 0x100000000000 + 2 ^ 33 then
    let c := (a - 0x100000000000) / 2 ^ 26
    if c < s.nv.cores then some (.cs (physOf s c) (a % 2 ^ 26)) else none
  else if 0x180000000000 ≤ a && a < 0x180000000000 + 2 ^ 39 then
    let gw := (a - 0x180000000000) / 2 ^ 33
    let c := a / 2 ^ 26 % 128
    if gw = 0 || s.nv.cores ≤ c then none
    else (colPlain gw (a % 2 ^ 26)).map fun o => .cs (physOf s c) o
  else if 0x200000000000 ≤ a && a < 0x200020000000 then some (.tbl (a - 0x200000000000))
  else if 0x300000000000 ≤ a && a < 0x300001000000 then some (.mram (a - 0x300000000000))
  else if 0x3F0000000000 ≤ a && a < 0x3F0000010000 then some (.ctl (a - 0x3F0000000000))
  else none

/-- Every byte of `n` from `a` lies in mapped HBM. -/
def inHbm (s : State) (a n : Nat) : Bool :=
  let b := halfBase 1
  if a < b then decide (a + n ≤ halfSize s 0) || (halfSize s 0 == b && decide (a + n ≤ b + halfSize s 1))
  else decide (a + n ≤ b + halfSize s 1)
/-- Every byte of `n` from `a` lies in core stores of active logical cores: of the plain view, or of one core's column view. -/
def inCs (s : State) (a n : Nat) : Bool :=
  (decide (0x100000000000 ≤ a) && decide (a + n ≤ 0x100000000000 + s.nv.cores * 2 ^ 26))
  || (decide (0x180000000000 ≤ a) && decide (a < 0x200000000000) && (locOf s a).isSome
      && decide (a % 2 ^ 26 + n ≤ 2 ^ 26) && (n == 0 || (locOf s (a + n - 1)).isSome))
/-- Every byte of `n` from `a` lies in HBM, or every one in core store. -/
def inMem (s : State) (a n : Nat) : Bool := inHbm s a n || inCs s a n

/-! ### Table memory (R131) -/

def tplModel (t : Bytes) : Nat := u8 t 3
/-- STATE of a context (R300): BLOCKED while its MODEL does not exist in the newest active version. -/
def ctxState (s : State) (i : Nat) : Nat :=
  let x := ctxOf s i
  if x.st = 0 then 0
  else if (mget s.ver.newest.objs.models (tplModel (scTpl s.ver.newest.objs i))).isNone then 3 else x.st

/-- The state half of a context's descriptor (R300). -/
def ctxBytes (s : State) (i : Nat) : Bytes :=
  let x := ctxOf s i
  le 1 (ctxState s i) ++ le 1 x.inflight ++ le 2 x.lastStatus ++ le 4 x.wr ++ le 4 x.oldest ++ le 4 x.since ++ le 8 x.lastDispatch ++
  le 4 x.kvTokens ++ le 4 x.jobs ++ le 4 x.late ++ le 4 x.dropped ++ le 4 x.skipped ++ le 4 x.failed ++ le 8 x.lastResult ++
  le 1 x.ovf ++ zeros 7

/-- The 16 bytes of a learning entry. -/
def lentBytes (e : LEnt) : Bytes :=
  be 6 e.mac ++ le 2 (e.vlan + 4096 * b2n e.valid + 8192 * b2n e.static + 16384 * b2n e.shV) ++ le 2 e.port ++ le 2 e.stream ++
  le 2 e.lastSec ++ zeros 2

/-- The byte of the fault ring at offset `o` of the ring (R506). -/
def ringByte (s : State) (o : Nat) : Byte :=
  match mget s.flt.ring (o / 32) with
  | some f => (fltBytes f).getD (o % 32) 0
  | none => 0

/-- The byte at offset `o` of table memory: the learning table's entries, the stream contexts' descriptors (templates in both dies, the state
in the home die's, R298) and die 0's fault ring; `n` numbers the draw of a byte whose place or content the spec does not state. -/
def tblByte (s : State) (n o : Nat) : Byte :=
  let d := o / 0x10000000
  let r := o % 0x10000000
  let i := (r - 0x0F000000) / 128
  if 0x0E000000 ≤ r && r < 0x0F000000 then (lentBytes (mgetD s.learn ((r - 0x0E000000) / 16) {})).getD (r % 16) 0
  else if 0x0F000000 ≤ r && r < 0x0F800000 && r % 128 < 64 then (scTpl s.ver.newest.objs i).getD (r % 128) 0
  else if 0x0F000000 ≤ r && r < 0x0F800000 && u8 (scTpl s.ver.newest.objs i) 5 % 2 == d then (ctxBytes s i).getD (r % 128 - 64) 0
  else if 0x0FFE0000 ≤ o && d == 0 then ringByte s (o - 0x0FFE0000)
  else Config.tableByte n (0x200000000000 + o)

/-- The byte at a device address; `n` numbers the draw of a byte that the spec leaves open. -/
def devByte (s : State) (n a : Nat) : Byte :=
  match locOf s a with
  | some (.hbm a) => Mem.read s.mem.hbm a
  | some (.cs p o) => Mem.read s.mem.cs (p * 2 ^ 26 + o)
  | some (.tbl o) => tblByte s n o
  | some (.mram _) => Config.tableByte n a
  | _ => 0
/-- `n` bytes from device address `a`. -/
def devBytes (s : State) (a n : Nat) : Bytes := (List.range n).map fun i => devByte s s.free (a + i)

/-- The byte at a device address lies in a poisoned line or word (R355, R367). -/
def devPoison (s : State) (a : Nat) : Bool :=
  match locOf s a with
  | some (.hbm a) => s.mem.poison.contains (a / 64)
  | some (.cs p o) => s.mem.csPoison.contains ((p * 2 ^ 26 + o) / 32)
  | _ => false
/-- The first poisoned address of `n` bytes from `a`. -/
def firstPoison (s : State) (a n : Nat) : Option Nat := ((List.range n).map (a + ·)).find? (devPoison s)

/-- Stack `i` takes no access: its controller quiesces or is in block reset, or a core reset holds it in self-refresh (R349, R480, R487). -/
def stackHeld (s : State) (i : Nat) : Bool := bit s.mem.selfRef i || (blk s 4 i).st == 1 || (blk s 4 i).st == 4
/-- An access to `n` bytes from `a` is held in the network: some of them lie in a stack that takes none. -/
def hbmHeld (s : State) (a n : Nat) : Bool :=
  (List.range 12).any (stackHeld s) && inHbm s a n &&
    (List.range ((a + n + 255) / 256 - a / 256)).any fun k => stackHeld s (pchOf s (256 * (a / 256 + k)) / 32)

/-! ### Writes (R355, R367, R369) -/

/-- `b` written to HBM from `a`: whole lines lose their poison. -/
def hbmWrite (a : Nat) (b : Bytes) (s : State) : State :=
  { s with mem := { s.mem with
    hbm := Mem.store s.mem.hbm a b,
    poison := s.mem.poison.filter fun l => !(a ≤ 64 * l && 64 * l + 64 ≤ a + b.length) } }

/-- Whether the word with plain offset `o` has all its 32 bytes in `n` bytes from offset `v` of the view `gw`, and whether any. -/
def wordIn (gw v n o : Nat) : Bool × Bool :=
  let c := plainCol gw o
  (v ≤ c && c + 32 ≤ v + n, v < c + 32 && c < v + n)

/-- `b` written to core store `p` from offset `v` of the view with granule 32 × `gw`: whole words lose their poison. -/
def csWriteView (p gw v : Nat) (b : Bytes) (s : State) : State :=
  let base := p * 2 ^ 26
  let at_ := fun w : Nat => 32 * w - base
  let mine := fun w : Nat => base ≤ 32 * w && 32 * w < base + 2 ^ 26
  { s with mem := { s.mem with
    cs := (List.range b.length).foldl (fun m i => match colPlain gw (v + i) with
      | some o => Mem.write m (base + o) (b.getD i 0)
      | none => m) s.mem.cs,
    csPoison := s.mem.csPoison.filter fun w => !(mine w && (wordIn gw v b.length (at_ w)).1),
    csCorr := s.mem.csCorr.filter fun w => !(mine w && (wordIn gw v b.length (at_ w)).2) } }
/-- `b` written to core store `p` from plain offset `o`. -/
def csWrite (p o : Nat) (b : Bytes) (s : State) : State := csWriteView p 0 o b s

/-- `b` written to device memory from `a`, where the whole of it lies in HBM, in one core's column view, or in the plain view, there in the
core stores of at most two logical cores. -/
def devWrite (a : Nat) (b : Bytes) (s : State) : State :=
  match locOf s a with
  | some (.hbm _) => hbmWrite a b s
  | some (.cs p _) =>
    if a < 0x180000000000 then
      let k := 2 ^ 26 - a % 2 ^ 26
      let s := csWriteView p 0 (a % 2 ^ 26) (b.take k) s
      match b.drop k, locOf s (a + k) with
      | x :: r, some (.cs q _) => csWriteView q 0 0 (x :: r) s
      | _, _ => s
    else csWriteView p ((a - 0x180000000000) / 2 ^ 33) (a % 2 ^ 26) b s
  | _ => s

/-! ### A core's own core store, by local address (R365) -/

/-- The plain offset of local address `a`; none where it leaves the core store. -/
def localOff (a : Nat) : Option Nat := if a < 2 ^ 32 then colPlain (a / 2 ^ 26) (a % 2 ^ 26) else none
/-- `n` bytes from local address `a` lie in the core store. -/
def localIn (a n : Nat) : Bool :=
  n = 0 || (a < 2 ^ 32 && a % 2 ^ 26 + n ≤ 2 ^ 26 && (localOff a).isSome && (localOff (a + n - 1)).isSome)
/-- The byte at local address `a` of core `p`. -/
def localByte (s : State) (p a : Nat) : Byte :=
  match localOff a with
  | some o => Mem.read s.mem.cs (p * 2 ^ 26 + o)
  | none => 0
/-- `n` bytes from local address `a` of core `p`. -/
def localBytes (s : State) (p a n : Nat) : Bytes := (List.range n).map fun i => localByte s p (a + i)
/-- The little-endian field of `n` bytes at local address `a`. -/
def localLe (s : State) (p a n : Nat) : Nat := leNat (localBytes s p a n)
/-- A byte of `n` from local address `a` of core `p` is poisoned. -/
def localPoison (s : State) (p a n : Nat) : Bool :=
  !s.mem.csPoison.isEmpty && (List.range n).any fun i => match localOff (a + i) with
    | some o => s.mem.csPoison.contains ((p * 2 ^ 26 + o) / 32)
    | none => false
/-- `b` written from local address `a` of core `p`. -/
def localWrite (p a : Nat) (b : Bytes) (s : State) : State := csWriteView p (a / 2 ^ 26) (a % 2 ^ 26) b s

/-- First offset of the job area of a core store (R307). -/
def jobArea : Nat := 0x3FF0000

/-- The place of plain offset `o` in `n` bytes from local address `a`; none where it is not among them. -/
def localIndex (a n o : Nat) : Option Nat :=
  let c := plainCol (a / 2 ^ 26) o
  if a % 2 ^ 26 ≤ c && c < a % 2 ^ 26 + n && localOff (a / 2 ^ 26 * 2 ^ 26 + c) == some o then some (c - a % 2 ^ 26) else none
/-- `n` bytes from local address `a` reach into the job area. -/
def hitsJobArea (a n : Nat) : Bool :=
  n != 0 && (List.range 2048).any fun i => (wordIn (a / 2 ^ 26) (a % 2 ^ 26) n (jobArea + 32 * i)).2

/-! ### Retirement and migration (R359 to R361) -/

/-- The half of `pch` is re-interleaved without it: what lay above the new top is lost, and migration runs. -/
def startMigration (pch : Nat) (s : State) : State :=
  let h := halfOf pch
  let old := halfSize s h
  let s := { s with mem := { s.mem with queued := s.mem.queued.filter (· != pch), migrate := mset s.mem.migrate h pch } }
  let top := halfBase h + halfSize s h
  { s with mem := { s.mem with
    hbm := Mem.clear s.mem.hbm top (old - halfSize s h),
    poison := s.mem.poison.filter fun l => 64 * l < top || halfBase h + old ≤ 64 * l } }

/-- A pseudo-channel is retired (R359): marked in MRAM, recorded, and its half migrates now or after the migration that runs. -/
def retirePch (pch : Nat) (s : State) : State :=
  if bit s.nv.pchRetired pch then s
  else
    let s := { s with nv := { s.nv with pchRetired := setBit s.nv.pchRetired pch },
                      mem := { s.mem with queued := s.mem.queued ++ [pch] } }
    let s := raiseF { code := 0x0307, unit := helmUnit s, flags := 2, chclass := 2, index := pch, version := newestNum s,
                      detail := pch } s
    if (mget s.mem.migrate (halfOf pch)).isSome then s else startMigration pch s

/-- The migration of half `h` ends (R360): lines of the retired pseudo-channel that could not be read, named by `lost`
as address divided by 64, are poisoned, and a retirement that waits begins its own. -/
def execMigrationComplete (h : Nat) (lost : List Nat) (s : State) : Host.Outcome State Fault Refusal :=
  .next <| if down s then s else match mget s.mem.migrate h with
    | none => s
    | some pch =>
      let act := activePch s h
      let old := ((List.range 32).flatMap fun i => (List.range 6).map fun k => (6 * h + k) * 32 + i).filter fun p =>
        act.contains p || p == pch
      let bad := lost.filter fun l => halfBase h ≤ 64 * l && 64 * l < halfBase h + halfSize s h
        && pchIn old (64 * l - halfBase h) == pch
      let s := { s with mem := { s.mem with migrate := mdel s.mem.migrate h, poison := bad.foldl sadd s.mem.poison } }
      match s.mem.queued.find? fun p => halfOf p == h with
      | some p => startMigration p s
      | none => s

/-! ### HBM reads and repair (R354 to R358) -/

/-- Error counter `k` places after HB_CE of a stack (R373). -/
def hbErr (st k : Nat) (s : State) : State :=
  errc (baseHb + 0x108 + 0x40 * st + 4 * k) (baseHb + 0x128 + 0x40 * st) k 1 s
def hbFault (code pch flags detail : Nat) (s : State) : State :=
  raiseF { code := code, unit := helmUnit s, flags := flags, chclass := 2, index := pch, version := newestNum s,
           detail := detail } s

/-- A poisoned line that a requester read is counted (R354); `a` is its first poisoned address. -/
def poisonRead (a : Nat) (s : State) : State :=
  match locOf s a with
  | some (.hbm a) => hbErr (pchOf s a / 32) 3 s
  | _ => s

/-- What the code makes of a codeword with errors in the symbols `e` (R353): 0 clean; 1 corrected, one symbol; 2 detected, two symbols and
more; 3 a pattern of three or more that forms another codeword's correctable one, as `wild` says. -/
def rsRead (e : List Nat) (wild : Bool) : Nat :=
  let n := (e.foldl sadd []).length
  if n ≤ 1 then n else if 3 ≤ n && wild then 3 else 2
/-- The line at `a` as the controller writes it back: its own data, or what it mistook for them. -/
def writeBack (a r : Nat) (s : State) : State :=
  if r = 3 then
    let (n, s) := draw s
    { s with mem := { s.mem with hbm := Mem.store s.mem.hbm (a / 64 * 64) (padTo 64 ((Config.miscorrected n).take 64)) } }
  else s

/-- A read of the line at `a` (R353, R354): `e1` names the symbols in error, `e2` those of the re-read, and `w1`, `w2` whether a pattern of
three or more passes for a correctable one. `row` is the line's row in its pseudo-channel, whose place the spec leaves to the part. -/
def execHbmReread (a row : Nat) (e : Reread) (s : State) : Host.Outcome State Fault Refusal :=
  .next <| if down s then s else
    if !inHbm s a 1 then s
    else
      let pch := pchOf s a
      let st := pch / 32
      let r1 := rsRead e.first e.wild1
      let r2 := rsRead e.second e.wild2
      if s.mem.poison.contains (a / 64) then hbErr st 3 s
      else if r1 = 0 then s
      else if r1 ≠ 2 then
        let s := writeBack a r1 s
        let s := hbFault 0x0101 pch 0 (a / 64) (hbErr st 0 s)
        let k := pch * 2 ^ 32 + row
        let win := max s.mem.rowWin 1 * 3600000000000
        let h := (now s :: mgetD s.mem.rowHist k []).filter fun t => now s ≤ t + win
        if max s.mem.rowCe 1 ≤ h.length then
          { s with mem := { s.mem with
            rowHist := mdel s.mem.rowHist k,
            repairs := if s.mem.repairs.contains (pch, row) then s.mem.repairs else s.mem.repairs ++ [(pch, row)] } }
        else { s with mem := { s.mem with rowHist := mset s.mem.rowHist k h } }
      else if r2 ≠ 2 then
        let s := hbErr st 1 (hbErr st 0 (writeBack a r2 s))
        let (ret, s) := if bit s.nv.pchRetired pch then (false, s) else channelEvent 2 pch 0 s
        let s := hbFault 0x0101 pch (if ret then 2 else 0) (a / 64 + 2 ^ 63) s
        if ret then retirePch pch s else s
      else
        let s := hbErr st 2 s
        let s := { s with mem := { s.mem with
          poison := sadd s.mem.poison (a / 64),
          repairs := if s.mem.repairs.contains (pch, row) then s.mem.repairs else s.mem.repairs ++ [(pch, row)] } }
        retirePch pch (hbFault 0x0306 pch 2 (a / 64) s)

/-- A requested repair of a row is made (R356), its unreadable lines held as poison, or finds no spare row (R358). -/
def execHbmRowRepair (pch row : Nat) (lost : List Nat) (spare : Bool) (s : State) : Host.Outcome State Fault Refusal :=
  .next <| if down s then s else
    if !s.mem.repairs.contains (pch, row) then s
    else
      let s := { s with mem := { s.mem with repairs := s.mem.repairs.filter (· != (pch, row)) } }
      if !spare then retirePch pch s
      else
        let bad := lost.filter fun l => inHbm s (64 * l) 64 && pchOf s (64 * l) == pch
        hbErr (pch / 32) 4 { s with
          mem := { s.mem with poison := bad.foldl sadd s.mem.poison },
          nv := { s.nv with repaired := (pch, row, false) :: s.nv.repaired } }

/-- The stacks' temperatures, in 1/16 °C and 16 bits signed, are read each millisecond with their on-die ECC reports and the refresh-management
commands issued (R349). -/
def execHbmTempRead (temps odecc rfm : List Nat) (s : State) : Host.Outcome State Fault Refusal :=
  .next <| if down s then s else (List.range 12).foldl (fun s i =>
    let t := temps.getD i 0
    let s := { s with mem := { s.mem with
      temps := mset s.mem.temps i t,
      fastRef := if 85 * 16 < toSigned 16 t then setBit s.mem.fastRef i else clrBit s.mem.fastRef i } }
    let s := errc (baseHb + 0x11C + 0x40 * i) (baseHb + 0x128 + 0x40 * i) 5 (odecc.getD i 0) s
    perf (baseHb + 0x120 + 0x40 * i) (rfm.getD i 0) s) s

/-! ### Core store: errors and spare banks (R367, R368) -/

def csFault (code p bank flags off version : Nat) (s : State) : State :=
  raiseF { code := code, unit := p, flags := flags, chclass := 3, index := 64 * p + bank, version := version, detail := off } s

/-- A bank of core `p` needs a spare (R368): its copy begins, or a third bank retires the core. -/
def spareBank (p bank : Nat) (s : State) : State :=
  let q := mgetD s.mem.copying p []
  if (mgetD s.nv.spared p []).length + q.length < 2 then
    { s with mem := { s.mem with copying := mset s.mem.copying p (q ++ [bank]) } }
  else retireCore p s

/-- A counted event of the bank's channel (R512). -/
def bankEvent (p bank : Nat) (s : State) : Bool × State :=
  if (mgetD s.mem.copying p []).contains bank then (false, s) else channelEvent 3 (64 * p + bank) 0 s

/-- The patrol scrub, or any reader, reads the core-store word at plain offset `off` of physical core `p` (R367).
`outcome` 0: clean; 1: corrected; otherwise uncorrectable. -/
def execPatrolScrub (p off outcome : Nat) (s : State) : Host.Outcome State Fault Refusal :=
  .next <| if frozen s || s.ch.pwr == 1 then s else
    if 132 ≤ p || 2 ^ 26 ≤ off || outcome = 0 then s
    else
      let w := (p * 2 ^ 26 + off) / 32
      let bank := off / 32 % 64
      let o := off / 32 * 32
      if s.mem.csPoison.contains w then s
      else if outcome = 1 then
        let s := errc (baseHb + 0x800 + 0x20 * p) (baseHb + 0x80C + 0x20 * p) 0 1 s
        let (ret, s) := if s.mem.csCorr.contains w then bankEvent p bank s else (false, s)
        let s := { s with mem := { s.mem with csCorr := sadd s.mem.csCorr w } }
        let s := csFault 0x0102 p bank (if ret then 2 else 0) o (newestNum s) s
        if ret then spareBank p bank s else s
      else
        let s := errc (baseHb + 0x804 + 0x20 * p) (baseHb + 0x80C + 0x20 * p) 1 1 s
        let (ret, s) := bankEvent p bank s
        let s := { s with mem := { s.mem with csPoison := sadd s.mem.csPoison w } }
        let s := csFault 0x0206 p bank (if ret then 2 else 0) o (newestNum s) s
        if ret then spareBank p bank s else s

/-- The copy of a failing bank to its spare ends (R368); `lost` names the words, by plain offset divided by 32, that could
not be read and are carried as poison. -/
def execBankSpared (p : Nat) (lost : List Nat) (s : State) : Host.Outcome State Fault Refusal :=
  .next <| if frozen s || s.ch.pwr == 1 then s else match mgetD s.mem.copying p [] with
    | [] => s
    | b :: r =>
      let bad := (lost.filter fun w => w % 64 == b && w < 2 ^ 21).map fun w => p * 2 ^ 21 + w
      let s := { s with
        mem := { s.mem with copying := msetD s.mem.copying p r [], csPoison := bad.foldl sadd s.mem.csPoison },
        nv := { s.nv with spared := mset s.nv.spared p (mgetD s.nv.spared p [] ++ [b]) } }
      csFault 0x0305 p b 2 b (newestNum s) s

/-- The helm rewrites an uncorrectable core-store word from the container that it was loaded from (R367). -/
def execCoreStoreRewrite (p off : Nat) (s : State) : Host.Outcome State Fault Refusal :=
  .next <| if frozen s || s.ch.pwr == 1 then s else
    let o := off / 32 * 32
    match s.mem.csPoison.contains ((p * 2 ^ 26 + o) / 32), (core s p).regions.find? fun r => (wordIn (r.dst / 2 ^ 26) (r.dst % 2 ^ 26) r.len o).2 with
    | true, some r =>
      let at_ := fun i => localIndex r.dst r.len (o + i)
      let b := (List.range 32).map fun i => match at_ i with
        | some k => devByte s 0 (r.src + k)
        | none => Mem.read s.mem.cs (p * 2 ^ 26 + o + i)
      match ((List.range 32).filterMap at_).find? fun k => devPoison s (r.src + k) with
      | some k => poisonRead (r.src + k) s
      | none => csWrite p o b s
    | _, _ => s

end Sys2Proof.Machine
end

