-- ==== Sys2Proof/Machine/Operands.lean ====
section
/-! DEFINITION. Fields and operand forms of control words and engine instructions (R264, R266, R268, R273, R280 to R284), and
which of them are legal at decode (R291). -/

namespace Sys2Proof.Machine

open Sys2Proof

/-! ### Fields -/

/-- Class and opcode of an engine instruction (R266). -/
def eiClass (w : Nat) : Nat := bits w 127 124
def eiOp (w : Nat) : Nat := bits w 123 116
/-- The queue of an engine instruction (R267). -/
def eiQueue (w : Nat) : Nat :=
  match eiClass w with
  | 0 => 0
  | 1 => 1
  | 2 => 2 + bits w 111 109
  | 3 => 10 + bits w 111 111
  | 4 => 12
  | 5 => 13
  | 6 => 14
  | _ => bits w 111 108
/-- Depth of a queue (R267). -/
def queueDepth (q : Nat) : Nat := if q ≤ 1 || q = 12 then 16 else if q ≤ 11 || q = 13 then 32 else 8

/-- Places of the patchable field `f` of an engine instruction (R268). -/
def patchField (w f : Nat) : Option (Nat × Nat) :=
  match eiClass w, eiOp w, f with
  | 0, 1, 0 => some (79, 59)
  | 0, 1, 1 => some (58, 38)
  | 0, 1, 2 => some (37, 17)
  | 0, 2, 0 => some (58, 38)
  | 0, 2, 1 => some (71, 59)
  | 0, 2, 2 => some (87, 72)
  | 0, 3, 0 => some (105, 85)
  | 1, 1, 0 => some (66, 46)
  | 1, 1, 1 => some (45, 25)
  | 1, 1, 2 => some (110, 98)
  | 1, 1, 3 => some (97, 79)
  | 2, op, 0 => if op = 1 || op = 2 then some (75, 55) else if op = 8 || op = 9 then some (65, 45) else none
  | 2, op, 1 => if op = 8 || op = 9 then some (44, 34) else none
  | 2, _, 2 => some (108, 103)
  | 2, _, 3 => some (102, 97)
  | 3, op, 0 => if 3 ≤ op && op ≤ 5 then some (95, 64) else none
  | 4, _, 0 => some (111, 91)
  | 5, _, 0 => some (79, 48)
  | 5, _, 1 => some (111, 104)
  | 6, 1, 0 => some (111, 91)
  | 7, 3, 0 => some (75, 55)
  | 7, 3, 1 => some (107, 76)
  | _, _, _ => none

/-- `w` with field [hi:lo] replaced by `v`. -/
def putBits (w hi lo v : Nat) : Nat := w - bits w hi lo * 2 ^ lo + v % 2 ^ (hi + 1 - lo) * 2 ^ lo

/-- A patch of 7 bits applied to an instruction with the K registers `k` (R268); none where FIELD is reserved. -/
def patch (w pt : Nat) (k : Nat → Nat) : Option Nat :=
  if !bit pt 0 then some w
  else match patchField w (bits pt 2 1) with
    | some (hi, lo) => some (putBits w hi lo (bits w hi lo + k (bits pt 6 3)))
    | none => none

/-! ### Array instructions (R192, R199, R212, R225) -/

/-- Bytes of a line of `k` elements of `b` bits: in core store, whole 32-byte units (R192). -/
def lineBytes (k b : Nat) : Nat := (k * b + 255) / 256 * 32
/-- Row, column and step limits, problems and phases of a mode (R201). -/
def modeM (m : Nat) : Nat := [64, 32, 16, 8].getD m 0
def modeN (m : Nat) : Nat := [64, 32, 16, 512].getD m 0
def modeK (m : Nat) : Nat := [4096, 2048, 1024, 32768].getD m 0
def modeP (m : Nat) : Nat := [1, 4, 16, 1].getD m 0

def alK (w : Nat) : Nat := bits w 102 84
def alLines (w : Nat) : Nat := bits w 110 103 + 1
def alFmt (w : Nat) : Nat := bits w 83 81
def alScaled (w : Nat) : Bool := bit w 80
def legalAload (w : Nat) : Bool :=
  let k := alK w
  let b := fmtBits (alFmt w)
  bits w 115 112 == 0 && bits w 16 0 == 0 && decide (alFmt w ≤ 4) && decide (1 ≤ k) && decide (alLines w * k ≤ 262144)
  && (alScaled w || alFmt w ≤ 1) && (!alScaled w || k % 32 == 0)
  && decide (bits w 79 59 * 32 + (alLines w - 1) * lineBytes k b + (k * b + 7) / 8 ≤ 2 ^ 26)
  && (!alScaled w || (decide (bits w 58 38 * 32 + (alLines w - 1) * ((k + 1023) / 1024 * 32) + k / 32 ≤ 2 ^ 26)
      && decide (bits w 37 17 * 32 + alLines w ≤ 2 ^ 26)))
where fmtBits (f : Nat) : Nat := [8, 4, 4, 8, 8].getD f 8

def amM (w : Nat) : Nat := bits w 102 97 + 1
def amN (w : Nat) : Nat := bits w 96 88 + 1
def amK (w : Nat) : Nat := bits w 87 72
def amMode (w : Nat) : Nat := bits w 104 103
def legalAmul (thin : Bool) (w : Nat) : Bool :=
  let m := amMode w
  bits w 115 113 == 0 && bits w 37 0 == 0 && bits w 111 108 != 0 && decide (bits w 107 106 ≤ 1) && (m != 3 || thin)
  && decide (amM w ≤ modeM m) && decide (amN w ≤ modeN m) && decide (amK w ≤ modeK m)
  && decide (bits w 58 38 * 32 + 64 ≤ 2 ^ 26)
def legalAdrain (w : Nat) : Bool :=
  bits w 115 112 == 0 && bits w 84 0 == 0 && bits w 111 108 != 0 && decide (bits w 107 106 ≤ 1)
  && decide (bits w 105 85 * 32 + 64 ≤ 2 ^ 26)
def legalMvmul (w : Nat) : Bool :=
  bits w 115 112 == 0 && bits w 24 0 == 0 && decide (bits w 97 79 ≤ 262144)
  && decide (bits w 66 46 * 32 + 32 ≤ 2 ^ 26) && decide (bits w 45 25 * 32 + 64 ≤ 2 ^ 26)

/-! ### Vector instructions (R273, R274, R277) -/

def vCnt (w : Nat) : Nat := bits w 81 76 + 1
def vBf (w : Nat) : Bool := bit w 112
/-- A register and the groups after it lie below 64. -/
def vRegOk (w hi lo : Nat) : Bool := decide (bits w hi lo + bits w 81 76 ≤ 63)
/-- Bytes of one register group in memory: 64 elements, or 128 with BF16. -/
def vGroupBytes (w : Nat) : Nat := if vBf w then 256 else 8 * [8, 4, 4, 8, 8, 16, 16, 32, 16, 32].getD (bits w 38 35) 8
def vqH (w : Nat) : Nat := 32 * (bits w 75 69 + 1)
def legalVec (inRegion : Bool) (w : Nat) : Bool :=
  let vd := vRegOk w 108 103
  let va := vRegOk w 102 97
  let vb := vRegOk w 96 91
  let vc := vRegOk w 90 85
  bits w 115 114 == 0 && match eiOp w with
  | 1 => vd && memOk
  | 2 => va && memOk
  | 3 => decide (bits w 75 72 ≤ 7) && bits w 71 0 == 0 && vd && va && (6 ≤ bits w 75 72 || vb) && (bits w 75 72 != 0 || vc)
  | 4 => decide (bits w 75 73 ≤ 3) && bits w 69 0 == 0 && bits w 81 76 == 0 && !vBf w
  | 5 => bits w 75 0 == 0 && vd && va && vb
  | 6 => bits w 73 0 == 0 && va
  | 7 => decide (bits w 75 73 ≤ 5) && bits w 72 0 == 0 && vd && va
  | 8 => rowOk && va && (!(bit w 33 || bit w 32) || (!inRegion && !vBf w && bits w 68 66 ≤ 2))
  | 9 => rowOk && vd && !bit w 33 && !bit w 32
  | 10 => bits w 43 0 == 0 && vd
  | 11 => bits w 71 0 == 0 && bits w 75 72 != 0
  | _ => false
where
  memOk : Bool := decide (bits w 38 35 ≤ 9) && (!vBf w || bits w 38 35 == 5) && bits w 34 0 == 0
    && decide (bits w 75 55 * 32 + bits w 81 76 * (bits w 54 39 * 32) + vGroupBytes w ≤ 2 ^ 26)
  rowOk : Bool := decide (vqH w ≤ 4096) && decide (bits w 68 66 ≤ 4) && bits w 31 0 == 0
    && vCnt w == (vqH w + 63) / 64 && decide (bits w 65 45 * 32 + 32 ≤ 2 ^ 26)

/-! ### Scalar, DMA, sync, compass-job and control classes (R280 to R284) -/

def legalScalar (w : Nat) : Bool :=
  bits w 115 112 == 0 && match eiOp w with
  | 1 => decide (bits w 95 92 ≤ 9) && bits w 91 0 == 0
  | 2 => bits w 31 0 == 0
  | 3 => bits w 63 0 == 0
  | 4 => bits w 63 0 == 0
  | 5 => bits w 63 0 == 0
  | 6 => bits w 95 92 != 0 && bits w 91 0 == 0
  | 7 => bits w 91 0 == 0
  | _ => false
def legalDma (w : Nat) : Bool :=
  bits w 115 114 != 3 && bits w 90 0 == 0 && match eiOp w with
  | 1 => decide (bits w 111 91 * 32 + 32 ≤ 2 ^ 26)
  | 2 => decide (bits w 111 91 * 32 + 64 ≤ 2 ^ 26)
  | _ => false
def legalSync (inRegion : Bool) (w : Nat) : Bool :=
  bits w 115 114 == 0 && bits w 43 0 == 0 && (bit w 113 || bits w 111 104 ≤ 47) && decide (1 ≤ eiOp w) && decide (eiOp w ≤ 5)
  && (!inRegion || (eiOp w != 3 && eiOp w != 4))
def legalCjob (w : Nat) : Bool :=
  eiOp w == 1 && bits w 115 112 == 0 && bits w 86 0 == 0 && decide (bits w 111 91 * 32 + 32 ≤ 2 ^ 26)
def legalMark (w : Nat) : Bool :=
  bits w 115 112 == 0 && decide (bits w 111 108 ≤ 14) && match eiOp w with
  | 1 => bits w 92 0 == 0
  | 2 => bits w 75 0 == 0
  | 3 => bits w 38 0 == 0 && decide (bits w 75 55 * 32 + bits w 54 39 * 32 ≤ 2 ^ 26)
  | _ => false

/-- An engine instruction passes the checks that are made at decode (R291). -/
def legalEi (thin inRegion : Bool) (w : Nat) : Bool :=
  match eiClass w with
  | 0 => match eiOp w with
    | 1 => legalAload w
    | 2 => legalAmul thin w
    | 3 => legalAdrain w
    | _ => false
  | 1 => eiOp w == 1 && legalMvmul w
  | 2 => legalVec inRegion w
  | 3 => legalScalar w
  | 4 => legalDma w
  | 5 => legalSync inRegion w
  | 6 => legalCjob w
  | 7 => legalMark w
  | _ => false

/-! ### Control words (R264) -/

/-- A control word has a listed opcode, no reserved bit set and no reserved selector. -/
def legalCtl (w : Nat) : Bool :=
  match bits w 63 56 with
  | 0x00 => bits w 55 0 == 0
  | 0x01 => bits w 8 0 == 0
  | 0x02 => bits w 51 48 == 0
  | 0x03 => bits w 47 32 == 0
  | 0x04 => decide (bits w 43 40 ≤ 9) && bits w 39 0 == 0
  | 0x08 => decide (bits w 47 45 ≤ 6) && bits w 44 13 == 0
  | 0x09 => bits w 51 13 == 0
  | 0x10 => bits w 55 7 == 0
  | 0x11 => bits w 55 6 == 0
  | 0x12 => bits w 55 0 == 0
  | 0x13 => bits w 55 0 == 0
  | 0x14 => bits w 55 15 == 0
  | 0x15 => bits w 51 8 == 0 && decide (bits w 7 0 ≤ 9)
  | 0x18 => bits w 55 1 == 0
  | 0x19 => bits w 55 0 == 0
  | _ => false

/-- The 64-bit operation of ALU and SALU (R264). -/
def alu64 (op a b : Nat) : Nat :=
  match op with
  | 0 => (a + b) % 2 ^ 64
  | 1 => (a + 2 ^ 64 - b) % 2 ^ 64
  | 2 => a &&& b
  | 3 => a ||| b
  | 4 => a ^^^ b
  | 5 => a * 2 ^ (b % 64) % 2 ^ 64
  | 6 => a / 2 ^ (b % 64)
  | 7 => min a b
  | 8 => max a b
  | _ => a * b % 2 ^ 64
/-- `x` of `w` bits sign-extended to 64. -/
def sext64 (w x : Nat) : Nat := ofSigned 64 (toSigned w x)

/-- The branch condition `c` of two K registers (R264). -/
def brCond (c a b : Nat) : Bool :=
  match c with
  | 0 => true
  | 1 => a == b
  | 2 => a != b
  | 3 => decide (a < b)
  | 4 => decide (b ≤ a)
  | 5 => decide (toSigned 64 a < toSigned 64 b)
  | _ => decide (toSigned 64 b ≤ toSigned 64 a)

end Sys2Proof.Machine
end

