-- ==== Sys2Proof/Machine/CoreOps.lean ====
section
/-! DEFINITION. The operations that core instructions share (chapter 09): K registers, faults and breakpoints of a core,
illegal instructions, failures, the end of a rank, and the steps of decode, release and completion. -/

namespace Sys2Proof.Machine

open Sys2Proof

/-! ### Registers and counters -/

def baseCc (p : Nat) : Nat := baseObs + 0xA000 + 0x40 * p
def baseArr (p : Nat) : Nat := baseObs + 0x6000 + 0x40 * p
def baseNum (p : Nat) : Nat := baseObs + 0x8200 + 0x20 * p
/-- Control-core error counter `k` places after OBS_CC_RETRY (R297). -/
def ccErr (p k : Nat) (s : State) : State := errc (baseCc p + 0x10 + 4 * k) (baseCc p + 0x24) k 1 s
/-- Array error counter `k` places after OBS_ARR_CKSUM (R231). -/
def arrErr (p k : Nat) (s : State) : State := errc (baseArr p + 0x20 + 4 * k) (baseArr p + 0x38) k 1 s
/-- OBS_NUM_SKEW (R260). -/
def numSkew (p : Nat) (s : State) : State := errc (baseNum p + 0x10) (baseNum p + 0x1C) 0 1 s

/-- K register `i`; K0 reads as 0 (R261). -/
def kreg (c : Core) (i : Nat) : Nat := mgetD c.k i 0
/-- `v` written to K register `i`; a write to K0 is ignored. -/
def setK (i v : Nat) (c : Core) : Core := if i = 0 then c else { c with k := msetD c.k i (v % 2 ^ 64) 0 }
/-- A K register written by an engine: one write fewer is pending (R265). -/
def writeK (i v : Nat) (c : Core) : Core := { setK i v c with kpend := c.kpend.erase i }

/-- The job that core `p` runs. -/
def jobOf (s : State) (p : Nat) : Option Job := (core s p).inst.bind fun i => (inst? s i).bind (·.running)
/-- Its version; the newest where no job runs. -/
def jobVersion (s : State) (p : Nat) : Nat := match jobOf s p with | some j => j.version | none => newestNum s
/-- The logical number of core `p`, 0 where it has none. -/
def lcore (s : State) (p : Nat) : Nat := (logOf s p).getD 0

/-! ### Breakpoints (R296) -/

/-- An event that breakpoints of `kind` watch, with its value: the core is told to halt at the COUNT-th match. -/
def brkMatch (p kind value : Nat) (s : State) : State :=
  (List.range 8).foldl (fun s i =>
    let c := core s p
    match mget c.brks i with
    | none => s
    | some b =>
      if b.kind == kind && (b.value == value || (kind == 4 && b.value == 0)) then
        if b.seen + 1 < b.count then setCore p { c with brks := mset c.brks i { b with seen := b.seen + 1 } } s
        else setCore p { c with
          brks := mset c.brks i { b with seen := 0 },
          halting := c.halting || c.st == 1,
          brkHit := if c.st == 1 && !c.halting then i else c.brkHit } s
      else s) s

/-- A fault that a core raises (R509): its record, and the breakpoints on fault codes. -/
def coreFault (p code flags cls idx detail : Nat) (s : State) : State :=
  brkMatch p 4 code (raiseF { code := code, unit := p, flags := flags, chclass := cls, index := idx,
                              version := jobVersion s p, detail := detail } s)

/-! ### The end of a rank (R292, R312) -/

/-- Every released instruction of the core has completed. -/
def runEmpty (c : Core) : Bool := c.run.all fun e => e.2.isEmpty
/-- Nothing decoded is outstanding. -/
def allEmpty (c : Core) : Bool := runEmpty c && c.queues.all fun e => e.2.isEmpty

/-- The bytes of core store `p` from plain offset `o`, as a memory that begins at 0. -/
def csSlice (s : State) (p o n : Nat) : Mem :=
  (s.mem.cs.filter fun c => p * 2 ^ 26 + o ≤ c.1 && c.1 < p * 2 ^ 26 + o + n).map fun c => (c.1 - (p * 2 ^ 26 + o), c.2)

/-- PRIORITY of a job. -/
def Job.prio (j : Job) : Nat := bits (u8 j.desc 12) 2 0
/-- A pre-empted job returns to the front of its priority (R313). -/
def requeue (j : Job) (q : List Job) : List Job :=
  (q.filter fun i => j.prio < i.prio) ++ j :: q.filter fun i => i.prio ≤ j.prio
/-- Where every rank of the instance's job has ended or been saved, and some rank saved, the job returns to its queue. -/
def requeueSaved (i : Nat) (s : State) : State :=
  match inst? s i with
  | none => s
  | some x => match x.running with
    | none => s
    | some j =>
      if !j.saved.isEmpty && (List.range x.ranks).all fun r => (mget j.saved r).isSome || (mget j.ended r).isSome then
        setInst i { x with running := none, queue := requeue j x.queue } s
      else s
/-- A request for pre-emption that is no longer needed leaves the core's unit running. -/
def dropPreempt (p : Nat) (s : State) : State := if (blk s 0 p).op == some 4 then setBlk 0 p {} s else s

/-- A rank ends with `status`: the core is idle and keeps its kept registers; a FAULTED end from a hardware cause counts
towards the core's channel (R512). -/
def endRank (p status : Nat) (s : State) : State :=
  let c := core s p
  let hw := c.hw && status == 12
  let s := setCore p { c with
    st := 0, stop := none, failed := false, open_ := false, closing := false, defer := [], kpend := [], halting := false,
    single := false, preempt := false, queues := [], run := [], hw := false, snap := none, att := 0 } s
  let s := match c.inst with
    | none => s
    | some i => match inst? s i with
      | none => s
      | some x =>
        let r := lcore s p - x.first
        let s := match x.running with
          | some j => coreLog p 2 (le 4 j.wid ++ le 2 j.version ++ le 1 (u8 j.desc 0) ++ [1] ++ le 2 status) s
          | none => s
        requeueSaved i (setInst i { x with running := x.running.map fun j => { j with
          ended := mset j.ended r status,
          area := if r = 0 then csSlice s p 0x3FF4000 0x4000 else j.area } } (dropPreempt p s))
  if hw then
    let (ret, s) := channelEvent 7 p 0 s
    if ret then retireCore p s else s
  else s

/-- Where the job is to end and every released instruction has finished, it ends (R291); a core that a breakpoint halts ends it once it goes
on (R296). -/
def settle (p : Nat) (s : State) : State :=
  let c := core s p
  match c.stop with
  | some st => if runEmpty c && !c.halting && c.st != 2 then endRank p st s else s
  | none => s

/-- The job of core `p` is to end with `status`: nothing more is decoded or released. -/
def stopJob (p status : Nat) (hw : Bool) (s : State) : State :=
  let c := core s p
  if c.st = 0 then s
  else settle p (setCore p { c with queues := [], defer := [], stop := some (c.stop.getD status), hw := c.hw || hw } s)

/-- An illegal instruction (R291): `t` is its template and `e` its 128 bits where it is an engine instruction. -/
def illegal (p pc t w e : Nat) (s : State) : State :=
  let s := ccErr p 1 s
  let f := (Config.fieldAtFault w e).toNat
  let s := coreFault p 0x0501 0 0xFF (lcore s p) (pc + t * 2 ^ 16 + f * 2 ^ 32) s
  stopJob p 3 false s
/-- The instructions of the open region that are not yet released leave their queues, and their scoreboard counts with
them (R287). -/
def discardRegion (c : Core) : Core :=
  let gone := c.queues.flatMap fun q => q.2.filter (·.region)
  let undo := fun (sb : Map SbEnt) (e : EI) =>
    let r := fun (sb : Map SbEnt) (n : Nat) =>
      if bit n 6 then mupd sb (n % 64) {} fun x => { x with dr := (x.dr + 65535) % 65536 } else sb
    let sb := r (r sb e.rdA) e.rdB
    if bit e.wr 6 then mupd sb (e.wr % 64) {} fun x => { x with dw := (x.dw + 65535) % 65536 } else sb
  { c with queues := c.queues.map fun q => (q.1, q.2.filter fun e => !e.region), sb := gone.foldl undo c.sb }

/-- A failed check, a SCALE_SKEW or a residue mismatch (R287, R218): inside the open region the region fails, elsewhere the
job ends FAULTED. -/
def failCheck (p : Nat) (e : EI) (code : Nat) (s : State) : State :=
  let c := core s p
  if e.region && c.open_ then
    coreLog p 3 (le 1 c.rid ++ le 1 c.att ++ [2, 0] ++ le 2 code) (setCore p { discardRegion c with failed := true } s)
  else stopJob p 12 true s

/-! ### Decode (R264, R265, R268) -/

/-- The core's island runs: it is not stopped by a heave-to or banked, and its unit is running or quiescing. -/
def coreOn (s : State) (p : Nat) : Bool :=
  decide (p < 132) && s.hv.st != 2 && s.hv.st != 3 && (s.ch.pwr == 0 || s.ch.pwr == 3) && decide ((blk s 0 p).st ≤ 1)
  && s.sys.level == 0
/-- The control core may decode. -/
def canDecode (s : State) (p : Nat) : Bool :=
  let c := core s p
  coreOn s p && c.st == 1 && !c.closing && !c.failed && c.stop.isNone && !c.halting

/-- The K registers that a control word reads or writes (R265); for ISSUE, those that its patches read. -/
def ctlRegs (w : Nat) : List Nat :=
  let d := bits w 55 52
  let a := bits w 51 48
  match bits w 63 56 with
  | 0x01 => (if bit w 37 then [bits w 43 40] else []) ++ (if bit w 30 then [bits w 36 33] else [])
  | 0x02 => [d]
  | 0x03 => [d, a]
  | 0x04 => [d, a, bits w 47 44]
  | 0x08 => [d, a]
  | 0x09 => [d]
  | 0x15 => [d]
  | _ => []

/-- One instruction more has been decoded. -/
def decoded (p : Nat) (s : State) : State :=
  let c := core s p
  perf (baseCc p) 1 (setCore p { c with pass := false, halting := c.halting || (c.single && c.st == 1) } s)

/-- Core `p` decodes the control word at its PC, where that word has opcode `op` or is illegal; `f` is the effect of the
word, or none where it waits. A word whose K registers are pending waits. -/
def ctlStep (p op : Nat) (f : Nat → State → Option State) (s : State) : State :=
  let c := core s p
  if !canDecode s p then s
  else
    let w? := c.prog.bind fun g => g.ctl[c.pc]?
    let w := w?.getD 0
    let bad := w?.isNone || !legalCtl w
    if !bad && bits w 63 56 != op then s
    else
      let s' := if c.pass then s else brkMatch p 1 c.pc (setCore p { c with pass := true } s)
      if (core s' p).halting then s'
      else if bad then illegal p c.pc 0 w 0 s'
      else if (ctlRegs w).any c.kpend.contains then s'
      else match f w s' with
        | some t => decoded p t
        | none => s'

/-- The PC moves past the word. -/
def nextPc (c : Core) : Core := { c with pc := (c.pc + 1) % 8192 }
/-- A control word whose whole effect is on the core's own state. -/
def ctlPure (p op : Nat) (f : Nat → Core → Core) (s : State) : State :=
  ctlStep p op (fun w s => some (setCore p (nextPc (f w (core s p))) s)) s

/-! ### Engine instructions in flight (R269, R271) -/

def queueAt (c : Core) (q : Nat) : List EI := mgetD c.queues q []
def runAt (c : Core) (q : Nat) : List EI := mgetD c.run q []
def setQueue (q : Nat) (l : List EI) (c : Core) : Core := { c with queues := msetD c.queues q l [] }
def setRun (q : Nat) (l : List EI) (c : Core) : Core := { c with run := msetD c.run q l [] }

/-- `e` replaces the instruction of its decode order among those released from queue `q`. -/
def putRun (p q : Nat) (e : EI) (s : State) : State :=
  let c := core s p
  setCore p (setRun q ((runAt c q).map fun x => if x.ord = e.ord then e else x) c) s
/-- Instruction `e` of queue `q` has done its work and can complete. -/
def doneEi (p q : Nat) (e : EI) (s : State) : State := putRun p q { e with ph := 3 } s

/-- Vector engines of core `p` that are retired. -/
def vecMask (s : State) (p : Nat) : Nat := mgetD s.nv.vecRetired p 0
/-- The engine that runs the instructions of engine `e`: itself, or the next that survives (R279). -/
def vecHost (s : State) (p e : Nat) : Nat :=
  (((List.range 8).map fun i => (e + i) % 8).find? fun i => !bit (vecMask s p) i).getD e
/-- The released instruction that queue `q` waits to have carried out. -/
def nextRun (s : State) (p q : Nat) : Option EI := (runAt (core s p) q).find? (·.ph == 1)
/-- The vector engine that serves queue `q` interleaves what it hosts in order of release (R279): `e` is the first of these. -/
def firstOnHost (s : State) (p q : Nat) (e : EI) : Bool :=
  q < 2 || 9 < q || (List.range 8).all fun i => vecHost s p i != vecHost s p (q - 2) ||
    match nextRun s p (2 + i) with
    | some f => decide (e.rel ≤ f.rel)
    | none => true

/-- The engine of queue `q` takes its next released instruction, where that has the class and opcode given, and `f` carries
it out. -/
def engStep (p q cls op : Nat) (f : EI → State → State) (s : State) : State :=
  if !coreOn s p || (core s p).st == 0 then s
  else match nextRun s p q with
    | none => s
    | some e => if eiClass e.w == cls && eiOp e.w == op && firstOnHost s p q e then f e s else s

/-- An illegal engine instruction, found when its engine takes it: it is never executed. -/
def illegalEi (p q : Nat) (e : EI) (s : State) : State :=
  let c := core s p
  illegal p e.pc e.tpl (((c.prog.map (·.ctl)).getD []).getD e.pc 0) e.w
    (setCore p (setRun q ((runAt c q).filter fun x => x.ord != e.ord) c) s)

/-- The instruction is carried out and done. -/
def engDone (p q cls op : Nat) (f : EI → State → State) (s : State) : State :=
  engStep p q cls op (fun e s => doneEi p q e (f e s)) s

/-- A core engine met poison (R355): the instruction writes nothing and completes as refused, and the job ends FAULTED;
the cause is hardware. -/
def refuseEi (p q : Nat) (e : EI) (s : State) : State := stopJob p 12 true (doneEi p q e s)

/-- Some instruction decoded before `ord` into a queue of `mask` has not completed (R264 WAITQ, R284 QWAIT). -/
def earlierLive (c : Core) (mask ord : Nat) : Bool :=
  (List.range 15).any fun q => bit mask q && ((queueAt c q).any (·.ord < ord) || (runAt c q).any (·.ord < ord))

end Sys2Proof.Machine
end

