-- ==== Sys2Proof/Machine/Numbers.lean ====
section
/-! DEFINITION. Narrow numbers (chapter 08): the formats, exact ratios, rounding to nearest and stochastic rounding, FP32
lane arithmetic, special functions, edge integers and the block quantiser. -/

namespace Sys2Proof.Machine

open Sys2Proof

/-! ### Exact ratios -/

/-- A ratio that is not negative. -/
structure Q where
  num : Nat
  den : Nat := 1
deriving DecidableEq, Repr

/-- `q` times 2^k. -/
def Q.shift (q : Q) (k : Int) : Q :=
  if 0 ≤ k then { num := q.num * 2 ^ k.toNat, den := q.den } else { num := q.num, den := q.den * 2 ^ (-k).toNat }
def Q.mul (a b : Q) : Q := { num := a.num * b.num, den := a.den * b.den }
def Q.div (a b : Q) : Q := { num := a.num * b.den, den := a.den * b.num }
def Q.lt (a b : Q) : Bool := a.num * b.den < b.num * a.den
def Q.le (a b : Q) : Bool := a.num * b.den ≤ b.num * a.den
def Q.beq (a b : Q) : Bool := a.num * b.den == b.num * a.den
/-- floor(log2 q) of a ratio above 0. -/
def Q.log2 (q : Q) : Int :=
  let k : Int := (Nat.log2 q.num : Int) - (Nat.log2 q.den : Int)
  if Q.lt q (Q.shift { num := 1 } k) then k - 1 else if Q.le (Q.shift { num := 1 } (k + 1)) q then k + 1 else k

/-- A number of a format: a finite magnitude with its sign, an infinity, or a NaN. -/
inductive FV where
  | fin (neg : Bool) (mag : Q)
  | inf (neg : Bool)
  | nan
deriving DecidableEq, Repr

/-- The FV of an integer. -/
def FV.ofInt (x : Int) : FV := .fin (decide (x < 0)) { num := x.natAbs }
def FV.isZero : FV → Bool
  | .fin _ q => q.num == 0
  | _ => false
def FV.neg : FV → FV
  | .fin n q => .fin (!n) q
  | .inf n => .inf (!n)
  | .nan => .nan

/-! ### Formats (R232 to R234) -/

/-- Width in bits of a format code. -/
def fmtWidth (f : Nat) : Nat := [8, 4, 4, 8, 8, 16, 16, 32, 16, 32].getD f 8
/-- A format code that R232 defines. -/
def fmtOk (f : Nat) : Bool := f ≤ 9
/-- An element format (R194). -/
def elemOk (f : Nat) : Bool := f ≤ 4
/-- A format without exponent. -/
def fmtInt (f : Nat) : Bool := f == 0 || f == 1 || f == 8 || f == 9
/-- Fraction bits of a floating format. -/
def fmtFrac (f : Nat) : Nat := [0, 0, 1, 3, 2, 7, 10, 23].getD f 0
/-- Exponent bias of a floating format. -/
def fmtBias (f : Nat) : Nat := [0, 0, 1, 7, 15, 127, 15, 127].getD f 0
/-- Φ: the exponent of the largest magnitude of an element format (R194). -/
def fmtPhi (f : Nat) : Int := [7, 3, 2, 8, 15].getD f 0
/-- A floating format with infinities and NaNs in the IEEE places. -/
def fmtIeee (f : Nat) : Bool := 4 ≤ f && f ≤ 7
/-- The largest finite magnitude of a sign (R232). -/
def fmtMax (f : Nat) (neg : Bool) : Q :=
  match f with
  | 0 => { num := if neg then 128 else 127 }
  | 1 => { num := if neg then 8 else 7 }
  | 2 => { num := 6 }
  | 3 => { num := 448 }
  | 4 => { num := 57344 }
  | 5 => { num := 255 * 2 ^ 120 }
  | 6 => { num := 65504 }
  | 7 => { num := (2 ^ 24 - 1) * 2 ^ 104 }
  | 8 => { num := if neg then 32768 else 32767 }
  | _ => { num := if neg then 2 ^ 31 else 2 ^ 31 - 1 }
/-- The canonical NaN (R250); 0 for a format without one. -/
def fmtNan (f : Nat) : Nat := [0, 0, 0, 0x7F, 0x7E, 0x7FC0, 0x7E00, 0x7FC00000].getD f 0

/-- The number a code of format `f` stands for. -/
def fmtVal (f x : Nat) : FV :=
  let w := fmtWidth f
  let x := x % 2 ^ w
  if fmtInt f then .ofInt (toSigned w x)
  else
    let mb := fmtFrac f
    let neg := bit x (w - 1)
    let e := x % 2 ^ (w - 1) / 2 ^ mb
    let m := x % 2 ^ mb
    let top := e == 2 ^ (w - 1 - mb) - 1
    if fmtIeee f && top then (if m = 0 then .inf neg else .nan)
    else if f = 3 && x % 128 = 127 then .nan
    else
      let n := if e = 0 then m else 2 ^ mb + m
      .fin neg (Q.shift { num := n } ((max e 1 : Nat) - (fmtBias f : Int) - mb))

/-- The spacing exponent of the grid of format `f` at a magnitude (R245). -/
def fmtUlp (f : Nat) (q : Q) : Int :=
  if fmtInt f then 0
  else max (if q.num = 0 then 1 - (fmtBias f : Int) else Q.log2 q) (1 - (fmtBias f : Int)) - fmtFrac f

/-- The code of a magnitude of `n` grid spaces of 2^u. -/
def fmtCode (f : Nat) (neg : Bool) (n : Nat) (u : Int) : Nat :=
  let w := fmtWidth f
  if fmtInt f then (if neg then (2 ^ w - n) % 2 ^ w else n)
  else
    let mb := fmtFrac f
    let e := (u + mb + fmtBias f).toNat
    b2n neg * 2 ^ (w - 1) + (if n < 2 ^ mb then n else e * 2 ^ mb + (n - 2 ^ mb))
/-- The code of an infinity of a format that has one. -/
def fmtInf (f : Nat) (neg : Bool) : Nat :=
  b2n neg * 2 ^ (fmtWidth f - 1) + (2 ^ (fmtWidth f - 1 - fmtFrac f) - 1) * 2 ^ fmtFrac f

/-! ### Rounding to nearest, ties to even (R275) -/

/-- A number rounded once to format `f` (5 or 7), to nearest-even. -/
def roundNe (f : Nat) (v : FV) : Nat :=
  match v with
  | .nan => fmtNan f
  | .inf neg => fmtInf f neg
  | .fin neg q =>
    let u := fmtUlp f q
    let t := Q.shift q (-u)
    let n := t.num / t.den
    let r := 2 * (t.num % t.den)
    let n := if r < t.den || (r == t.den && n % 2 == 0) then n else n + 1
    let c := fmtCode f false n u
    (if fmtInf f false ≤ c then fmtInf f false else c) + b2n neg * 2 ^ (fmtWidth f - 1)

/-! ### Stochastic rounding (R245, R250) -/

/-- What a run of narrowings draws and counts (R260). -/
structure Nar where
  free : Nat
  inexact : Nat := 0
  konst : Nat := 0
  oclamp : Nat := 0
  special : Nat := 0
deriving DecidableEq, Repr

/-- A number of spaces `t` with its sign, rounded stochastically to whole spaces (R245). -/
def srSpaces (neg : Bool) (t : Q) (n : Nar) : Nat × Nar :=
  let k := t.num / t.den
  let r := t.num % t.den
  if r = 0 then (k, n)
  else
    let u := (Config.dither n.free).toNat
    let n := { n with free := n.free + 1, inexact := n.inexact + 1 }
    -- g is measured from the lower neighbour, which for a negative number is the larger magnitude
    if neg then (if u < (t.den - r) * 65536 / t.den then k else k + 1, n)
    else (if u < r * 65536 / t.den then k + 1 else k, n)

/-- An exact number rounded stochastically to an integer. -/
def srInt (v : FV) (n : Nar) : Int × Nar :=
  match v with
  | .fin neg q => let (k, n) := srSpaces neg q n; (if neg then -(k : Int) else k, n)
  | _ => (0, n)

/-- A number narrowed to format `f` (R250, then R245). -/
def narrow (f : Nat) (v : FV) (n : Nar) : Nat × Nar :=
  match v with
  | .nan => (fmtNan f, if fmtIeee f then n else { n with special := n.special + 1 })
  | .inf neg =>
    if fmtIeee f then (fmtInf f neg, n)
    else
      let q := fmtMax f neg
      let u := fmtUlp f q
      let t := Q.shift q (-u)
      (fmtCode f neg (t.num / t.den) u, { n with special := n.special + 1 })
  | .fin neg q =>
    if q.num = 0 then (if fmtInt f then 0 else b2n neg * 2 ^ (fmtWidth f - 1), n)
    else
      let mx := fmtMax f neg
      if Q.lt mx q then
        let u := fmtUlp f mx
        let t := Q.shift mx (-u)
        (fmtCode f neg (t.num / t.den) u, { n with oclamp := n.oclamp + 1 })
      else
        let u := fmtUlp f q
        let (k, n) := srSpaces neg (Q.shift q (-u)) n
        (if k = 0 then 0 else fmtCode f neg k u, n)

/-! ### FP32 and BF16 lane arithmetic (R275) -/

def fpMul (a b : FV) : FV :=
  match a, b with
  | .fin x p, .fin y q => .fin (x != y) (Q.mul p q)
  | .fin x p, .inf y => if p.num = 0 then .nan else .inf (x != y)
  | .inf x, .fin y q => if q.num = 0 then .nan else .inf (x != y)
  | .inf x, .inf y => .inf (x != y)
  | _, _ => .nan
/-- The exact sum; an exact zero of operands that are not both negative zeros is +0. -/
def fpAdd (a b : FV) : FV :=
  match a, b with
  | .fin x p, .fin y q =>
    if x = y then .fin x { num := p.num * q.den + q.num * p.den, den := p.den * q.den }
    else
      let m := p.num * q.den
      let k := q.num * p.den
      if m = k then .fin false { num := 0 }
      else if k < m then .fin x { num := m - k, den := p.den * q.den }
      else .fin y { num := k - m, den := p.den * q.den }
  | .inf x, .inf y => if x = y then .inf x else .nan
  | .inf x, .fin _ _ => .inf x
  | .fin _ _, .inf y => .inf y
  | _, _ => .nan
/-- a < b; false where either is a NaN. -/
def fpLt (a b : FV) : Bool :=
  match a, b with
  | .fin x p, .fin y q =>
    if p.num = 0 && q.num = 0 then false
    else if x then (if y then Q.lt q p else true) else (if y then false else Q.lt p q)
  | .inf x, .inf y => x && !y
  | .inf x, .fin _ _ => x
  | .fin _ _, .inf y => !y
  | _, _ => false
/-- a = b; false where either is a NaN. -/
def fpEq (a b : FV) : Bool :=
  match a, b with
  | .fin x p, .fin y q => (p.num = 0 && q.num = 0) || (x == y && Q.beq p q)
  | .inf x, .inf y => x == y
  | _, _ => false
def fpNan : FV → Bool
  | .nan => true
  | _ => false

/-- Minimum (4) or maximum (5) of two FP32 codes. R274 states neither which zero the minimum of +0 and −0 is nor whether one NaN
operand gives a NaN or the other operand: a free choice. -/
def fpMinMax (op a b : Nat) : Nat :=
  let x := fmtVal 7 a
  let y := fmtVal 7 b
  let open_ := Config.minMaxOpen op (BitVec.ofNat 32 a) (BitVec.ofNat 32 b)
  if fpNan x && fpNan y then fmtNan 7
  else if fpNan x || fpNan y then (if open_ then fmtNan 7 else if fpNan x then b else a)
  else if x.isZero && y.isZero then (if open_ then a else b)
  else if op = 4 then (if fpLt y x then b else a) else (if fpLt x y then b else a)

/-- VARITH operation `op` on FP32 codes, the result rounded once to format `f` (R274, R275). -/
def fpArith (f op a b c : Nat) : Nat :=
  let x := fmtVal 7 a
  let y := fmtVal 7 b
  let z := fmtVal 7 c
  match op with
  | 0 => roundNe f (fpAdd (fpMul x y) z)
  | 1 => roundNe f (fpAdd x y)
  | 2 => roundNe f (fpAdd x y.neg)
  | 3 => roundNe f (fpMul x y)
  | 4 => roundNe f (fmtVal 7 (fpMinMax 4 a b))
  | 5 => roundNe f (fmtVal 7 (fpMinMax 5 a b))
  | 6 => match x with
    | .fin _ q => roundNe f (.fin false q)
    | .inf _ => roundNe f (.inf false)
    | .nan => fmtNan f
  | _ => roundNe f x.neg

/-! ### Special functions (R276)

Fixed-point numbers with 512 fraction bits. -/

/-- One in fixed point. -/
def fx1 : Nat := 2 ^ 512
/-- The sum of x^i / i! over `n` further terms, from the term `t` of index `i`. -/
def expSeries (x : Nat) (n i t : Nat) : Nat :=
  match n with
  | 0 => t
  | n + 1 => t + expSeries x n (i + 1) (t * x / fx1 / (i + 1))
/-- The sum of z^(2i+1) / (2i+1) over `n` further terms; `p` is the power. -/
def atanhSeries (z2 : Nat) (n i p : Nat) : Nat :=
  match n with
  | 0 => p / (2 * i + 1)
  | n + 1 => p / (2 * i + 1) + atanhSeries z2 n (i + 1) (p * z2 / fx1)
/-- ln 2 in fixed point: 2 atanh(1/3). -/
def fxLn2 : Nat := 2 * atanhSeries (fx1 / 9) 170 0 (fx1 / 3)
/-- e^q for a ratio q: a mantissa in fixed point from 1 to 2 and a power of two. -/
def fxExpQ (neg : Bool) (q : Q) : Nat × Int :=
  let x := q.num * fx1 / q.den
  let k := x / fxLn2
  let r := x % fxLn2
  if neg then
    if r = 0 then (fx1, -(k : Int)) else (expSeries (fxLn2 - r) 130 0 fx1, -(k : Int) - 1)
  else (expSeries r 130 0 fx1, k)
/-- The ratio e^±q; exact enough for every input whose result is finite, 0 and 2^2000 outside it. -/
def expQ (neg : Bool) (q : Q) : Q :=
  if Q.lt { num := 1000 } q then (if neg then { num := 0 } else { num := 2 ^ 2000 })
  else
    let (m, k) := fxExpQ neg q
    Q.shift { num := m, den := fx1 } k
/-- The natural logarithm of a ratio above 0. -/
def logQ (q : Q) : FV :=
  let k := Q.log2 q
  let m := Q.shift q (-k)
  let (m, k) := if Q.le { num := 3, den := 2 } m then (Q.shift m (-1), k + 1) else (m, k)
  let up := Q.le { num := 1 } m
  let d := if up then m.num - m.den else m.den - m.num
  let z := d * fx1 / (m.num + m.den)
  let l : Int := 2 * (atanhSeries (z * z / fx1) 120 0 z : Nat)
  let t := (if up then l else -l) + k * (fxLn2 : Int)
  .fin (decide (t < 0)) { num := t.natAbs, den := fx1 }

/-- The exact value of special function `fn` on a finite input that is not subnormal, and its bound in ulp. -/
def sfnExact (fn : Nat) (neg : Bool) (q : Q) : FV :=
  match fn with
  | 0 => .fin false (expQ neg q)
  | 1 => logQ q
  | 2 =>
    -- the square root of 1/q with 600 bits below its leading bit
    let k := (Q.log2 q + 1) / 2
    let t := Q.shift { num := q.den, den := q.num } (2 * k + 1200)
    .fin false (Q.shift { num := Nat.sqrt (t.num / t.den) } (-k - 600))
  | 3 => let e := expQ (!neg) q; .fin false { num := e.den, den := e.den + e.num }
  | 4 =>
    if Q.lt { num := 400 } q then .fin neg { num := 1 }
    else
      let e := expQ true (Q.shift q 1)
      .fin neg { num := e.den - e.num, den := e.den + e.num }
  | _ => .fin neg { num := q.den, den := q.num }

/-- Special function `fn` of FP32 code `x` (R276). -/
def sfn (fn x : Nat) : Nat :=
  let open_ := (Config.sfnOpen fn (BitVec.ofNat 32 x)).toNat
  let err := Config.sfnError fn (BitVec.ofNat 32 x)
  let one := 0x3F800000
  match fmtVal 7 x with
  | .nan => 0x7FC00000
  | .inf neg => match fn with
    | 0 => if neg then 0 else 0x7F800000
    | 1 => if neg then 0x7FC00000 else 0x7F800000
    | 2 => if neg then 0x7FC00000 else open_
    | 3 => if neg then 0 else one
    | 4 => if neg then one + 2 ^ 31 else one
    | _ => if neg then 2 ^ 31 else 0
  | .fin neg q =>
    -- a subnormal input is taken as zero of its sign
    let q := if Q.lt q (Q.shift { num := 1 } (-126)) then { num := 0 } else q
    if q.num = 0 && (fn = 1 || fn = 2 || 5 ≤ fn) then
      (if fn = 1 then 0xFF800000 else 0x7F800000 + (if neg then 2 ^ 31 else 0))
    else if neg && (fn = 1 || fn = 2) then 0x7FC00000
    else
      let v := sfnExact fn neg q
      let c := roundNe 7 v
      let mag : Nat := c % 2 ^ 31
      let sign : Nat := c / 2 ^ 31 * 2 ^ 31
      let b : Int := if fn = 2 || 5 ≤ fn then 1 else 2
      if 0x7F800000 ≤ mag then c
      else if v.isZero && fn = 4 then c
      else if mag < 0x00800000 then
        -- below the normal range: exp has no bound; sigmoid lies within 2^-126; reciprocal and the rest keep theirs
        if fn = 0 then open_
        else if fn = 3 then (clampI 0 (mag + 0x00800000) (mag + err)).toNat
        else sign + (clampI 0 0x7F7FFFFF (mag + clampI (-b) b err)).toNat
      else sign + (clampI 0 0x7F7FFFFF (mag + clampI (-b) b err)).toNat

/-! ### UE5M3 block scales (R236) -/

/-- sig of a scale code. -/
def ueSig (c : Nat) : Nat := 8 + c % 8
/-- σ of a scale code. -/
def ueSigma (c : Nat) : Int := (c / 8 : Nat) - 18
/-- The value of a scale code other than 0x00. -/
def ueVal (c : Nat) : Q := Q.shift { num := ueSig c } (ueSigma c)
/-- The smallest scale code whose value is at least `q`, 0x01 where it is below that and 0xFF where above all (R255). -/
def ueFor (q : Q) : Nat := (((List.range 255).map (· + 1)).find? fun c => Q.le q (ueVal c)).getD 0xFF

/-! ### Edge integers (R194 to R197, R239, R240) -/

/-- A constant block's value is a NaN or infinite: one event of R240 for the block. -/
def constSpecial (c : Nat) : Bool := match fmtVal 5 c with | .fin _ _ => false | _ => true

/-- The edge integer of one element of a scaled line with reference `l`, the block's scale `sc` and, for a constant
block, its constant `c`; whether the slot is marked EDGE_SAT. -/
def edgeScaled (f code sc : Nat) (c : Nat) (l : Int) (n : Nar) : Int × Bool × Nar :=
  if sc = 0 then
    match fmtVal 5 c with
    | .nan => (0, true, n)
    | .inf neg => (if neg then -61425 else 61425, true, n)
    | .fin neg q =>
      let (a, n) := srInt (.fin neg (Q.shift q (11 - l))) n
      (clampI (-61425) 61425 a, decide (61425 < a.natAbs), n)
  else
    let xb := ueSigma sc + fmtPhi f
    match fmtVal f code with
    | .nan => (0, true, { n with special := n.special + 1 })
    | .inf neg => ((ueSig sc : Int) * (if neg then -4095 else 4095), true, { n with special := n.special + 1 })
    | .fin neg q =>
      let (a, n) := srInt (.fin neg (Q.shift q (ueSigma sc - l + 11))) n
      if l < xb then ((ueSig sc : Int) * clampI (-4095) 4095 a, true, n) else ((ueSig sc : Int) * a, false, n)

/-- The edge integers of the steps of one operand line from step `k0` over `k` steps. `elem i` is the element code of step
i of the line, `scale b` the code of block b. -/
def edgeLine (f : Nat) (scaled : Bool) (l : Int) (elem scale : Nat → Nat) (k0 k : Nat) (n : Nar) : List Int × Bool × Nar :=
  if !scaled then ((List.range k).map fun i => toSigned (fmtWidth f) (elem (k0 + i)), false, n)
  else
    let r := (List.range k).foldl (fun (acc : List Int × Bool × Nar) i =>
      let (xs, sat, n) := acc
      let t := k0 + i
      let sc := scale (t / 32)
      let b0 := t / 32 * 32
      let c := if fmtWidth f = 4 then
          (List.range 4).foldl (fun a j => a + elem (b0 + j) % 16 * 16 ^ j) 0
        else elem b0 % 256 + 256 * (elem (b0 + 1) % 256)
      let n := if sc = 0 && t % 32 = 0 then { n with konst := n.konst + 1, special := n.special + b2n (constSpecial c) } else n
      let (a, st, n) := edgeScaled f (elem t) sc c l n
      (a :: xs, sat || st, n)) ([], false, n)
    (r.1.reverse, r.2.1, r.2.2)

/-! ### The block quantiser (R255) -/

/-- A quantised row: element codes in order, scale codes and the row's reference. -/
structure QRow where
  codes : List Nat
  scales : List Nat
  /-- BF16 constant of each constant block. -/
  consts : List (Option Nat)
  ref : Int
deriving DecidableEq, Repr

/-- A finite value's magnitude, 0 for the rest. -/
def finMag : FV → Q
  | .fin _ q => q
  | _ => { num := 0 }

/-- The row of FP32 codes `x` quantised to element format `f` (R255). -/
def quantise (f : Nat) (x : List Nat) (n : Nar) : QRow × Nar :=
  let nb := x.length / 32
  -- a block of NaNs and infinities only is treated as all zero
  let blk := fun b : Nat =>
    let e := (x.drop (32 * b)).take 32
    if e.all fun y => match fmtVal 7 y with | .fin _ _ => false | _ => true then List.replicate 32 0 else e
  let qf := fmtMax f false
  let qf := if f = 0 then { num := 127 } else qf
  let scaleOf := fun b : Nat =>
    ueFor (Q.div ((blk b).foldl (fun m e => let q := finMag (fmtVal 7 e); if Q.lt m q then q else m) { num := 0 }) qf)
  let topOf := fun sc : Nat => ueSigma sc + fmtPhi f
  -- constants first, in block order
  let (cs, n) := (List.range nb).foldl (fun (acc : List (Option Nat) × Nar) b =>
    let e := blk b
    let v0 := e.headD 0
    let same := e.all fun y => y == v0 || fpEq (fmtVal 7 y) (fmtVal 7 v0)
    if same then let (c, n) := narrow 5 (fmtVal 7 v0) acc.2; (acc.1 ++ [some c], n)
    else (acc.1 ++ [none], acc.2)) ([], n)
  let cTop := fun c : Nat => match fmtVal 5 c with
    | .fin _ q => if q.num = 0 then none else some (Q.log2 q + 1)
    | _ => none
  let tops := (List.range nb).filterMap fun b => match cs.getD b none with
    | some c => cTop c
    | none => some (topOf (scaleOf b))
  let l := clampI (-128) 127 (match tops with | [] => 0 | t :: r => r.foldl max t)
  let cs := cs.map fun o => match o with
    | some c => match cTop c with
      | some t => if t + 3 < l then none else some c
      | none => some c
    | none => none
  let df : Option Int := if f = 1 || f = 2 then some 8 else if f = 0 then some 4 else none
  let scs := (List.range nb).map fun b => match cs.getD b none with
    | some _ => 0
    | none =>
      let sc := scaleOf b
      match df with
      | some d => if topOf sc < l - d then
          (((List.range 255).map (· + 1)).find? fun c => l - d ≤ topOf c).getD 0xFF else sc
      | none => sc
  let w := fmtWidth f
  let r := (List.range nb).foldl (fun (acc : List Nat × Nar) b =>
    match cs.getD b none with
    | some c =>
      let bytes := [c % 256, c / 256]
      let e := (List.range 32).map fun i => if w = 4 then (if i < 4 then c / 16 ^ i % 16 else 0) else bytes.getD i 0
      (acc.1 ++ e, { acc.2 with konst := acc.2.konst + 1 })
    | none =>
      let sv := ueVal (scs.getD b 1)
      (blk b).foldl (fun (acc : List Nat × Nar) y =>
        let v := match fmtVal 7 y with
          | .fin neg q => FV.fin neg (Q.div q sv)
          | o => o
        let (c, n) := narrow f v acc.2
        (acc.1 ++ [c], n)) acc) ([], n)
  ({ codes := r.1, scales := scs, consts := cs, ref := l }, r.2)

/-- Codes of width 4 or 8 packed into bytes, the lower index in the low nibble (R235). -/
def packCodes (w : Nat) (l : List Nat) : Bytes :=
  if w = 4 then (List.range ((l.length + 1) / 2)).map fun i => BitVec.ofNat 8 (l.getD (2 * i) 0 % 16 + 16 * (l.getD (2 * i + 1) 0 % 16))
  else l.flatMap fun c => le (w / 8) c
/-- Code `i` of width `w` bits of a packed row. -/
def codeAt (w : Nat) (byteAt : Nat → Byte) (i : Nat) : Nat :=
  if w = 4 then (byteAt (i / 2)).toNat / (if i % 2 = 0 then 1 else 16) % 16
  else leNat ((List.range (w / 8)).map fun j => byteAt (i * (w / 8) + j))

end Sys2Proof.Machine
end

