-- ==== Sys2Proof/Machine/Arrays.lean ====
section
/-! DEFINITION. The outer-product arrays and the matrix-vector path (chapter 07). -/

namespace Sys2Proof.Machine

open Sys2Proof

/-! ### Shared pieces -/

/-- Memory that begins at 0 from a byte string. -/
def memOf (b : Bytes) : Mem := ((List.range b.length).zip b).filter fun c => c.2 != 0

/-- The draws and counts of a run of narrowings on core `p` (R260). -/
def useNar (p : Nat) (n : Nar) (s : State) : State :=
  let s := { s with free := n.free }
  let s := perf (baseNum p) n.inexact (perf (baseNum p + 8) n.konst s)
  let s := if n.oclamp = 0 then s else errc (baseNum p + 0x14) (baseNum p + 0x1C) 1 n.oclamp s
  if n.special = 0 then s else errc (baseNum p + 0x18) (baseNum p + 0x1C) 2 n.special s

def arrMask (s : State) (p : Nat) : Nat := mgetD s.nv.arrRetired p 0
/-- Key of the slot that an instruction naming array `a` and slot `sl` uses: its own, or its host's spare (R220). -/
def slotKey (s : State) (p a sl : Nat) : Nat :=
  let m := arrMask s p
  if !bit m a then 3 * a + sl
  else
    let live := (List.range 4).filter fun i => !bit m i
    3 * live.getD sl (live.headD 0) + 2
def slotAt (s : State) (p key : Nat) : Slot := mgetD (core s p).slots key {}
def setAccSlot (p key : Nat) (x : Slot) (s : State) : State :=
  let c := core s p
  setCore p { c with slots := mset c.slots key x } s
def halfAt (s : State) (p h : Nat) : Half := mgetD (core s p).halves h {}

/-- An array is retired (R219); a second one retires its core (R221). -/
def retireArray (p a : Nat) (s : State) : State :=
  let m := setBit (arrMask s p) a
  let s := { s with nv := { s.nv with arrRetired := mset s.nv.arrRetired p m } }
  let s := coreFault p 0x0301 2 4 (4 * p + a) a s
  if 2 ≤ popcount m 4 then retireCore p s else s
/-- A counted event of an array's channel (R512): `cell` 0 for an unlocated mismatch, 1 + cell for a located one, 4,097
for a SCALE_SKEW. -/
def arrayEvent (p a cell : Nat) (s : State) : Bool × State :=
  if bit (arrMask s p) a then (false, s) else channelEvent 4 (4 * p + a) cell s

/-- SCALE_SKEW (R244): counted, recorded with the sequences expected and found, and a failure of an open region. Outside a
region the job goes on. -/
def skewFault (p : Nat) (e : EI) (flags cls idx want found : Nat) (s : State) : State :=
  let s := coreFault p 0x0204 flags cls idx (want % 65536 + found % 65536 * 65536) (numSkew p s)
  if e.region && (core s p).open_ then failCheck p e 0x0204 s else s

/-! ### ALOAD (R192, R193) -/

/-- The joiner's comparison fails (R242): the sequence found is not the one expected. -/
def seqDiffers (want found : Nat) : Bool := want % 65536 != found % 65536

/-- ALOAD. `skew` names a block of a line whose scale packet did not match, and the sequence that was found (R242). -/
def execAload (p : Nat) (skew : Option (Nat × Nat)) (s : State) : Host.Outcome State Fault Refusal :=
  .next <| engStep p 0 0 1 (fun e s =>
    let w := e.w
    let k := alK w
    let b := fmtWidth (alFmt w)
    let lines := alLines w
    let src := fun i => bits w 79 59 * 32 + i * lineBytes k b
    let ssrc := fun i => bits w 58 38 * 32 + i * ((k + 1023) / 1024 * 32)
    let bad := (List.range lines).any fun i => localPoison s p (src i) ((k * b + 7) / 8)
      || (alScaled w && localPoison s p (ssrc i) (k / 32))
    if bad || (alScaled w && localPoison s p (bits w 37 17 * 32) lines) then refuseEi p 0 e s
    else
      let codes := (List.range lines).flatMap fun i =>
        (List.range k).map fun t => BitVec.ofNat 8 (codeAt b (fun j => localByte s p (src i + j)) t)
      let h : Half := {
        loaded := true, fmt := alFmt w, scaled := alScaled w, lines := lines, k := k, elems := memOf codes,
        scales := if alScaled w then memOf ((List.range lines).flatMap fun i => localBytes s p (ssrc i) (k / 32)) else [],
        refs := if alScaled w then memOf (localBytes s p (bits w 37 17 * 32) lines) else [] }
      let put := fun (h : Half) s => let c := core s p; setCore p { c with halves := mset c.halves (bits w 111 111) h } s
      match alScaled w && (skew.any fun x => decide (x.1 < k / 32) && seqDiffers x.1 x.2), skew with
      | true, some (i, found) =>
        let s := doneEi p 0 e (put { h with invalid := true } s)
        let (ret, s) := channelEvent 7 p 0 s
        let s := skewFault p e (if ret then 2 else 0) 7 p i found s
        if ret then retireCore p s else s
      | _, _ => doneEi p 0 e (put h s)) s

/-! ### AMUL (R199 to R209) -/

/-- The weight descriptor entry of an array (R200). -/
structure WDesc where
  waddr : Nat
  saddr : Nat
  raddr : Nat
  seq0 : Nat
  fmt : Nat
  scaled : Bool
  ok : Bool
deriving DecidableEq, Repr

def amDesc (s : State) (p w a : Nat) : WDesc :=
  let b := localBytes s p (bits w 58 38 * 32 + 16 * a) 16
  let x := u8 b 14
  { waddr := leAt b 0 4, saddr := leAt b 4 4, raddr := leAt b 8 4, seq0 := leAt b 12 2, fmt := x % 8, scaled := bit x 3,
    ok := x / 16 == 0 && u8 b 15 == 0 && decide (x % 8 ≤ 4) && (bit x 3 || x % 8 ≤ 1) }

/-- The arrays an ARR field names. -/
def armed4 (m : Nat) : List Nat := (List.range 4).filter (bit m)
/-- Bytes of one reduction step of weights (R200). -/
def stepBytes (p n b : Nat) : Nat := (p * n * b + 255) / 256 * 32

/-- The half holds the steps and lines that are read, and scaling fits (R201, R230). -/
def halfOk (h : Half) (lines : List Nat) (k0 k : Nat) (wscaled : Bool) (wfmt : Nat) : Bool :=
  k = 0 || (h.loaded && lines.all (· < h.lines) && decide (k0 + k ≤ h.k) && (!(h.scaled || wscaled) || k % 32 == 0)
    && !(!h.scaled && wscaled && 2 ≤ wfmt))

def signed8 (x : Nat) : Int := toSigned 8 x
/-- Reference of line `i` of a half: 11 where it is unscaled (R195). -/
def halfRef (h : Half) (i : Nat) : Nat := if h.scaled then (Mem.read h.refs i).toNat else 11
/-- Edge integers of `k` steps of line `i` of a half from step `k0`. -/
def halfLine (h : Half) (i k0 k : Nat) (n : Nar) : List Int × Bool × Nar :=
  edgeLine h.fmt h.scaled (signed8 (halfRef h i)) (fun t => (Mem.read h.elems (i * h.k + t)).toNat)
    (fun b => (Mem.read h.scales (i * (h.k / 32) + b)).toNat) k0 k n

/-- Lines converted one after another, the newest draws last. -/
def edgeAll (f : Nat → Nar → List Int × Bool × Nar) (l : List Nat) (n : Nar) : List (List Int) × Bool × Nar :=
  let r := l.foldl (fun (acc : List (List Int) × Bool × Nar) i =>
    let (xs, st, n) := f i acc.2.2
    (xs :: acc.1, acc.2.1 || st, n)) ([], false, n)
  (r.1.reverse, r.2.1, r.2.2)

/-- Accumulation of the products of two lines, each add saturating (R208). -/
def accLine (a w : List Int) (x : Int) : Int × Bool :=
  (a.zip w).foldl (fun (acc : Int × Bool) q =>
    let v := acc.1 + q.1 * q.2
    (clampI (-2 ^ 47) (2 ^ 47 - 1) v, acc.2 || decide (v < -2 ^ 47) || decide (2 ^ 47 - 1 < v))) (x, false)
/-- The sum of products modulo 2^64. -/
def dot64 (a w : List Int) : Nat := ofSigned 64 ((a.zip w).foldl (fun t q => t + q.1 * q.2) 0)
/-- Step-by-step sums of several lines of `k` steps. -/
def sumLines (l : List (List Int)) (k : Nat) : List Int :=
  l.foldl (fun t x => List.zipWith (· + ·) t x) (List.replicate k 0)

/-- Cell of row m and column n of problem j (R201). -/
def cellOf (mode j m n : Nat) : Nat :=
  match mode with
  | 1 => 64 * (j / 2 * 32 + m) + (j % 2 * 32 + n)
  | 2 => 64 * (j / 4 * 16 + m) + (j % 4 * 16 + n)
  | 3 => 512 * m + n
  | _ => 64 * m + n
/-- Entries of the checksum row and column that a cell belongs to, with the problem (R209, R223). -/
def crKey (mode j n : Nat) : Nat := if mode = 3 then n % 64 else 64 * j + n
def ccKey (mode j m n : Nat) : Nat := if mode = 3 then 8 * (n / 64) + m else 64 * j + m

/-- `k` steps of one problem accumulate into a slot. -/
def feedProblem (mode j k : Nat) (la lw : List (List Int)) (x : Slot) : Slot :=
  let sa := sumLines la k
  let x := (la.zipIdx).foldl (fun (x : Slot) a => (lw.zipIdx).foldl (fun (x : Slot) w =>
    let c := cellOf mode j a.2 w.2
    let (v, sat) := accLine a.1 w.1 (mgetD x.acc c 0)
    { x with acc := msetD x.acc c v 0, sat := if sat then sadd x.sat c else x.sat, accSat := x.accSat || sat }) x) x
  let x := (lw.zipIdx).foldl (fun (x : Slot) w =>
    let q := crKey mode j w.2
    { x with cr := msetD x.cr q ((mgetD x.cr q 0 + dot64 sa w.1) % 2 ^ 64) 0 }) x
  -- the checksum column takes the sum of the weights of its 64-column group, or of the whole problem
  (la.zipIdx).foldl (fun (x : Slot) a => (lw.zipIdx).foldl (fun (x : Slot) w =>
    let q := ccKey mode j a.2 w.2
    { x with cc := msetD x.cc q ((mgetD x.cc q 0 + dot64 a.1 w.1) % 2 ^ 64) 0 }) x) x

/-- CLR: the unmasked accumulators, the checksums, the saturation marks and the flags are cleared (R199, R203, R208). The chain begins
before an open region where its AMUL does, `region` false (R217). -/
def clearSlot (mode m n : Nat) (region : Bool) (x : Slot) : Slot :=
  let cells := (List.range (modeP mode)).flatMap fun j => (List.range m).flatMap fun i => (List.range n).map fun c => cellOf mode j i c
  { x with acc := x.acc.filter (fun c => !cells.contains c.1), sat := [], cr := [],
           cc := [], accSat := false, edgeSat := false, invalid := false, chain := none, old := !region }

/-- What one named array does for an AMUL that is legal: `k` steps are fed. -/
def feedArray (s : State) (p w a k : Nat) (h : Half) (x : Slot) (n : Nar) : Slot × Nar :=
  let d := amDesc s p w a
  let mode := amMode w
  let (m, cols) := (amM w, amN w)
  let np := modeP mode
  let b := fmtWidth d.fmt
  let k0 := bits w 71 59 * 32
  let sb := stepBytes np cols b
  let wref := fun i => if d.scaled then (localByte s p (d.raddr + i)).toNat else 11
  (List.range np).foldl (fun (acc : Slot × Nar) j =>
    let (la, st, n) := edgeAll (fun i n => halfLine h (j * modeM mode + i) k0 k n) (List.range m) acc.2
    let (lw, st', n) := edgeAll (fun c n =>
      let q := j * cols + c
      edgeLine d.fmt d.scaled (signed8 (wref q)) (fun t => codeAt b (fun i => localByte s p (d.waddr + t * sb + i)) q)
        (fun blk => (localByte s p (d.saddr + blk * (np * cols) + q)).toNat) 0 k n) (List.range cols) n
    let x := feedProblem mode j k la lw acc.1
    ({ x with edgeSat := x.edgeSat || st || st' }, n)) (x, n)

/-- What the chain's first AMUL records for an array (R204). -/
def chainOf (s : State) (p w a : Nat) (h : Half) : Chain :=
  let d := amDesc s p w a
  let np := modeP (amMode w)
  { mode := amMode w, m := amM w, n := amN w, afmt := h.fmt, ascaled := h.scaled, wfmt := d.fmt, wscaled := d.scaled,
    arefs := (List.range np).flatMap fun j => (List.range (amM w)).map fun i => halfRef h (j * modeM (amMode w) + i),
    wrefs := (List.range (np * amN w)).map fun i => if d.scaled then (localByte s p (d.raddr + i)).toNat else 11 }

/-- The memory an AMUL reads for an array lies in the core store. -/
def amRanges (s : State) (p w a : Nat) : Bool :=
  let d := amDesc s p w a
  let np := modeP (amMode w) * amN w
  d.ok && d.waddr % 32 == 0 && localIn d.waddr (amK w * stepBytes 1 np (fmtWidth d.fmt))
    && (!d.scaled || (d.saddr % 32 == 0 && localIn d.saddr (amK w / 32 * np) && localIn d.raddr np))
def amPoison (s : State) (p w a : Nat) : Bool :=
  let d := amDesc s p w a
  let np := modeP (amMode w) * amN w
  localPoison s p (bits w 58 38 * 32 + 16 * a) 16 || localPoison s p d.waddr (amK w * stepBytes 1 np (fmtWidth d.fmt))
    || (d.scaled && (localPoison s p d.saddr (amK w / 32 * np) || localPoison s p d.raddr np))

/-- Every named array's slot is changed by `f`, which is told the array. -/
def eachSlot (p w : Nat) (f : Nat → Slot → Slot) (s : State) : State :=
  (armed4 (bits w 111 108)).foldl (fun s a =>
    let k := slotKey s p a (bits w 107 106)
    setAccSlot p k (f a (slotAt s p k)) s) s

/-- The counts of an AMUL that completes (R231). -/
def amCount (p w : Nat) (s : State) : State :=
  let arr := armed4 (bits w 111 108)
  let macs := arr.length * modeP (amMode w) * amM w * amN w * amK w
  let s := util p (0x1C0 + 8 * ((arr.head?.map fun a => (amDesc s p w a).fmt).getD 0)) macs s
  let s := perf (baseArr p) 1 (perf (baseArr p + 8) macs s)
  if arr.any (bit (arrMask s p)) then arrErr p 3 s else s

/-- SCALE_SKEW in an AMUL (R242, R243): the slots are invalid; a skew of R242 counts for every array named. -/
def amSkew (p : Nat) (e : EI) (hw : Bool) (want found : Nat) (s : State) : State :=
  let s := doneEi p 0 e (eachSlot p e.w (fun _ x => { x with invalid := true }) s)
  let arr := armed4 (bits e.w 111 108)
  if !hw then skewFault p e 0 0xFF (lcore s p) want found s
  else
    let (rs, s) := arr.foldl (fun (acc : List Nat × State) a =>
      let (r, s) := arrayEvent p a 4097 acc.2
      (if r then acc.1 ++ [a] else acc.1, s)) ([], s)
    let s := skewFault p e (if rs.isEmpty then 0 else 2) 4 (4 * p + (rs ++ arr).headD 0) want found s
    rs.foldl (fun s a => retireArray p a s) s

/-- The AMUL reads a half that an ALOAD's SCALE_SKEW has left invalid: nothing is fed, the slots are invalid, and an open region fails
(R242, R244). The blocks count as the chain's. -/
def amInvalid (p : Nat) (e : EI) (f : Nat → Slot → Slot) (s : State) : State :=
  let s := amCount p e.w (doneEi p 0 e (eachSlot p e.w (fun a x =>
    let x := f a x
    { x with invalid := true, seq := (x.seq + (amK e.w + 31) / 32) % 65536 }) s))
  if e.region && (core s p).open_ then failCheck p e 0x0204 s else s

/-- The slot of array `a` as the AMUL `e` leaves it before it feeds anything: cleared by CLR, or the chain begun where none is open
(R204, R217, R243). -/
def amChained (s : State) (p : Nat) (e : EI) (a : Nat) (x : Slot) : Slot :=
  let w := e.w
  let h := halfAt s p (bits w 105 105)
  if bit w 112 then
    { clearSlot (amMode w) (amM w) (amN w) e.region x with chain := some (chainOf s p w a h), seq := (amDesc s p w a).seq0 }
  else if x.chain.isNone then { x with chain := some (chainOf s p w a h), seq := (amDesc s p w a).seq0, old := !e.region }
  else x
/-- An AMUL without CLR fits the chain that its slot of array `a` holds (R204). -/
def amSame (s : State) (p w a : Nat) : Bool :=
  bit w 112 || match (slotAt s p (slotKey s p a (bits w 107 106))).chain with
    | some c => c == chainOf s p w a (halfAt s p (bits w 105 105))
    | none => true
/-- Lines of its half that an AMUL reads. -/
def amLines (w : Nat) : List Nat :=
  (List.range (modeP (amMode w))).flatMap fun j => (List.range (amM w)).map fun i => j * modeM (amMode w) + i
/-- The AMUL is legal for array `a` (R200, R201, R204, R230). -/
def amLegal (s : State) (p w a : Nat) : Bool :=
  let d := amDesc s p w a
  amRanges s p w a && halfOk (halfAt s p (bits w 105 105)) (amLines w) (bits w 71 59 * 32) (amK w) d.scaled d.fmt && amSame s p w a
/-- The arrays of `arr` are fed `fed` steps, from the memory and the half that `s` holds; `t` has the slots as the AMUL begins. -/
def amFeed (s : State) (p w fed : Nat) (t : State) : State :=
  let (t, n) := (armed4 (bits w 111 108)).foldl (fun (acc : State × Nar) a =>
    let key := slotKey acc.1 p a (bits w 107 106)
    let (x, n) := feedArray s p w a fed (halfAt s p (bits w 105 105)) (slotAt acc.1 p key) acc.2
    (setAccSlot p key { x with seq := (x.seq + (amK w + 31) / 32) % 65536 } acc.1, n)) (t, { free := t.free })
  amCount p w (useNar p n t)

/-- AMUL. `skew` names an array, a block of its weights whose scale packet did not match, and the sequence that was found (R242). -/
def execAmul (p : Nat) (skew : Option (Nat × Nat × Nat)) (s : State) : Host.Outcome State Fault Refusal :=
  .next <| engStep p 0 0 2 (fun e s =>
    let w := e.w
    let arr := armed4 (bits w 111 108)
    let k := amK w
    if k = 0 then
      if !arr.all (amSame s p w) then illegalEi p 0 e s
      else doneEi p 0 e (amCount p w (if bit w 112 then eachSlot p w (amChained s p e) s else s))
    else if !arr.all (amLegal s p w) then illegalEi p 0 e s
    else if arr.any (amPoison s p w) then refuseEi p 0 e s
    else if (halfAt s p (bits w 105 105)).invalid then amInvalid p e (amChained s p e) s
    else
      let t := eachSlot p w (amChained s p e) s
      let seqOf := fun a => (slotAt t p (slotKey t p a (bits w 107 106))).seq
      -- the joiner first compares the chain's sequence (R243)
      match arr.find? fun a => (amDesc s p w a).scaled && seqOf a != (amDesc s p w a).seq0 with
      | some a => amSkew p e false (seqOf a) (amDesc s p w a).seq0 (amCount p w t)
      | none =>
        match skew.filter fun x => arr.contains x.1 && (amDesc s p w x.1).scaled && decide (x.2.1 < k / 32)
            && seqDiffers ((amDesc s p w x.1).seq0 + x.2.1) x.2.2 with
        | some (a, i, found) => amSkew p e true ((amDesc s p w a).seq0 + i) found (amFeed s p w (32 * i) t)
        | none => doneEi p 0 e (amFeed s p w k t)) s

/-! ### Drains (R210 to R216, R251 to R254) -/

/-- The drain descriptor (R212). -/
def drainDesc (s : State) (p at_ : Nat) : Bytes := localBytes s p at_ 64
/-- The checks of a drain descriptor that do not depend on the results (R212, R251, R254). -/
def drainOk (d : Bytes) : Bool :=
  zeroAt d 22 2 && zeroAt d 52 12 && u8 d 21 / 8 == 0 && leAt d 16 4 % 4 == 0 &&
  (if bit (u8 d 21) 0 then decide (u8 d 20 ≤ 9) else u8 d 20 == 0xFF)

/-- OFMT of a drain whose table entries are `i`: that of the descriptor, or the one that every entry names (R253, R254). -/
def drainFmt (s : State) (p : Nat) (d : Bytes) (i : List Nat) : Option Nat :=
  if bit (u8 d 21) 0 then some (u8 d 20)
  else
    let e := i.map fun i => localBytes s p (leAt d 24 4 + 16 * i) 16
    match e with
    | [] => some 0
    | x :: _ => if e.all fun y => u8 y 8 == u8 x 8 && u8 y 3 / 64 == 0 then (if u8 x 8 ≤ 9 then some (u8 x 8) else none) else none

/-- The value that leaves the drain for accumulator `acc` (R213, R252, R253): references `la` and `lw`, row factor entry
`rf`, column factor address `cf` and table entry `i`. -/
def drainVal (s : State) (p : Nat) (d : Bytes) (acc : Int) (la lw : Int) (rf cf i : Nat) : FV :=
  let path := u8 d 21
  if bit path 0 then
    let v := match FV.ofInt acc with
      | .fin n q => FV.fin n (Q.shift q (la + lw - 22))
      | o => o
    let v := if bit path 1 then fpMul v (fmtVal 7 (localLe s p (leAt d 28 4 + 4 * rf) 4)) else v
    if bit path 2 then fpMul v (fmtVal 7 (localLe s p cf 4)) else v
  else
    let e := localBytes s p (leAt d 24 4 + 16 * i) 16
    match FV.ofInt ((acc + toSigned 32 (leAt e 4 4)) * toSigned 24 (leAt e 0 3)) with
    | .fin n q => .fin n (Q.shift q (-((u8 e 3 % 64 : Nat) : Int)))
    | o => o

/-- A status record (R214). -/
def statusRecord (accSat edgeSat invalid : Bool) (cells rows cols : Nat) : Bytes :=
  le 2 (b2n accSat + 2 * b2n edgeSat + 4 * b2n invalid) ++ le 2 cells ++ le 2 rows ++ le 2 cols ++ zeros 8

/-- A chain's dimensions; before any AMUL, those that the slot shows (R230). -/
def chainDims (x : Slot) : Nat × Nat × Nat :=
  match x.chain with
  | some c => (c.mode, c.m, c.n)
  | none => (0, Config.idleRows.toNat + 1, Config.idleCols.toNat + 1)
/-- The cells of a slot with their checksum entries: cell, row entry, column entry. -/
def slotCells (x : Slot) : List (Nat × Nat × Nat) :=
  let (mode, m, n) := chainDims x
  (List.range (modeP mode)).flatMap fun j => (List.range m).flatMap fun i => (List.range n).map fun c =>
    (cellOf mode j i c, crKey mode j c, ccKey mode j i c)
/-- Distinct numbers of a list. -/
def distinct (l : List Nat) : List Nat := l.foldl sadd []
/-- The check of a slot (R210, R211, R223): failing row entries, failing column entries, suppressed rows and columns. -/
def checkSlot (x : Slot) : List Nat × List Nat × List Nat × List Nat :=
  let cs := slotCells x
  let satc := cs.filter fun c => x.sat.contains c.1
  let supR := distinct (satc.map (·.2.2))
  let supC := distinct (satc.map (·.2.1))
  let sumOf := fun (l : List (Nat × Nat × Nat)) => ofSigned 64 (l.foldl (fun t c => t + mgetD x.acc c.1 0) 0)
  let rows := (distinct (cs.map (·.2.2))).filter fun r =>
    !supR.contains r && sumOf (cs.filter fun c => c.2.2 == r) != mgetD x.cc r 0
  let cols := (distinct (cs.map (·.2.1))).filter fun q =>
    !supC.contains q && sumOf (cs.filter fun c => c.2.1 == q) != mgetD x.cr q 0
  (rows, cols, supR, supC)
/-- The cell of one failing row entry and one failing column entry, where they meet (R210). -/
def located (x : Slot) (rows cols : List Nat) : Option Nat :=
  match rows, cols with
  | [r], [q] => ((slotCells x).find? fun c => c.2.2 == r && c.2.1 == q).map (·.1)
  | _, _ => none
/-- Row and column fields of ARRAY_CHECKSUM for a cell: of the array, or in mode 3 the entries of R223. -/
def cellFields (mode cell : Nat) : Nat × Nat :=
  if mode = 3 then (8 * (cell % 512 / 64) + cell / 512, cell % 64) else (cell / 64, cell % 64)

/-- Bit `b` of an accumulator changes: an upset inside the array, which the checksums do not follow. -/
def flipAcc (x : Slot) (cell b : Nat) : Slot :=
  { x with acc := msetD x.acc cell (toSigned 48 (ofSigned 48 (mgetD x.acc cell 0) ^^^ 2 ^ (b % 48))) 0 }

/-- ARRAY_CHECKSUM of slot `sl` of the physical array `a` (R216, R219): counted, recorded, and counted towards the array's retirement. -/
def arrayFail (p a sl : Nat) (x : Slot) (rows cols : List Nat) (s : State) : State :=
  let loc := located x rows cols
  let (r, q) := match loc with | some c => cellFields (chainDims x).1 c | none => (0, 0)
  let s := arrErr p 0 s
  let s := if loc.isNone then arrErr p 4 s else s
  let (ret, s) := arrayEvent p a (match loc with | some c => c + 1 | none => 0) s
  let s := coreFault p 0x0201 (if ret then 2 else 0) 4 (4 * p + a)
    (a + 4 * sl + 16 * b2n loc.isSome + 256 * r + 65536 * q + 2 ^ 24 * (core s p).rid) s
  if ret then retireArray p a s else s

/-- The output rows of one array: address and bytes (R251), with the draws made. -/
def drainRows (s : State) (p a f : Nat) (d : Bytes) (x : Slot) (n : Nar) : List (Nat × Bytes) × Nar :=
  let (mode, m, cols) := chainDims x
  let la := fun i => match x.chain with | some c => signed8 (c.arefs.getD i 11) | none => 11
  let lw := fun i => match x.chain with | some c => signed8 (c.wrefs.getD i 11) | none => 11
  (List.range (modeP mode * m)).foldl (fun (acc : List (Nat × Bytes) × Nar) r =>
    let j := r / m
    let (cs, n) := (List.range cols).foldl (fun (t : List Nat × Nar) c =>
      let v := drainVal s p d (mgetD x.acc (cellOf mode j (r % m) c) 0) (la r) (lw (j * cols + c)) r
        (leAt d (32 + 4 * a) 4 + 4 * (j * cols + c)) (512 * a + j * cols + c)
      let (o, n) := narrow f v t.2
      (t.1 ++ [o], n)) ([], acc.2)
    (acc.1 ++ [(leAt d (4 * a) 4 + r * leAt d 16 4, packCodes (fmtWidth f) cs)], n)) ([], n)

/-- Memory that a drain of array `a` reads and writes lies in the core store, and DADDR is a multiple of 4. -/
def drainRanges (d : Bytes) (x : Slot) (a f : Nat) : Bool :=
  let (mode, m, cols) := chainDims x
  let rows := modeP mode * m
  let np := modeP mode * cols
  leAt d (4 * a) 4 % 4 == 0
    && ((List.range rows).all fun r => localIn (leAt d (4 * a) 4 + r * leAt d 16 4) ((cols * fmtWidth f + 7) / 8))
    && localIn (leAt d 48 4 + 16 * a) 16
    && (!(bit (u8 d 21) 0 && bit (u8 d 21) 1) || localIn (leAt d 28 4) (4 * rows))
    && (!(bit (u8 d 21) 0 && bit (u8 d 21) 2) || localIn (leAt d (32 + 4 * a) 4) (4 * np))
    && (bit (u8 d 21) 0 || localIn (leAt d 24 4 + 16 * (512 * a)) (16 * np))
/-- Poison among what a drain of array `a` reads. -/
def drainPoison (s : State) (p : Nat) (d : Bytes) (x : Slot) (a : Nat) : Bool :=
  let (mode, m, cols) := chainDims x
  let np := modeP mode * cols
  (bit (u8 d 21) 0 && bit (u8 d 21) 1 && localPoison s p (leAt d 28 4) (4 * (modeP mode * m)))
    || (bit (u8 d 21) 0 && bit (u8 d 21) 2 && localPoison s p (leAt d (32 + 4 * a) 4) (4 * np))
    || (!bit (u8 d 21) 0 && localPoison s p (leAt d 24 4 + 16 * (512 * a)) (16 * np))
/-- Entries of the rescale table that a drain of array `a` reads. -/
def drainEntries (x : Slot) (a : Nat) : List Nat :=
  let (mode, _, cols) := chainDims x
  (List.range (modeP mode * cols)).map fun i => 512 * a + i

/-- The slot of array `a` that the drain `w` names. -/
def drainSlot (s : State) (p w a : Nat) : Slot := slotAt s p (slotKey s p a (bits w 107 106))
/-- The arrays of a drain whose slots are valid. -/
def drainLive (s : State) (p w : Nat) : List Nat := (armed4 (bits w 111 108)).filter fun a => !(drainSlot s p w a).invalid
/-- OFMT of the drain `w`, where its table entries agree on one. -/
def drainOfmt (s : State) (p w : Nat) : Option Nat :=
  drainFmt s p (drainDesc s p (bits w 105 85 * 32)) ((drainLive s p w).flatMap fun a => drainEntries (drainSlot s p w a) a)
/-- The drain is legal (R212, R217, R251, R254): its descriptor and ranges, and no chain begun before its open region. -/
def drainLegal (s : State) (p : Nat) (e : EI) : Bool :=
  let arr := armed4 (bits e.w 111 108)
  let d := drainDesc s p (bits e.w 105 85 * 32)
  !(e.region && (core s p).open_ && arr.any fun a => (drainSlot s p e.w a).old && (drainSlot s p e.w a).chain.isSome)
    && drainOk d && (drainOfmt s p e.w).isSome && arr.all fun a => drainRanges d (drainSlot s p e.w a) a ((drainOfmt s p e.w).getD 0)
/-- The slots of the drain whose checksums do not match (R210). -/
def drainBad (s : State) (p w : Nat) : List Nat :=
  (drainLive s p w).filter fun a => let c := checkSlot (drainSlot s p w a); !(c.1.isEmpty && c.2.1.isEmpty)
/-- The status record of a slot that drains (R214). -/
def slotRecord (x : Slot) : Bytes :=
  let c := checkSlot x
  if x.invalid then statusRecord false false true 0 0 0
  else statusRecord x.accSat x.edgeSat false x.sat.length c.2.2.1.length c.2.2.2.length
/-- The rows and status records of a drain whose checks hold are written (R213, R214, R251), and its saturation counted and recorded. -/
def drainOut (p w : Nat) (s : State) : State :=
  let d := drainDesc s p (bits w 105 85 * 32)
  let arr := armed4 (bits w 111 108)
  let live := drainLive s p w
  let (out, n) := live.foldl (fun (acc : List (Nat × Bytes) × Nar) a =>
    let (o, n) := drainRows s p a ((drainOfmt s p w).getD 0) d (drainSlot s p w a) acc.2
    (acc.1 ++ o, n)) ([], { free := s.free })
  let t := out.foldl (fun t o => localWrite p o.1 o.2 t) (useNar p n s)
  let t := arr.foldl (fun t a => localWrite p (leAt d 48 4 + 16 * a) (slotRecord (drainSlot s p w a)) t) t
  let t := if live.any fun a => (drainSlot s p w a).accSat || (drainSlot s p w a).edgeSat then arrErr p 1 t else t
  if live.any fun a => (drainSlot s p w a).accSat then
    coreFault p 0x0503 0 0xFF (lcore t p) (min 8191 ((live.map fun a => (drainSlot s p w a).sat.length).foldl (· + ·) 0)) t
  else t

/-- The drain `e` with its arrays as they stand (R210 to R219). -/
def drainStep (p : Nat) (e : EI) (s : State) : State :=
  let w := e.w
  let arr := armed4 (bits w 111 108)
  if localPoison s p (bits w 105 85 * 32) 64 then refuseEi p 0 e s
  else if !drainLegal s p e then illegalEi p 0 e s
  else if (drainLive s p w).any fun a => drainPoison s p (drainDesc s p (bits w 105 85 * 32)) (drainSlot s p w a) a then refuseEi p 0 e s
  else
    let s := if arr.any (bit (arrMask s p)) then arrErr p 3 s else s
    if (drainBad s p w).isEmpty then doneEi p 0 e (drainOut p w s)
    else
      let t := (drainBad s p w).foldl (fun t a =>
        let x := drainSlot s p w a
        let c := checkSlot x
        let k := slotKey s p a (bits w 107 106)
        arrayFail p (k / 3) (k % 3) x c.1 c.2.1 t) s
      failCheck p e 0x0201 (doneEi p 0 e t)

/-- Accumulator bits that changed inside the arrays `arr` since they were written: array, cell and bit. -/
def flipSlots (p w : Nat) (flips : List (Nat × Nat × Nat)) (s : State) : State :=
  flips.foldl (fun s f =>
    let k := slotKey s p f.1 (bits w 107 106)
    if (armed4 (bits w 111 108)).contains f.1 then setAccSlot p k (flipAcc (slotAt s p k) f.2.1 f.2.2) s else s) s
/-- ADRAIN. `flips` names accumulator bits that changed inside the arrays since they were written: array, cell and bit. -/
def execAdrain (p : Nat) (flips : List (Nat × Nat × Nat)) (s : State) : Host.Outcome State Fault Refusal :=
  .next <| engStep p 0 0 3 (fun e s => drainStep p e (flipSlots p e.w flips s)) s

/-! ### MVMUL (R225 to R229) -/

/-- The plain address parts of a weight byte in the matrix-vector layout (R366): local address of byte `j` of column `n`. -/
def mvAddr (waddr cb n j : Nat) : Nat :=
  let g := 32 * max (waddr / 2 ^ 26) 1
  waddr + (n / 64 * ((cb + g - 1) / g) + j / g) * (64 * g) + n % 64 * g + j % g

/-- The matrix-vector unit is retired (R229). -/
def retireMv (p : Nat) (s : State) : State :=
  coreFault p 0x0302 2 5 p 0 { s with nv := { s.nv with mvRetired := setBit s.nv.mvRetired p } }
/-- A counted event of the matrix-vector unit's channel (R512). -/
def mvEvent (p : Nat) (s : State) : Bool × State := if bit s.nv.mvRetired p then (false, s) else channelEvent 5 p 0 s

/-- The weight descriptor of an MVMUL (R227): addresses of weights, scales, references and check vector, first sequence number,
format, scaling and the bytes of one column. -/
structure MvDesc where
  waddr : Nat
  saddr : Nat
  raddr : Nat
  caddr : Nat
  seq0 : Nat
  fmt : Nat
  scaled : Bool
  ok : Bool
deriving DecidableEq, Repr

def mvDesc (s : State) (p w : Nat) : MvDesc :=
  let b := localBytes s p (bits w 66 46 * 32) 32
  let x := u8 b 18
  { waddr := leAt b 0 4, saddr := leAt b 4 4, raddr := leAt b 8 4, caddr := leAt b 12 4, seq0 := leAt b 16 2, fmt := x % 8,
    scaled := bit x 3, ok := x / 16 == 0 && zeroAt b 19 13 && decide (x % 8 ≤ 4) && (bit x 3 || x % 8 ≤ 1) }
def mvK (w : Nat) : Nat := bits w 97 79
def mvCols (w : Nat) : Nat := bits w 78 67 + 1
/-- Bytes of one column of weights. -/
def mvColBytes (s : State) (p w : Nat) : Nat := lineBytes (mvK w) (fmtWidth (mvDesc s p w).fmt)
/-- OFMT of an MVMUL's drain. -/
def mvFmt (s : State) (p w : Nat) : Option Nat := drainFmt s p (drainDesc s p (bits w 45 25 * 32)) (List.range (mvCols w))

/-- The MVMUL is legal (R225 to R228, R230): its descriptors, its half, and the memory that it reads and writes. -/
def mvLegal (s : State) (p w : Nat) : Bool :=
  let k := mvK w
  let cols := mvCols w
  let x := mvDesc s p w
  let d := drainDesc s p (bits w 45 25 * 32)
  let ofmt := mvFmt s p w
  let g := 32 * max (x.waddr / 2 ^ 26) 1
  let cb := mvColBytes s p w
  let top := mvAddr x.waddr cb (cols - 1) (cb - 1)
  x.ok && drainOk d && ofmt.isSome
    && halfOk (halfAt s p (bits w 111 111)) [0] (bits w 110 98 * 32) k x.scaled x.fmt && x.waddr % 2 ^ 26 % (64 * g) == 0
    && (k = 0 || (localIn x.waddr (top + 1 - x.waddr) && localIn x.caddr (4 * k)
      && (!x.scaled || (localIn x.saddr (cols * (k / 32)) && localIn x.raddr cols))))
    && leAt d 0 4 % 4 == 0 && localIn (leAt d 0 4) ((cols * fmtWidth (ofmt.getD 0) + 7) / 8) && localIn (leAt d 48 4) 16
    && (!(bit (u8 d 21) 0 && bit (u8 d 21) 1) || localIn (leAt d 28 4) 4)
    && (!(bit (u8 d 21) 0 && bit (u8 d 21) 2) || localIn (leAt d 32 4) (4 * cols))
    && (bit (u8 d 21) 0 || localIn (leAt d 24 4) (16 * cols))
/-- Poison among what the MVMUL reads. -/
def mvPoison (s : State) (p w : Nat) : Bool :=
  let k := mvK w
  let cols := mvCols w
  let x := mvDesc s p w
  let cb := mvColBytes s p w
  localPoison s p (bits w 66 46 * 32) 32 || localPoison s p (bits w 45 25 * 32) 64 || (mvLegal s p w && k != 0 &&
    (((List.range cols).any fun n => (List.range cb).any fun j => localPoison s p (mvAddr x.waddr cb n j) 1)
      || localPoison s p x.caddr (4 * k) || (x.scaled && (localPoison s p x.saddr (cols * (k / 32)) || localPoison s p x.raddr cols))))

/-- Reference of column `n` of the weights. -/
def mvRef (s : State) (p : Nat) (x : MvDesc) (n : Nat) : Nat := if x.scaled then (localByte s p (x.raddr + n)).toNat else 11
/-- The edge integers of X and of every column; whether an edge value was clamped; the draws. -/
def mvEdges (s : State) (p w : Nat) : List Int × List (List Int) × Bool × Nar :=
  let k := mvK w
  let x := mvDesc s p w
  let cb := mvColBytes s p w
  let (xs, st, n) := halfLine (halfAt s p (bits w 111 111)) 0 (bits w 110 98 * 32) k { free := s.free }
  let (lw, st', n) := edgeAll (fun c n => edgeLine x.fmt x.scaled (signed8 (mvRef s p x c))
    (fun t => codeAt (fmtWidth x.fmt) (fun j => localByte s p (mvAddr x.waddr cb c j)) t)
    (fun blk => (localByte s p (x.saddr + c * (k / 32) + blk)).toNat) 0 k n) (List.range (mvCols w)) n
  (xs, lw, st || st', n)
/-- The check value: the sum of X over the check vector (R227). -/
def mvCheck (s : State) (p w : Nat) (xs : List Int) : Nat :=
  ofSigned 64 ((xs.zipIdx).foldl (fun t y => t + y.1 * toSigned 32 (localLe s p ((mvDesc s p w).caddr + 4 * y.2) 4)) 0)
/-- MVMUL runs on the matrix-vector path (R228, R229). -/
def mvOnPath (s : State) (p : Nat) : Bool := !bit (core s p).mode 0 && !bit s.nv.mvRetired p
/-- GEMV_CHECK (R227): a failed check counts towards the path's retirement where the MVMUL ran on it (R229, R512). -/
def gemvFail (p : Nat) (s : State) : State :=
  let on := mvOnPath s p
  let (ret, s) := if on then mvEvent p s else (false, s)
  let s := coreFault p 0x0202 (if ret then 2 else 0) (if on then 5 else 0xFF) (if on then p else lcore s p) (2 ^ 24 * (core s p).rid)
    (arrErr p 2 s)
  if ret then retireMv p s else s
/-- The codes that the sums `y` drain to. -/
def mvCodes (s : State) (p w : Nat) (y : Nat → Int) (n : Nar) : List Nat × Nar :=
  let x := mvDesc s p w
  let d := drainDesc s p (bits w 45 25 * 32)
  (List.range (mvCols w)).foldl (fun (t : List Nat × Nar) c =>
    let v := drainVal s p d (y c) (signed8 (halfRef (halfAt s p (bits w 111 111)) 0)) (signed8 (mvRef s p x c)) 0 (leAt d 32 4 + 4 * c) c
    let (o, n) := narrow ((mvFmt s p w).getD 0) v t.2
    (t.1 ++ [o], n)) ([], n)
/-- What an MVMUL counts (R231). -/
def mvCount (p w : Nat) (x : MvDesc) (s : State) : State :=
  util p (if fmtWidth x.fmt = 4 then 0x1E8 else 0x1F0) (mvCols w * mvK w)
    (perf (baseArr p + 0x10) 1 (perf (baseArr p + 0x18) (mvCols w * mvK w) s))

/-- The groups of 512 columns of an MVMUL that runs on the arrays in mode 3 with M = 1 (R229), each as the slot that it leaves:
accumulators and the checksums of R223. -/
def mvSlots (xs : List Int) (lw : List (List Int)) (flips : List (Nat × Nat)) : List Slot :=
  (List.range ((lw.length + 511) / 512)).map fun g =>
    let l := (lw.drop (512 * g)).take 512
    let x := feedProblem 3 0 xs.length [xs] l {
      chain := some { mode := 3, m := 1, n := l.length, afmt := 0, ascaled := false, wfmt := 0, wscaled := false, arefs := [], wrefs := [] } }
    (flips.filter fun f => f.1 / 512 == g).foldl (fun x f => flipAcc x (f.1 % 512) f.2) x
/-- The array checks of an MVMUL that runs on the arrays: every group's slot, with the array and the slot that hold it, and what fails. -/
def mvFails (s : State) (p : Nat) (l : List Slot) : List (Nat × Nat × Slot × List Nat × List Nat) :=
  let live := (List.range 4).filter fun i => !bit (arrMask s p) i
  (l.zipIdx).filterMap fun (x, g) =>
    let c := checkSlot x
    if c.1.isEmpty && c.2.1.isEmpty then none
    else some (live.getD ((Config.mvArray g).toNat % live.length) 0, (Config.mvSlot g).toNat, x, c.1, c.2.1)

/-- The sums of an MVMUL with their saturation (R226), before any bit has changed. -/
def mvSums (xs : List Int) (lw : List (List Int)) : List (Int × Bool) := lw.map fun l => accLine xs l 0
/-- Columns of an MVMUL whose sum saturated. -/
def mvSat (xs : List Int) (lw : List (List Int)) : Nat := ((mvSums xs lw).filter (·.2)).length
/-- The sum of column `i`, with the bits that `flips` names changed. -/
def mvSum (xs : List Int) (lw : List (List Int)) (flips : List (Nat × Nat)) (i : Nat) : Int :=
  flips.foldl (fun v f => if f.1 = i then toSigned 48 (ofSigned 48 v ^^^ 2 ^ (f.2 % 48)) else v) ((mvSums xs lw).getD i (0, false)).1
/-- GEMV's check fails (R227): no column saturated, and the sums do not add up to the check value. -/
def gemvBad (s : State) (p w : Nat) (xs : List Int) (lw : List (List Int)) (flips : List (Nat × Nat)) : Bool :=
  mvSat xs lw == 0 && mvCheck s p w xs != ofSigned 64 ((List.range (mvCols w)).foldl (fun t i => t + mvSum xs lw flips i) 0)
/-- The slots that an MVMUL leaves on the arrays, none where it runs on the matrix-vector path. -/
def mvHeld (s : State) (p : Nat) (xs : List Int) (lw : List (List Int)) (flips : List (Nat × Nat)) : List Slot :=
  if mvOnPath s p then [] else mvSlots xs lw flips
/-- The status record of an MVMUL whose checks hold (R214, R228). -/
def mvRecord (s : State) (p : Nat) (xs : List Int) (lw : List (List Int)) (clamp : Bool) (l : List Slot) : Bytes :=
  let nsat := mvSat xs lw
  let sup := l.map checkSlot
  let (rows, cols) := if mvOnPath s p then (b2n (nsat != 0), nsat)
    else ((sup.map (·.2.2.1.length)).sum, (sup.map (·.2.2.2.length)).sum)
  statusRecord (nsat != 0) clamp false nsat rows cols
/-- The row and the status record of an MVMUL whose checks hold are written, and its saturation counted and recorded. -/
def mvOut (p w : Nat) (flips : List (Nat × Nat)) (s : State) : State :=
  let d := drainDesc s p (bits w 45 25 * 32)
  let (xs, lw, clamp, n) := mvEdges s p w
  let nsat := mvSat xs lw
  let (cs, n) := mvCodes s p w (mvSum xs lw flips) n
  let t := mvCount p w (mvDesc s p w) (useNar p n s)
  let t := localWrite p (leAt d 0 4) (packCodes (fmtWidth ((mvFmt s p w).getD 0)) cs) t
  let t := localWrite p (leAt d 48 4) (mvRecord s p xs lw clamp (mvHeld s p xs lw flips)) t
  let t := if nsat != 0 || clamp then arrErr p 1 t else t
  if nsat = 0 then t else coreFault p 0x0503 0 0xFF (lcore t p) nsat t

/-- MVMUL. `skew` as for ALOAD, in the stream of columns and blocks; `flips` names bits of the sums that changed: column and bit. -/
def execMvmul (p : Nat) (skew : Option (Nat × Nat)) (flips : List (Nat × Nat)) (s : State) : Host.Outcome State Fault Refusal :=
  .next <| engStep p 1 1 1 (fun e s =>
    let w := e.w
    let x := mvDesc s p w
    let d := drainDesc s p (bits w 45 25 * 32)
    if mvPoison s p w then refuseEi p 1 e s
    else if !mvLegal s p w then illegalEi p 1 e s
    else
      let invalid := fun s => localWrite p (leAt d 48 4) (statusRecord false false true 0 0 0) s
      let onPath := mvOnPath s p
      if (halfAt s p (bits w 111 111)).invalid && mvK w != 0 then
        let s := doneEi p 1 e (mvCount p w x (invalid s))
        if e.region && (core s p).open_ then failCheck p e 0x0204 s else s
      else match x.scaled && (skew.any fun k => decide (k.1 < mvK w / 32) && seqDiffers (x.seq0 + k.1) k.2), skew with
      | true, some (i, found) =>
        let s := doneEi p 1 e (mvCount p w x (invalid s))
        let (ret, s) := if onPath then mvEvent p s else (false, s)
        let s := skewFault p e (if ret then 2 else 0) (if onPath then 5 else 0xFF) (if onPath then p else lcore s p) (x.seq0 + i) found s
        if ret then retireMv p s else s
      | _, _ =>
        let (xs, lw, _, n) := mvEdges s p w
        let gemv := gemvBad s p w xs lw flips
        let fails := mvFails s p (mvHeld s p xs lw flips)
        if gemv || !fails.isEmpty then
          let s := fails.foldl (fun s f => arrayFail p f.1 f.2.1 f.2.2.1 f.2.2.2.1 f.2.2.2.2 s) (mvCount p w x (useNar p n s))
          failCheck p e (if gemv then 0x0202 else 0x0201) (doneEi p 1 e (if gemv then gemvFail p s else s))
        else doneEi p 1 e (mvOut p w flips s)) s

end Sys2Proof.Machine
end

