-- ==== Sys2Proof/Machine/Wire.lean ====
section
/-! DEFINITION. What the helm sends: Brixvia frames of a session (R471, R472, R475) and Weltix frames along a path (R419). -/

namespace Sys2Proof.Machine

open Sys2Proof

/-! ### Brixvia (R471, R472) -/

/-- Session `i` is closed: what it held is gone, and its bulk transfers end (R477). -/
def closeSess (i : Nat) (s : State) : State := setSess i {} s

/-- A protected frame of session `i` leaves on its active port, with the next PN and the acknowledgement due. -/
def frameOut (i type flags fseq : Nat) (body : Bytes) (s : State) : State :=
  let x := sess s i
  setSess i { x with pnTx := x.pnTx + 1, ackDue := none } (emit (.bx x.port i type flags x.pnTx fseq x.fseqRx body) s)

/-- CLOSE with `reason` leaves, and the session closes. -/
def sendClose (i reason : Nat) (s : State) : State :=
  closeSess i (frameOut i 0x42 0 (sess s i).fseqTx (be 2 reason ++ zeros 2) s)

/-- A frame that is not sequenced; the last packet number is kept for CLOSE (R471). -/
def sendPlain (i type : Nat) (body : Bytes) (s : State) : State :=
  if !(sess s i).opened then s
  else if 2 ^ 48 ≤ (sess s i).pnTx + 1 then sendClose i 1 s else frameOut i type 0 0 body s

/-- A sequenced frame leaves now, and is held until it is acknowledged. -/
def txSeq (i type flags : Nat) (body : Bytes) (s : State) : State :=
  if 2 ^ 48 ≤ (sess s i).pnTx + 1 then sendClose i 1 s
  else
    let x := sess s i
    let f : TxFrame := { fseq := x.fseqTx, type := type, flags := flags, body := body }
    frameOut i type flags x.fseqTx body (setSess i { x with
      fseqTx := (x.fseqTx + 1) % 2 ^ 32, unacked := x.unacked ++ [f], ackT := if x.unacked.isEmpty then now s else x.ackT } s)

/-- A sequenced frame leaves, or waits while 4,096 are unacknowledged. -/
def sendSeq (i type flags : Nat) (body : Bytes) (s : State) : State :=
  let x := sess s i
  if !x.opened then s
  else if 4096 ≤ x.unacked.length || !x.waiting.isEmpty then
    setSess i { x with waiting := x.waiting ++ [{ fseq := 0, type := type, flags := flags, body := body }] } s
  else txSeq i type flags body s

/-- Waiting frames leave while fewer than 4,096 are unacknowledged; at most `fuel` of them. -/
def pumpSess (fuel i : Nat) (s : State) : State :=
  match fuel with
  | 0 => s
  | fuel + 1 =>
    let x := sess s i
    match x.waiting with
    | [] => s
    | f :: r => if 4096 ≤ x.unacked.length then s
      else pumpSess fuel i (txSeq i f.type f.flags f.body (setSess i { x with waiting := r } s))

/-! ### Paths (R401, R419) -/

def pathLen (f : Bytes) : Nat := u8 f 2 % 16
def pathPtr (f : Bytes) : Nat := u8 f 2 / 16
def pathRev (f : Bytes) : Bool := bit (u8 f 3) 0
/-- Entry `i` of PATH. -/
def pathAt (f : Bytes) (i : Nat) : Nat := beAt f 4 6 / 2 ^ (3 * i) % 8
/-- `f` with PPTR `p`. -/
def setPtr (p : Nat) (f : Bytes) : Bytes := f.set 2 (BitVec.ofNat 8 (pathLen f + 16 * p))
/-- `f` with entry `i` of PATH set to link `n`. -/
def setPathAt (i n : Nat) (f : Bytes) : Bytes :=
  let v := beAt f 4 6
  f.take 4 ++ be 6 (v - pathAt f i * 2 ^ (3 * i) + n * 2 ^ (3 * i)) ++ f.drop 10

/-- A path-mode frame leaves on the link that its pointer names, or is discarded and counted where that link is not up. -/
def sendPath (f : Bytes) (s : State) : State :=
  let n := if pathRev f then pathAt f (pathPtr f - 1) else pathAt f (pathPtr f)
  if linkUp s n then enqueue n f s else errc (baseCl + 0x04) (baseCl + 0x0C) 0 1 s

/-- A kind 5 frame of this chip's helm answers the frame with routing bytes `path` that came from chip `dest`. A chip that still has
no id sends no tag (R30, R420). -/
def answerControl (path : Bytes) (dest wid : Nat) (body : Bytes) (s : State) : State :=
  let (tag, s) := newTag (helmUnit s) 5 dest wid (newestNum s) 0xFFFFFFFF 7 0 false false s
  if s.chip.isNone then s
  else if pathLen path = 0 then sendTag dest tag body s
  else
    let back := setPtr (pathLen path) (path.set 3 1)
    sendPath (pathFrame back (tagBytes tag) body) s

end Sys2Proof.Machine
end

