-- ==== Sys2Proof/Machine/Mailbox.lean ====
section
/-! DEFINITION. Mailboxes (R457 to R466): rings, fences, the checks of R463 and completion. A command's own effect is a handler;
the row of a command rings a mailbox with that request and starts it. -/

namespace Sys2Proof.Machine

open Sys2Proof

/-! ### Calls and their results -/

/-- A command as its handler sees it: who waits for it (a mailbox, or 65,536 + a relayed command), the session of its
authority, the version it is run under, and its payload. -/
structure Call where
  who : Nat
  sess : Nat
  gen : Nat
  ifv : Nat
  anchored : Bool
  relayed : Bool := false
  seq : Nat
  p : Bytes
  cr : Crypto
deriving DecidableEq, Repr

/-- What a handler answers: a status with DETAIL and payload, and the state; or that the command goes on (`waits`). -/
structure CmdRes where
  status : Nat := 0
  detail : Nat := 0
  out : Bytes := []
  waits : Bool := false
  s : State
deriving DecidableEq, Repr

/-- A rejection: no effect (R463). -/
def rej (status : Nat) (s : State) : CmdRes := { status := status, s := s }
/-- A rejection with DETAIL. -/
def rejAt (status detail : Nat) (s : State) : CmdRes := { status := status, detail := detail, s := s }
/-- OK. -/
def okay (s : State) : CmdRes := { s := s }
/-- OK with a payload. -/
def reply (out : Bytes) (s : State) : CmdRes := { out := out, s := s }
/-- The first row of a rejections table whose condition holds gives the status, with DETAIL 0; else `k` goes on. -/
def rows (l : List (Nat × Bool)) (s : State) (k : CmdRes) : CmdRes :=
  match l with
  | [] => k
  | (st, c) :: r => if c then rej st s else rows r s k

/-! ### The catalogue (R467) -/

/-- Opcodes and the version since which each exists. -/
def catalogue : List (Nat × Nat) :=
  [(0x0001, 0x10), (0x0002, 0x10), (0x0003, 0x10), (0x0004, 0x11), (0x0102, 0x10), (0x0201, 0x10), (0x0202, 0x10),
   (0x0301, 0x10), (0x0302, 0x10), (0x0303, 0x10), (0x0401, 0x10), (0x0402, 0x10), (0x0501, 0x10), (0x0502, 0x10),
   (0x0503, 0x10), (0x0601, 0x10), (0x0610, 0x10), (0x0611, 0x10), (0x0620, 0x10), (0x0621, 0x10), (0x0622, 0x10)] ++
  [(0x0701, 0x10), (0x0702, 0x10), (0x0703, 0x10), (0x0801, 0x10), (0x0802, 0x12), (0x0901, 0x10), (0x0A01, 0x10),
   (0x0A02, 0x10), (0x0A10, 0x10), (0x0B01, 0x10), (0x0B02, 0x10), (0x0B03, 0x10), (0x0B10, 0x13), (0x0C01, 0x10),
   (0x0C02, 0x10), (0x0C03, 0x10), (0x0C04, 0x10), (0x0C05, 0x14), (0x0D01, 0x10), (0x0D02, 0x10), (0x0D03, 0x10)] ++
  [(0x0D04, 0x10), (0x0D10, 0x10), (0x0D11, 0x10), (0x0D20, 0x10), (0x0D21, 0x10), (0x0D30, 0x10), (0x0D31, 0x10),
   (0x0D40, 0x10), (0x0D41, 0x10), (0x0D42, 0x10), (0x0E01, 0x10), (0x0E02, 0x10), (0x0F01, 0x10), (0x0F02, 0x10),
   (0x0F10, 0x10), (0x0F20, 0x10), (0x0F21, 0x10), (0x1001, 0x10), (0x1002, 0x10)]
/-- The version since which an opcode exists. -/
def opSince (op : Nat) : Option Nat := (catalogue.find? (·.1 == op)).map (·.2)
/-- The six commands of the boot ROM (R493). -/
def romOps : List Nat := [0x0001, 0x0002, 0x0D20, 0x0D21, 0x0D40, 0x0D41]
/-- What an unanchored session may use (R474). -/
def openOps : List Nat := [0x0001, 0x0002, 0x0004, 0x0D10, 0x0D11, 0x0D20, 0x0D21]
/-- Commands that need an island which a heave-to stops (R478). -/
def islandOps : List Nat := [0x0601, 0x0620, 0x0621, 0x0622, 0x0703, 0x0801, 0x0802, 0x0F01, 0x0F10]
/-- The boot ROM runs, not firmware (R493). -/
def romMode (s : State) : Bool := s.sys.boot != 2

/-- Checks 1 to 5 of R463 for a request under version `ver` (0: none negotiated). -/
def reqChecks (s : State) (ver : Nat) (anchored : Bool) (q : Rq) : Option Nat :=
  if ver = 0 && q.op ≠ 1 then some 9
  else if (match opSince q.op with | none => true | some v => decide (ver < v) && q.op != 1) then some 1
  else if q.op ≠ 1 && q.ifv ≠ ver then some 7
  else if 4080 < q.len then some 2
  else if q.rsvd ≠ 0 || q.flags / 2 ≠ 0 then some 3
  else if romMode s then (if romOps.contains q.op then none else some 9)
  else if !anchored && !openOps.contains q.op then some 8
  else none

/-! ### Responses (R458, R459) -/

/-- The bytes of a response. -/
def respBytes (r : Resp) : Bytes :=
  le 2 r.status ++ le 2 r.payload.length ++ le 4 r.seq ++ le 4 r.detail ++ zeros 4 ++ r.payload
/-- MBX_RESP of mailbox `m` to session `i`: bit 0 COLLISION, bit 1 REPLAY. -/
def sendResp (m i flags : Nat) (r : Resp) (s : State) : State :=
  sendSeq i 0x11 0 (le 1 m ++ le 1 flags ++ zeros 6 ++ respBytes r) s

/-- Counting a command that completes (R463). -/
def countCmd (status : Nat) (s : State) : State := if status = 0 then perf 0x300 1 s else errc 0x310 0x32C 0 1 s

/-- Mailbox `m` completes: the response is stored and sent to the session that rang (R459). -/
def completeMbx (m : Nat) (s : State) : State :=
  let x := mbx s m
  match x.st, x.ready with
  | 2, some r =>
    let s := countCmd r.status (setMbx m { x with st := 3, resp := some r, ready := none } s)
    let y := sess s x.sess
    if y.opened && y.gen = x.gen then sendResp m x.sess 0 r s else s
  | _, _ => s

/-- The command that `who` waits for has ended: a mailbox's, or a relayed one, which is answered (R421). -/
def endWait (who status detail : Nat) (out : Bytes) (s : State) : State :=
  if who < 65536 then
    let x := mbx s who
    match x.st, x.ready, x.rq with
    | 2, none, some q =>
      setMbx who { x with ready := some { op := q.op, seq := q.seq, status := status, detail := detail, payload := out } } s
    | _, _, _ => s
  else match s.cl.inner.find? (·.id == who - 65536) with
    | none => s
    | some e =>
      let r : Resp := { op := 0, seq := e.seq, status := status, detail := detail, payload := out.take 4064 }
      countCmd status <| answerControl e.path e.chip e.wid ([2] ++ zeros 6 ++ [0xFF] ++ respBytes r)
        { s with cl := { s.cl with inner := s.cl.inner.filter (·.id != e.id) } }

/-! ### Rings and fences (R459 to R462) -/

/-- Nothing rung before mailbox `m`'s request keeps it from starting (R461). -/
def fenceOpen (s : State) (m : Nat) : Bool :=
  let x := mbx s m
  let fence := match x.rq with | some q => bit q.flags 0 | none => false
  s.helm.mbx.all fun e =>
    e.1 == m || !(e.2.st == 1 || e.2.st == 2) || x.ticket ≤ e.2.ticket ||
      (!fence && !(match e.2.rq with | some q => bit q.flags 0 | none => false))

/-- A ring of mailbox `m` by session `i` with request `q` (R459, R462): collision, replay, or QUEUED. -/
def ringMbx (m i : Nat) (q : Rq) (s : State) : State :=
  let x := mbx s m
  if x.st = 1 || x.st = 2 then
    let s := errc 0x314 0x32C 1 1 (setMbx m { x with last := i } { s with helm := { s.helm with collide := setBit s.helm.collide m } })
    sendResp m i 1 { op := q.op, seq := q.seq, status := 6 } s
  else match x.resp.filter fun r => r.op == q.op && r.seq == q.seq with
    | some r => sendResp m i 2 r (setMbx m { x with last := i } s)
    | none =>
      let s := { s with helm := { s.helm with ticket := s.helm.ticket + 1 } }
      setMbx m { x with
        st := 1, sess := i, gen := (sess s i).gen, rq := some q, ticket := s.helm.ticket, ready := none, seq := q.seq,
        last := i, stalled := false } s

/-- The QUEUED command of mailbox `m`, or the BUSY one that waited for an island, starts where fences and the helm allow it:
the checks of R463, then the handler `h`, whose result is held until completion. -/
def startMbx (h : Call → State → CmdRes) (m : Nat) (cr : Crypto) (s : State) : State :=
  let x := mbx s m
  match x.rq with
  | none => s
  | some q =>
    if !helmUp s || !(x.st = 1 && fenceOpen s m || x.st = 2 && x.stalled) then s
    else
      let y := sess s x.sess
      let live := y.opened && y.gen == x.gen
      let ver := if live then y.ifv else q.ifv
      let put := fun (r : Option Resp) (st : Bool) (s : State) =>
        setMbx m { mbx s m with st := 2, ready := r, stalled := st } s
      let done := fun status => put (some { op := q.op, seq := q.seq, status := status }) false s
      match reqChecks s ver (if live then y.anchored else true) q with
      | some status => done status
      | none =>
        if holding s && islandOps.contains q.op then put none true s
        else
          let c : Call := { who := m, sess := x.sess, gen := x.gen, ifv := ver, anchored := live && y.anchored, seq := q.seq,
                            p := q.payload, cr := cr }
          let s := put none false s
          let r := h c s
          if r.waits then r.s
          else setMbx m { mbx r.s m with
            ready := some { op := q.op, seq := q.seq, status := r.status, detail := r.detail, payload := r.out } } r.s

/-- The request that a row's operand writes and rings. -/
def rqOf (op : Nat) (r : Req) : Rq :=
  { op := op, len := r.payload.length, seq := r.seq, ifv := r.ifv, flags := r.flags, rsvd := r.rsvd, payload := r.payload }
/-- The row of a mailbox command: an open session rings mailbox `r.mbx` with it, and it starts unless a fence holds it. -/
def mbxRow (op : Nat) (h : Call → State → CmdRes) (r : Req) (s : State) : State :=
  if !helmUp s || 32 ≤ r.mbx || 4 ≤ r.sess || !(sess s r.sess).opened then s
  else
    let t := ringMbx r.mbx r.sess (rqOf op r) s
    if t.helm.ticket = s.helm.ticket then t else startMbx h r.mbx r.cr t

end Sys2Proof.Machine
end

