-- ==== Sys2Proof/Machine/Chronometer.lean ====
section
/-! DEFINITION. The chronometer's servo and its setting (R374 to R380, R394): CH_SOURCE, CH_SET, reference comparisons, HOLDOVER and the
10 MHz reference. -/

namespace Sys2Proof.Machine

open Sys2Proof

def setCh (c : Chron) (s : State) : State := { s with ch := c }
/-- The count is stepped to `cnt`. What the servo counts from instants keeps its intervals. -/
def stepTo (cnt : Nat) (s : State) : State :=
  let d : Int := (cnt / 2 ^ 32 : Nat) - (now s : Int)
  let move := fun (t : Nat) => ((t : Int) + d).toNat
  let c := s.ch
  setCh { c with
    cnt := cnt, lastCmp := move c.lastCmp, lockT := move c.lockT, setWait := c.setWait.map fun w => { w with limit := move w.limit },
    masters := c.masters.map fun m => { m with till := move m.till } } s

/-- A configuration version is live (R375). -/
def verLive (s : State) : Bool := s.ver.newest.num != 0

/-! ### Source and setting -/

/-- The servo starts on a source (R380); without one, the rate is that of the clock (R378). -/
def selectSource (src lnk dom prof : Nat) (delay : Int) (s : State) : State :=
  setCh { s.ch with
    source := src, link := lnk, domain := dom, profile := prof, delayPs := delay, st := if src = 0 then 0 else 1, first := true,
    inLock := 0, lastCmp := now s, masters := [], adj := if src = 0 then 0 else s.ch.adj } s

/-- CH_SOURCE (0x0A01). -/
def chSource (c : Call) (s : State) : CmdRes :=
  let src := u8 c.p 0
  let l := u8 c.p 1
  let d := toSigned 32 (leAt c.p 4 4)
  rows [
    (2, c.p.length != 16),
    (3, 3 < src || 7 < l || 1 < u8 c.p 3 || (src != 3 && l != 0) || (src != 2 && (u8 c.p 2 != 0 || u8 c.p 3 != 0)) ||
      (src == 0 && d != 0) || !zeroAt c.p 8 8),
    (4, d < -10000000 || 10000000 < d),
    (11, src == 3 && bit s.nv.linkRetired l)] s (okay (selectSource src l (u8 c.p 2) (u8 c.p 3) d s))

/-- The count with a signed number of ns added, where it stays in range. -/
def stepped (s : State) (ns : Int) : Option Nat :=
  let v : Int := s.ch.cnt + ns * (2 ^ 32 : Nat)
  if 0 ≤ v && v < ((2 ^ 64 : Nat) : Int) * (2 ^ 32 : Nat) then some v.toNat else none

/-- CH_SET (0x0A02): OP 1 takes effect at once, OP 0 waits for the next 1PPS edge. -/
def chSet (c : Call) (s : State) : CmdRes :=
  let op := u8 c.p 0
  let v := leAt c.p 8 8
  let at_ := stepped s (toSigned 64 v)
  rows [
    (2, c.p.length != 16),
    (3, 1 < op || !zeroAt c.p 1 7),
    (9, verLive s || (op == 0 && s.ch.source != 1)),
    (4, if op = 0 then 2 ^ 64 ≤ v * 1000000000 else at_.isNone),
    (6, s.ch.setWait.isSome)] s <|
    if op = 0 then
      { waits := true, s := setCh { s.ch with setWait := some { who := c.who, value := v, limit := now s + 1100000000 } } s }
    else
      let s := stepTo (at_.getD s.ch.cnt) s
      okay (setCh { s.ch with valid := true } s)

/-- CH_SOURCE. -/
def execChSource (r : Req) (s : State) : Host.Outcome State Fault Refusal := .next (mbxRow 0x0A01 chSource r s)
/-- CH_SET. -/
def execChSet (r : Req) (s : State) : Host.Outcome State Fault Refusal := .next (mbxRow 0x0A02 chSet r s)

/-- CH_SET_PPS_EDGE (R394): a rising edge of 1PPS ends the CH_SET that waits for it. -/
def execChSetPpsEdge (s : State) : Host.Outcome State Fault Refusal :=
  .next <| match s.ch.setWait with
    | none => s
    | some w =>
      let s := setCh { s.ch with setWait := none } s
      if verLive s then endWait w.who 9 0 [] s
      else
        let s := stepTo (w.value * 1000000000 * 2 ^ 32) s
        endWait w.who 0 0 [] (setCh { s.ch with valid := true } s)

/-- CH_SET_TIMEOUT (R394). -/
def execChSetTimeout (s : State) : Host.Outcome State Fault Refusal :=
  .next <| match s.ch.setWait with
    | none => s
    | some w => if now s < w.limit then s else endWait w.who 10 0 [] (setCh { s.ch with setWait := none } s)

/-! ### The servo (R380) -/

/-- 10 ms and 2 ns in 1/256 ns. -/
def off10ms : Int := 2560000000
def off2ns : Int := 512
def within (off lim : Int) : Bool := decide (-lim ≤ off) && decide (off ≤ lim)

/-- The rate word takes another value of the servo's control law. -/
def newRate (s : State) : State :=
  let (n, s) := draw s
  setCh { s.ch with adj := clampI (-2147483) 2147483 (Config.servoRate n) } s

/-- The first `room` ns of a history of rates. -/
def trimHist (room : Nat) : List (Nat × Int) → List (Nat × Int)
  | [] => []
  | (n, r) :: l => if room ≤ n then [(room, r)] else (n, r) :: trimHist (room - n) l
/-- While LOCKED, the rate in force up to now enters the history of the last 60 s of lock. -/
def noteLock (s : State) : State :=
  let c := s.ch
  if c.st = 2 then setCh { c with lockHist := trimHist 60000000000 ((now s - c.lockT, c.adj) :: c.lockHist), lockT := now s } s else s
/-- The mean rate of the history, weighted by time; without one, the rate in force. -/
def meanRate (c : Chron) : Int :=
  let d : Nat := (c.lockHist.map (·.1)).foldl (· + ·) 0
  let a : Int := c.lockHist.foldl (fun a e => a + (e.1 : Int) * e.2) 0
  if d = 0 then c.adj else a / (d : Int)

/-- Entry into HOLDOVER raises TIME_HOLDOVER; `detail` 1 for "offset". The rate stays at its average over the last 60 s of lock. -/
def holdover (detail : Nat) (s : State) : State :=
  let s := noteLock s
  raiseF { code := 0x0803, unit := helmUnit s, version := newestNum s, detail := detail }
    (setCh { s.ch with st := 3, inLock := 0, adj := meanRate s.ch } s)

/-- A comparison counts towards lock: LOCKED after 16 in a row within 2 ns. -/
def towardLock (off : Int) (s : State) : State :=
  let n := if within off off2ns then s.ch.inLock + 1 else 0
  setCh { s.ch with inLock := n, st := if 16 ≤ n then 2 else s.ch.st, lockT := now s } s

/-- What DELAY_PS adds to the reference's time, in 1/256 ns (R378). -/
def delay256 (s : State) : Int := s.ch.delayPs * 256 / 1000
/-- A valid comparison of the source: `raw` is the reference's time minus the chronometer's in 1/256 ns, before DELAY_PS. -/
def refCompare (raw : Int) (s : State) : State :=
  if s.ch.source = 0 then s
  else
    let first := s.ch.first
    let off := raw + delay256 s
    let s := setCh { s.ch with offset := clampI (-2147483647) 2147483647 off, lastCmp := now s, first := false } s
    let s := if s.ch.st = 3 then s else newRate (noteLock s)
    match s.ch.st with
    | 1 =>
      if first && !verLive s then
        let s := stepTo ((s.ch.cnt : Int) + off * (2 ^ 24 : Nat)).toNat s
        setCh { s.ch with valid := s.ch.valid || s.ch.source != 1 } s
      else if verLive s && !within off off10ms then holdover 1 s
      else towardLock off s
    | 2 => if verLive s && !within off off10ms then holdover 1 s else s
    | 3 => if within off off10ms then setCh { s.ch with st := 1, inLock := 0 } s else s
    | _ => s

/-- The always-on domain and the chronometer island run the servo: not in SLEEP, nor while a system reset is held. -/
def servoUp (s : State) : Bool := s.ch.pwr != 2 && decide (s.sys.level < 2) && s.ch.vbk

/-- CH_REF_COMPARE. -/
def execChRefCompare (off : Int) (s : State) : Host.Outcome State Fault Refusal := .next (if servoUp s then refCompare off s else s)

/-- TIME_HOLDOVER: LOCKED without a valid comparison for 3 s. -/
def execTimeHoldover (s : State) : Host.Outcome State Fault Refusal :=
  .next (if servoUp s && s.ch.st == 2 && s.ch.lastCmp + 3000000000 ≤ now s then holdover 0 s else s)

/-- The always-on domain keeps the count: in SLEEP, or with the main rails off or their power-on reset in force (R377, R480). -/
def coarse (s : State) : Bool := s.ch.pwr == 2 || s.sys.level == 3

/-- REF10M_LOSS (R376). -/
def execRef10mLoss (s : State) : Host.Outcome State Fault Refusal := .next (setCh { s.ch with ref10 := false } s)
/-- REF10M_RETURN. -/
def execRef10mReturn (s : State) : Host.Outcome State Fault Refusal := .next (setCh { s.ch with ref10 := true } s)

end Sys2Proof.Machine
end

