-- ==== Sys2Proof/Machine/Context.lean ====
section
/-! DEFINITION. The save area of a core's context (R294, R295): what it holds, written to HBM and read back. -/

namespace Sys2Proof.Machine

open Sys2Proof

/-- Bytes of a context and of its save area (R294). -/
def ctxLen : Nat := 674304
def saveLen : Nat := 2 ^ 20

/-- `b` from offset `o`, as cells. -/
def cellsAt (o : Nat) (b : Bytes) : Mem := b.zipIdx.map fun x => (o + x.2, x.1)
/-- The values of `m` in entries of `n` bytes from offset `o`, as cells. -/
def cellsOf (o n : Nat) (m : Map Nat) : Mem := m.flatMap fun e => cellsAt (o + n * e.1) (le n e.2)
/-- The cells of `m` moved up by `o`. -/
def cellsUp (o : Nat) (m : Mem) : Mem := m.map fun c => (o + c.1, c.2)

/-- The 16 bytes of a half's state: format; SCALED in bit 0 and the invalid mark in bit 1; LINES; K. R294 does not place the fields. -/
def halfState (h : Half) : Bytes :=
  le 1 h.fmt ++ le 1 (b2n h.scaled + 2 * b2n h.invalid) ++ le 2 h.lines ++ le 4 h.k ++ zeros 8
/-- The half whose state, elements, scales and references lie at these offsets. -/
def halfCells (i : Nat) (h : Half) : Mem :=
  cellsAt (1600 + 16 * i) (halfState h) ++ cellsUp (133120 + 262144 * i) h.elems ++ cellsUp (657408 + 8192 * i) h.scales ++
  cellsUp (673792 + 256 * i) h.refs

/-- The context of core `p` that runs job `j` of program object `oid`, as the cells of its save area (R294). -/
def contextCells (s : State) (p : Nat) (j : Job) (oid : Nat) : Mem :=
  let c := core s p
  cellsAt 0 (le 2 1 ++ le 1 (lcore s p) ++ [0] ++ le 4 c.pc ++ le 4 c.step ++ le 2 j.version ++ zeros 2 ++ le 4 j.wid ++ le 4 oid) ++
  cellsOf 64 8 c.k ++ cellsOf 192 8 c.s ++
  (c.sync.flatMap fun e => cellsAt (704 + 8 * e.1) (le 4 e.2.value ++ le 4 e.2.flags)) ++
  cellsOf 1088 8 c.p ++ (c.halves.flatMap fun e => halfCells e.1 e.2) ++ cellsOf 2048 4 c.v

/-- The context written to the save area at HBM address `a`. -/
def writeContext (a : Nat) (cells : Mem) (s : State) : State :=
  { s with mem := { s.mem with
    hbm := cells.foldl (fun m c => Mem.write m (a + c.1) c.2) (Mem.clear s.mem.hbm a ctxLen),
    poison := s.mem.poison.filter fun l => !(a ≤ 64 * l && 64 * l + 64 ≤ a + ctxLen) } }

/-- `k` entries of `n` bytes from address `a` of `m`, those of 0 left out. -/
def cellMap (m : Mem) (a n k : Nat) : Map Nat :=
  let keys := ((m.filter fun c => a ≤ c.1 && c.1 < a + n * k).map fun c => (c.1 - a) / n).foldl sadd []
  (keys.map fun i => (i, Mem.leAt m (a + n * i) n)).filter (·.2 != 0)
/-- `n` bytes from address `a` of `m`, as a memory from 0. -/
def memAt (m : Mem) (a n : Nat) : Mem := (m.filter fun c => a ≤ c.1 && c.1 < a + n).map fun c => (c.1 - a, c.2)
/-- Staging half `i` of the context at `a`. -/
def halfAtArea (m : Mem) (a i : Nat) : Half :=
  let o := a + 1600 + 16 * i
  let f := Mem.leAt m (o + 1) 1
  let n := Mem.leAt m (o + 2) 2
  { loaded := n != 0, invalid := bit f 1, fmt := Mem.leAt m o 1, scaled := bit f 0, lines := n, k := Mem.leAt m (o + 4) 4,
    elems := memAt m (a + 133120 + 262144 * i) 262144, scales := memAt m (a + 657408 + 8192 * i) 8192,
    refs := memAt m (a + 673792 + 256 * i) 256 }

/-- The first poisoned byte of the context at `a`, in HBM. -/
def contextPoison (s : State) (a : Nat) : Option Nat :=
  (s.mem.poison.find? fun l => a < 64 * l + 64 && 64 * l < a + ctxLen).map fun l => max a (64 * l)

/-- The registers, the halves and the PC of core `c` as the context at `a` holds them. -/
def readContext (m : Mem) (a : Nat) (c : Core) : Core :=
  { c with
    pc := Mem.leAt m (a + 4) 4 % 8192, step := Mem.leAt m (a + 8) 4, k := (cellMap m (a + 64) 8 16).filter (·.1 != 0), s := cellMap m (a + 192) 8 64,
    p := cellMap m (a + 1088) 8 64, v := cellMap m (a + 2048) 4 32768,
    halves := [(0, halfAtArea m a 0), (1, halfAtArea m a 1)].filter fun e => e.2.loaded || e.2.invalid }
/-- VALUE and FLAGS of object `k` in the context at `a`. -/
def savedObj (m : Mem) (a k : Nat) : Nat × Nat := (Mem.leAt m (a + 704 + 8 * k) 4, Mem.leAt m (a + 708 + 8 * k) 4)

end Sys2Proof.Machine
end

