-- ==== Sys2Proof/Machine/SlicePort.lean ====
section
/-! DEFINITION. Slice ports (chapter 02): training, framing, credits, verdict order, fallbacks, TIME words and
INLINE_OK. -/

namespace Sys2Proof.Machine

open Sys2Proof

/-! ### Ports and lanes -/

/-- The group of `q` is split into two two-lane ports (R49). -/
def twoLane (s : State) (q : Nat) : Bool := (port s (q - q % 2)).width
/-- Identifier `q` is unused: an odd identifier of a four-lane group (R83). -/
def unusedPort (s : State) (q : Nat) : Bool := q % 2 == 1 && !twoLane s q
/-- Lanes of port `q`. -/
def lanes (s : State) (q : Nat) : Nat := if twoLane s q then 2 else 4
/-- Initial slice-data grant (R64). -/
def dataGrant (s : State) (q : Nat) : Nat := 256 * lanes s q
/-- A trained port: framing may be lost, and it may be quiescing (R84). -/
def trained (p : Port) : Bool := 5 ≤ p.st
/-- Bytes of a slice header (R57). -/
def hdrLen (ver : Nat) : Nat := if ver = 2 then 32 else 24

/-- A control word leaves port `q` (R62). -/
def ctlWord (q : Nat) (b : Bytes) (s : State) : State := emit (.word q 0 (padTo 64 b)) s
/-- CREDIT from the device: `n` slice-data words returned (R62, R64). -/
def sendCredit (q n : Nat) (s : State) : State := ctlWord q ([0x01, 0] ++ be 2 n ++ be 2 0) s
/-- TRAIN from the device (R62). -/
def sendTrain (q step ver : Nat) (s : State) : State :=
  ctlWord q ([0x02] ++ le 1 step ++ le 1 ver ++ le 1 (lanes s q) ++ be 2 (dataGrant s q) ++ be 2 0) s

/-! ### INLINE_OK (R80) -/

/-- The condition under which INLINE_OK rises. -/
def inlineCond (s : State) : Bool :=
  s.ver.newest.num != 0 && s.sys.level < 2 && s.hv.st != 2 && s.hv.st != 3 && s.ch.pwr != 2 && !(s.ch.pwr == 3 && s.ch.toSleep) &&
  (List.range 64).all fun q => !(port s q).en || trained (port s q)
/-- INLINE_OK rises where its condition holds. -/
def inlineRise (s : State) : State := if inlineCond s then { s with inlineOk := true } else s

/-! ### Training (R67, R68) -/

/-- Training starts at step 1. -/
def startTraining (q : Nat) (s : State) : State :=
  setPort q { port s q with st := 1, ver := 0, since := now s, retryAt := none, offer := none } s
/-- A training attempt fails: counted, and tried again after 100 ms. -/
def trainFail (q : Nat) (s : State) : State :=
  spErr q 7 1 (setPort q { port s q with
    st := 1, ver := 0, offer := none, since := now s, retryAt := some (now s + 100000000) } s)
/-- The version two offers give (R67): the smaller one, slice v1 at 53.125 GBd. -/
def negotiate (p : Port) (offered : Nat) : Nat := if p.fast then min p.maxVer offered else min 1 (min p.maxVer offered)
/-- The port becomes trained and takes its initial credits (SP_PORT_TRAINED). -/
def portTrained (q ver vc rc : Nat) (s : State) : State :=
  inlineRise (setPort q { port s q with
    st := 5, ver := ver, buf := [], rxWords := 0, freed := 0, dcred := dataGrant s q, vcred := vc, rcred := rc,
    retryAt := none, timeSent := 0 } s)

/-- A TRAIN control word (R62, R67). -/
def rxTrain (q : Nat) (w : Bytes) (s : State) : State :=
  let p := port s q
  if p.retryAt.isSome then s
  else if p.st = 3 && u8 w 1 = 1 then
    let v := negotiate p (u8 w 2)
    if u8 w 3 ≠ lanes s q ∨ v = 0 then trainFail q s
    else sendTrain q 2 v (setPort q { p with
      st := 4, offer := some (u8 w 2, beAt w 4 2, beAt w 6 2), swStamps := bit (u8 w 8) 0, since := now s } s)
  else if p.st = 4 && u8 w 1 = 2 then
    match p.offer with
    | some (o, vc, rc) => if u8 w 2 = negotiate p o then portTrained q (negotiate p o) vc rc s else trainFail q s
    | none => s
  else s

/-- Limit in ns of the training step the port is in (R67); lane lock is tried at two rates. -/
def stepLimit (st : Nat) : Nat := if st = 1 then 40000000 else 1000000

/-- SP_LANE_LOCK (R67): steps 1 and 2. After deskew the port offers. -/
def execSpLaneLock (q : Nat) (fast codeword : Bool) (s : State) : Host.Outcome State Fault Refusal :=
  let p := port s q
  .next <|
    if p.retryAt.isSome || frozen s then s
    else if p.st = 1 && !codeword then setPort q { p with st := 2, fast := fast, since := now s } s
    else if p.st = 2 && codeword then sendTrain q 1 p.maxVer (setPort q { p with st := 3, since := now s } s)
    else s

/-- SP_TRAIN_TIMEOUT (R67): the present step has passed its limit. -/
def execSpTrainTimeout (q : Nat) (s : State) : Host.Outcome State Fault Refusal :=
  let p := port s q
  .next <| if 1 ≤ p.st && p.st ≤ 4 && p.retryAt.isNone && !frozen s && p.since + stepLimit p.st < now s then trainFail q s else s

/-- SP_TRAIN_RETRY (R67). -/
def execSpTrainRetry (q : Nat) (s : State) : Host.Outcome State Fault Refusal :=
  .next <| match (port s q).retryAt with
    | some t => if t ≤ now s && !frozen s then startTraining q s else s
    | none => s

/-- The SLICE record of a slice whose verdict is sent or discarded, where its id is sampled (R528). -/
def sliceLog (q : Nat) (e : Pend) (s : State) : State :=
  let k := 0x80 + dieOfPort q
  let v := e.ready.getD []
  if e.sliceId % 2 ^ (mgetD s.logs k {}).sample ≠ 0 then s
  else logRec k 8 (0xE4 + 8 * dieOfPort q) 0 (le 4 e.sliceId ++ le 1 q ++ le 1 (u8 v 6) ++ le 2 (beAt v 8 2) ++
    le 2 (min ((now256 s - e.tIn) / 256) 0xFFFF) ++ le 2 e.version) s

/-- Verdicts still pending on a port are discarded and counted (R68, R80). -/
def loseVerdicts (q : Nat) (s : State) : State :=
  let p := port s q
  p.pend.foldl (fun s e => sliceLog q e s) (spErr q 4 p.pend.length (setPort q { p with pend := [] } s))

/-- The port gives up what it holds and goes to training state `st`, its results discarded (R61, R68); credits of words received
before go with it. DESIGN CHOICE: SW_STAMPS keeps the last offer (R84 says only that the switch offered). -/
def portDown (q st : Nat) (s : State) : State :=
  let s := loseVerdicts q s
  let p := port s q
  let s := spErr q 6 (p.results.length + b2n (!p.resTx.isEmpty))
    { s with slices := s.slices.map fun e => (e.1, if e.2.q = q then { e.2 with freeTo := 0 } else e.2) }
  setPort q { p with
    st := st, ver := 0, buf := [], lost := false, results := [], resTx := [], offer := none, dcred := 0, vcred := 0, rcred := 0, since := now s, retryAt := none } s

/-- SP_LOCK_LOSS (R68). -/
def execSpLockLoss (q : Nat) (s : State) : Host.Outcome State Fault Refusal :=
  .next <| if trained (port s q) && !frozen s then portDown q (if (port s q).en then 1 else 0) s else s

/-- SP_PORT_ENABLE (R82, R67, R83): EN is set; training starts once the first version is live. -/
def setPortEn (q : Nat) (s : State) : State :=
  if unusedPort s q || (port s q).en then s
  else
    let s := setPort q { port s q with en := true } s
    if (port s q).st = 0 && s.ver.newest.num != 0 then startTraining q s else s

/-- SP_PORT_DISABLE (R82): EN is cleared; a trained port quiesces, and any other one idles at once. -/
def clrPortEn (q : Nat) (s : State) : State :=
  let p := port s q
  if !p.en then s
  else if trained p then
    startQuiesce 2 q (blk s 2 q).op (blk s 2 q).who (setPort q { p with en := false, st := 7, since := now s } s)
  else inlineRise (setPort q { p with en := false, st := 0, ver := 0, offer := none, retryAt := none } s)

/-- The counters of port `q` and their flags are cleared. -/
def clearPortCtrs (q : Nat) (s : State) : State :=
  let out := fun a : Nat => a < baseSp + 0x100 * q || baseSp + 0x100 * (q + 1) ≤ a
  { s with ctrs := s.ctrs.filter fun e => out e.1, ovf := s.ovf.filter fun e => out e.1 }

/-- SP_PORT_WIDTH_SET (R82, R83): only on even `q`, and only while EN is 0 on both ports of the group; the odd port takes its reset
values, counters with it. -/
def setPortWidth (q : Nat) (two : Bool) (s : State) : State :=
  if q % 2 = 1 || (port s q).en || (port s (q + 1)).en || (port s q).width == two then s
  else clearPortCtrs (q + 1) (setPort (q + 1) {} (setPort q { port s q with width := two } s))

/-- SP_PORT_ENABLE (R82). -/
def execSpPortEnable (q : Nat) (s : State) : Host.Outcome State Fault Refusal :=
  .next (if q < 64 && !down s then setPortEn q s else s)
/-- SP_PORT_DISABLE (R82). -/
def execSpPortDisable (q : Nat) (s : State) : Host.Outcome State Fault Refusal :=
  .next (if q < 64 && !down s then clrPortEn q s else s)
/-- SP_PORT_WIDTH_SET (R83). -/
def execSpPortWidthSet (q : Nat) (two : Bool) (s : State) : Host.Outcome State Fault Refusal :=
  .next (if q < 64 && !down s then setPortWidth q two s else s)

/-! ### Verdicts and fallbacks (R59, R70 to R76) -/

/-- A 16-byte verdict slot for a port of version `ver` (R59). -/
def verdictBytes (ver sliceId version cls cq flags score egress dl : Nat) : Bytes :=
  be 4 sliceId ++ be 2 version ++ be 1 cls ++ be 1 cq ++ be 2 (if ver = 2 then flags % 2048 else flags % 512) ++
  be 2 score ++ be 2 (if ver = 2 then egress else 0) ++ be 2 (0x8000 + 4096 * (dl % 8))

/-- The fallback verdict of a pending slice (R75): its class's fallback under its version. -/
def fallbackBytes (s : State) (q : Nat) (e : Pend) : Bytes :=
  let d := imgMem (objsOf s e.version) (oidDlc e.dl)
  verdictBytes (port s q).ver e.sliceId e.version (Mem.leAt d 8 1) (Mem.leAt d 9 1) 2 0 (Mem.leAt d 10 2) e.dl

/-- The composer's unit code on the die of port `q` (R28). -/
def composerUnit (q : Nat) : Nat := 0xE4 + 8 * dieOfPort q

/-- The slice behind a pending entry is marked as having received a fallback (R76). -/
def markFb (q seq : Nat) (s : State) : State :=
  match slice? s q seq with
  | some x => setSlice { x with fb := true } s
  | none => s

/-- `e` with its fallback verdict. -/
def withFallback (s : State) (q : Nat) (e : Pend) : Pend := { e with ready := some (fallbackBytes s q e) }

/-- DEADLINE_MISS for a pending slice (R74). -/
def missFault (q : Nat) (e : Pend) : FltRec :=
  { code := 0x0401, unit := composerUnit q, index := q, version := e.version, detail := e.sliceId + 2 ^ 32 * e.dl }
/-- FALLBACK for a pending slice: `forced` 0 for "window", 1 for "forced" (R72, R74). -/
def fbFault (q forced : Nat) (e : Pend) : FltRec :=
  { code := 0x0402, unit := composerUnit q, index := q, version := e.version, detail := e.sliceId + 2 ^ 32 * forced }

/-- Every slice of `l` without a verdict receives its fallback, with FALLBACK "forced" (R74). -/
def forceAll (q : Nat) (l : List Pend) (s : State) : List Pend × State :=
  match l with
  | [] => ([], s)
  | e :: r =>
    if e.ready.isSome then
      let (r', s) := forceAll q r s
      (e :: r', s)
    else
      let e' := withFallback s q e
      let (r', s) := forceAll q r (raiseF (fbFault q 1 e) (markFb q e.seq s))
      (e' :: r', s)

/-- The composer's rule over the pending slices in order (R74); `done` are the earlier ones. -/
def fallbackRule (q : Nat) (done : List Pend) (l : List Pend) (s : State) : List Pend × State :=
  match l with
  | [] => (done, s)
  | e :: r =>
    if 10 * now256 s < e.fInst then fallbackRule q (done ++ [e]) r s
    else
      let (e', s) := if e.ready.isSome then (e, s)
        else (withFallback s q e, raiseF (missFault q e) (markFb q e.seq s))
      let (done', s) := forceAll q done s
      fallbackRule q (done' ++ [e']) r s

/-- FALLBACK_INSTANT (R74). -/
def execFallbackInstant (q : Nat) (s : State) : Host.Outcome State Fault Refusal :=
  let (l, s') := fallbackRule q [] (port s q).pend s
  .next (if frozen s then s else setPort q { port s' q with pend := l } s')

/-- The leading ready verdicts of a port, at most four (R70, R71). -/
def leadingReady (n : Nat) (l : List Pend) : List Bytes :=
  match n, l with
  | n + 1, e :: r => match e.ready with
    | some v => v :: leadingReady n r
    | none => []
  | _, _ => []

/-- A verdict word leaves when ready verdicts may leave and a credit is held (R65, R70, R71). -/
def sendVerdicts (q : Nat) (s : State) : State :=
  let p := port s q
  let l := leadingReady 4 p.pend
  if s.inlineOk && trained p && 1 ≤ p.vcred && l != [] then
    (p.pend.take l.length).foldl (fun s e => sliceLog q e s) (spPerf q 0x18 l.length (emit (.word q 2 (padTo 64 l.flatten))
      (setPort q { p with vcred := p.vcred - 1, pend := p.pend.drop l.length } s)))
  else s

/-- VERDICT_WORD_SEND (R71). -/
def execVerdictWordSend (q : Nat) (s : State) : Host.Outcome State Fault Refusal := .next (if frozen s then s else sendVerdicts q s)

/-! ### Result frames (R60, R61) -/

/-- Words that `n` bytes of a stream take, padded to a whole word (R53). -/
def wordsOf (n : Nat) : Nat := (n + 63) / 64
/-- The 64-byte words of a byte string, at most `k`. -/
def wordList : Nat → Bytes → List Bytes
  | 0, _ => []
  | k + 1, b => padTo 64 (b.take 64) :: wordList k (b.drop 64)

/-- A result frame is routed to port `q` (R61): queued, or discarded and counted. -/
def routeResult (q : Nat) (frame : Bytes) (s : State) : Bool × State :=
  let p := port s q
  if unusedPort s q then (false, s)
  else if trained p && p.ver = 2 && 1 ≤ p.rcred && s.inlineOk then
    (true, setPort q { p with results := p.results ++ [frame] } s)
  else (false, spErr q 6 1 s)

/-- The bytes that leave next on the result stream of a port, and the frames behind them: the rest of the frame that has begun, or the
oldest one with its EMIT_STAMP. -/
def nextResult (s : State) (p : Port) : Bytes × List Bytes :=
  match p.resTx, p.results with
  | [], f :: r => (f.take 16 ++ be 8 (now s) ++ f.drop 24, r)
  | b, r => (b, r)
/-- RESULT_FRAME_SEND (R60, R64): the words of the oldest frame leave as far as credits go; the rest waits for more. -/
def execResultFrameSend (q : Nat) (s : State) : Host.Outcome State Fault Refusal :=
  let p := port s q
  .next <|
    if frozen s || !s.inlineOk || !trained p || p.rcred = 0 then s
    else
      let (b, r) := nextResult s p
      let n := min (wordsOf b.length) p.rcred
      (wordList n b).foldl (fun s w => emit (.word q 1 w) s)
        (setPort q { p with results := r, resTx := b.drop (64 * n), rcred := p.rcred - n } s)

/-! ### TIME words (R63) -/

/-- TIME leaves port `q` where it is trained and none has left in this period of 2^20 ns. -/
def sendTime (q : Nat) (s : State) : State :=
  let p := port s q
  let k := now s / 2 ^ 20 + 1
  if trained p && p.timeSent < k then
    ctlWord q ([0x03] ++ zeros 7 ++ be 8 (now s) ++ be 1 (now256 s % 256)) (setPort q { p with timeSent := k } s)
  else s

/-- SP_TIME_SEND (R63). -/
def execSpTimeSend (s : State) : Host.Outcome State Fault Refusal :=
  .next (if frozen s then s else (List.range 64).foldl (fun s q => sendTime q s) s)

/-! ### The slice stream (R53 to R58, R64, R65) -/

/-- Credits of freed words return to the switch, unless the port quiesces (R64, R82). -/
def freeWords (q upTo : Nat) (s : State) : State :=
  let p := port s q
  if upTo ≤ p.freed then s
  else if p.st = 7 then setPort q { p with freed := upTo } s
  else sendCredit q (upTo - p.freed) (setPort q { p with freed := upTo, dcred := p.dcred + (upTo - p.freed) } s)

/-- The latest slice of the port still waiting for a pipeline holds the words up to `upTo`, or they are free (R64). -/
def holdWords (q upTo : Nat) (s : State) : State :=
  let last := s.slices.foldl (fun a c => if c.2.q == q && c.2.stage == 0 then
    (match a with | some (y : Slice) => if y.freeTo < c.2.freeTo then some c.2 else a | none => some c.2) else a) none
  match last with
  | some x => setSlice { x with freeTo := max x.freeTo upTo } s
  | none => freeWords q upTo s

/-- Framing is lost (R55): slice data is discarded until RESYNC. DESIGN CHOICE: SP_FRAMING_ERR counts the loss, not each word that
is then discarded. -/
def loseFraming (q : Nat) (s : State) : State :=
  let p := port s q
  if p.st = 6 || p.lost then s
  else
    let s := ctlWord q [0x04] (spErr q 1 1 (setPort q { p with st := if p.st = 5 then 6 else p.st, lost := true, buf := [] } s))
    holdWords q p.rxWords s

/-- The pipeline that parses port `q` (R87), or the next surviving one of the die (R515). -/
def pipeOf (s : State) (q : Nat) : Nat :=
  let p := q / 2
  let b := p - p % 16
  match (List.range 16).find? fun i => !bit s.nv.pipeRetired (b + (p + i) % 16) with
  | some i => b + (p + i) % 16
  | none => p

/-- A whole slice has arrived: header `h`, frame bytes `d` (R55 to R58, R72, R73, R80). DESIGN CHOICE: SP_SLICES counts a slice that is
discarded while INLINE_OK is low too, and a full window whose oldest slice is ready but lacks a credit keeps that verdict (R72). -/
def takeSlice (q freeTo : Nat) (h d : Bytes) (s : State) : State :=
  let s := spPerf q 0x10 1 s
  if !s.inlineOk then holdWords q freeTo (spErr q 5 1 s)
  else
    let s := if (port s q).pend.length < 4096 then s
      else match (port s q).pend with
        | e :: r => if e.ready.isSome then sendVerdicts q s
            else
              let s := raiseF (fbFault q 0 e) (markFb q e.seq s)
              sendVerdicts q (setPort q { port s q with pend := withFallback s q e :: r } s)
        | [] => s
    let p := port s q
    let ver := s.ver.newest.num
    let dl := u8 h 1 / 32
    let fl := beAt h 2 2
    let frameLen := beAt h 10 2
    let sliceLen := beAt h 12 2
    let sw := bit fl 0 && !p.stampLocal
    let stamp := if sw then 256 * beAt h 16 8 + (if p.ver = 2 then u8 h 24 else 0) else p.bufT
    let b := Mem.leAt (imgMem (objsOf s ver) (oidDlc dl)) 4 4
    let fInst := 10 * now256 s + 2560 * b - (if p.ver = 2 then 122880 else 139264)
    let x : Slice := {
      q := q, seq := p.seq, version := ver, sliceId := beAt h 4 4, dl := dl, deadline := deadlineOf (fInst / 2560), ingress := beAt h 8 2, frameLen := frameLen,
      sliceLen := sliceLen, stamp := stamp, data := d, arr := s.arrived, freeTo := freeTo,
      err := if frameLen < sliceLen + 4 then 2 else if bit fl 1 then 1 else 0 }
    let e : Pend := { seq := p.seq, sliceId := x.sliceId, dl := dl, version := ver, fInst := fInst, tIn := now256 s }
    let n := pipeOf s q
    setPipe n { pipe s n with queue := (pipe s n).queue ++ [(q, p.seq)] }
      (setSlice x (setPort q { p with seq := (p.seq + 1) % 2 ^ 24, pend := p.pend ++ [e] } { s with arrived := s.arrived + 1 }))

/-- Whole slices are taken from the bytes of the stream, at most `n` (R53, R55). -/
def cutSlices (q : Nat) (n : Nat) (s : State) : State :=
  match n with
  | 0 => s
  | n + 1 =>
    let p := port s q
    if p.buf = [] then s
    else if u8 p.buf 0 = 0 then
      let k := if p.buf.length % 64 = 0 then 64 else p.buf.length % 64
      let rest := p.buf.drop k
      cutSlices q n (holdWords q (p.rxWords - wordsOf rest.length) (setPort q { p with buf := rest, bufT := now256 s } s))
    else if p.buf.length < 16 then s
    else if u8 p.buf 0 / 16 ≠ p.ver ∨ 512 < beAt p.buf 12 2 then loseFraming q s
    else
      let hl := hdrLen p.ver
      let total := hl + beAt p.buf 12 2
      if p.buf.length < total then s
      else
        let rest := p.buf.drop total
        let s := takeSlice q (p.rxWords - wordsOf rest.length) (p.buf.take hl) (sub p.buf hl (total - hl)) s
        cutSlices q n (setPort q { port s q with buf := rest, bufT := now256 s } s)

/-- RESYNC (R55): the next slice begins at byte 0 of the next data word. -/
def rxResync (q : Nat) (s : State) : State :=
  let p := port s q
  if trained p then setPort q { p with st := if p.st = 6 then 5 else p.st, lost := false, buf := [] } s else s

/-- CREDIT from the switch (R62, R64): verdict words and result-data words returned. -/
def rxCredit (q : Nat) (w : Bytes) (s : State) : State :=
  let p := port s q
  if trained p then setPort q { p with vcred := p.vcred + beAt w 2 2, rcred := p.rcred + beAt w 4 2 } s else s

/-- One word arrives on a port in offer or accept (R52, R62, R65, R67): TRAIN counts, data has no credit, and what has no meaning is
counted. -/
def rxTraining (q : Nat) (w : SpWord) (s : State) : State :=
  if (port s q).st < 3 then s
  else match w.ty with
    | 0 => if u8 w.data 0 = 2 then rxTrain q w.data s else if 5 < u8 w.data 0 then spErr q 1 1 s else s
    | 1 => spErr q 2 1 s
    | _ => spErr q 1 1 s

/-- One word arrives on a port (R52, R62, R65). DESIGN CHOICE: the listed codes that only the device sends, TIME and FRAMING_LOST, are
ignored without a count. -/
def rxWord (q : Nat) (s : State) (w : SpWord) : State :=
  let p := port s q
  if !trained p then rxTraining q w s
  else match w.ty with
    | 0 => match u8 w.data 0 with
      | 0 => s
      | 1 => rxCredit q w.data s
      | 2 => rxTrain q w.data s
      | 3 => s
      | 4 => s
      | 5 => rxResync q s
      | _ => spErr q 1 1 s
    | 1 =>
      if p.dcred = 0 then loseFraming q (spErr q 2 1 s)
      else
        let s := setPort q { p with dcred := p.dcred - 1, rxWords := p.rxWords + 1 } s
        if p.st = 6 || p.lost then holdWords q (p.rxWords + 1) s
        else cutSlices q 66 (setPort q { port s q with
          buf := p.buf ++ padTo 64 w.data, bufT := if p.buf = [] then now256 s else p.bufT } s)
    | _ => spErr q 1 1 s

/-- Words reach port `q`: they are taken in order, or wait while a heave-to holds the packet side (R383, R537). -/
def wordsIn (q : Nat) (ws : List SpWord) (s : State) : State :=
  if holding s then setPort q { port s q with held := (port s q).held ++ ws } s else ws.foldl (rxWord q) s
/-- Words that waited for the resume are taken (R537). -/
def takeHeld (q : Nat) (s : State) : State :=
  let p := port s q
  if p.held.isEmpty then s else p.held.foldl (rxWord q) (setPort q { p with held := [] } s)

/-- SLICE_ARRIVAL (R55): the words that arrive on a port, in order. -/
def execSliceArrival (q : Nat) (words : List SpWord) (s : State) : Host.Outcome State Fault Refusal := .next (wordsIn q words s)

/-- A control word reaches port `q`, where its code is `code`. -/
def ctlIn (q code : Nat) (word : Bytes) (s : State) : State := if u8 word 0 = code then wordsIn q [{ ty := 0, data := word }] s else s
/-- SP_TRAIN (R67). -/
def execSpTrain (q : Nat) (word : Bytes) (s : State) : Host.Outcome State Fault Refusal := .next (ctlIn q 2 word s)
/-- RESYNC (R55). -/
def execResync (q : Nat) (word : Bytes) (s : State) : Host.Outcome State Fault Refusal := .next (ctlIn q 5 word s)
/-- SP_CREDIT (R64). -/
def execSpCredit (q : Nat) (word : Bytes) (s : State) : Host.Outcome State Fault Refusal := .next (ctlIn q 1 word s)

end Sys2Proof.Machine
end

