-- ==== Sys2Proof/Machine/Streams.lean ====
section
/-! DEFINITION. Streams (chapter 10): templates and keys, records to rings, cadences, dispatch, and the queues of instances. -/

namespace Sys2Proof.Machine

open Sys2Proof

/-! ### Templates (R299) -/

def tplCadMode (t : Bytes) : Nat := bits (leAt t 0 2) 2 1
def tplLateOk (t : Bytes) : Bool := bit (leAt t 0 2) 3
def tplPrio (t : Bytes) : Nat := bits (leAt t 0 2) 6 4
def tplDl (t : Bytes) : Nat := bits (leAt t 0 2) 9 7
def tplKvPolicy (t : Bytes) : Nat := bits (leAt t 0 2) 13 12
def tplKvCs (t : Bytes) : Bool := bit (leAt t 0 2) 14
def tplDest (t : Bytes) : Nat := u8 t 2
def tplInst (t : Bytes) : Nat := u8 t 4
def tplHome (t : Bytes) : Nat := u8 t 5 % 2
def tplUnits (t : Bytes) : Nat := u8 t 15
def tplRing (t : Bytes) : Nat := leAt t 32 8

/-- Base of the counters of the dispatcher of die `d` (R324). -/
def scCtr (d : Nat) : Nat := baseObs + 0xD000 + 0x80 * d
/-- The dispatcher's 32-bit counter `k` places after OBS_SC_NOCTX. -/
def scErr (d k : Nat) (s : State) : State := errc (scCtr d + 0x18 + 4 * k) (scCtr d + 0x38) k 1 s

/-- A counter of a context's state (R300): `k` 0 JOBS, 1 LATE, 2 DROPPED, 3 SKIPPED, 4 FAILED; a lost increment sets its bit of OVF. -/
def ctxCount (i k : Nat) (s : State) : State :=
  let x := ctxOf s i
  let v := [x.jobs, x.late, x.dropped, x.skipped, x.failed].getD k 0
  let x := if v = 0xFFFFFFFF then { x with ovf := setBit x.ovf k }
    else match k with
      | 0 => { x with jobs := v + 1 }
      | 1 => { x with late := v + 1 }
      | 2 => { x with dropped := v + 1 }
      | 3 => { x with skipped := v + 1 }
      | _ => { x with failed := v + 1 }
  setCtx i x s

/-! ### Instances (R307, R308, R310) -/

/-- The model of instance `i` in a version. -/
def modelOfInst (o : Objs) (i : Nat) : Option (Nat × Model) := o.models.find? fun m => m.2.nums.contains i
/-- First logical core and rank count of instance `i` in a version. -/
def placeOf (o : Objs) (i : Nat) : Nat × Nat :=
  match modelOfInst o i with
  | some (_, m) => (m.firstCore + m.nums.idxOf i * m.ranks, m.ranks)
  | none => (0, 0)
/-- Jobs waiting for instance `i`. -/
def queuedJobs (s : State) (i : Nat) : Nat := match inst? s i with | some x => x.queue.length | none => 0
def instOut (s : State) (i : Nat) : Bool := match inst? s i with | some x => x.out | none => false

/-- The instance that INSTANCE of a job for `model` names (R310): the one named, or for 0xFF the instance with the fewest queued
jobs and the lowest number, those out of service last (R517). -/
def pickInst (s : State) (o : Objs) (model inst : Nat) : Option Nat :=
  match mget o.models model with
  | none => none
  | some m =>
    if inst ≠ 0xFF then (if m.nums.contains inst then some inst else none)
    else
      let live := m.nums.filter fun i => !instOut s i
      let l := if live.isEmpty then m.nums else live
      l.foldl (fun b i => match b with
        | none => some i
        | some k => if queuedJobs s i < queuedJobs s k || (queuedJobs s i == queuedJobs s k && i < k) then some i else some k) none

/-- A job takes its place in an instance's queue: after every job of its priority or a higher one. -/
def insertJob (j : Job) (q : List Job) : List Job :=
  (q.filter fun i => j.prio ≤ i.prio) ++ j :: q.filter fun i => i.prio < j.prio

/-- The job of an instance's queue that may start next: while a swap waits, jobs of the new version do not start; while
placements are reloaded, none does (R308, R309). -/
def headJob (x : Inst) : Option Job :=
  if x.loading then none
  else if x.swap = 0 then x.queue.head? else x.queue.find? fun j => j.version != x.swap

/-- Logical cores of an instance's running job. -/
def runCores (x : Inst) : List Nat := (List.range x.ranks).map (x.first + ·)

/-- Pre-emption is asked of every rank of instance `i` that still runs (R293, R313): a quiesce handshake of its core. -/
def askPreempt (i : Nat) (s : State) : State :=
  match inst? s i with
  | none => s
  | some x => (runCores x).foldl (fun s l =>
      let p := physOf s l
      let c := core s p
      if c.st = 0 || c.preempt || (blk s 0 p).st ≠ 0 then s
      else startQuiesce 0 p (some 4) none (setCore p { c with preempt := true } s)) s

/-- Running jobs are pre-empted for heads of queues that share a core and lead by 2 in PRIORITY (R313). -/
def preemptScan (s : State) : State :=
  s.insts.foldl (fun s e => match headJob e.2 with
    | none => s
    | some h =>
      let (f, n) := placeOf (objsOf s h.version) e.1
      s.insts.foldl (fun s r => match r.2.running with
        | none => s
        | some j =>
          if (runCores r.2).any (fun l => f ≤ l && l < f + n) && j.prio + 2 ≤ h.prio then askPreempt r.1 s else s) s) s

/-- A job joins the queue of instance `i`. -/
def queueJob (i : Nat) (j : Job) (s : State) : State :=
  match inst? s i with
  | none => s
  | some x => preemptScan (setInst i { x with queue := insertJob j x.queue } s)

/-- WORK_ID of the next job that the device numbers (R31). -/
def newWorkId (s : State) : Nat × State := (s.workId, { s with workId := (s.workId + 1) % 2 ^ 32 })

/-! ### Dispatch (R306, R318) -/

/-- A cadence event of context `i` under template `t`: a job, or a skip. -/
def cadence (i : Nat) (t : Bytes) (s : State) : State :=
  let x := ctxOf s i
  let d := tplHome t
  let o := s.ver.newest.objs
  let room := match pickInst s o (tplModel t) (tplInst t) with
    | some k => if queuedJobs s k < 1024 && (inst? s k).isSome then some k else none
    | none => none
  match room with
  | none => scErr d 2 (ctxCount i 3 s)
  | some k =>
    if ctxState s i ≠ 1 || u8 t 7 ≤ x.inflight then scErr d 2 (ctxCount i 3 s)
    else
      let n := min (leAt t 10 2) x.count
      let first := ofSigned 32 ((x.wr : Int) - n)
      let reset := tplKvPolicy t == 2 && leAt t 28 4 ≤ x.kvTokens
      let kv := if reset then 0 else x.kvTokens
      let (wid, s) := newWorkId s
      let budget := leAt t 24 4
      let cls := tplPrio t + 8 * tplDl t + 64 * b2n (tplLateOk t)
      let desc : Bytes := le 1 (tplModel t) ++ le 1 (tplInst t) ++ le 2 i ++ le 4 wid ++ le 4 budget ++ le 1 cls ++
        le 1 (2 * b2n reset) ++ zeros 2 ++ le 4 first ++ le 2 n ++ le 2 (min x.since 65535) ++ le 4 kv ++ zeros 12 ++ sub t 48 8 ++
        zeros 16
      let j : Job := {
        desc := desc, wid := wid, version := newestNum s,
        deadline := if budget = 0 then 0xFFFFFFFF else deadlineOf (now s + budget), origin := d }
      let wins := x.wins ++ [first]
      let s := setCtx i { x with since := 0, inflight := x.inflight + 1, wins := wins, oldest := wins.headD 0,
                                 lastDispatch := now s, kvTokens := kv } s
      queueJob k j (perf (scCtr d + 8) 1 (ctxCount i 0 s))

/-! ### Records (R301 to R306) -/

/-- The context of a record (R301). -/
def resolve (s : State) (r : Bytes) : Option Nat :=
  let o := objsOf s (leAt r 18 2)
  let e := Mem.bytes (imgMem o oidKeyMap) (8 * u8 r 2) 8
  let key := leAt r 0 2
  match u8 e 0 % 4 with
  | 1 => if key < leAt e 4 4 then some ((leAt e 2 2 + key) % 65536) else none
  | 2 => match mget o.exact (65536 * bits (u8 e 0) 4 2 + key) with
    | some x => if bit (u8 x 0) 1 then some (leAt x 2 2) else none
    | none => none
  | _ => none

/-- Ring address, log2 and entry units of a template: what R303 watches. -/
def geomOf (t : Bytes) : Nat × Nat × Nat := (tplRing t, u8 t 14, tplUnits t)

/-- The state of a context as a record of version `v` finds it: where the commit of that version, or an earlier one, changed the ring and no
record has been appended since, the ring starts afresh (R303). -/
def freshRing (s : State) (v : Nat) (x : SCtx) : SCtx :=
  let later := if v = newestNum s then [] else x.fresh.filter (· == newestNum s)
  if x.fresh == later then x else { x with wr := 0, oldest := 0, since := 0, count := 0, fresh := later }
/-- A commit of version `v` that changes the ring of a context is remembered until a record of it is appended (R303). -/
def ringChange (old new : Objs) (v i : Nat) (s : State) : State :=
  if geomOf (scTpl old i) = geomOf (scTpl new i) then s else setCtx i { ctxOf s i with fresh := (ctxOf s i).fresh ++ [v] } s
/-- Version `v` has retired: what its commit changed is left to the newest version's records. -/
def ringRetire (v : Nat) (s : State) : State :=
  { s with ctx := s.ctx.map fun e => (e.1, { e.2 with fresh := e.2.fresh.map fun f => if f = v then newestNum s else f }) }

/-- The row of R302 that a record of context `i` matches, before the input buffer's. -/
def recordRow (s : State) (i : Option Nat) (r : Bytes) : Nat :=
  match i with
  | none => 0
  | some i =>
    let o := objsOf s (leAt r 18 2)
    let t := scTpl o i
    let x := freshRing s (leAt r 18 2) (ctxOf s i)
    if !scValid o i || x.st = 0 then 0
    else if 32 * tplUnits t < 32 + 4 * u8 r 3 then 1
    else if 0 < x.inflight && 2 ^ u8 t 14 ≤ (x.wr + 2 ^ 32 - x.oldest) % 2 ^ 32 then 2
    else 4

/-- The home die of a record that die `d` parsed: its context's, in the record's version; `d` for a key that resolves to no context. -/
def recordHome (s : State) (d : Nat) (r : Bytes) : Nat :=
  match resolve s r with
  | some i => let o := objsOf s (leAt r 18 2); if scValid o i then tplHome (scTpl o i) else d
  | none => d

/-- A record that is not appended is dropped and counted on die `d` (R302): `row` 0 no context, 1 size, 2 ring, 3 input buffer. -/
def dropRecord (d row : Nat) (i : Option Nat) (s : State) : State :=
  match row, i with
  | 0, _ => scErr d 0 s
  | 3, _ => scErr d 1 s
  | _, some i => scErr d 1 (ctxCount i 2 s)
  | _, none => s

/-- A cadence event by records (R304): none for modes 0 and 2, nor in a cycle in which the context's tick has made one (R305). -/
def recordCadence (i : Nat) (t : Bytes) (s : State) : State :=
  let m := tplCadMode t
  if (m == 1 || m == 3) && leAt t 12 2 ≤ (ctxOf s i).since && (ctxOf s i).tickEvt != now s + 1 then
    let s := cadence i t s
    setCtx i { ctxOf s i with evt := now s + 1 } s
  else s

/-- A record of a slice that has place `a` in the order of arrival joins the input buffer of its home die's dispatcher, in that order and up
to 8,192 of them (R101, R302); die `d` has parsed it. -/
def pushRecord (d a : Nat) (r : Bytes) (s : State) : State :=
  let h := recordHome s d r
  let l := mgetD s.records h []
  if l.length < 8192 then
    { s with records := mset s.records h ((l.filter fun x => x.1 < a) ++ (a, r) :: l.filter fun x => !(x.1 < a)) }
  else
    let i := resolve s r
    let row := recordRow s i r
    dropRecord h (if row = 4 then 3 else row) i s

/-- The record of the slice with place `a` is next in the order of arrival at the pins (R302): no slice that came before it is still to be parsed. -/
def recordReady (s : State) (a : Nat) : Bool := s.slices.all fun x => x.2.stage != 0 || decide (a ≤ x.2.arr)

/-- A record is appended or dropped by its home dispatcher (R302). -/
def appendRecord (d : Nat) (r : Bytes) (s : State) : State :=
  let i := resolve s r
  let row := recordRow s i r
  match row, i with
  | 4, some i =>
    let t := scTpl (objsOf s (leAt r 18 2)) i
    let x := freshRing s (leAt r 18 2) (ctxOf s i)
    let units := tplUnits t
    let s := setCtx i { x with wr := (x.wr + 1) % 2 ^ 32, since := min (x.since + 1) 0xFFFFFFFF, count := x.count + 1 } s
    let s := devWrite (tplRing t + x.wr % 2 ^ u8 t 14 * (32 * units)) (padTo (32 * units) r) s
    recordCadence i t (perf (scCtr (tplHome t)) 1 s)
  | _, _ => dropRecord d row i s

/-- The ring of a record's context lies in a stack that takes no access now. -/
def recordHeld (s : State) (r : Bytes) : Bool :=
  match resolve s r with
  | some i => let t := scTpl (objsOf s (leAt r 18 2)) i; hbmHeld s (tplRing t) (2 ^ u8 t 14 * (32 * tplUnits t))
  | none => false
/-- RECORD_APPEND (R302): the oldest record of die `d`'s dispatcher, once every record that came before it at the pins has had its turn. -/
def execRecordAppend (d : Nat) (s : State) : Host.Outcome State Fault Refusal :=
  .next <| if frozen s then s else match mgetD s.records d [] with
    | [] => s
    | (a, r) :: rest =>
      if !recordHeld s r && recordReady s a && s.records.all fun e => e.2.all fun x => decide (a ≤ x.1) then
        appendRecord d r { s with records := msetD s.records d rest [] }
      else s

/-- The latest tick instant of template `t` at or before `n` (R304). -/
def lastTick (t : Bytes) (n : Nat) : Option Nat :=
  let c := leAt t 16 4
  let ph := leAt t 20 4
  if c = 0 || n < ph % c then none else some (n - (n + c - ph % c) % c)

/-- Context `i` has a record in the input buffer of die `d` that can be appended now: a tick lets it go first (R305). -/
def recordWaits (s : State) (d i : Nat) : Bool := (mgetD s.records d []).any fun x => recordReady s x.1 && resolve s x.2 == some i

/-- CADENCE_TICK (R304): a tick of context `i`, taken within 50 ns of its instant and once. -/
def execCadenceTick (i : Nat) (s : State) : Host.Outcome State Fault Refusal :=
  .next <|
    let o := s.ver.newest.objs
    let t := scTpl o i
    let m := tplCadMode t
    let x := ctxOf s i
    if 65536 ≤ i || !scValid o i || x.st = 0 || !(m == 2 || m == 3) then s
    else match lastTick t (now s) with
      | none => s
      | some k =>
        if 50 < now s - k || k + 1 ≤ x.tick || (!holding s && recordWaits s (tplHome t) i) then s
        else
          let s := setCtx i { x with tick := k + 1 } s
          if (m == 3 && x.since == 0) || x.evt == now s + 1 then s
          else
            let s := setCtx i { ctxOf s i with tickEvt := now s + 1 } s
            if holding s then scErr (tplHome t) 2 (ctxCount i 3 s) else cadence i t s

end Sys2Proof.Machine
end

