-- ==== Sys2Proof/Machine/Parser.lean ====
section
/-! DEFINITION. Parse pipelines (chapter 03): the walk through the parse graph, the key vector, payload field maps and
the parity check of a pipeline. -/

namespace Sys2Proof.Machine

open Sys2Proof

/-! ### The parse-graph image (R90, R91, R94, R98, R99) -/

/-- Field of `n` bytes at offset `o` of node `k` (R91). -/
def nodeF (g : Mem) (k o n : Nat) : Nat := Mem.leAt g (0x100 + 32 * k + o) n
/-- Sounding depth of port `q` (R88). -/
def depthOf (g : Mem) (q : Nat) : Nat :=
  64 + 32 * (let b := Mem.leAt g (0x20 + q / 2) 1; if q % 2 = 0 then b % 16 else b / 16)
/-- KV_OFF of slot `k` (R90). -/
def slotOff (g : Mem) (k : Nat) : Nat := Mem.leAt g (0x40 + 2 * k) 2 % 128
/-- SLOT_BYTES of slot `k`, 0 for an unused slot. -/
def slotBytes (g : Mem) (k : Nat) : Nat := if k < 48 then bits (Mem.leAt g (0x40 + 2 * k) 2) 11 7 else 0
/-- Extraction entry `k` as a 32-bit number (R98). -/
def extOf (g : Mem) (k : Nat) : Nat := Mem.leAt g (0x6100 + 4 * k) 4
/-- Payload field map `k`: its base offset in the image (R99). -/
def mapAt (k : Nat) : Nat := 0x7100 + 136 * k

/-! ### The key vector (R97) -/

/-- The bytes of slot `k` of a key vector. -/
def slotData (g : Mem) (kv : Bytes) (k : Nat) : Bytes := sub kv (slotOff g k) (slotBytes g k)
/-- The value of slot `k`, big-endian. -/
def slotVal (g : Mem) (kv : Bytes) (k : Nat) : Nat := beNat (slotData g kv k)
/-- `kv` with `v` in slot `k`, right-aligned. -/
def setSlot (g : Mem) (kv : Bytes) (k v : Nat) : Bytes :=
  let o := slotOff g k
  let n := slotBytes g k
  kv.take o ++ be n v ++ kv.drop (o + n)

/-! ### The walk (R89 to R96) -/

/-- How a walk stopped: accepted, PARSE_ERR with its reason (R102), or DEPTH_TRUNC. -/
inductive Stop where
  | accept
  | err (reason : Nat)
  | trunc
deriving DecidableEq, Repr

/-- The slice bytes a walk may read: the data, A and E (R89). -/
structure Sight where
  data : Bytes
  avail : Nat
  frameEnd : Nat
deriving DecidableEq, Repr

/-- The stop that needing the bytes from `a` up to `b` causes, if any (R89). -/
def needBytes (v : Sight) (a b : Nat) : Option Stop :=
  let f := max a (min v.avail v.frameEnd)
  if f < b then some (if v.frameEnd ≤ f then .err 3 else .trunc) else none

/-- State of a walk: place, tunnel level, instances entered, key vector and anchor (R96). -/
structure Walk where
  node : Nat
  pos : Nat := 0
  level : Nat := 0
  entered : List (Nat × Nat) := []
  kv : Bytes
  present : Nat := 0
  anchor : Option (Nat × Nat × Nat) := none
  more : Bool := false
deriving DecidableEq, Repr

/-- The stop of R95 at the head of the loop, if any. DESIGN CHOICE: where one entry would pass several limits, INSTANCES comes before
REPEAT, and REPEAT before TUNNEL_DEPTH. -/
def walkLimit (g : Mem) (w : Walk) : Option Stop :=
  let rep := nodeF g w.node 1 1 / 16
  if 24 ≤ w.entered.length then some (.err 6)
  else if rep ≠ 0 ∧ rep ≤ (w.entered.filter fun e => e.1 == w.node).length then some (.err 7)
  else if bit (nodeF g w.node 0 1) 2 && 3 ≤ w.level then some (.err 8)
  else none

/-- Length of the header at `pos` (R92, R93), or the stop it causes. -/
def headerLen (g : Mem) (v : Sight) (n pos : Nat) : Except Stop Nat :=
  let mode := nodeF g n 1 1 % 4
  let checkLen (len : Nat) : Except Stop Nat :=
    let m := nodeF g n 11 1
    if len < nodeF g n 9 1 ∨ (if m = 0 then 512 else 4 * m) < len then .error (.err 4) else .ok len
  if mode = 0 then
    let width := nodeF g n 7 1 / 16
    let base := nodeF g n 4 2
    if width = 0 then checkLen base
    else
      let o := pos + nodeF g n 6 1
      match needBytes v o (o + 2) with
      | some st => .error st
      | none => checkLen (base + beAt v.data o 2 / 2 ^ (nodeF g n 7 1 % 16) % 2 ^ width * 2 ^ (nodeF g n 8 1 % 4))
  else
    match needBytes v pos (pos + 1) with
    | some st => .error st
    | none =>
      if u8 v.data pos % 32 = 31 then .error (.err 5)
      else match needBytes v (pos + 1) (pos + 2) with
        | some st => .error st
        | none =>
          let l := u8 v.data (pos + 1)
          if l = 0x80 ∨ 0x85 ≤ l then .error (.err 5)
          else
            let k := if l < 0x80 then 0 else l - 0x80
            match needBytes v (pos + 2) (pos + 2 + k) with
            | some st => .error st
            | none =>
              let c := if l < 0x80 then l else beAt v.data (pos + 2) k
              checkLen (2 + k + if mode = 1 then c else 0)

/-- The `w` bits from bit `src`, counted from the most significant bit of byte 0 of `b`. -/
def bitField (b : Bytes) (src w : Nat) : Nat :=
  let o := src / 8
  let n := (src + w + 7) / 8 - o
  beAt b o n / 2 ^ (8 * (o + n) - (src + w)) % 2 ^ w

/-- An extraction writes its slot under LVL_MODE (R98). -/
def writeSlot (g : Mem) (x level v : Nat) (w : Walk) : Walk :=
  let slot := bits x 24 19
  let mode := bits x 26 25
  if (mode = 0 ∨ (mode = 1 ∧ !bit w.present slot) ∨ (mode = 2 ∧ bits x 28 27 = level)) then
    { w with kv := setSlot g w.kv slot v, present := setBit w.present slot }
  else w

/-- The extraction entries of node `n`. -/
def extEntries (g : Mem) (n : Nat) : List Nat :=
  let f := nodeF g n 18 2
  (List.range (bits f 14 10)).map fun i => extOf g (f % 1024 + i)

/-- Header extractions of the instance at `pos` of length `len` (R98). -/
def headerExts (g : Mem) (v : Sight) (pos len : Nat) (w : Walk) : Walk :=
  (extEntries g w.node).foldl (fun w x =>
    let src := bits x 11 0
    let width := bits x 18 12 + 1
    if bit x 29 || 8 * len < src + width || 8 * v.avail < 8 * pos + src + width then w
    else writeSlot g x w.level (bitField (v.data.drop pos) src width) w) w

/-- META extractions after the walk (R96). DESIGN CHOICE: one whose bits reach past the 16 bytes of the block is skipped, as a header
extraction past its header is. -/
def metaExts (g : Mem) (blk : Bytes) (w : Walk) : Walk :=
  w.entered.foldl (fun w e => (extEntries g e.1).foldl (fun w x =>
    let src := bits x 11 0
    let width := bits x 18 12 + 1
    if !bit x 29 || 128 < src + width then w else writeSlot g x e.2 (bitField blk src width) w) w) w

/-- The next node (R94), or the stop. -/
def selectNext (g : Mem) (v : Sight) (w : Walk) (len : Nat) : Except Stop Nat :=
  let n := w.node
  let o := (if bit (nodeF g n 0 1) 4 then w.pos + len else w.pos) + nodeF g n 10 1
  let mask := nodeF g n 12 4
  let used := (List.range 4).filter fun i => mask / 256 ^ (3 - i) % 256 ≠ 0
  match used.findSome? fun i => needBytes v (o + i) (o + i + 1) with
  | some st => .error st
  | none =>
    let val := (used.foldl (fun a i => a + u8 v.data (o + i) * 256 ^ (3 - i)) 0) &&& mask
    let f := nodeF g n 16 2
    let tr := (List.range (f / 2048)).map fun i => 0x2100 + 8 * (f % 2048 + i)
    match tr.find? fun a => bit (Mem.leAt g (a + 5) 1) 0 && Mem.leAt g a 4 == val with
    | some a => if bit (Mem.leAt g (a + 5) 1) 1 then .error (.err 9) else .ok (Mem.leAt g (a + 4) 1)
    | none => match bits (nodeF g n 1 1) 3 2 with
      | 0 => .error .accept
      | 1 => .ok (nodeF g n 2 1)
      | _ => .error (.err 9)

/-- The walk of R96, at most `k` header instances: the stop, the node at which it stopped and what it built. -/
def walkGraph (g : Mem) (v : Sight) : Nat → Walk → Stop × Nat × Walk
  | 0, w => (.err 6, w.node, w)
  | k + 1, w =>
    match walkLimit g w with
    | some st => (st, w.node, w)
    | none =>
      let w := { w with entered := w.entered ++ [(w.node, w.level)] }
      match headerLen g v w.node w.pos with
      | .error st => (st, w.node, w)
      | .ok len =>
        match needBytes v w.pos (w.pos + len) with
        | some st => (st, w.node, w)
        | none =>
          let fl := nodeF g w.node 0 1
          let w := headerExts g v w.pos len w
          let w := if !bit fl 3 then w
            else if w.anchor.isSome then { w with more := true }
            else { w with anchor := some (w.node, w.pos + len, w.level) }
          let w := if bit fl 2 then { w with level := w.level + 1 } else w
          if bit fl 1 then (.accept, w.node, w)
          else match selectNext g v w len with
            | .error st => (st, w.node, w)
            | .ok nx => walkGraph g v k { w with node := nx, pos := w.pos + len }

/-! ### Measurement records (R99 to R101) -/

/-- Bytes of a value of TYPE `t` (R99). -/
def valSize (t : Nat) : Nat := if t ≤ 1 then 2 else 4
/-- A value as the record holds it (R100). -/
def recordVal (t x : Nat) : Nat := if t = 0 then ofSigned 32 (toSigned 16 x) else x

/-- What the map of the first anchor gives (R100): a stop, a record, or neither. -/
def mapRecord (g : Mem) (v : Sight) (x : Slice) (w : Walk) : Option (Except Stop Bytes) :=
  match w.anchor with
  | none => none
  | some (n, a, lv) =>
    let pid := nodeF g n 3 1 % 64
    let m := mapAt pid
    let cnt := Mem.leAt g m 1
    let ks := Mem.leAt g (m + 1) 1
    let ss := Mem.leAt g (m + 2) 1
    if !bit w.present ks then none
    else
      let ents := (List.range cnt).map fun k =>
        let e := Mem.leAt g (m + 8 + 2 * k) 2
        (a + e % 512, bits e 11 9)
      match ents.findSome? fun e => needBytes v e.1 (e.1 + valSize e.2) with
      | some st => some (.error st)
      | none =>
        let seqV := ss != 0xFF && bit w.present ss
        let vals := ents.flatMap fun e => le 4 (recordVal e.2 (beAt v.data e.1 (valSize e.2)))
        some (.ok (le 2 (slotVal g w.kv ks) ++ le 1 pid ++ le 1 cnt ++
          le 4 (if ss = 0xFF then 0 else slotVal g w.kv ss) ++ le 8 (x.stamp / 256) ++ le 1 (x.stamp % 256) ++
          le 1 (b2n seqV + 2 * b2n w.more + 4 * b2n (0 < lv)) ++ le 2 x.version ++ le 4 x.sliceId ++ le 1 x.q ++ zeros 7 ++
          vals))

/-! ### A pipeline takes a slice -/

/-- Offset of the counters of pipeline `n` (R108). -/
def parseCtr (n : Nat) : Nat := baseObs + 0x2000 + 0x40 * n
/-- An error counter of pipeline `n`: `k` 0 ERR, 1 TRUNC, 2 MREC_TRUNC. -/
def parseErr (n k : Nat) (s : State) : State := errc (parseCtr n + 0x10 + 4 * k) (parseCtr n + 0x1C) k 1 s

/-- The metadata block (R98). -/
def metaBlock (x : Slice) (level insts : Nat) : Bytes :=
  be 2 x.ingress ++ be 1 x.q ++ be 1 x.dl ++ be 2 x.frameLen ++ be 1 level ++ be 1 insts ++ zeros 8

/-- The slice as the walk left it, its record if it yields one, and what OBS_PARSE_LAST takes (R96, R100, R109). -/
def walkSlice (s : State) (x : Slice) : Slice × Option Bytes × Bool × Option Nat :=
  let g := imgMem (objsOf s x.version) oidPg
  let v : Sight := { data := x.data, avail := min x.sliceLen (depthOf g x.q), frameEnd := x.frameLen - 4 }
  let (st, node, w) := walkGraph g v 25 { node := Mem.leAt g 2 1, kv := zeros 128 }
  let w := metaExts g (metaBlock x w.level w.entered.length) w
  let (err, trunc) := match st with
    | .accept => (x.err, false)
    | .err r => (max x.err r, false)
    | .trunc => (x.err, true)
  let mapped := if err = 0 ∧ trunc = false then mapRecord g v x w else none
  let (err, trunc, node, rec, mtrunc) := match mapped with
    | some (.ok r) => (err, trunc, node, some r, false)
    | some (.error (.err r)) => (r, trunc, (w.anchor.map (·.1)).getD 0, none, false)
    | some (.error _) => (err, true, node, none, true)
    | none => (err, trunc, node, none, false)
  ({ x with err := err, trunc := trunc, stage := 1, kv := w.kv, present := w.present, level := w.level,
            insts := w.entered.length },
   rec, mtrunc, if err = 0 then none else some (err + 16 * x.q + 1024 * (if err ≤ 2 then 0 else node)))

/-- Pipeline `n` is retired (R512, R515): its queue goes to the pipelines that take its ports. -/
def retirePipe (n : Nat) (s : State) : State :=
  let q := (pipe s n).queue
  let s := { s with nv := { s.nv with pipeRetired := setBit s.nv.pipeRetired n } }
  let s := setPipe n { pipe s n with queue := [] } s
  let s := q.foldl (fun s e =>
    let m := pipeOf s e.1
    setPipe m { pipe s m with queue := (pipe s m).queue ++ [e] } s) s
  raiseF { code := 0x030B, unit := 0xC0 + n, flags := 2, chclass := 9, index := n, version := newestNum s } s

/-- The slice's verdict is its fallback, where it has none yet (R511). -/
def fallbackNow (q seq : Nat) (s : State) : State :=
  let p := port s q
  setPort q { p with pend := p.pend.map fun e =>
    if e.seq == seq && e.ready.isNone then withFallback s q e else e } s

/-- A parity failure in pipeline `n` (R511): fallback at once, PIPE_CHECK, no flow update and no record. -/
def pipeCheck (n : Nat) (x : Slice) (s : State) : State :=
  let s := delSlice x.q x.seq (fallbackNow x.q x.seq s)
  let (ret, s) := if bit s.nv.pipeRetired n then (false, s) else channelEvent 9 n 0 s
  let s := raiseF { code := 0x020B, unit := 0xC0 + n, flags := if ret then 2 else 0, chclass := 9, index := n,
                    version := x.version, detail := x.q } s
  if ret then retirePipe n s else s

/-- The oldest slice of a pipeline is walked (R87, R96), or fails the pipeline's parity check (R511). -/
def parseWalk (n : Nat) (parity : Bool) (s : State) : State :=
  match (pipe s n).queue with
  | [] => s
  | (q, seq) :: r =>
    let s := setPipe n { pipe s n with queue := r } s
    match slice? s q seq with
    | none => s
    | some x =>
      let s := freeWords q x.freeTo s
      if parity then pipeCheck n x s
      else
        let (x', rec, mtrunc, last) := walkSlice s x
        let s := setSlice x' (perf (parseCtr n) 1 s)
        let s := if x'.err ≠ 0 then parseErr n 0 s else s
        let s := if x'.trunc then parseErr n 1 s else s
        let s := if mtrunc then parseErr n 2 s else s
        let s := match last with
          | some v => setPipe n { pipe s n with last := v } s
          | none => s
        match rec with
        | some r => pushRecord (n / 16) x.arr r (perf (parseCtr n + 8) 1 s)
        | none => s

/-- PARSE_WALK (R96). -/
def execParseWalk (pipe : Nat) (parity : Bool) (s : State) : Host.Outcome State Fault Refusal :=
  .next (if frozen s then s else parseWalk pipe parity s)

end Sys2Proof.Machine
end

