-- ==== Sys2Proof/Machine/Classifier.lean ====
section
/-! DEFINITION. The rule classifier and the verdict composer (chapter 04). -/

namespace Sys2Proof.Machine

open Sys2Proof

/-! ### Actions (R118) -/

def actClass (a : Bytes) : Nat := u8 a 0
def actColour (a : Bytes) : Nat := u8 a 1 / 64
def actQueue (a : Bytes) : Nat := u8 a 1 % 64
/-- Bit 0 SET_CLASS, 1 SET_COLOUR, 2 SET_QUEUE, 3 SET_ENS. -/
def actSets (a : Bytes) (i : Nat) : Bool := bit (u8 a 2) i
def actEns (a : Bytes) : Nat := u8 a 3

/-! ### Choosing the rule set (R110, R111) -/

/-- The slice's rule set, 16 for none. -/
def chooseSet (sel g : Mem) (q present : Nat) (kv : Bytes) : Nat :=
  let e := Mem.leAt sel (4 * q) 4
  if bit e 4 then 16
  else
    let vs := bits e 11 6
    let ve := Mem.leAt sel (256 + slotVal g kv vs % 4096) 1
    if bit e 5 && bit present vs && bit ve 7 then ve % 16 else e % 16

/-! ### The rule tree (R112 to R117) -/

/-- Offsets of the four arrays of a rule-set image (R112). -/
def nodesAt (m : Mem) : Nat := 64 + 128 * Mem.leAt m 4 4
def ptrsAt (m : Mem) : Nat := nodesAt m + 16 * Mem.leAt m 8 4
def leavesAt (m : Mem) : Nat := ptrsAt m + 4 * Mem.leAt m 12 4
/-- Length of a rule-set image, padded (R112). -/
def ruleLen (m : Mem) : Nat := (leavesAt m + 32 * Mem.leAt m 16 4 + 31) / 32 * 32

/-- v of R113: `w` bytes of a slot from byte `b`, big-endian. -/
def readV (g : Mem) (kv : Bytes) (slot b w : Nat) : Nat := beAt (slotData g kv slot) b w

/-- Condition at offset `o` of a rule-set image (R116). -/
def condTrue (m g : Mem) (kv : Bytes) (present o : Nat) : Bool :=
  let c := Mem.leAt m o 2
  let slot := c % 64
  let v := readV g kv slot (bits c 11 8) (bits c 14 12)
  let a := Mem.leAt m (o + 4) 4
  let b := Mem.leAt m (o + 8) 4
  match bits c 7 6 with
  | 0 => bit present slot && a ≤ v && v ≤ b
  | 1 => bit present slot && (v &&& b) == a
  | 2 => !bit present slot
  | _ => false

/-- The rule at offset `o` matches (R116). -/
def ruleMatches (m g : Mem) (kv : Bytes) (present o : Nat) : Bool :=
  (List.range (Mem.leAt m (o + 4) 1 % 16)).all fun k => condTrue m g kv present (o + 16 + 12 * k)

/-- The first matching rule of a leaf's valid entries, or the entry whose parity ends the walk (R115, R117, R126). -/
def leafRules (m g : Mem) (kv : Bytes) (present set : Nat) (bad : PRef → Bool) : List Nat → Option Bytes × Option PRef
  | [] => (none, none)
  | e :: r =>
    if !bit e 31 then (none, none)
    else
      let o := 64 + 128 * (e % 2 ^ 18)
      if bad (.rule set o) then (none, some (.rule set o))
      else if ruleMatches m g kv present o then (some (Mem.bytes m (o + 8) 8), none)
      else leafRules m g kv present set bad r

/-- The walk from a child pointer (R113, R114, R117): the rule result's ACTION, and the entry whose parity ended it. -/
def walkTree (m g : Mem) (kv : Bytes) (present set : Nat) (bad : PRef → Bool) : Nat → Nat → Option Bytes × Option PRef
  | 0, _ => (none, none)
  | n + 1, p =>
    let idx := p % 2 ^ 22
    match bits p 23 22 with
    | 1 =>
      let o := nodesAt m + 16 * idx
      if bad (.rule set o) then (none, some (.rule set o))
      else
        let f := Mem.leAt m o 4
        let v := readV g kv (bits f 13 8) (bits f 19 16) (bits f 22 20)
        let c := Mem.leAt m (o + 4) 4 % 2 ^ 22 + v / 2 ^ bits f 28 24 % 2 ^ bits f 31 29
        let po := ptrsAt m + 4 * c
        if bad (.rule set po) then (none, some (.rule set po))
        else walkTree m g kv present set bad n (Mem.leAt m po 4)
    | 2 =>
      let o := leavesAt m + 32 * idx
      if bad (.rule set o) then (none, some (.rule set o))
      else leafRules m g kv present set bad ((List.range 8).map fun k => Mem.leAt m (o + 4 * k) 4)
    | _ => (none, none)

/-- The rule result of a slice in rule set `set` (R117): at most 12 nodes to a leaf. -/
def classify (o : Objs) (kv : Bytes) (present set : Nat) (bad : PRef → Bool) : Option Bytes × Option PRef :=
  let m := imgMem o (oidRule set)
  walkTree m (imgMem o oidPg) kv present set bad 13 (Mem.leAt m 20 4)

/-- The slice's ensemble (R119), 0 for none. -/
def chooseEns (o : Objs) (set : Nat) (rule : Option Bytes) : Nat :=
  if 16 ≤ set then 0
  else
    let d := Mem.bytes (imgMem o (oidRule set)) 24 8
    match rule with
    | some a => if actSets a 3 then actEns a else if actSets d 3 then actEns d else 0
    | none => if actSets d 3 then actEns d else 0

/-! ### Overrides (R120, R121) -/

/-- The override's VALID bit. -/
def ovrValid (v : Bytes) : Bool := bit (u8 v 8) 7
/-- A VALID override applies to a slice of version `v` (R121). -/
def ovrApplies (s : State) (v : Nat) (b : Bytes) : Bool := leAt b 0 2 == v || ((liveObjs s v).isSome && hasObj (objsOf s v) (leAt b 12 4))

/-! ### Parity failures (R126, R152, R174, R563) -/

/-- The object id and the entry index of R563. -/
def refDetail (d : Nat) : PRef → Nat × Nat
  | .trie f _ _ pos => (0x06000000 + 0x1000000 * f, pos)
  | .exact t k => (0x08000000 + t, k)
  | .learn b w => (0xF0000000, 4 * b + w)
  | .flow i => (0xF1000000 + d, i)
  | .rule n o => (oidRule n, o)
  | .score m o => (oidScore m, o)
  | .comp e o => (oidEns e, o)

/-- Address width of a prefix family: 0 IPv4, 1 IPv6. -/
def famWidth (f : Nat) : Nat := if f = 0 then 32 else 128
/-- Bits of an address consumed through stage `k`, from 1 (R135). -/
def stageBits (k : Nat) : Nat := if k = 0 then 0 else 16 + 8 * (k - 1)
/-- The entry belongs to an object of a version. -/
def versioned : PRef → Bool
  | .learn _ _ | .flow _ => false
  | _ => true
/-- The entry stands in storage that `w` wrote anew. A changed prefix copies the trie blocks on its path (R136), and rewrites what
inherits from it in the blocks below. -/
def rewroteRef (w : Wrote) : PRef → Bool
  | .rule n _ => w.imgs.contains (oidRule n)
  | .score m _ => w.imgs.contains (oidScore m)
  | .comp e _ => w.imgs.contains (oidEns e)
  | .exact t k => w.exact.contains (65536 * t + k)
  | .trie f k path _ => w.pfx.any fun t =>
    let m := min t.2.2 (stageBits (k - 1))
    t.1 == f && t.2.1 / 2 ^ (famWidth f - m) == path / 2 ^ (stageBits k - m)
  | _ => false
/-- The live versions whose storage is that of entry `r` of version `v` (R440). -/
def storedIn (s : State) (v : Nat) (r : PRef) : List Nat :=
  if !versioned r then []
  else match s.ver.older with
    | some (l, _) => if rewroteRef s.ver.wrote r then [v] else [l.num, s.ver.newest.num]
    | none => [v]

/-- The mark is of entry `r` of version `v` at `place`. -/
def BadEnt.hits (e : BadEnt) (place v : Nat) (r : PRef) : Bool :=
  !e.silent && e.place == place && e.ref == r && (!versioned r || e.vers.contains v)
/-- Entry `r` of version `v` is marked as failed at `place`. -/
def marked (s : State) (place v : Nat) (r : PRef) : Bool := s.failed.any fun e => e.hits place v r
/-- The entry reads bad: it failed before at this place, or its parity fails on this read. -/
def readsBad (s : State) (place v : Nat) (pf : List PRef) (r : PRef) : Bool := pf.contains r || marked s place v r
/-- Entry `r` of version `v` is marked as failed at `place`. -/
def markBad (place v : Nat) (r : PRef) (s : State) : State :=
  { s with failed := s.failed ++ [{ place := place, ref := r, vers := storedIn s v r }] }

/-- A failure of an entry is marked, counted and raised at its first detection (R126, R152). -/
def noteParity (d unit version : Nat) (r : PRef) (s : State) : State :=
  if marked s d version r then s
  else
    let s := markBad d version r s
    let s := match r with
      | .rule _ _ => errc (baseObs + 0x3000 + 0x80 * d + 0x24) (baseObs + 0x3000 + 0x80 * d + 0x28) 3 1 s
      | .score _ _ => errc (baseObs + 0x3000 + 0x80 * d + 0x24) (baseObs + 0x3000 + 0x80 * d + 0x28) 3 1 s
      | _ => errc (baseTbl + 0x800 + 0x80 * d + 0x3C) (baseTbl + 0x800 + 0x80 * d + 0x48) 5 1 s
    let (id, ix) := refDetail d r
    raiseF { code := 0x0103, unit := unit, index := d, version := version, detail := id + 2 ^ 32 * ix } s

/-! ### Composition (R122 to R125) -/

/-- Composer counters of die `d` (R130). -/
def verdCtr (d : Nat) : Nat := baseObs + 0x3000 + 0x80 * d
def verdErr (d k : Nat) (s : State) : State := errc (verdCtr d + 0x18 + 4 * k) (verdCtr d + 0x28) k 1 s

/-- A source of the verdict: the three SET bits, class, colour and queue. -/
structure Source where
  sets : Nat
  cls : Nat
  colour : Nat
  queue : Nat
deriving DecidableEq, Repr

def srcOf (a : Bytes) : Source := { sets := u8 a 2, cls := actClass a, colour := actColour a, queue := actQueue a }
/-- An override as a source (R120). -/
def srcOvr (v : Bytes) : Source := { sets := u8 v 8, cls := u8 v 4, colour := u8 v 5 / 64, queue := u8 v 5 % 64 }

/-- The first source that sets field `i`. -/
def pick (l : List Source) (i : Nat) (f : Source → Nat) : Nat :=
  match l.find? fun x => bit x.sets i with
  | some x => f x
  | none => 0

/-- The band of a score (R124), or the score-map entry whose parity fails. -/
def bandOf (m : Mem) (map score : Nat) (bad : PRef → Bool) : Except PRef Bytes :=
  let ctl := Mem.leAt m 0 1
  let val (x : Nat) : Int := if bit ctl 4 then toSigned 16 x else x
  let ts := List.range (ctl % 16)
  match ts.find? fun i => bad (.score map (2 + 2 * i)) with
  | some i => .error (.score map (2 + 2 * i))
  | none =>
    let b := (ts.filter fun i => decide (val (Mem.leAt m (2 + 2 * i) 2) ≤ val score)).length
    if bad (.score map (32 + 8 * b)) then .error (.score map (32 + 8 * b)) else .ok (Mem.bytes m (32 + 8 * b) 8)

/-- The sources present for a slice, in rank order (R122), and whether the exception action is among them. -/
def sources (o : Objs) (lk : Lookup) (flags : Nat) (band : Option Bytes) : List Source × Bool :=
  let m := imgMem o (oidRule lk.set)
  let has := lk.set < 16
  let exc := srcOf (Mem.bytes m 32 8)
  let excOn := has && (flags &&& Mem.leAt m 40 2) != 0
  let force := bit (Mem.leAt m 42 1) 0
  ((if excOn && force then [exc] else []) ++ (lk.rule.map srcOf).toList ++ (lk.ovr.map srcOvr).toList ++
   (band.map srcOf).toList ++ (if excOn && !force then [exc] else []) ++
   (if has then [{ srcOf (Mem.bytes m 24 8) with sets := 7 }] else []), excOn)

/-- Flags of the slice at composition (R125): those of the lookup, and those of its parse and score. -/
def sliceFlags (x : Slice) : Nat :=
  x.lk.flags ||| (if x.score.isSome then 4 else 0) ||| (if x.trunc then 0x80 else 0) ||| (if x.err ≠ 0 then 0x100 else 0)

/-- The slice's verdict as R122 composes it, with the new parity failure, if any, and whether EXC was present. -/
def composeVerdict (s : State) (x : Slice) (pf : List PRef) : Bytes × Option PRef × Bool :=
  let o := objsOf s x.version
  let d := dieOfPort x.q
  let (band, bad) := match x.score with
    | none => (none, none)
    | some sc => match bandOf (imgMem o (oidScore x.lk.ens)) x.lk.ens sc (readsBad s d x.version pf) with
      | .ok b => (some b, none)
      | .error r => (none, some r)
  let flags := sliceFlags x ||| (if bad.isSome then 0x40 else 0)
  let (src, exc) := sources o x.lk flags band
  let egress := match x.lk.ovr with
    | some v => if bit (u8 v 8) 3 then leAt v 6 2 else x.lk.egress
    | none => x.lk.egress
  (verdictBytes (port s x.q).ver x.sliceId x.version (pick src 0 (·.cls)) (64 * pick src 1 (·.colour) + pick src 2 (·.queue))
     flags (x.score.getD 0) egress x.dl, bad, exc)

/-- The true verdict reaches its pending slice, or is discarded and counted (R76, R68). -/
def placeVerdict (x : Slice) (v : Bytes) (s : State) : State :=
  let p := port s x.q
  if x.fb then spErr x.q 3 1 s
  else setPort x.q { p with pend := p.pend.map fun e => if e.seq == x.seq && e.ready.isNone then { e with ready := some v } else e } s

/-- VERDICT_COMPOSE (R122). -/
def execVerdictCompose (q seq : Nat) (pf : List PRef) (s : State) : Host.Outcome State Fault Refusal :=
  .next <| if frozen s then s else match slice? s q seq with
    | none => s
    | some x =>
      if x.stage ≠ 4 then s
      else
        let d := dieOfPort q
        let (v, bad, exc) := composeVerdict s x pf
        let s := match bad with
          | some r => noteParity d (0xE4 + 8 * d) x.version r s
          | none => s
        let s := if x.lk.rule.isSome then perf (verdCtr d) 1 s else if x.lk.set < 16 then perf (verdCtr d + 8) 1 s else s
        let s := if x.lk.ovr.isSome then perf (verdCtr d + 0x10) 1 s else s
        let s := if exc then verdErr d 0 s else s
        delSlice q seq (placeVerdict x v s)

end Sys2Proof.Machine
end

