-- ==== Sys2Proof/Machine/Lookup.lean ====
section
/-! DEFINITION. The lookup stage (chapter 05): prefix, exact, learning and flow-record searches of a slice, learning
across the dies, aging, fetches and repair. -/

namespace Sys2Proof.Machine

open Sys2Proof

/-! ### The plan (R133, R134) -/

/-- Offset of port `q`'s entry in the plan. -/
def planAt (q : Nat) : Nat := 64 + 32 * q
/-- Byte `o` of port `q`'s plan entry. -/
def planF (p : Mem) (q o : Nat) : Nat := Mem.leAt p (planAt q + o) 1
/-- Slot `k` is named and PRESENT. -/
def asked (present k : Nat) : Bool := k < 48 && bit present k

/-- Table counters of die `d` (R156). -/
def tblCtr (d : Nat) : Nat := baseTbl + 0x800 + 0x80 * d
/-- An error counter of die `d`: `k` 0 LEARN_MOVE, 1 LEARN_FAIL, 2 FLOW_UNAVAIL, 3 FLOW_EVICT, 4 OVR_NOROOM, 5 PARITY,
6 UNREPAIRED, 7 FLOW_LOST. -/
def tblErr (d k n : Nat) (s : State) : State := errc (tblCtr d + 0x28 + 4 * k) (tblCtr d + 0x48) k n s

/-! ### Prefix tables (R135) -/

def famPfx (o : Objs) (f : Nat) : List Pfx := if f = 0 then o.pfx4 else o.pfx6
/-- The prefix covers the address. -/
def covers (w : Nat) (p : Pfx) (a : Nat) : Bool := p.addr / 2 ^ (w - p.len) == a / 2 ^ (w - p.len)
/-- The longest prefix that covers `a`. -/
def longest (w : Nat) (l : List Pfx) (a : Nat) : Option Pfx :=
  (l.filter fun p => covers w p a).foldl (fun b p => match b with
    | none => some p
    | some x => if x.len ≤ p.len then some p else some x) none
/-- The stages whose block the walk of `a` reaches: stage k + 1 where some longer prefix lies below (R135, R136). -/
def trieStages (f : Nat) (l : List Pfx) (a : Nat) : List Nat :=
  let w := famWidth f
  (List.range (if f = 0 then 3 else 15)).map (· + 1) |>.filter fun k =>
    k == 1 || l.any fun p => stageBits (k - 1) < p.len && p.addr / 2 ^ (w - stageBits (k - 1)) == a / 2 ^ (w - stageBits (k - 1))

/-- The trie entry on the walk of `a` in version `v` that reads bad, if any (R152). -/
def trieBad (s : State) (d f v : Nat) (l : List Pfx) (a : Nat) (pf : List PRef) : Option PRef :=
  let w := famWidth f
  let on (r : PRef) : Bool := match r with
    | .trie g k path _ => g == f && path == a / 2 ^ (w - stageBits k) && (trieStages f l a).contains k
    | _ => false
  match pf.find? on with
  | some r => some r
  | none => (s.failed.find? fun e => e.hits d v e.ref && on e.ref).map (·.ref)

/-! ### Learning (R138 to R142) -/

/-- The bucket of a MAC and VLAN (R138). -/
def learnBucket (mac vlan : Nat) : Nat := crc32c (be 6 mac ++ be 2 vlan) % 2 ^ 18
def learnEnt (s : State) (b w : Nat) : LEnt := mgetD s.learn (4 * b + w) {}
def setLearn (b w : Nat) (e : LEnt) (s : State) : State := { s with learn := msetD s.learn (4 * b + w) e {} }
/-- Group address: the first bit on the wire is set. -/
def isGroup (mac : Nat) : Bool := bit mac 40
/-- The way of bucket `b` that holds the key, among those that read well on die `d`. -/
def findWay (s : State) (d b mac vlan : Nat) (pf : List PRef) : Option Nat :=
  (List.range 4).find? fun w =>
    let e := learnEnt s b w
    !readsBad s d 0 pf (.learn b w) && e.valid && e.mac == mac && e.vlan == vlan
/-- A way is occupied when it is VALID or has failed parity (R139). -/
def wayFull (s : State) (d b : Nat) (pf : List PRef) (w : Nat) : Bool :=
  readsBad s d 0 pf (.learn b w) || (learnEnt s b w).valid
/-- The larger of two LAST_SEC values modulo 2^16 (R141). -/
def laterSec (a b : Nat) : Nat := if (a + 65536 - b) % 65536 < 32768 then a else b

/-- The owner judges a learning event against its copy (R139, R141). -/
def ownerLearn (d : Nat) (e : LEvt) (s : State) : State :=
  let b := learnBucket e.mac e.vlan
  match findWay s d b e.mac e.vlan [] with
  | some w =>
    let x := learnEnt s b w
    if x.port = e.port then setLearn b w { x with lastSec := laterSec x.lastSec e.sec } s
    else
      let s := tblErr d 0 1 s
      if x.static then s else setLearn b w { x with port := e.port, lastSec := laterSec x.lastSec e.sec } s
  | none =>
    match (List.range 4).find? fun w => !wayFull s d b [] w with
    | some w => perf (tblCtr d + 0x18) 1 (setLearn b w
        { mac := e.mac, vlan := e.vlan, valid := true, port := e.port, lastSec := e.sec } s)
    | none => raise1s { code := 0x0506, unit := 0xE1 + 8 * d, index := d, version := newestNum s, detail := b } (tblErr d 1 1 s)

/-- LEARN_EVENT_FORWARD (R141): the oldest event forwarded to die `die` is judged by it as owner. -/
def execLearnEventForward (d : Nat) (s : State) : Host.Outcome State Fault Refusal :=
  .next <| if frozen s then s else match (die s d).learnQ with
    | [] => s
    | e :: r => ownerLearn d e (setDie d { die s d with learnQ := r } s)

/-- An entry is aged out by age `a` at second `t` (R142). -/
def agedOut (a t : Nat) (e : LEnt) : Bool := e.valid && !e.static && a < (t % 65536 + 65536 - e.lastSec) % 65536
/-- Entries whose bucket satisfies `own` are aged: how many, and the state (R142). -/
def ageLearn (own : Nat → Bool) (a : Nat) (s : State) : List Nat × State :=
  let gone := (s.learn.filter fun c => own (c.1 / 4) && agedOut a (nowSec s) c.2).map (·.1)
  (gone, { s with learn := s.learn.map fun c => if gone.contains c.1 then (c.1, { c.2 with valid := false }) else c })

/-- AGE_S of the newest active version (R133). -/
def ageS (s : State) : Nat := Mem.leAt (imgMem s.ver.newest.objs oidPlan) 2 2

/-- LEARN_AGE_SWEEP (R142): once per second each owner sweeps its buckets. -/
def execLearnAgeSweep (d : Nat) (s : State) : Host.Outcome State Fault Refusal :=
  .next <| if frozen s then s else
    if nowSec s + 1 ≤ (die s d).swept then s
    else
      let s := setDie d { die s d with swept := nowSec s + 1 } s
      if ageS s = 0 then s
      else
        let (gone, s) := ageLearn (fun b => b % 2 == d) (ageS s) s
        perf (tblCtr d + 0x20) gone.length s

/-! ### Flow records (R143 to R147) -/

/-- The flow key (R143). -/
def flowKey (p g : Mem) (q : Nat) (kv : Bytes) : Bytes :=
  (List.range 5).flatMap fun k => slotData g kv (planF p q (16 + k))
/-- A record with PKTS 0 and no VALID override is free (R144). -/
def flowFree (r : FRec) : Bool := r.pkts == 0 && !ovrValid r.ovr
/-- The record at an index as the die knows it: its cache line, else HBM. -/
def flowRec (x : Die) (i : Nat) : FRec := match mget x.cache i with | some l => l.r | none => mgetD x.flows i {}
/-- Most lines of the flow cache (R131), and most of them pinned (R147). -/
def cacheLines : Nat := 2097152
def pinLines : Nat := 524288
/-- A line is pinned by its VALID override (R147). -/
def pinned (l : FLine) : Bool := ovrValid l.r.ovr

/-- A full cache gives up its least recently used unpinned line, written back where it is dirty (R146). -/
def evictLine (x : Die) : Die :=
  if x.cache.length < cacheLines then x
  else match (x.cache.filter fun c => !pinned c.2).foldl (fun b c => match b with
      | none => some c
      | some m => if c.2.used < m.2.used then some c else some m) none with
    | none => x
    | some (i, l) => { x with
        cache := mdel x.cache i, flows := if l.dirty then msetD x.flows i l.r {} else x.flows }

/-- A record is written into the cache at index `i`; with `thru` it is written through to HBM (R146, R147). -/
def putLine (i : Nat) (r : FRec) (thru : Bool) (x : Die) : Die :=
  let x := if (mget x.cache i).isSome then x else evictLine x
  { x with clock := x.clock + 1, cache := mset x.cache i { r := r, dirty := !thru, used := x.clock },
           flows := if thru then msetD x.flows i r {} else x.flows }

/-- stick40 of R145. -/
def stick40 (x : Nat) : Nat := min x 0xFFFFFFFFFF
/-- The size bin of a frame length (R144). -/
def sizeBin (n : Nat) : Nat := ([64, 127, 255, 511, 1023, 1517, 2047].filter fun e => decide (e < n)).length
/-- The gap g of R145 from the record's LAST_SEEN to the arrival stamp `a`. -/
def gapOf (lastSeen a : Nat) : Nat :=
  let g := (a + 2 ^ 48 - lastSeen) % 2 ^ 48
  if 2 ^ 47 ≤ g then 0 else min g 0xFFFFFFFF

/-- The update of a flow record by a slice (R145). -/
def flowUpdate (u : FUpd) (r : FRec) : FRec :=
  let a := u.stamp % 2 ^ 48
  let older := 2 ^ 47 ≤ (a + 2 ^ 48 - r.lastSeen) % 2 ^ 48
  let g := gapOf r.lastSeen a
  let d : Int := (g : Int) - r.gapMean
  let r1 :=
    if r.pkts = 0 then { r with lastSeen := a }
    else
      let r := if older then r else { r with lastSeen := a }
      if r.pkts = 1 then { r with gapMean := g, gapVar := 0 }
      else { r with
        gapMean := ofSigned 32 (r.gapMean + d / 2 ^ u.k),
        gapVar := (clampI 0 0xFFFFFFFF (r.gapVar + (d * d / 2 ^ 24 - r.gapVar) / 2 ^ u.k)).toNat }
  let h := r1.hist.map fun x => x - (x + 15) / 16
  let b := sizeBin u.frameLen
  let fl := u.tcp.getD 0
  { r1 with
    pkts := stick40 (r1.pkts + 1), bytes := stick40 (r1.bytes + u.frameLen),
    hist := h.set b (min 255 (h.getD b 0 + 16)),
    syn := if bit fl 1 then stick40 (r1.syn + 1) else r1.syn,
    fr := if bit fl 0 || bit fl 2 then stick40 (r1.fr + 1) else r1.fr }

/-- `n` updates of die `d` are lost (R146). -/
def flowLost (d n version : Nat) (s : State) : State :=
  let x := die s d
  let k := if x.lostSec = nowSec s then x.lost + n else n
  let s := tblErr d 2 n (setDie d { x with lost := k, lostSec := nowSec s } s)
  raise1s { code := 0x0507, unit := 0xE2 + 8 * d, index := d, version := version, detail := min k 0xFFFFFFFF } s

/-- Fetches that die `d` has started in the present us (R146). -/
def fetchesNow (s : State) (d : Nat) : Nat := if (die s d).fetchUs = now s / 1000 then (die s d).fetchN else 0
/-- An update joins the outstanding fetch of its flow, or starts one (R146): whether it was taken. The refetch of a line that failed
parity is always made (R152). DESIGN CHOICE: the rate of 2 G fetches per second is taken over each chronometer us. -/
def queueMiss (d bucket tag : Nat) (count : Bool) (u : FUpd) (s : State) : Bool × State :=
  let x := die s d
  let s' := if count then perf (tblCtr d + 0x10) 1 s else s
  if x.misses.any fun m => m.bucket == bucket && m.tag == tag then
    (true, setDie d { x with misses := x.misses.map fun m =>
      if m.bucket == bucket && m.tag == tag then { m with upd := m.upd ++ [u] } else m } s')
  else if !count || (x.misses.length < 4096 && fetchesNow s d < 2000) then
    (true, setDie d { x with
      misses := x.misses ++ [{ bucket := bucket, tag := tag, upd := [u] }], fetchUs := now s / 1000, fetchN := fetchesNow s d + 1 } s')
  else (false, s)

/-- What the flow engine gives a slice: the record it sees, extra flags, a parity failure (R146, R152). -/
def flowSearch (d version bucket tag : Nat) (u : FUpd) (pf : List PRef) (s : State) :
    Option FRec × Nat × Option PRef × State :=
  let x := die s d
  match (List.range 4).find? fun w => match mget x.cache (4 * bucket + w) with
      | some l => l.r.tag == tag && !flowFree l.r
      | none => false with
  | some w =>
    let i := 4 * bucket + w
    match mget x.cache i with
    | none => (none, 0, none, s)
    | some l =>
      if readsBad s d 0 pf (.flow i) then
        let s := if l.dirty then tblErr d 7 1 s else s
        let s := setDie d { die s d with cache := mdel (die s d).cache i } s
        (none, 0x440, some (.flow i), (queueMiss d bucket tag false u s).2)
      else
        (some l.r, 0, none, perf (tblCtr d + 8) 1 (setDie d (putLine i (flowUpdate u l.r) false x) s))
  | none =>
    let (ok, s) := queueMiss d bucket tag true u s
    if ok then (none, 0, none, s) else (none, 0x400, none, flowLost d 1 version s)

/-- Of two 48-bit stamps the first is the older one, as R145 tells them apart. -/
def olderStamp (a b : Nat) : Bool := decide (2 ^ 47 ≤ (a + 2 ^ 48 - b) % 2 ^ 48)
/-- The way of a bucket that a new record takes (R146): a free one, else the one with the oldest LAST_SEEN and no VALID
override, with whether a record is replaced; none where all four hold overrides. -/
def newWay (x : Die) (bucket : Nat) (freed : Nat → Bool) : Option (Nat × Bool) :=
  let idx := (List.range 4).map fun w => 4 * bucket + w
  match idx.find? fun i => flowFree (flowRec x i) || freed i with
  | some i => some (i, false)
  | none =>
    ((idx.filter fun i => !ovrValid (flowRec x i).ovr).foldl (fun b i => match b with
      | none => some i
      | some m => if olderStamp (flowRec x i).lastSeen (flowRec x m).lastSeen then some i else some m) none).map fun i => (i, true)

/-- The slice of an update carries FLOW_UNAVAIL, where its verdict has not been composed (R355). -/
def unavail (u : FUpd) (s : State) : State :=
  match slice? s u.q u.seq with
  | some x => setSlice { x with lk := { x.lk with flags := setBit x.lk.flags 10 } } s
  | none => s

/-- FLOW_FETCH_RETURN (R146): a bucket has been read from HBM; bit w of `poison`: the line of way w is poisoned, its record counts as free and
the slices that waited carry FLOW_UNAVAIL (R355). -/
def fetchReturn (d bucket tag poison : Nat) (s : State) : State :=
  let x := die s d
  match x.misses.find? fun m => m.bucket == bucket && m.tag == tag with
  | none => s
  | some m =>
    let lostW := (List.range 4).filter fun w =>
      bit poison w && (mget x.cache (4 * bucket + w)).isNone
    let x := { x with
      misses := x.misses.filter fun m => !(m.bucket == bucket && m.tag == tag),
      flows := lostW.foldl (fun f w => mdel f (4 * bucket + w)) x.flows }
    let s := { (tblErr d 7 lostW.length (if lostW.isEmpty then s else m.upd.foldl (fun s u => unavail u s) s)) with
      failed := s.failed.filter fun e => !(e.place == d && (List.range 4).any fun w => e.ref == .flow (4 * bucket + w)) }
    let idx := (List.range 4).map fun w => 4 * bucket + w
    match idx.find? fun i => (flowRec x i).tag == tag && !flowFree (flowRec x i) with
    | some i => setDie d (putLine i (m.upd.foldl (fun r u => flowUpdate u r) (flowRec x i)) false x) s
    | none =>
      match newWay x bucket (fun _ => false) with
      | none => flowLost d m.upd.length (newestNum s) (setDie d x s)
      | some (i, evict) =>
        let sref := (m.upd.head?).bind (·.sref)
        let r : FRec := { tag := tag, srefV := sref.isSome, sref := sref.getD 0 }
        let x := if evict then { x with cache := mdel x.cache i, flows := mdel x.flows i } else x
        let s := setDie d (putLine i (m.upd.foldl (fun r u => flowUpdate u r) r) false x) s
        if evict then tblErr d 3 1 s else s

/-- FLOW_FETCH_RETURN (R146). -/
def execFlowFetchReturn (die bucket tag poison : Nat) (s : State) : Host.Outcome State Fault Refusal :=
  .next (if frozen s then s else fetchReturn die bucket tag poison s)

/-- VALID of the override of the record at index `i` is cleared (R121, R147). -/
def clearOverride (d i : Nat) (s : State) : State :=
  let x := die s d
  let clr (r : FRec) : FRec := { r with ovr := r.ovr.set 8 (BitVec.ofNat 8 (u8 r.ovr 8 % 128)) }
  match mget x.cache i with
  | some l => setDie d { x with
      cache := mset x.cache i { l with r := clr l.r, dirty := false }, flows := msetD x.flows i (clr l.r) {} } s
  | none => setDie d { x with flows := msetD x.flows i (clr (mgetD x.flows i {})) {} } s

/-! ### The lookup of a slice (R134) -/

/-- Flow features of a record by FIELD (R162), saturated. -/
def flowFeatures (r : FRec) : List Nat :=
  ([r.pkts, r.bytes, r.gapMean, r.gapVar] ++ r.hist ++ [r.syn, r.fr]).map fun v => min v 0xFFFFFFFF

/-- Longest-prefix match of a slice: flags and the parity failure. -/
def lpmSearch (s : State) (x : Slice) (o : Objs) (pf : List PRef) : Bool × Nat × Option PRef :=
  let p := imgMem o oidPlan
  let g := imgMem o oidPg
  let v4 := planF p x.q 0
  let v6 := planF p x.q 1
  let one (f k : Nat) : Bool × Nat × Option PRef :=
    let a := slotVal g x.kv k
    match trieBad s (dieOfPort x.q) f x.version (famPfx o f) a pf with
    | some r => (true, 0x50, some r)
    | none => (true, if (longest (famWidth f) (famPfx o f) a).isSome then 0 else 0x10, none)
  if asked x.present v4 then one 0 v4 else if asked x.present v6 then one 1 v6 else (false, 0, none)

/-- Exact lookups of a slice (R137): the entries hit, flags and parity failures. -/
def exactSearch (s : State) (x : Slice) (o : Objs) (pf : List PRef) : Map Bytes × Nat × List PRef :=
  let p := imgMem o oidPlan
  let g := imgMem o oidPg
  (List.range 8).foldl (fun (hits, fl, bad) t =>
    let k := planF p x.q (4 + t)
    if bit (planF p x.q 2) t && asked x.present k then
      let key := slotVal g x.kv k % 65536
      if readsBad s (dieOfPort x.q) x.version pf (.exact t key) then (hits, fl ||| 0x60, bad ++ [.exact t key])
      else match mget o.exact (65536 * t + key) with
        | some e => (mset hits t e, fl, bad)
        | none => (hits, fl ||| 0x20, bad)
    else (hits, fl, bad)) ([], 0, [])

/-- The learning engine's part (R139): egress hint, flags, the source entry's stream hint, parity failures, and the
event to be judged. -/
def learnSearch (s : State) (x : Slice) (o : Objs) (pf : List PRef) : Nat × Nat × Option Nat × List PRef × Option LEvt :=
  let p := imgMem o oidPlan
  let g := imgMem o oidPg
  let d := dieOfPort x.q
  let vs := planF p x.q 14
  let vlan := if asked x.present vs then slotVal g x.kv vs % 4096 else 0
  let badWays (b : Nat) : List PRef := (List.range 4).filterMap fun w =>
    if readsBad s d 0 pf (.learn b w) then some (.learn b w) else none
  let ctl := planF p x.q 15
  let ds := planF p x.q 13
  let dmac := slotVal g x.kv ds % 2 ^ 48
  let (egress, bad1) :=
    if bit ctl 1 && asked x.present ds && !isGroup dmac then
      let b := learnBucket dmac vlan
      (match findWay s d b dmac vlan pf with
        | some w => (learnEnt s b w).port
        | none => 0xFFFF, badWays b)
    else (0xFFFF, [])
  let ss := planF p x.q 12
  let smac := slotVal g x.kv ss % 2 ^ 48
  if asked x.present ss && !isGroup smac then
    let b := learnBucket smac vlan
    let w := findWay s d b smac vlan pf
    let hint := w.bind fun w => if (learnEnt s b w).shV then some (learnEnt s b w).stream else none
    let flood := bit ctl 0 && w.isNone && (List.range 4).all (wayFull s d b pf)
    let bad := bad1 ++ badWays b
    (egress, (if flood then 1 else 0) ||| (if bad.isEmpty then 0 else 0x40), hint, bad,
     if bit ctl 0 then some { mac := smac, vlan := vlan, port := x.ingress, sec := nowSec s % 65536 } else none)
  else (egress, if bad1.isEmpty then 0 else 0x40, none, bad1, none)

/-- A learning event of die `d` is judged at once by the owner, or forwarded to it (R141). -/
def learnEvent (d : Nat) (e : LEvt) (s : State) : State :=
  let ow := learnBucket e.mac e.vlan % 2
  if ow = d then ownerLearn d e s
  else setDie ow { die s ow with learnQ := (die s ow).learnQ ++ [e] } s

/-- The override of the record seen, as it bears on the slice (R121): the bytes that apply, and the state. -/
def judgeOverride (d : Nat) (x : Slice) (bucket tag : Nat) (r : FRec) (s : State) : Option Bytes × State :=
  if !ovrValid r.ovr then (none, s)
  else if ovrApplies s x.version r.ovr then (some r.ovr, s)
  else
    let s := verdErr d 1 s
    if hasObj s.ver.newest.objs (leAt r.ovr 12 4) then (none, s)
    else match (List.range 4).find? fun w => (flowRec (die s d) (4 * bucket + w)).tag == tag && !flowFree (flowRec (die s d) (4 * bucket + w)) with
      | some w => (none, verdErr d 2 (clearOverride d (4 * bucket + w) s))
      | none => (none, s)

/-- SLICE_LOOKUP (R134): every search of the slice, in the tables of its version. A learning way that fails here is marked before the
learning event is judged, so that nothing is learned into it (R152). -/
def sliceLookup (x : Slice) (pf : List PRef) (s : State) : State :=
  let o := objsOf s x.version
  let p := imgMem o oidPlan
  let g := imgMem o oidPg
  let d := dieOfPort x.q
  let (ran, f1, b1) := lpmSearch s x o pf
  let (hits, f2, b2) := exactSearch s x o pf
  let (egress, f3, hint, b3, ev) := learnSearch s x o pf
  let set := chooseSet (imgMem o oidSel) g x.q x.present x.kv
  let (rule, b4) := if set < 16 then classify o x.kv x.present set (readsBad s d x.version pf) else (none, none)
  let s := if ran then perf (tblCtr d) 1 s else s
  let k22 := planF p x.q 22
  let flowOn := bit k22 4 && (List.range 5).any fun k => asked x.present (planF p x.q (16 + k))
  let key := flowKey p g x.q x.kv
  let bucket := crc32c key % 2 ^ 25
  let tag := crc32 key % 2 ^ 31
  let ts := planF p x.q 21
  let srefX := (List.range 8).findSome? fun t => (mget hits t).bind fun e => if bit (u8 e 0) 1 then some (leAt e 2 2) else none
  let u : FUpd := {
    q := x.q, seq := x.seq, version := x.version, stamp := x.stamp / 256, frameLen := x.frameLen, k := k22 % 16,
    tcp := if asked x.present ts then some (slotVal g x.kv ts % 256) else none,
    sref := if srefX.isSome then srefX else hint }
  let (rec, f5, b5, s) := if flowOn then flowSearch d x.version bucket tag u pf s else (none, 0, none, s)
  let (ovr, s) := match rec with
    | some r => judgeOverride d x bucket tag r s
    | none => (none, s)
  let s := (b1.toList ++ b2 ++ b3).foldl (fun s r => noteParity d (0xE1 + 8 * d) x.version r s) s
  let s := match ev with
    | some e => learnEvent d e s
    | none => s
  let s := b4.toList.foldl (fun s r => noteParity d (0xE0 + 8 * d) x.version r s) s
  let s := b5.toList.foldl (fun s r => noteParity d (0xE2 + 8 * d) x.version r s) s
  let ens := chooseEns o set rule
  let noEns := ens ≠ 0 ∧ (mget o.img (oidEns ens)).isNone
  let s := if noEns then errc (baseObs + 0x4800 + 0x40 * d + 8) (baseObs + 0x4800 + 0x40 * d + 0x10) 0 1 s else s
  let flags := f1 ||| f2 ||| f3 ||| f5 ||| (if b4.isSome then 0x40 else 0) ||| (match ovr with
    | some v => 8 ||| (if bit (u8 v 8) 4 then 0x200 else 0)
    | none => 0)
  let lk : Lookup := {
    set := set, rule := rule, ovr := ovr, egress := egress, flags := flags, ens := if noEns then 0 else ens,
    flow := rec.map flowFeatures,
    age := rec.bind fun r => if 1 ≤ r.pkts then some (gapOf r.lastSeen (x.stamp / 256 % 2 ^ 48)) else none,
    exact := hits }
  setSlice { x with fb := ((slice? s x.q x.seq).map (·.fb)).getD x.fb, lk := lk, stage := if ens = 0 ∨ noEns then 4 else 3 } s

/-- SLICE_LOOKUP (R134). -/
def execSliceLookup (q seq : Nat) (pf : List PRef) (s : State) : Host.Outcome State Fault Refusal :=
  .next <| if frozen s then s else match slice? s q seq with
    | none => s
    | some x => if x.stage = 1 then sliceLookup x pf s else s

/-! ### Repair (R153) -/

/-- The counter of failed repairs and the marks of a repaired entry, in every live version that holds it (R153), and for a compass
entry in every unit (R174). A flow-cache line has no shadow: its refetch is its repair. -/
def tableRepair (place : Nat) (r : PRef) (ok : Bool) (s : State) : State :=
  if !(s.failed.any fun e => e.place == place && e.ref == r) then s
  else if ok then
    match r with
    | .comp _ _ => { s with failed := s.failed.filter fun e => e.ref != r }
    | .flow _ => s
    | _ => { s with failed := s.failed.filter fun e => !(e.place == place && e.ref == r) }
  else if (match r with | .flow _ => true | _ => false) then s
  else if place < 2 then tblErr place 6 1 s else tblErr ((place - 2) / 16) 6 1 s

/-- TABLE_REPAIR (R153): the helm rewrites a failed entry from its shadow; `ok` is false where the shadow read meets
HBM_UE. -/
def execTableRepair (place : Nat) (ref : PRef) (ok : Bool) (s : State) : Host.Outcome State Fault Refusal :=
  .next (if frozen s then s else tableRepair place ref ok s)

end Sys2Proof.Machine
end

