-- ==== Sys2Proof/Machine/ScalarDma.lean ====
section
/-! DEFINITION. The scalar class, the DMA class and the queue marker QWAIT (R280, R281, R284). -/

namespace Sys2Proof.Machine

open Sys2Proof

/-! ### Scalar engines (R280) -/

/-- Scalar register `i` of engine `g`; S0 reads as 0 (R261). -/
def sreg (c : Core) (g i : Nat) : Nat := if i = 0 then 0 else mgetD c.s (32 * g + i) 0
/-- A write to S0 is ignored. -/
def setS (g i v : Nat) (c : Core) : Core := if i = 0 then c else { c with s := msetD c.s (32 * g + i) (v % 2 ^ 64) 0 }

/-- A scalar instruction that only changes its core. -/
def scaStep (p eng op : Nat) (f : EI → Nat → Core → Core) (s : State) : State :=
  engDone p (10 + eng % 2) 3 op (fun e s => setCore p (f e (eng % 2) (core s p)) s) s

def sd (w : Nat) : Nat := bits w 110 106
def sa (w : Nat) : Nat := bits w 105 101
def sb (w : Nat) : Nat := bits w 100 96

/-- SALU. -/
def execSalu (p eng : Nat) (s : State) : Host.Outcome State Fault Refusal :=
  .next <| scaStep p eng 1 (fun e g c => setS g (sd e.w) (alu64 (bits e.w 95 92) (sreg c g (sa e.w)) (sreg c g (sb e.w))) c) s
/-- SLI. -/
def execSli (p eng : Nat) (s : State) : Host.Outcome State Fault Refusal :=
  .next <| scaStep p eng 2 (fun e g c => setS g (sd e.w) (bits e.w 95 32) c) s
/-- SADDI. -/
def execSaddi (p eng : Nat) (s : State) : Host.Outcome State Fault Refusal :=
  .next <| scaStep p eng 3 (fun e g c => setS g (sd e.w) (sreg c g (sa e.w) + sext64 32 (bits e.w 95 64)) c) s
/-- SMOVK. -/
def execSmovk (p eng : Nat) (s : State) : Host.Outcome State Fault Refusal :=
  .next <| scaStep p eng 6 (fun e g c => writeK (bits e.w 95 92) (sreg c g (sa e.w)) c) s
/-- SGETK: the K register as it stood at decode. -/
def execSgetk (p eng : Nat) (s : State) : Host.Outcome State Fault Refusal :=
  .next <| scaStep p eng 7 (fun e g c => setS g (sd e.w) e.kval c) s

/-- The address of SLD and SST. -/
def scaAddr (c : Core) (g w : Nat) : Nat := (sreg c g (sa w) + sext64 32 (bits w 95 64)) % 2 ^ 64

/-- SLD. -/
def execSld (p eng : Nat) (s : State) : Host.Outcome State Fault Refusal :=
  .next <| engStep p (10 + eng % 2) 3 4 (fun e s =>
    let q := 10 + eng % 2
    let c := core s p
    let a := scaAddr c (eng % 2) e.w
    if a % 8 != 0 || !localIn a 8 then illegalEi p q e s
    else if localPoison s p a 8 then refuseEi p q e s
    else doneEi p q e (setCore p (setS (eng % 2) (sd e.w) (localLe s p a 8) c) s)) s
/-- SST. -/
def execSst (p eng : Nat) (s : State) : Host.Outcome State Fault Refusal :=
  .next <| engStep p (10 + eng % 2) 3 5 (fun e s =>
    let q := 10 + eng % 2
    let c := core s p
    let a := scaAddr c (eng % 2) e.w
    if !localIn a 8 then illegalEi p q e s
    else doneEi p q e (localWrite p a (le 8 (sreg c (eng % 2) (sb e.w))) s)) s

/-! ### DMA (R281, R403) -/

/-- A DCOPY's parts: where each piece comes from, its length and where it goes. A piece is a row, or with TRANSPOSE one element. -/
def copyPieces (w : Nat) (d : Bytes) : List (Nat × Nat × Nat) :=
  let src := leAt d 0 8
  let dst := leAt d 8 8
  let rb := leAt d 16 4
  let ew := 2 ^ bits w 115 114
  (List.range (leAt d 20 2)).flatMap fun i =>
    if bit w 113 then (List.range (rb / ew)).map fun j =>
      (src + i * leAt d 24 4 + j * ew, ew, dst + j * leAt d 28 4 + i * ew)
    else [(src + i * leAt d 24 4, rb, dst + i * leAt d 28 4)]
/-- The descriptor's fields and ranges are legal (R281); the destination of a remote copy is checked on its chip. -/
def copyOk (s : State) (w : Nat) (remote : Bool) (d : Bytes) : Bool :=
  let rb := leAt d 16 4
  decide (1 ≤ rb) && decide (rb ≤ 16777216) && decide (1 ≤ leAt d 20 2) && (!bit w 113 || rb % 2 ^ bits w 115 114 == 0)
    && (copyPieces w d).all fun x => inMem s x.1 x.2.1 && (remote || inMem s x.2.2 x.2.1)

/-- A piece cut into what frames of at most 4,088 bytes of data carry, the last one first. -/
def cutPiece (fuel : Nat) (x : Nat × Nat × Nat) : List (Nat × Nat × Nat) :=
  match fuel with
  | 0 => []
  | fuel + 1 =>
    if x.2.1 ≤ 4088 then [x] else (x.1, 4088, x.2.2) :: cutPiece fuel (x.1 + 4088, x.2.1 - 4088, x.2.2 + 4088)

/-- The kind 3 frames of a remote copy (R403): a copy word, LAST in the final one, and the data. -/
def sendCopy (p : Nat) (e : EI) (j : Option Job) (d : Bytes) (s : State) : State :=
  let parts := (copyPieces e.w d).flatMap fun x => cutPiece (x.2.1 / 4088 + 1) x
  let dest := leAt d 22 2
  (parts.zipIdx).foldl (fun s x =>
    let (tag, s) := newTag p 3 dest ((j.map (·.wid)).getD 0) e.ver ((j.map (·.deadline)).getD 0xFFFFFFFF)
      ((j.map fun j => bits (u8 j.desc 12) 2 0).getD 0) ((j.map fun j => bits (u8 j.desc 12) 5 3).getD 0)
      ((j.map fun j => bit (u8 j.desc 12) 6).getD false) e.region s
    let word := be 8 ((if x.2 + 1 = parts.length then 2 ^ 63 else 0) + x.1.2.2 % 2 ^ 48)
    sendTag dest tag (word ++ devBytes s x.1.1 x.1.2.1) s) s

/-- DCOPY. A remote copy, under the version current when it is made (R440), waits for its confirmation; with its route lost it completes as
refused. -/
def execDcopy (p : Nat) (s : State) : Host.Outcome State Fault Refusal :=
  .next <| engStep p 12 4 1 (fun e s =>
    let w := e.w
    let at_ := bits w 111 91 * 32
    let d := localBytes s p at_ 32
    -- a copy to this chip's own id is made in place
    let remote := bit w 112 && leAt d 22 2 != chipId s
    if localPoison s p at_ 32 then refuseEi p 12 e s
    else if !copyOk s w remote d then illegalEi p 12 e s
    else
      let parts := copyPieces w d
      if parts.any fun x => hbmHeld s x.1 x.2.1 || (!remote && hbmHeld s x.2.2 x.2.1) then s
      else match parts.findSome? fun x => firstPoison s x.1 x.2.1 with
      | some a => refuseEi p 12 e (poisonRead a s)
      | none =>
      if !remote then
        let data := parts.map fun x => (x.2.2, devBytes s x.1 x.2.1)
        util p 0x228 ((parts.map (·.2.1)).foldl (· + ·) 0) (doneEi p 12 e (data.foldl (fun s x => devWrite x.1 x.2 s) s))
      else
        let dest := leAt d 22 2
        if s.chip.isNone || routeLost s dest then refuseEi p 12 e s
        else
          let j := jobOf s p
          let e := { e with ph := 2, sent := now s, chip := dest, wid := (j.map (·.wid)).getD 0, ver := newestNum s }
          util p 0x228 ((parts.map (·.2.1)).foldl (· + ·) 0) (putRun p 12 e (sendCopy p e j d s))) s

/-- A job descriptor that a program sends is well formed (R310). -/
def djobOk (d : Bytes) : Bool :=
  let rl := leAt d 30 2
  u8 d 0 != 0 && u8 d 12 / 128 == 0 && u8 d 13 / 2 == 0 && zeroAt d 56 8
    && (rl == 0 || (decide (32 ≤ rl) && decide (rl ≤ 16384) && rl % 32 == 0)) && leAt d 32 8 % 32 == 0

/-- The DJOB `e` of core `p` completes with the acceptance status of its job, written back to the descriptor (R310). -/
def acceptDjob (p : Nat) (e : EI) (status : Nat) (s : State) : State :=
  doneEi p 12 e (localWrite p (bits e.w 111 91 * 32 + 28) (le 2 status) s)
/-- The DJOBs of core `p` that wait for the acceptance of their job. -/
def waitingDjobs (s : State) (p : Nat) : List EI := (runAt (core s p) 12).filter fun e => e.ph == 2 && eiClass e.w == 4 && eiOp e.w == 2
/-- The one that sent job `wid` to `chip` gets its STATUS, where it still waits. -/
def djobStatus (p chip wid status : Nat) (s : State) : State :=
  match (waitingDjobs s p).find? fun e => e.chip == chip && e.wid == wid with
  | none => s
  | some e => acceptDjob p e status s
/-- A job sent away is no longer in flight here (R36). -/
def dropAway (chip wid : Nat) (s : State) : State := { s with away := s.away.filter fun a => !(a.1 == wid && a.2.1 == chip) }
/-- What R310 lets a DJOB be told: OK, BUSY, VERSION or NOT_FOUND, and LATE for a job that was late already (R38). -/
def acceptStatus (n : Nat) : Bool := n == 0 || n == 6 || n == 7 || n == 13 || n == 15

/-- The DJOB that core `p` takes next sends its descriptor as a kind 2 job, under the version current now (R440). -/
def sendDjob (p : Nat) (s : State) : State :=
  engStep p 12 4 2 (fun e s =>
    let at_ := bits e.w 111 91 * 32
    let d := localBytes s p at_ 64
    if localPoison s p at_ 64 then refuseEi p 12 e s
    else if !djobOk d then illegalEi p 12 e s
    else
      let remote := bit (u8 d 13) 0
      let dest := if remote then leAt d 14 2 else chipId s
      let cls := u8 d 12
      let dl := if leAt d 8 4 = 0 then 0xFFFFFFFF else deadlineOf (now s + leAt d 8 4)
      let v := newestNum s
      let (tag, s) := newTag p 2 dest (leAt d 4 4) v dl (bits cls 2 0) (bits cls 5 3) (bit cls 6) e.region s
      let s := if dest = chipId s || leAt d 30 2 = 0 then s else { s with away := s.away ++ [(leAt d 4 4, dest, v)] }
      putRun p 12 { e with ph := 2, chip := dest, wid := leAt d 4 4, ver := v } (sendTag dest tag d s)) s

/-- DJOB: the descriptor leaves as a job, and the instruction completes when the job has been queued or refused. With `acc`, the oldest DJOB of
the core whose job went to another chip learns that status. -/
def execDjob (d : DjobAt) (s : State) : Host.Outcome State Fault Refusal :=
  .next <| match d.acc with
    | none => sendDjob d.core s
    | some st =>
      if !coreOn s d.core || !acceptStatus st then s
      else match (waitingDjobs s d.core).find? (·.chip != chipId s) with
        | none => s
        | some e => acceptDjob d.core e st (if st = 0 then s else dropAway e.chip e.wid s)

/-! ### QWAIT (R284) -/

/-- QWAIT: released once every earlier instruction of the queues named has completed, it has nothing more to do. -/
def execQwait (p q : Nat) (s : State) : Host.Outcome State Fault Refusal :=
  .next <| engDone p q 7 1 (fun _ s => s) s

end Sys2Proof.Machine
end

