-- ==== Sys2Proof/Machine/Sync.lean ====
section
/-! DEFINITION. Synchronisation objects and barriers (chapter 11): operations, barriers in two rounds, orphaning, the kind 4 tags
between sync blocks, tree nodes, and the sync instructions. -/

namespace Sys2Proof.Machine

open Sys2Proof

/-! ### Objects (R325, R326) -/

/-- An object: of the hub, or object `k` of physical core `p`. -/
structure ORef where
  hub : Bool
  p : Nat := 0
  k : Nat
deriving DecidableEq, Repr

def obj (s : State) (r : ORef) : SObj := if r.hub then mgetD s.hub r.k {} else mgetD (core s r.p).sync r.k {}
def setObj (r : ORef) (x : SObj) (s : State) : State :=
  if r.hub then { s with hub := msetD s.hub r.k x {} }
  else let c := core s r.p; setCore r.p { c with sync := msetD c.sync r.k x {} } s

def SObj.parties (x : SObj) : Nat := bits x.flags 31 16
def SObj.phase (x : SObj) : Nat := bits x.flags 7 6
def SObj.setPhase (x : SObj) (p : Nat) : SObj := { x with flags := putBits x.flags 7 6 p }
def SObj.barrier (x : SObj) : Bool := bit x.flags 4
def SObj.used (x : SObj) : Bool := bit x.flags 5
def SObj.orphaned (x : SObj) : Bool := bit x.flags 2

/-- Base of the counters of an object's block (R347). -/
def syncCtr (r : ORef) : Nat := if r.hub then baseObs + 0x10200 else baseObs + 0xE000 + 0x40 * r.p
/-- The sync error counter `k` places after OBS_SYNC_SAT. -/
def syncErrAt (b k : Nat) (s : State) : State := errc (b + 0x10 + 4 * k) (b + 0x24) k 1 s
/-- Origin unit of an object's block (R28). -/
def objUnit (r : ORef) : Nat := if r.hub then 0xE6 else r.p
/-- A fault of an object: its number, and whether it is in the hub (R509). -/
def syncFault (code extra : Nat) (r : ORef) (s : State) : State :=
  raiseF { code := code, unit := objUnit r, index := if r.hub then 0 else lcore s r.p, version := newestNum s,
           detail := r.k + 256 * b2n r.hub + 65536 * extra } s

/-- The last signaller is the sender of this operation (R325). -/
def signed_ (w : Waiter) (op : Nat) (s : State) (x : SObj) : SObj :=
  { x with sigChip := if w.remote then w.chip else chipId s, sigUnit := w.unit, sigOp := op, sigNs := now s }

/-! ### Answers (R330, R339) -/

/-- The 8-byte payload of a kind 4 tag, big-endian (R6). -/
def syncPay (value status flags : Nat) : Bytes := be 4 value ++ be 2 status ++ be 1 flags ++ [0]
/-- WORK_ID of a kind 4 tag (R339). -/
def syncWid (k lc op req : Nat) (posted : Bool) : Nat := k + 256 * lc + 65536 * op + 2 ^ 20 * req + 2 ^ 28 * b2n posted
/-- A kind 4 tag leaves `unit` for chip `dest`. -/
def sendSync (unit dest wid version : Nat) (pay : Bytes) (s : State) : State :=
  let (t, s) := newTag unit 4 dest wid version 0xFFFFFFFF 7 0 false false s
  sendTag dest t pay s
/-- A kind 4 tag leaves the hub on a tree link, for the chip at its other end (R342). -/
def sendTree (n k op version : Nat) (s : State) : State :=
  let dest := match (link s n).partner with | some (c, _, _) => c | none => 0
  let (t, s) := newTag 0xE6 4 dest (syncWid k 0xFF op 0xE6 false) version 0xFFFFFFFF 7 0 false false s
  enqueue n (tableFrame dest (tagBytes t) (syncPay 0 0 0)) s

/-- The result word of a sync instruction (R330). -/
def resultWord (status : Nat) (sat ovr : Bool) (value : Nat) : Nat :=
  status + 65536 * b2n sat + 2 ^ 17 * b2n ovr + 2 ^ 32 * (if status = 0 then value % 2 ^ 32 else 0)
/-- A sync instruction completes with its result word. -/
def finishSync (p : Nat) (e : EI) (word : Nat) (s : State) : State :=
  let kd := bits e.w 47 44
  let c := core s p
  let s := coreLog p 4 (le 1 (bits e.w 111 104) ++ le 1 (eiOp e.w) ++ le 2 word ++ le 4 (word / 2 ^ 32)) s
  util p 0x230 1 (doneEi p 13 e (setCore p (if kd = 0 then c else writeK kd word c) s))
/-- The instruction of core `p` that waits for an answer about the object and chip of `wid`. -/
def waitingSync (s : State) (p chip wid : Nat) : Option EI :=
  (runAt (core s p) 13).find? fun e => e.ph == 2 && e.chip == chip && e.wid % 65536 == wid % 65536

/-- A held operation is answered: on the object's own core at once, elsewhere by a RELEASE tag, or by the REPLY of a WAIT that has had no
PENDING (R334, R339). -/
def answerHeld (r : ORef) (w : Waiter) (status value : Nat) (s : State) : State :=
  let s := if status = 14 then syncErrAt (syncCtr r) 1 s else s
  if !w.remote && !r.hub && w.unit = r.p then
    match waitingSync s w.unit (chipId s) w.wid with
    | some e => finishSync w.unit e (resultWord status false false value) s
    | none => s
  else
    sendSync (objUnit r) (if w.remote then w.chip else chipId s) (w.wid % 65536 + 65536 * (if w.fresh then 6 else 7) + bits w.wid 27 20 * 2 ^ 20) w.version
      (syncPay (if status = 0 then value else 0) status 0) s

/-! ### Barriers (R334, R335, R342) -/

/-- A participant on the object's owning core (R334). -/
def ownSide (r : ORef) (x : SObj) (w : Waiter) : Bool := !w.remote && (if r.hub then w.unit == x.owner else w.unit == r.p)

/-- Every participant has left: the next round's arrivals become this round's. -/
def gather (x : SObj) : SObj := ({ x with cur := x.next, next := 0 } : SObj).setPhase 0

/-- A round is complete here: VALUE rises, and every held participant and child link is released (R335, from VALUE on). -/
def releaseRound (r : ORef) (s : State) : State :=
  let x := obj s r
  let sat := x.value == 0xFFFFFFFF
  let v := min (x.value + 1) 0xFFFFFFFF
  let first := sat && bits x.flags 1 0 == 0
  let go := x.waiters.filter (·.bar)
  let stay := go.filter fun w => !ownSide r x w
  let kids := (List.range 8).filter (bit x.children)
  let n := go.length - stay.length
  let y := ({ x with
    value := v, leaving := x.parties - n - x.gone, gone := 0, cur := 0, flags := if sat then setBit x.flags 0 else x.flags,
    waiters := x.waiters.filter fun w => !w.bar,
    due := (stay.map fun w => (if w.remote then w.chip else chipId s, w.unit)) ++ kids.map fun i => (65536 + i, 0xE6) } : SObj).setPhase 1
  let y := if y.leaving = 0 then gather y else y
  let s := perf (syncCtr r + 8) 1 (setObj r y s)
  let s := if sat then syncErrAt (syncCtr r) 0 s else s
  let s := if first then syncFault 0x0504 0 r s else s
  let s := go.foldl (fun s w => answerHeld r w 0 v s) s
  kids.foldl (fun s i => sendTree i r.k 10 x.version s) s

/-- All participants have arrived: a node with a parent passes the round up, the root completes it (R335, R342). -/
def completeRound (r : ORef) (s : State) : State :=
  let x := obj s r
  if r.hub && x.parent != 0 then sendTree (x.parent - 1) r.k 9 x.version (setObj r (x.setPhase 2) s)
  else releaseRound r s

/-- An arrival (R335): counted now or for the next round, or rejected as an overrun. -/
def arrive (r : ORef) (s : State) : Bool × State :=
  let x := obj s r
  let p := x.parties
  if x.phase = 0 then
    let s := setObj r { x with cur := x.cur + 1 } s
    (true, if x.cur + 1 = p then completeRound r s else s)
  else if x.phase = 1 && x.next + 1 ≤ p - x.leaving then (true, setObj r { x with next := x.next + 1 } s)
  else (false, s)

/-- The participant that `w` names has left (R335); the acknowledgement that ends the round is the object's last signal (R325). -/
def left_ (r : ORef) (w : Waiter) (s : State) : State :=
  let x := obj s r
  if x.leaving = 0 then s
  else
    let y := { x with leaving := x.leaving - 1 }
    if y.leaving = 0 then
      let z := signed_ w 8 s (gather y)
      let s := setObj r z s
      if z.cur = z.parties then completeRound r s else s
    else setObj r y s

/-- An overrun by the sender `w` of operation `op` (R325, R326, R331). -/
def overrun (r : ORef) (w : Waiter) (op : Nat) (s : State) : State :=
  let x := obj s r
  if bit x.flags 3 then syncErrAt (syncCtr r) 2 s
  else syncFault 0x0505 w.unit r (syncErrAt (syncCtr r) 2 (setObj r (signed_ w op s { x with flags := setBit x.flags 3 }) s))

/-! ### Operations (R329, R331) -/

/-- An operation's end: status, SAT, OVR and VALUE; none while it is held. -/
abbrev SyncEnd := Option (Nat × Bool × Bool × Nat)

/-- Entries of the remote-waiter table in use (R325); a WAIT enters it at the end of its cycle. -/
def remoteWaiters (s : State) : Nat :=
  let n := fun (m : Map SObj) => (m.map fun e => (e.2.waiters.filter fun w => w.remote && !w.fresh).length).foldl (· + ·) 0
  n s.hub + (s.cores.map fun c => n c.2.sync).foldl (· + ·) 0

/-- A rejection leaves the object unchanged and is counted (R331). -/
def syncReject (r : ORef) (status : Nat) (s : State) : SyncEnd × State :=
  (some (status, false, false, 0), syncErrAt (syncCtr r) (if status = 14 then 1 else 4) s)

/-- The sender may initialise the object (R327, R328). -/
def mayInit (r : ORef) (x : SObj) (w : Waiter) : Bool :=
  !w.remote && (if r.hub then !x.used || x.orphaned || x.owner == w.unit else w.unit == r.p)

/-- A held operation is registered. -/
def hold (r : ORef) (w : Waiter) (s : State) : SyncEnd × State :=
  let x := obj s r
  (none, setObj r { x with waiters := x.waiters ++ [w] } s)

/-- INIT's effect (R329). -/
def initObj (x : SObj) (arg owner : Nat) : SObj :=
  let bar := bit arg 31
  { x with
    value := if bar then 0 else arg % 2 ^ 31, flags := 32 + (if bar then 16 + arg % 65536 * 65536 else 0), owner := owner,
    cur := 0, next := 0, leaving := 0, gone := 0, due := [], parent := 0, children := 0 }

/-- Operation `op` (R339's code) with argument `arg` on object `r`, for the sender `w` (R331). -/
def syncOp (r : ORef) (op arg : Nat) (w : Waiter) (s : State) : SyncEnd × State :=
  let x := obj s r
  let s := if r.hub then s else brkMatch r.p 5 r.k s
  let count := fun s => perf (syncCtr r) 1 s
  if op != 5 && x.orphaned then syncReject r 14 s
  else if !x.used && !(op == 5 && (r.hub || x.orphaned)) then syncReject r 13 s
  else match op with
  | 1 =>
    if x.barrier then syncReject r 9 s
    else
      let sat := decide (0xFFFFFFFF < x.value + arg)
      let v := min (x.value + arg) 0xFFFFFFFF
      let s := if arg = 0 then s else setObj r (signed_ w 1 s { x with value := v, flags := if sat then setBit x.flags 0 else x.flags }) s
      let s := if sat then syncErrAt (syncCtr r) 0 s else s
      let s := if sat && bits x.flags 1 0 == 0 then syncFault 0x0504 0 r s else s
      (some (0, sat, false, v), count s)
  | 3 =>
    if x.barrier then syncReject r 9 s
    else
      let sat := x.value == 0
      let s := setObj r (signed_ w 3 s { x with value := x.value - 1, flags := if sat then setBit x.flags 1 else x.flags }) s
      let s := if sat then syncErrAt (syncCtr r) 0 s else s
      let s := if sat && bits x.flags 1 0 == 0 then syncFault 0x0504 0 r s else s
      (some (0, sat, false, x.value - 1), count s)
  | 2 => hold r { w with bar := false, v := arg, fresh := true } s
  | 4 =>
    if !x.barrier then syncReject r 9 s
    else if arg != 0 && arg != x.parties then syncReject r 3 s
    else if w.remote && 1024 ≤ remoteWaiters s then syncReject r 5 s
    else
      -- the participant is held before its arrival is counted, so that it is released with the round
      let s0 := s
      let x := { x with waiters := x.waiters ++ [{ w with bar := true, v := 0 }], version := w.version }
      let (ok, s) := arrive r (count (setObj r (signed_ w 4 s x) s))
      if ok then (none, s) else (some (9, false, true, 0), overrun r w 4 s0)
  | _ =>
    if !mayInit r x w then syncReject r 9 s
    else if bit arg 31 && (arg % 65536 == 0 || bits arg 30 16 != 0) then syncReject r 3 s
    else if !x.waiters.isEmpty || x.cur != 0 || x.next != 0 || x.leaving != 0 then syncReject r 6 s
    else
      let y := initObj x arg (if r.hub then w.unit else r.p)
      (some (0, false, false, y.value), count (setObj r (signed_ w 5 s y) s))

/-- A WAIT at the end of a cycle (R329, R332): satisfied by the value, it ends; one of this cycle that is not registers, a remote one where
the table has room. -/
def judgeWait (r : ORef) (w : Waiter) (s : State) : State :=
  let x := obj s r
  let drop := fun s => setObj r { obj s r with waiters := (obj s r).waiters.erase w } s
  let ops := fun s => if w.fresh then perf (syncCtr r) 1 s else s
  if w.v ≤ x.value then answerHeld r w 0 x.value (ops (drop s))
  else if !w.fresh then s
  else if w.remote && 1024 ≤ remoteWaiters s then answerHeld r w 5 0 (syncErrAt (syncCtr r) 4 (drop s))
  else
    let s := ops (setObj r { x with waiters := x.waiters.map fun y => if y = w then { y with fresh := false } else y } s)
    if !w.remote && !r.hub && w.unit = r.p then s
    else sendSync (objUnit r) (if w.remote then w.chip else chipId s) (w.wid % 65536 + 65536 * 6 + bits w.wid 27 20 * 2 ^ 20) w.version
      (syncPay 0 0 4) s
/-- The WAITs of object `r`, in the order in which they came. -/
def judgeWaits (r : ORef) (s : State) : State := ((obj s r).waiters.filter (!·.bar)).foldl (fun s w => judgeWait r w s) s
/-- The end of a cycle: WAITs are compared with the values that stand then (R332), in the blocks that run. -/
def endCycle (s : State) : State :=
  if frozen s then s
  else
    let waits := fun (m : Map SObj) => (m.filter fun e => e.2.waiters.any (!·.bar)).map (·.1)
    let s := s.cores.foldl (fun s c => if coreOn s c.1 then (waits c.2.sync).foldl (fun s k => judgeWaits ⟨false, c.1, k⟩ s) s else s) s
    (waits s.hub).foldl (fun s k => judgeWaits ⟨true, 0, k⟩ s) s

/-! ### Orphaning (R337, R338, R344) -/

/-- An object is orphaned: its waiters first. `f` gives the value and flags it is left with. -/
def orphanObj (r : ORef) (f : SObj → SObj) (s : State) : Nat × State :=
  let x := obj s r
  let s := setObj r { f x with cur := 0, next := 0, leaving := 0, gone := 0, waiters := [], due := [] } s
  (x.waiters.length, x.waiters.foldl (fun s w => answerHeld r w 14 0 s) s)
/-- ORPHANED with the value and flags kept, the phase at GATHER. -/
def orphanKeep (x : SObj) : SObj := ({ x with flags := setBit x.flags 2 } : SObj).setPhase 0
/-- ORPHANED with VALUE 0 and no other flag. -/
def orphanClear (x : SObj) : SObj := { x with value := 0, flags := 4 }

/-- Hub objects that core `p` owns. -/
def hubOf (s : State) (p : Nat) : List Nat := (s.hub.filter fun e => e.2.owner == p && e.2.used).map (·.1)
/-- The objects of core `p` are orphaned in one event (R337): all 48 of its own, and the hub objects it owns. SYNC_ORPHANED is raised once,
with the number of objects in use that were not orphaned before and of the waiters woken. -/
def orphanCore (p : Nat) (f : SObj → SObj) (s : State) : State :=
  let live := fun (x : SObj) => x.used && !x.orphaned
  let own := ((core s p).sync.filter fun e => live e.2).length
  let hubs := (hubOf s p).filter fun k => live (mgetD s.hub k {})
  let (n, s) := (List.range 48).foldl (fun (a : Nat × State) k => let (m, s) := orphanObj ⟨false, p, k⟩ f a.2; (a.1 + m, s)) (0, s)
  let (n, s) := hubs.foldl (fun (a : Nat × State) k => let (m, s) := orphanObj ⟨true, 0, k⟩ orphanKeep a.2; (a.1 + m, s)) (n, s)
  if own + hubs.length + n = 0 then s
  else raiseF { code := 0x0207, unit := p, index := lcore s p, version := newestNum s,
                detail := (own + hubs.length) % 65536 + 65536 * (n % 65536) } s

/-- SYNC_ORPHANED for `k` nodes of the helm's and `n` waiters. -/
def nodesOrphaned (k n : Nat) (s : State) : State :=
  if k = 0 then s else raiseF { code := 0x0207, unit := 0xE6, version := newestNum s, detail := k % 65536 + 65536 * (n % 65536) } s
/-- Tree node `k` is orphaned, and ORPHAN goes out on its tree links other than `lost` (R344): whether it was, and the waiters woken. -/
def orphanNode (k lost : Nat) (s : State) : (Nat × Nat) × State :=
  let r : ORef := ⟨true, 0, k⟩
  let x := obj s r
  if !x.used || x.orphaned then ((0, 0), s)
  else
    let (n, s) := orphanObj r orphanKeep s
    ((1, n), ((List.range 8).filter fun i => i != lost && (bit x.children i || x.parent == i + 1)).foldl
      (fun s i => sendTree i k 11 x.version s) s)
/-- The tree nodes that use link `n` lose it (R344): one event. -/
def treeLinkLost (n : Nat) (s : State) : State :=
  let (k, s) := (s.hub.filter fun e => bit e.2.children n || e.2.parent == n + 1).foldl (fun (a : (Nat × Nat) × State) e =>
    let (m, s) := orphanNode e.1 n a.2
    ((a.1.1 + m.1, a.1.2 + m.2), s)) ((0, 0), s)
  nodesOrphaned k.1 k.2 s

/-- Outstanding operations toward a chip whose route is lost end with ORPHANED (R338). -/
def orphanToward (chip : Nat) (s : State) : State :=
  s.cores.foldl (fun s c => (runAt c.2 13).foldl (fun s e =>
    if e.ph == 2 && e.chip == chip && chip != chipId s then
      finishSync c.1 e (resultWord 14 false false 0) (syncErrAt (syncCtr ⟨false, c.1, 0⟩) 1 s)
    else s) s) s

/-- A core that is reset withdraws the WAIT and BARRIER that it holds on objects of this chip (R338). -/
def withdrawCore (p : Nat) (s : State) : State :=
  (runAt (core s p) 13).foldl (fun s e =>
    if e.ph == 2 && e.chip == chipId s && (eiOp e.w == 2 || eiOp e.w == 4) then
      sendSync p (chipId s) (e.wid % 65536 + 65536 * 12 + 2 ^ 20 * p) (jobVersion s p) (syncPay 0 0 0) s
    else s) s

/-- The program's entries are loaded into the per-core objects (R327); waiters still registered are woken with ORPHANED. -/
def loadObjects (p : Nat) (g : Prog) (s : State) : State :=
  (List.range 48).foldl (fun s k =>
    let r : ORef := ⟨false, p, k⟩
    let x := obj s r
    let e := g.sync.getD k 0
    let pt := bits e 47 32
    let y : SObj := if bit e 48 then
        { value := e % 2 ^ 32, flags := 32 + (if pt = 0 then 0 else 16) + pt * 65536, owner := p }
      else {}
    x.waiters.foldl (fun s w => answerHeld r w 14 0 s) (setObj r y s)) s

/-! ### The sync instructions (R282, R288, R330) -/

/-- The object of a sync instruction of core `p`: none where its core does not exist. -/
def targetOf (s : State) (p w : Nat) : Option ORef :=
  if bit w 113 then some ⟨true, 0, bits w 111 104⟩
  else
    let lc := bits w 103 96
    if lc = 0xFF then some ⟨false, p, bits w 111 104⟩
    else if lc < s.nv.cores then some ⟨false, physOf s lc, bits w 111 104⟩ else none
/-- It reaches another chip. -/
def isRemote (s : State) (w : Nat) : Bool := bit w 112 && !(s.chip.isSome && bits w 95 80 == chipId s)
/-- WORK_ID of the request tag of an instruction of core `p`. -/
def reqWid (s : State) (p w : Nat) (posted : Bool) : Nat :=
  syncWid (bits w 111 104) (if bit w 113 then 0xFF else if bits w 103 96 = 0xFF then lcore s p else bits w 103 96) (eiOp w) p posted

/-- The operation of a sync instruction is carried out or sent; `posted`: no answer is wanted. The state that follows, and the
answer where there is one already. -/
def startSync (p : Nat) (e : EI) (posted : Bool) (s : State) : SyncEnd × State :=
  let w := e.w
  let wid := reqWid s p w posted
  let own : ORef := ⟨false, p, bits w 111 104⟩
  if isRemote s w then
    if s.chip.isNone then syncReject own 13 s
    else if routeLost s (bits w 95 80) then syncReject own 14 s
    else (if posted then some (0, false, false, 0) else none,
      sendSync p (bits w 95 80) wid (jobVersion s p) (syncPay (bits w 79 48) 0 0) s)
  else match targetOf s p w with
    | none => syncReject own 13 s
    | some r =>
      if !r.hub && r.p = p then
        syncOp r (eiOp w) (bits w 79 48) { unit := p, wid := wid, version := jobVersion s p } s
      else (if posted then some (0, false, false, 0) else none,
        sendSync p (chipId s) wid (jobVersion s p) (syncPay (bits w 79 48) 0 0) s)

/-- A sync instruction with opcode `op` is taken by the sync block of core `p`. -/
def syncInstr (p op : Nat) (s : State) : State :=
  engStep p 13 5 op (fun e s =>
    let w := e.w
    let inRegion := e.region && (core s p).open_
    if op = 1 && inRegion then
      let c := core s p
      if 16 ≤ c.defer.length then illegalEi p 13 e s
      else
        let (n, s) := draw (setCore p { c with defer := c.defer ++ [e] } s)
        finishSync p e (resultWord 0 false false (Config.deferredValue n).toNat) s
    else
      let tgt := targetOf s p w
      let mine := match tgt with
        | some r => if r.hub then (obj s r).owner == p else r.p == p
        | none => false
      if op = 5 && inRegion && (isRemote s w || !mine) then illegalEi p 13 e s
      else
        let posted := (op == 1 || op == 3) && bits w 47 44 == 0 && (isRemote s w || tgt != some ⟨false, p, bits w 111 104⟩)
        let e' := { e with ph := 2, sent := now s, chip := if isRemote s w then bits w 95 80 else chipId s, wid := reqWid s p w posted }
        -- the instruction waits first, so that an answer given at once finds it
        match startSync p e posted (putRun p 13 e' s) with
        | (some (st, sat, ovr, v), s) => finishSync p e' (resultWord st sat ovr v) s
        | (none, s) => s) s

/-- SIGNAL. -/
def execSignal (p : Nat) (s : State) : Host.Outcome State Fault Refusal := .next (syncInstr p 1 s)
/-- WAIT. -/
def execWaitSync (p : Nat) (s : State) : Host.Outcome State Fault Refusal := .next (syncInstr p 2 s)
/-- DECREMENT. -/
def execDecrement (p : Nat) (s : State) : Host.Outcome State Fault Refusal := .next (syncInstr p 3 s)
/-- BARRIER. -/
def execBarrier (p : Nat) (s : State) : Host.Outcome State Fault Refusal := .next (syncInstr p 4 s)
/-- INIT. -/
def execInitSync (p : Nat) (s : State) : Host.Outcome State Fault Refusal := .next (syncInstr p 5 s)

/-- REGION_PASS (R286, R288): a closed region whose instructions have all completed passes, and its deferred signals are sent in
release order. -/
def execRegionPass (p : Nat) (s : State) : Host.Outcome State Fault Refusal :=
  .next <|
    let c := core s p
    let live := c.queues.any (fun q => q.2.any (·.region)) || c.run.any fun q => q.2.any (·.region)
    if !coreOn s p || !(c.closing && c.open_) || c.failed || c.stop.isSome || live then s
    else
      let s := setCore p { c with closing := false, open_ := false, defer := [], snap := none, att := 0 } s
      let s := coreLog p 3 (le 1 c.rid ++ le 1 c.att ++ [1, 0]) s
      c.defer.foldl (fun s e => (startSync p e true s).2) s

/-! ### Tags between sync blocks (R332, R339) -/

/-- OP of a kind 4 tag. -/
def tagOp (t : InTag) : Nat := bits (tagOf t.tag).workId 19 16
/-- The object that a tag names; none where its core does not exist. -/
def tagObj (s : State) (wid : Nat) : Option ORef :=
  let lc := bits wid 15 8
  if lc = 0xFF then some ⟨true, 0, wid % 256⟩
  else if lc < s.nv.cores then some ⟨false, physOf s lc, wid % 256⟩ else none
/-- The owning core's own queue is about to operate on the object of `wid` (R332, its first place). -/
def ownFirst (s : State) (wid : Nat) : Bool :=
  match tagObj s wid with
  | some r => !r.hub && coreOn s r.p && (core s r.p).st != 0 && (match nextRun s r.p 13 with
    | some e => eiClass e.w == 5 && !isRemote s e.w && targetOf s r.p e.w == some r
    | none => false)
  | none => false
/-- Tag `i` of the inbox, of kind 4 with OP accepted by `f`, with the state that no longer holds it; none where the order of R332 serves
another first: those that arrived before, in one ns the cores of the chip in ascending order, the helm, then the links. -/
def takeSync (i : Nat) (f : Nat → Bool) (s : State) : Option (InTag × State) :=
  match s.inbox[i]? with
  | none => none
  | some t =>
    let g := tagOf t.tag
    let answer := 6 ≤ tagOp t && tagOp t ≤ 7
    if g.kind == 4 && f (tagOp t) && served s.inbox i && (answer || !ownFirst s g.workId) then some (t, { s with inbox := s.inbox.eraseIdx i })
    else none

/-- SYNC_REMOTE_REQUEST: request tag `i` of the inbox is applied, and answered unless it is posted. -/
def execSyncRemoteRequest (i : Nat) (s : State) : Host.Outcome State Fault Refusal :=
  .next <| if frozen s then s else match takeSync i (fun op => 1 ≤ op && op ≤ 5) s with
    | none => s
    | some (t, s) =>
      let g := tagOf t.tag
      let posted := bit g.workId 28
      let reply := fun (unit status flags value : Nat) (s : State) =>
        if posted then s
        else sendSync unit g.chip (g.workId % 65536 + 65536 * 6 + bits g.workId 27 20 * 2 ^ 20) g.version (syncPay value status flags) s
      match tagObj s g.workId with
      | none => reply 0xE6 13 0 0 (syncErrAt (syncCtr ⟨true, 0, 0⟩) 4 s)
      | some r =>
        let w : Waiter := { unit := g.unit, chip := g.chip, remote := t.link != 8, wid := g.workId, version := g.version }
        -- the PENDING reply leaves before any release that the operation itself brings about; a WAIT's first reply comes at the cycle's end
        let (fin, s') := syncOp r (tagOp t) (beAt t.body 0 4) w s
        match fin with
        | some (st, sat, ovr, v) => reply (objUnit r) st (b2n sat + 2 * b2n ovr) (if st = 0 then v else 0) s'
        | none => if tagOp t = 2 then s' else (syncOp r (tagOp t) (beAt t.body 0 4) w (reply (objUnit r) 0 4 0 s)).2

/-- SYNC_REPLY: reply `i` of the inbox completes its instruction, or marks it registered (R339). -/
def execSyncReply (i : Nat) (s : State) : Host.Outcome State Fault Refusal :=
  .next <| if frozen s then s else match takeSync i (· == 6) s with
    | none => s
    | some (t, s) =>
      let g := tagOf t.tag
      let p := bits g.workId 27 20
      let fl := u8 t.body 6
      match waitingSync s p g.chip g.workId with
      | none => s
      | some e =>
        if bit fl 2 then putRun p 13 { e with held := true } s
        else finishSync p e (resultWord (beAt t.body 4 2) (bit fl 0) (bit fl 1) (beAt t.body 0 4)) s

/-- SYNC_RELEASE: a release reaches its sync block, which acknowledges it and ends the instruction that still waits (R334). -/
def execSyncRelease (i : Nat) (s : State) : Host.Outcome State Fault Refusal :=
  .next <| if frozen s then s else match takeSync i (· == 7) s with
    | none => s
    | some (t, s) =>
      let g := tagOf t.tag
      let p := bits g.workId 27 20
      let s := sendSync p g.chip (g.workId % 65536 + 65536 * 8 + 2 ^ 20 * p) g.version (syncPay 0 0 0) s
      match waitingSync s p g.chip g.workId with
      | none => s
      | some e => finishSync p e (resultWord (beAt t.body 4 2) false false (beAt t.body 0 4)) s

/-- RELEASE_ACK: a participant whose release was due has left (R335). -/
def execReleaseAck (i : Nat) (s : State) : Host.Outcome State Fault Refusal :=
  .next <| if frozen s then s else match takeSync i (· == 8) s with
    | none => s
    | some (t, s) =>
      let g := tagOf t.tag
      match tagObj s g.workId with
      | none => s
      | some r =>
        let x := obj s r
        let key := if g.unit = 0xE6 && t.link != 8 then (65536 + t.link, 0xE6) else (g.chip, g.unit)
        let w : Waiter := { unit := g.unit, chip := g.chip, remote := t.link != 8 }
        if x.due.contains key then left_ r w (setObj r { x with due := x.due.erase key } s) else s

/-- TREE_ARRIVE: one arrival at a tree node for the child link it came on (R342). -/
def execTreeArrive (i : Nat) (s : State) : Host.Outcome State Fault Refusal :=
  .next <| if frozen s then s else match takeSync i (· == 9) s with
    | none => s
    | some (t, s) =>
      let g := tagOf t.tag
      let r : ORef := ⟨true, 0, g.workId % 256⟩
      let x := obj s r
      if !x.used || !x.barrier then syncErrAt (syncCtr r) 4 s
      else if x.orphaned then syncErrAt (syncCtr r) 1 s
      else if !bit x.children t.link then syncErrAt (syncCtr r) 4 s
      else
        let w : Waiter := { unit := g.unit, chip := g.chip, remote := true }
        let (ok, s') := arrive r (perf (syncCtr r) 1 (setObj r (signed_ w 9 s { x with version := g.version }) s))
        if ok then s' else overrun r w 9 s

/-- TREE_RELEASE: the parent's release is acknowledged, and the round completes here (R335, R342). -/
def execTreeRelease (i : Nat) (s : State) : Host.Outcome State Fault Refusal :=
  .next <| if frozen s then s else match takeSync i (· == 10) s with
    | none => s
    | some (t, s) =>
      let g := tagOf t.tag
      let r : ORef := ⟨true, 0, g.workId % 256⟩
      let x := obj s r
      if !x.used || x.orphaned || x.phase != 2 || x.parent != t.link + 1 then s
      else
        let w : Waiter := { unit := g.unit, chip := g.chip, remote := true }
        releaseRound r (sendTree t.link r.k 8 g.version (setObj r (signed_ w 10 s x) s))

/-- ORPHAN: a tree node is orphaned and passes it on (R344). -/
def execOrphan (i : Nat) (s : State) : Host.Outcome State Fault Refusal :=
  .next <| if frozen s then s else match takeSync i (· == 11) s with
    | none => s
    | some (t, s) =>
      let g := tagOf t.tag
      let x := obj s ⟨true, 0, g.workId % 256⟩
      let k := g.workId % 256
      if bit x.children t.link || x.parent == t.link + 1 then
        let w : Waiter := { unit := g.unit, chip := g.chip, remote := true }
        let s := if x.used && !x.orphaned then setObj ⟨true, 0, k⟩ (signed_ w 11 s x) s else s
        let (m, s) := orphanNode k t.link s
        nodesOrphaned m.1 m.2 s
      else s

/-- WITHDRAW: a reset core's held WAIT or BARRIER leaves the object; an arrival that it has made stays counted, and no one is left to
acknowledge its release (R338). -/
def execWithdraw (i : Nat) (s : State) : Host.Outcome State Fault Refusal :=
  .next <| if frozen s then s else match takeSync i (· == 12) s with
    | none => s
    | some (t, s) =>
      let g := tagOf t.tag
      match tagObj s g.workId with
      | none => s
      | some r =>
        let x := obj s r
        let mine := fun (w : Waiter) => w.unit == g.unit && !w.remote
        setObj r { x with
          waiters := x.waiters.filter fun w => !mine w,
          gone := x.gone + (x.waiters.filter fun w => mine w && w.bar).length } s

/-- SYNC_TIMEOUT: a request to another chip had no first reply within 100 µs (R340). -/
def execSyncTimeout (p : Nat) (s : State) : Host.Outcome State Fault Refusal :=
  .next <| if frozen s then s else match (runAt (core s p) 13).find? fun e => e.ph == 2 && !e.held && e.chip != chipId s && e.sent + 100000 ≤ now s with
    | none => s
    | some e => finishSync p e (resultWord 10 false false 0) (syncErrAt (syncCtr ⟨false, p, 0⟩) 3 s)

end Sys2Proof.Machine
end

