-- ==== Sys2Proof/Machine/Jobs.lean ====
section
/-! DEFINITION. Jobs and results (chapter 10, with R293 to R295): containers and placements, arrival, start, pre-emption,
completion, and the delivery of results. -/

namespace Sys2Proof.Machine

open Sys2Proof

/-! ### Containers (R262, R307) -/

/-- A section entry of a container. -/
structure Sect where
  kind : Nat
  rank : Nat
  src : Nat
  len : Nat
  dst : Nat
deriving DecidableEq, Repr

/-- Section entry `i` of the container at `a`. -/
def sectAt (s : State) (a i : Nat) : Sect :=
  let b := devBytes s (a + 64 + 32 * i) 32
  { kind := u8 b 0, rank := leAt b 2 2, src := leAt b 8 8, len := leAt b 16 8, dst := leAt b 24 8 }
/-- The sections of the container at `a`. -/
def sectsOf (s : State) (a : Nat) : List Sect := (List.range (leAt (devBytes s (a + 4) 4) 0 4)).map (sectAt s a)
/-- The section concerns rank `r`. -/
def Sect.forRank (x : Sect) (r : Nat) : Bool := x.rank == 0xFFFF || x.rank == r
/-- Offset of the templates of a program image with `n` control instructions (R262). -/
def tplStart (n : Nat) : Nat := (448 + 8 * n + 15) / 16 * 16

/-- The program image at device address `a`, of the container at `cont` (R262, R263). -/
def progAt (s : State) (model cont a : Nat) : Prog :=
  let h := devBytes s a 448
  let n := leAt h 2 2
  { model := model, addr := cont, entry := leAt h 6 2, mode := leAt h 8 4, used := u8 h 12,
    ctl := (List.range n).map fun i => leNat (devBytes s (a + 448 + 8 * i) 8),
    tpl := (List.range (leAt h 4 2)).map fun i => leNat (devBytes s (a + tplStart n + 16 * i) 16),
    sync := (List.range 48).map fun k => leAt h (64 + 8 * k) 8,
    poison := s.mem.poison.any fun l => a < 64 * l + 64 && 64 * l < a + tplStart n + 16 * leAt h 4 2 }
/-- The program of rank `r` of a model. -/
def rankProg (s : State) (model : Nat) (m : Model) (r : Nat) : Option Prog :=
  ((sectsOf s m.addr).find? fun x => x.kind == 1 && x.forRank r).map fun x => progAt s model m.addr (m.addr + x.src)

/-- Words of core store `p` that bytes of poisoned lines reach when `n` bytes of HBM from `src` are copied to local address `dst`. -/
def poisonCopied (s : State) (p dst src n : Nat) : List Nat :=
  (s.mem.poison.filter fun l => src < 64 * l + 64 && 64 * l < src + n).flatMap fun l => (List.range 64).filterMap fun k =>
    if src ≤ 64 * l + k && 64 * l + k < src + n then (localOff (dst + (64 * l + k - src))).map fun o => (p * 2 ^ 26 + o) / 32 else none
/-- `n` bytes of HBM from `src` copied to core store `p` from local address `dst` (R365); poison is carried (R355). -/
def copyToCs (p dst src n : Nat) (s : State) : State :=
  let cells := s.mem.hbm.filter fun c => src ≤ c.1 && c.1 < src + n
  let mine := fun w : Nat => 32 * w / 2 ^ 26 == p
  let hit := fun w : Nat => wordIn (dst / 2 ^ 26) (dst % 2 ^ 26) n (32 * w % 2 ^ 26)
  let bad := poisonCopied s p dst src n
  let lines := s.mem.poison.filter fun l => src < 64 * l + 64 && 64 * l < src + n
  let s := { s with mem := { s.mem with
    cs := cells.foldl (fun m c => match localOff (dst + (c.1 - src)) with
      | some o => Mem.write m (p * 2 ^ 26 + o) c.2
      | none => m) (s.mem.cs.filter fun c => !(c.1 / 2 ^ 26 == p && (localIndex dst n (c.1 % 2 ^ 26)).isSome)),
    csPoison := bad.foldl sadd (s.mem.csPoison.filter fun w => !(mine w && (hit w).1)),
    csCorr := s.mem.csCorr.filter fun w => !(mine w && (hit w).2) } }
  lines.foldl (fun s l => poisonRead (64 * l) s) s

/-- The helm places program `g` on core `p` (R261, R263, R327): program memory and sync objects are loaded, and a program other than the
one that was there finds the scalar, vector and predicate registers cleared. -/
def placeProgram (p : Nat) (g : Option Prog) (s : State) : State :=
  let c := core s p
  let s := setCore p (if c.prog = g then { c with progDue := false } else { c with prog := g, progDue := false, s := [], v := [], p := [] }) s
  match g with
  | some g => loadObjects p g s
  | none => s
/-- The core-store regions of a model for rank `r` are loaded on physical core `p` (R307), and its program is placed there at once, or once
the core's job has ended. -/
def loadRank (p model r : Nat) (m : Model) (s : State) : State :=
  let l := (sectsOf s m.addr).filter fun x => x.kind == 2 && x.forRank r
  let s := l.foldl (fun s x => copyToCs p x.dst (m.addr + x.src) x.len s) s
  let c := core s p
  let new := l.map fun x => ({ dst := x.dst, len := x.len, src := m.addr + x.src, model := model } : Region)
  let s := setCore p { c with regions := c.regions.filter (fun r => !new.contains r) ++ new, progDue := c.progDue || c.st != 0 } s
  if c.st = 0 then placeProgram p (rankProg s model m r) s else s
/-- Core `p` holds the program that rank `r` of the model runs: it is placed where the core holds another, or an older placement. -/
def haveProgram (p model r : Nat) (m : Model) (s : State) : State :=
  let c := core s p
  if !c.progDue && c.prog.any fun g => g.model == model && g.addr == m.addr then s
  else placeProgram p (rankProg s model m r) s
/-- Every placement of a version on logical core `l` is loaded. -/
def loadCore (o : Objs) (l : Nat) (s : State) : State :=
  o.models.foldl (fun s e =>
    let m := e.2
    if m.firstCore ≤ l && l < m.firstCore + m.instances * m.ranks then
      loadRank (physOf s l) e.1 ((l - m.firstCore) % m.ranks) m s
    else s) s
/-- Every rank of instance `i` is loaded as a version places it; while the core stores are at retention, once the part is in RUN (R385). -/
def loadInst (o : Objs) (i : Nat) (s : State) : State :=
  match modelOfInst o i with
  | none => s
  | some (k, m) =>
    let (f, n) := placeOf o i
    if s.ch.pwr = 1 then
      let s := (List.range n).foldl (fun s r => let p := physOf s (f + r); setCore p { core s p with reload := true } s) s
      match inst? s i with
      | some x => setInst i { x with loading := true } s
      | none => s
    else (List.range n).foldl (fun s r => loadRank (physOf s (f + r)) k r m s) s

/-- Logical cores that instance `i` occupies in a live version. -/
def instCores (s : State) (i : Nat) : List Nat :=
  let one := fun (o : Objs) => let (f, n) := placeOf o i; (List.range n).map (f + ·)
  one s.ver.newest.objs ++ (match s.ver.older with | some (l, _) => one l.objs | none => [])

/-- PLACEMENT_RELOAD_COMPLETE (R308, R309, R516): the helm has reloaded what instance `i` lacked. -/
def execPlacementReloadComplete (i : Nat) (s : State) : Host.Outcome State Fault Refusal :=
  .next <| if frozen s then s else match inst? s i with
    | none => s
    | some x =>
      if x.loading && s.sys.level == 0 && s.ch.pwr == 0 then
        let s := ((instCores s i).filter fun l => l < s.nv.cores && (core s (physOf s l)).reload).foldl (fun s l =>
          let s := match s.ver.older with | some (v, _) => loadCore v.objs l s | none => s
          let s := loadCore s.ver.newest.objs l s
          setCore (physOf s l) { core s (physOf s l) with reload := false } s) s
        let insts := s.insts.map fun e => (e.1, { e.2 with
            loading := e.2.loading && (instCores s e.1).any fun l => decide (l < s.nv.cores) && (core s (physOf s l)).reload })
        { s with insts := insts, reloading := s.reloading && insts.any (·.2.loading) }
      else if x.swap ≠ 0 && s.ch.pwr != 1 && x.running.isNone && x.queue.all fun j => j.version == x.swap then
        setInst i { x with swap := 0 } (loadInst (objsOf s x.swap) i s)
      else s

/-! ### What a result says (R315, R468) -/

/-- STREAM of a job, 0xFFFF for none. -/
def Job.stream (j : Job) : Nat := leAt j.desc 2 2
/-- The template of the job's stream in its version. -/
def Job.tpl (j : Job) (s : State) : Option Bytes :=
  if j.stream = 0xFFFF || !scValid (objsOf s j.version) j.stream then none else some (scTpl (objsOf s j.version) j.stream)
/-- The I/O die of a job's router: its stream's home, 0 without a stream (R315). -/
def Job.die (j : Job) (s : State) : Nat := match j.tpl s with | some t => tplHome t | none => 0
def Job.dest (j : Job) (s : State) : Nat := match j.tpl s with | some t => tplDest t | none => 0
def Job.lateOk (j : Job) : Bool := bit (u8 j.desc 12) 6
def Job.dl (j : Job) : Nat := bits (u8 j.desc 12) 5 3
def Job.isHost (j : Job) : Bool := j.origin == 2

/-- Body of a JOB_RESULT or STREAM_RESULT event (R468). -/
def resultBody (j : Job) (inst status : Nat) (late lost : Bool) (ev : Bytes) : Bytes :=
  le 2 status ++ le 1 (b2n late + 2 * b2n j.bmis + 4 * b2n lost) ++ le 1 (u8 j.desc 0) ++ le 4 j.wid ++ le 2 j.version ++
  le 2 (if j.isHost then 0xFFFF else j.stream) ++ le 2 ev.length ++ le 1 inst ++ [0] ++ ev
/-- An event of a result: of a host job to the session that submitted it, or to every session that has enabled the type;
whether any session took it. -/
def resultEvent (type : Nat) (j : Job) (body : Bytes) (s : State) : Bool × State :=
  let x := sess s j.sess
  if j.isHost && j.sess < 4 && x.opened && x.gen = j.gen then
    (decide (x.events.length < 2048), queueEvent { type := type, stamp := now s, body := body } j.sess s)
  else
    ((List.range 4).any fun i => wants (sess s i) type 0 && decide ((sess s i).events.length < 2048), sendEvent type 0 body s)
/-- With NOTIFY set, a JOB_RESULT event reports a failed job or an undelivered part (R299, R312, R315). -/
def notify (j : Job) (inst status : Nat) (late lost : Bool) (s : State) : State :=
  if bit (j.dest s) 3 then (resultEvent 2 { j with sess := 4 } (resultBody j inst status late lost []) s).2 else s
/-- FAILED of the job's stream counts. -/
def failed_ (j : Job) (s : State) : State := if j.stream = 0xFFFF then s else ctxCount j.stream 4 s
/-- DEADLINE_MISS of a job or result (R311, R316). -/
def jobMiss (unit die : Nat) (j : Job) (s : State) : State :=
  raiseF { code := 0x0401, unit := unit, index := die, version := j.version, detail := j.wid + 2 ^ 32 * j.dl } s

/-! ### Returns (R315) -/

/-- What a return writes: the header of 32 bytes, and with status OK result-area bytes (R315). -/
def returnData (j : Job) (status : Nat) (late : Bool) (area : Mem) : Bytes :=
  let n := leAt j.desc 30 2
  if n = 0 then []
  else le 2 status ++ le 4 j.wid ++ le 2 j.version ++ le 1 (b2n late) ++ zeros 23 ++
    (if status = 0 then Mem.bytes area 0 (n - 32) else [])
/-- A return to another chip is cut into kind 3 frames, each with the copy word of R403; bit 62 marks the first. -/
def sendReturn (j : Job) (status : Nat) (late : Bool) (area : Mem) (s : State) : State :=
  let a := leAt j.desc 32 8
  let data := returnData j status late area
  let dest := j.chip
  let parts := (List.range (max 1 ((data.length + 4087) / 4088))).map fun i => (i, sub data (4088 * i) 4088)
  parts.foldl (fun s x =>
    let (tag, s) := newTag (0xE4 + 8 * j.die s) 3 dest j.wid j.version (if status = 0 then j.deadline else 0xFFFFFFFF) j.prio
      j.dl j.lateOk false s
    let word := (if x.1 + 1 = parts.length then 2 ^ 63 else 0) + (if x.1 = 0 then 2 ^ 62 else 0) + (a + 4088 * x.1) % 2 ^ 48
    sendTag dest tag (be 8 word ++ x.2) s) s

/-! ### The end of a job (R312, R314, R318) -/

/-- The result area keeps the limits of R314. -/
def areaOk (m : Mem) : Bool :=
  let f := Mem.leAt m 0 1
  let n := Mem.leAt m 1 1
  f < 8 && n ≤ 16 && Mem.leAt m 6 2 == 0 && Mem.zeroAt m 12 20
    && (!bit f 0 || (decide (60 ≤ Mem.leAt m 2 2) && decide (Mem.leAt m 2 2 ≤ 9212)))
    && (!bit f 1 || (decide (1 ≤ Mem.leAt m 4 2) && decide (Mem.leAt m 4 2 ≤ 4064)))
    && (List.range n).all fun i =>
      decide (Mem.leAt m (36 + 32 * i) 4 < 2 ^ 31) && decide (Mem.leAt m (44 + 32 * i) 1 < 32) && Mem.zeroAt m (45 + 32 * i) 19

/-- A stream's job is no longer in flight: INFLIGHT, OLDEST, LAST_STATUS and KV_TOKENS (R312, R318). -/
def closeStream (j : Job) (status tokens : Nat) (s : State) : State :=
  if j.stream = 0xFFFF then s
  else
    let x := ctxOf s j.stream
    let wins := if j.origin ≤ 1 then x.wins.erase (leAt j.desc 16 4) else x.wins
    setCtx j.stream { x with
      lastStatus := status, wins := wins, oldest := wins.headD x.oldest,
      inflight := if j.origin ≤ 1 then x.inflight - 1 else x.inflight,
      kvTokens := if status = 0 then (x.kvTokens + tokens) % 2 ^ 32 else x.kvTokens } s

/-- A job ends with `status` other than by being discarded as late: counted, reported, and its result on its way. -/
def finishJob (i : Nat) (j : Job) (status : Nat) (s : State) : State :=
  let s := closeStream j status (Mem.leAt j.area 8 4) s
  let s := if status = 0 then s else notify j i status false false (failed_ j (scErr (j.die s) 6 s))
  { s with results := s.results ++ [{ job := j, status := status, inst := i, area := if status = 0 then j.area else [] }] }

/-- JOB_COMPLETE (R312): every rank of instance `i` has ended. -/
def execJobComplete (i : Nat) (s : State) : Host.Outcome State Fault Refusal :=
  .next <| if frozen s then s else match inst? s i with
    | none => s
    | some x => match x.running with
      | none => s
      | some j =>
        if !(List.range x.ranks).all fun r => (mget j.ended r).isSome then s
        else
          let st := if j.ended.any (·.2 == 3) then 3 else if j.ended.any (·.2 != 0) then 12 else 0
          let st := if st = 0 && !areaOk j.area then 3 else st
          preemptScan (finishJob i j st (setInst i { x with running := none } s))

/-! ### Arrival (R310) -/

/-- The inbox tag `i` of a kind, where `f` accepts it and it is served first among its own (R39, R310), taken out. -/
def takeTag (i : Nat) (f : Tag → Bool) (s : State) : Option (InTag × State) :=
  match s.inbox[i]? with
  | none => none
  | some t => if f (tagOf t.tag) && served s.inbox i then some (t, { s with inbox := s.inbox.eraseIdx i }) else none

/-- A job is discarded as late (R311): DEADLINE_MISS, the counts, and status LATE for its originator. -/
def discardLate (i : Nat) (j : Job) (s : State) : State :=
  let s := jobMiss (0xE5 + 8 * (i % 2)) (i % 2) j s
  let s := closeStream j 15 0 (failed_ j (scErr (j.die s) 4 s))
  let s := notify j i 15 true false s
  { s with results := s.results ++ [{ job := j, status := 15, inst := i, area := [] }] }

/-- JOB_ARRIVE (R310): the job tag at place `i` of the inbox is queued or refused; one that is late already is discarded at once (R38). -/
def execJobArrive (i : Nat) (s : State) : Host.Outcome State Fault Refusal :=
  .next <| if frozen s then s else match takeTag i (fun t => t.kind == 2) s with
    | none => s
    | some (t, s) =>
      let g := tagOf t.tag
      let here := t.link == 8
      let o := objsOf s g.version
      let inst := (pickInst s o (u8 t.body 0) (u8 t.body 1)).filter fun k => (inst? s k).isSome
      let late := isLate g.deadline (now s) && !g.lateOk
      let status := if (liveObjs s g.version).isNone then 7
        else match inst with
          | none => 13
          | some k => if late then 15 else if queuedJobs s k < 1024 then 0 else 6
      let j : Job := {
        desc := padTo 64 (t.body.take 4 ++ le 4 g.workId ++ t.body.drop 8), wid := g.workId, version := g.version,
        deadline := g.deadline, origin := if here then 3 else 4, chip := g.chip, unit := g.unit, bmis := t.bmis }
      let s := if here then djobStatus g.unit (chipId s) g.workId status s else s
      match status, inst with
      | 0, some k => queueJob k j s
      | 15, some k => discardLate k j s
      | _, _ => if here then s else sendReturn j status false [] s

/-! ### Start and pre-emption (R311, R293 to R295) -/

/-- Every core of a placement is idle and able to run. -/
def coresIdle (s : State) (f n : Nat) : Bool :=
  (List.range n).all fun r =>
    let p := physOf s (f + r)
    decide (f + r < s.nv.cores) && coreOn s p && (core s p).st == 0 && (blk s 0 p).st == 0
/-- The job leaves the queue of its instance. -/
def unqueue (j : Job) (x : Inst) : Inst := { x with queue := x.queue.erase j }

/-- A rank begins job `j` of instance `i` on physical core `p`, with the program that the core holds (R261, R311); one whose image read as
poison ends FAULTED (R355). -/
def startRank (p i : Nat) (j : Job) (s : State) : State :=
  let c := core s p
  let g := c.prog
  let c := { c with
    st := 1, pc := (g.map (·.entry)).getD 0, k := [], kpend := [], step := 0, mode := (g.map (·.mode)).getD 0, open_ := false,
    rid := 0, att := 0, snap := none, closing := false, failed := false, stop := none, hw := false, defer := [], sb := [],
    queues := [], run := [], inst := some i, jobStatus := none, halting := false, pass := false, single := false,
    preempt := false, brkHit := 0xFF }
  let s := coreLog p 2 (le 4 j.wid ++ le 2 j.version ++ le 1 (u8 j.desc 0) ++ [0]) (csWrite p jobArea j.desc (setCore p c s))
  if g.any (·.poison) then stopJob p 12 true s else s

/-- A core of instance `k` in version `o` refuses work: a handshake of its unit other than a pre-emption has begun (R47). -/
def refuses (s : State) (o : Objs) (k : Nat) : Bool :=
  let (f, n) := placeOf o k
  (List.range n).any fun r => let b := blk s 0 (physOf s (f + r)); b.st != 0 && b.op != some 4
/-- Another instance of the job's model that can take a refused job (R47); a job that names its INSTANCE has none. -/
def otherInst (s : State) (o : Objs) (i : Nat) (j : Job) : Option Nat :=
  if u8 j.desc 1 ≠ 0xFF then none
  else (((mget o.models (u8 j.desc 0)).map (·.nums)).getD []).find? fun k =>
    k != i && decide (queuedJobs s k < 1024) && (inst? s k).isSome && !instOut s k && !refuses s o k
/-- Jobs may start: in RUN, with no core reset's reload outstanding (R309, R386). -/
def jobsRun (s : State) : Bool := s.ch.pwr == 0 && !s.reloading

/-- The head of instance `i`'s queue starts, or is discarded as late, or completes as RETIRED on an instance out of service. A job that a
quiescing core refuses is placed again where its deadline allows (R47). -/
def execJobStart (i : Nat) (s : State) : Host.Outcome State Fault Refusal :=
  .next <| if frozen s then s else match inst? s i with
    | none => s
    | some x => match headJob x, x.running with
      | some j, none =>
        let o := objsOf s j.version
        let (f, n) := placeOf o i
        let late := isLate j.deadline (now s) && !j.lateOk
        let refused := refuses s o i
        if !j.saved.isEmpty || !jobsRun s then s
        else if x.out then preemptScan (finishJob i j 11 (setInst i (unqueue j x) s))
        else if late && (refused || (n != 0 && coresIdle s f n)) then preemptScan (discardLate i j (setInst i (unqueue j x) s))
        else match (if refused then otherInst s o i j else none) with
          | some k => queueJob k j (setInst i (unqueue j x) s)
          | none =>
            if n = 0 || !coresIdle s f n then s
            else
              let j' := { j with ended := [], saved := [], area := [] }
              let m := (modelOfInst o i).getD (0, { addr := 0, length := 0, place := 0, instances := 0, firstCore := 0, ranks := 0,
                                                    kvBytes := 0, nums := [], digest := [] })
              let s := setInst i { unqueue j x with model := m.1, addr := m.2.addr, first := f, ranks := n, running := some j' } s
              let ranks := (List.range n).map fun r => (r, physOf s (f + r))
              let s := ranks.foldl (fun s e => haveProgram e.2 m.1 e.1 m.2 s) s
              let s := ranks.foldl (fun s e => match (core s e.2).prog with | some g => loadObjects e.2 g s | none => s) s
              preemptScan (ranks.foldl (fun s e => startRank e.2 i j s) s)
      | _, _ => s

/-- CONTEXT_SAVE (R293, R294): the core stands at a pre-emption point with everything decoded complete, and its context goes to the save area
in HBM that the helm names. A job that was to end ends instead. -/
def execContextSave (w : SaveAt) (s : State) : Host.Outcome State Fault Refusal :=
  .next <|
    let c := core s w.core
    match c.inst, c.inst.bind (inst? s) with
    | some i, some x =>
      if !coreOn s w.core || !(c.st == 3 || (c.st == 2 && c.preempt)) || c.open_ || !allEmpty c || !inHbm s w.area saveLen then s
      else match x.running, c.stop with
        | none, _ => s
        | some _, some st => endRank w.core st s
        | some j, none =>
          let r := lcore s w.core - x.first
          let sv : Saved := { core := w.core, area := w.area, hub := (hubOf s w.core).map fun k => let y := mgetD s.hub k {}; (k, (y.value, y.flags)) }
          let s := writeContext w.area (contextCells s w.core j (oidModel x.model)) s
          let s := setInst i { x with running := some { j with saved := mset j.saved r sv } } s
          let s := setCore w.core { c with st := 0, preempt := false, halting := false, single := false, inst := none, queues := [], run := [] } s
          requeueSaved i (dropPreempt w.core (coreLog w.core 5 (zeros 4 ++ le 4 j.wid) (ccErr w.core 3 (orphanCore w.core orphanKeep s))))
    | _, _ => s

/-- An object gets its saved VALUE and FLAGS back, no longer ORPHANED (R295): a reinitialisation. -/
def revive (v fl : Nat) (x : SObj) : SObj :=
  ({ value := v, flags := clrBit fl 2, owner := x.owner, parent := x.parent, children := x.children, sigChip := x.sigChip, sigUnit := x.sigUnit,
     sigOp := x.sigOp, sigNs := x.sigNs } : SObj).setPhase 0

/-- A rank's context is restored on core `p` (R295), with the hub objects that the core that saved it owned and that are orphaned still. -/
def restoreRank (p i wid : Nat) (sv : Saved) (s : State) : State :=
  let m := s.mem.hbm
  let s := coreLog p 5 ([1, 0, 0, 0] ++ le 4 wid) s
  let s := (List.range 48).foldl (fun s k =>
    let r : ORef := ⟨false, p, k⟩
    let x := obj s r
    let y := savedObj m sv.area k
    x.waiters.foldl (fun s w => answerHeld r w 14 0 s) (setObj r (revive y.1 y.2 x) s)) s
  let s := sv.hub.foldl (fun s e =>
    let x := mgetD s.hub e.1 {}
    if x.orphaned && x.owner == sv.core then setObj ⟨true, 0, e.1⟩ { revive e.2.1 e.2.2 x with owner := p } s else s) s
  let c := core s p
  setCore p { readContext m sv.area c with
    st := 1, kpend := [], mode := (c.prog.map (·.mode)).getD 0, open_ := false, snap := none, closing := false, failed := false, stop := none,
    hw := false, defer := [], sb := [], queues := [], run := [], inst := some i, preempt := false, halting := false, single := false,
    pass := false } s

/-- JOB_RESUME (R295): the pre-empted job `wid` at the head of instance `i`'s queue goes on. A rank whose saved context reads as poison ends FAULTED,
and its objects stay orphaned (R355). -/
def execJobResume (i wid : Nat) (s : State) : Host.Outcome State Fault Refusal :=
  .next <| if frozen s then s else match inst? s i with
    | none => s
    | some x => match headJob x, x.running with
      | some j, none =>
        let o := objsOf s j.version
        let (f, n) := placeOf o i
        if j.wid ≠ wid || j.saved.isEmpty || n = 0 || x.out || !coresIdle s f n || !jobsRun s then s
        else
          let bad := j.saved.filter fun e => (contextPoison s e.2.area).isSome
          let good := j.saved.filter fun e => (contextPoison s e.2.area).isNone
          let j' := { j with saved := [], ended := bad.foldl (fun m e => mset m e.1 12) j.ended }
          let s := setInst i { unqueue j x with first := f, ranks := n, running := some j' } s
          let s := bad.foldl (fun s e => match contextPoison s e.2.area with | some a => poisonRead a s | none => s) s
          let s := good.foldl (fun s e =>
            let p := physOf s (f + e.1)
            let s := match modelOfInst o i with | some m => haveProgram p m.1 e.1 m.2 s | none => s
            restoreRank p i j.wid e.2 s) s
          preemptScan s
      | _, _ => s

/-! ### Overrides (R143, R147, R317) -/

/-- One override entry on die `d`: whether it was made. -/
def writeOverride (d bucket tag : Nat) (v : Option Bytes) (s : State) : Bool × State :=
  let x := die s d
  let idx := (List.range 4).map fun w => 4 * bucket + w
  let hit := idx.find? fun i => (flowRec x i).tag == tag && !flowFree (flowRec x i)
  match v, hit with
  | none, none => (true, s)
  | none, some i => (true, clearOverride d i s)
  | some b, some i =>
    let r := flowRec x i
    if !ovrValid r.ovr && pinLines ≤ (x.cache.filter fun c => pinned c.2).length then (false, tblErr d 4 1 s)
    else (true, setDie d (putLine i { r with ovr := b } true x) s)
  | some b, none =>
    if pinLines ≤ (x.cache.filter fun c => pinned c.2).length then (false, tblErr d 4 1 s)
    else match newWay x bucket (fun _ => false) with
      | none => (false, tblErr d 4 1 s)
      | some (i, evict) =>
        let x := if evict then { x with cache := mdel x.cache i, flows := mdel x.flows i } else x
        let s := setDie d (putLine i { tag := tag, ovr := b } true x) s
        (true, if evict then tblErr d 3 1 s else s)

/-- The override field that an entry of a result writes (R120, R317); none for an entry with CLEAR. -/
def overrideOf (j : Job) (e : Bytes) : Option Bytes :=
  let f := u8 e 12
  if bit f 4 then none
  else some (le 2 j.version ++ le 2 j.stream ++ le 1 (u8 e 8) ++ le 1 (u8 e 9) ++ le 2 (leAt e 10 2) ++
    le 1 (f % 16 + 16 * b2n j.bmis + 128) ++ zeros 3 ++ le 4 (oidSc j.stream))

/-- The override entries of a result, in order, on both dies (R317): whether every one was made. -/
def writeOverrides (j : Job) (area : Mem) (s : State) : Bool × State :=
  (List.range (Mem.leAt area 1 1)).foldl (fun a k =>
    let e := Mem.bytes area (32 + 32 * k) 32
    let (bk, tag) := (leAt e 0 4 % 2 ^ 25, leAt e 4 4 % 2 ^ 31)
    let (ok0, s) := writeOverride 0 bk tag (overrideOf j e) a.2
    let (ok1, s) := writeOverride 1 bk tag (overrideOf j e) s
    (a.1 && ok0 && ok1, s)) (true, s)

/-! ### The router (R315, R316) -/

/-- A part that cannot be delivered (R315). -/
def undelivered (j : Job) (inst status : Nat) (late : Bool) (s : State) : State :=
  notify j inst status late true (failed_ j (scErr (j.die s) 5 s))

/-- The return of a job with RET_LEN: written on this chip, or sent to the chip that the job came from; where its address or its route does not
exist it is not delivered (R315). -/
def giveReturn (j : Job) (inst status : Nat) (late : Bool) (area : Mem) (s : State) : State :=
  let data := returnData j status late area
  let a := leAt j.desc 32 8
  if data.isEmpty then s
  else if j.origin ≠ 4 || j.chip = chipId s then
    if inMem s a data.length then devWrite a data s else undelivered j inst status late s
  else if s.chip.isNone || (routeTo s j.chip).isNone then undelivered j inst status late s
  else sendReturn j status late area s

/-- The parts of a result with status OK are delivered. -/
def deliverParts (x : Res) (late : Bool) (s : State) : State :=
  let j := x.job
  let f := Mem.leAt x.area 0 1
  let t := (j.tpl s).getD []
  let n := fun (ok : Bool) (s : State) => if ok then s else undelivered j x.inst 0 late s
  let s := if bit f 0 && bit (j.dest s) 0 then
      let len := Mem.leAt x.area 2 2
      let head := le 1 0x20 ++ le 1 (j.prio + 8 * j.dl) ++ be 2 (b2n late) ++ be 2 len ++ be 2 (leAt t 8 2) ++ be 2 j.version ++
        be 2 j.stream ++ be 4 j.wid ++ zeros 8 ++ be 2 (chipId s) ++ zeros 6
      let (ok, s) := routeResult (u8 t 6 % 64) (head ++ Mem.bytes x.area 0x1200 len) s
      n ok s
    else s
  let ev := if bit f 1 then Mem.bytes x.area 0x220 (Mem.leAt x.area 4 2) else []
  let s := if j.isHost then
      let (ok, s) := resultEvent 2 j (resultBody j x.inst 0 late false ev) s
      n ok s
    else if bit f 1 && bit (j.dest s) 1 then
      let (ok, s) := resultEvent 3 j (resultBody j x.inst 0 late false ev) s
      n ok s
    else s
  let s := if bit f 2 && bit (j.dest s) 2 && j.stream ≠ 0xFFFF then
      let (ok, s) := writeOverrides j x.area s
      n ok s
    else s
  giveReturn j x.inst 0 late x.area s

/-- The result on its way to the router of die `d` that is served next: of the highest PRIORITY, the oldest (R39). -/
def resultNext (s : State) (d : Nat) : Option Res :=
  let l := s.results.filter fun x => x.job.die s == d
  let top := l.foldl (fun m x => max m x.job.prio) 0
  l.find? fun x => x.job.prio == top

/-- RESULT_ROUTE (R315, R316): the next result on its way to the router of die `d`. -/
def execResultRoute (d : Nat) (s : State) : Host.Outcome State Fault Refusal :=
  .next <| if frozen s then s else match resultNext s d with
    | none => s
    | some x =>
      let j := x.job
      let s := { s with results := s.results.erase x }
      let late := isLate j.deadline (now s)
      if x.status ≠ 0 then
        let s := if j.isHost then (resultEvent 2 j (resultBody j x.inst x.status late false []) s).2 else s
        giveReturn j x.inst x.status late [] s
      else
        let s := if late then jobMiss (0xE4 + 8 * d) d j s else s
        if late && !j.lateOk then notify j x.inst 15 true true (failed_ j (scErr d 4 s))
        else
          let s := if late then (let s := scErr d 3 s; if j.stream = 0xFFFF then s else ctxCount j.stream 1 s) else s
          let s := perf (scCtr d + 0x10) 1 s
          let s := if j.stream = 0xFFFF then s else setCtx j.stream { ctxOf s j.stream with lastResult := now s } s
          deliverParts x late s

/-- A return tells the chip its job came from what became of it: where the DJOB still waits for the acceptance, that is known now (R310). -/
def returnAccept (chip wid status : Nat) (s : State) : State :=
  let st := if acceptStatus status then status else 0
  s.cores.foldl (fun s c => djobStatus c.1 chip wid st s) s

/-- RETURN_ARRIVE (R315, R316): a return from another chip, at place `i` of the inbox, reaches the chip its job came from, which counts for the
die of the number of the router that sent it. -/
def execReturnArrive (i : Nat) (s : State) : Host.Outcome State Fault Refusal :=
  .next <| if frozen s then s else match takeTag i (fun t => t.kind == 3 && (t.unit == 0xE4 || t.unit == 0xEC)) s with
    | none => s
    | some (t, s) =>
      let g := tagOf t.tag
      let w := beAt t.body 0 8
      let first := bit w 62
      let data := t.body.drop 8
      let late := isLate g.deadline (now s)
      let d := (g.unit - 0xE4) / 8
      let s := if bit w 63 then dropAway g.chip g.workId s else s
      let s := if first && !data.isEmpty then returnAccept g.chip g.workId (leAt data 0 2) s else s
      let miss := fun (s : State) =>
        raiseF { code := 0x0401, unit := g.unit, index := d, version := g.version, detail := g.workId + 2 ^ 32 * g.dl } s
      if late && !g.lateOk then (if first then miss (scErr d 4 s) else s)
      else if data.isEmpty then s
      else
        let fresh := first && late && u8 data 8 % 2 == 0
        let s := if fresh then miss (scErr d 3 s) else s
        let data := if fresh then data.set 8 1 else data
        if inMem s (w % 2 ^ 48) data.length then devWrite (w % 2 ^ 48) data s else if first then scErr d 5 s else s

end Sys2Proof.Machine
end

