-- ==== Sys2Proof/Machine/Observe.lean ====
section
/-! DEFINITION. Observation (chapter 19): the commands that read and arm it, marks, tensor dumps, logbook drains, and how a
heave-to is armed and stops the chip. -/

namespace Sys2Proof.Machine

open Sys2Proof

/-! ### What observation reads -/

/-- Debug scope `b` is unlocked (R502). -/
def dbgOpen (s : State) (b : Nat) : Bool := bit s.sys.dbg b
/-- Register offset of the counters of island `i` (R393). -/
def islCtr (i : Nat) : Nat := baseCh + 0x1000 + 0x20 * i
/-- Device-owned MiB at the bottom of HBM half `h` (CW_HBM_RSVD_h). -/
def rsvd (h : Nat) : Nat := (Config.hbmReserved h).toNat * 2 ^ 20
/-- `n` bytes from `a` lie in HBM and reach no device-owned region (R352). -/
def openHbm (s : State) (a n : Nat) : Bool :=
  inHbm s a n && decide (halfBase (a / 0x3600000000) + rsvd (a / 0x3600000000) ≤ a) &&
    (decide (halfBase 1 ≤ a) || decide (a + n ≤ halfBase 1))

/-- The control state of physical core `p` (CORE_STATE_READ). -/
def coreRecord (s : State) (p : Nat) : Bytes :=
  let c := core s p
  le 1 c.st ++ le 1 p ++ le 1 c.brkHit ++ le 1 (b2n c.open_ + 2 * (c.att % 4)) ++ le 2 c.pc ++ le 1 c.rid ++ le 1 c.defer.length ++
  le 4 c.step ++ le 4 c.mode ++ ((List.range 15).flatMap fun q => le 1 (queueAt c q).length) ++ [0] ++
  (List.range 16).flatMap fun i => le 8 (kreg c i)

/-- The utilisation record of physical core `p` (R525): 73 counters of 64 bits, LOG_LOST and CORE_OVF. -/
def utilRecord (s : State) (p : Nat) : Bytes :=
  ((List.range 73).flatMap fun i => le 8 (ctr s (utilKey p + 8 * i))) ++ le 4 (ctr s (utilKey p + 0x248)) ++
  le 4 (mgetD s.ovf (utilKey p + 0x24C) 0)
/-- The utilisation counters of core `p` cleared. -/
def utilClear (p : Nat) (s : State) : State :=
  { s with
    ctrs := s.ctrs.filter fun e => !(utilKey p ≤ e.1 && e.1 < utilKey p + 0x400),
    ovf := s.ovf.filter fun e => !(utilKey p ≤ e.1 && e.1 < utilKey p + 0x400) }

/-- OBS_CORE_READ (0x0F01). -/
def obsCoreRead (c : Call) (s : State) : CmdRes :=
  rows [(2, c.p.length != 4), (3, u8 c.p 1 / 2 != 0 || !zeroAt c.p 2 2), (4, s.nv.cores ≤ u8 c.p 0)] s <|
    let p := physOf s (u8 c.p 0)
    reply (utilRecord s p) (if bit (u8 c.p 1) 0 then utilClear p s else s)

/-! ### The cap on HBM writes (R530) -/

/-- Bytes that observation may still write into half `h` in this window. -/
def obsRoom (s : State) (h : Nat) : Nat :=
  let l := (mgetD s.obsW h []).filter fun e => now s < e.1 + 10000
  activeN s h * 13200 - (l.map (·.2)).foldl (· + ·) 0
/-- Observation writes `b` at HBM address `a`; what is no longer mapped is not written. -/
def obsWrite (a : Nat) (b : Bytes) (s : State) : State :=
  let h := a / 0x3600000000
  let l := (mgetD s.obsW h []).filter fun e => now s < e.1 + 10000
  let s := { s with obsW := mset s.obsW h (l ++ [(now s, b.length)]) }
  if inHbm s a b.length then hbmWrite a b s else s

/-! ### Logbooks (R526 to R531) -/

/-- Logbook of die or logical core `k` is on: LOG_CTL names it. -/
def logbook (s : State) (k : Nat) : Logbook := mgetD s.logs k {}
def setLog (k : Nat) (x : Logbook) (s : State) : State := { s with logs := mset s.logs k x }
/-- Unit of logbook `k` (R28): its core, or its die's composer and router. -/
def logUnit (s : State) (k : Nat) : Nat := if 0x80 ≤ k then 0xE4 + 8 * (k % 2) else physOf s k
/-- Records that a ring holds (R529). -/
def ringRecords (x : Logbook) : Nat := (2 ^ x.size - 64) / 32
/-- Observation bytes go to an HBM address of chip `chip`: here, or there by a kind 6 frame that
bears the sequence of a record as WORK_ID (R31). -/
def putObs (k chip wid a : Nat) (b : Bytes) (s : State) : State :=
  if chip = chipId s then obsWrite a b s
  else
    let (tag, s) := newTag (logUnit s k) 6 chip wid (newestNum s) 0xFFFFFFFF 0 0 false false s
    sendTag chip tag (be 8 a ++ b) s

/-- The records `l` go to the ring of `x`, WR after them. -/
def ringOut (k : Nat) (x : Logbook) (l : List Bytes) (s : State) : State :=
  let s := (l.zipIdx).foldl (fun s e => putObs k x.chip (leAt e.1 4 4) (x.addr + 64 + 32 * ((x.wr + e.2) % ringRecords x)) e.1 s) s
  putObs k x.chip (leAt (l.getLastD []) 4 4) x.addr (le 8 (x.wr + l.length)) s

/-- Records go to Brixvia in frames of at most 255 (R529). -/
def brixviaOut (fuel : Nat) (x : Logbook) (l : List Bytes) (s : State) : State :=
  match fuel with
  | 0 => s
  | fuel + 1 =>
    if l.isEmpty then s
    else
      let b := l.take 255
      brixviaOut fuel x (l.drop 255)
        (sendSeq x.sess 0x22 0 (be 4 x.xid ++ zeros 4 ++ be 8 (32 * leAt (b.headD []) 4 4) ++ b.flatten) s)

/-- Logbook `k` is due to drain: 8 KiB, 100 us after its oldest record, or a flush. -/
def drainDue (s : State) (k : Nat) : Bool :=
  let x := logbook s k
  256 ≤ x.buf.length || (match x.buf with | [] => false | r :: _ => x.flush || decide (leAt r 8 8 + 100000 ≤ now s))
/-- How many records of `x` the cap lets leave now; WR takes 8 bytes. -/
def drainRoom (s : State) (x : Logbook) : Nat :=
  if x.brixvia || x.chip ≠ chipId s then x.buf.length else min x.buf.length ((obsRoom s (x.addr / 0x3600000000) - 8) / 32)

/-- Logbook `k` drains what the cap lets leave. -/
def drainLog (k : Nat) (s : State) : State :=
  let x := logbook s k
  let y := sess s x.sess
  if x.brixvia then
    if y.opened && y.gen = x.gen then
      brixviaOut (x.buf.length + 1) x x.buf (setLog k { x with buf := [], flush := false } s)
    else
      let s := setLog k { x with buf := [], flush := false, lostBefore := x.lostBefore || !x.buf.isEmpty } s
      if 0x80 ≤ k then errc (baseObs + 0x10510) (baseObs + 0x10520) 0 x.buf.length s
      else errc (utilKey (physOf s k) + 0x248) (utilKey (physOf s k) + 0x24C) 0 x.buf.length s
  else
    let n := drainRoom s x
    if n = 0 || (x.chip == chipId s && hbmHeld s x.addr (2 ^ x.size)) then s
    else
      let left := x.buf.drop n
      ringOut k x (x.buf.take n) (setLog k { x with buf := left, wr := x.wr + n, flush := x.flush && !left.isEmpty } s)

/-- LOGBOOK_DRAIN (R529). -/
def execLogbookDrain (k : Nat) (s : State) : Host.Outcome State Fault Refusal :=
  .next (if drainDue s k && !holding s && s.sys.level < 2 then drainLog k s else s)

/-- The types that logbook `k` does not have (LOG_CTL). -/
def logTypesBad (k t : Nat) : Bool :=
  bit t 0 || 2048 ≤ t || (if 0x80 ≤ k then t &&& 0xFE != 0 else bit t 8 || bit t 9)

/-- LOG_CTL (0x0F02). -/
def logCtl (c : Call) (s : State) : CmdRes :=
  let k := u8 c.p 0
  let op := u8 c.p 1
  let die := 0x80 ≤ k
  let b := u8 c.p 6
  let size := u8 c.p 16
  let a := leAt c.p 8 8
  let chip := leAt c.p 18 2
  let ring := decide (op = 0) && b == 0
  rows [
    (2, c.p.length != 24),
    (3, 0x81 < k || 2 < op || (op == 0 && 1 < b) || u8 c.p 17 != 0 || (op != 0 && !zeroAt c.p 2 22) ||
      (op == 0 && (logTypesBad k (leAt c.p 2 2) || (!die && (u8 c.p 4 != 0 || u8 c.p 5 != 0)) ||
        (b == 0 && (u8 c.p 7 != 0 || !zeroAt c.p 20 4 || a % 32 != 0)) ||
        (b == 1 && (!zeroAt c.p 8 12))))),
    (4, (op == 0 && (20 < u8 c.p 4 || 24 < u8 c.p 5)) || (ring && (size < 16 || 32 < size)) || (!die && s.nv.cores ≤ k) ||
      (ring && chip == chipId s && !openHbm s a (2 ^ size))),
    (9, op == 0 && b == 1 && (3 < u8 c.p 7 || !(sess s (u8 c.p 7)).opened))] s <|
    let x := logbook s k
    if op ≠ 0 then okay (setLog k { x with flush := true, types := if op = 2 then 0 else x.types } s)
    else
      let s := drainLog k s
      let x := logbook s k
      okay (setLog k { x with
        types := leAt c.p 2 2, sample := u8 c.p 4, mark := u8 c.p 5, brixvia := b == 1, sess := u8 c.p 7,
        gen := (sess s (u8 c.p 7)).gen, addr := a, size := size, chip := chip, xid := leAt c.p 20 4, wr := 0, flush := false } s)

/-! ### Marks and dumps (R284, R532, R533) -/

/-- TMARK. -/
def execTmark (p q : Nat) (s : State) : Host.Outcome State Fault Refusal :=
  .next <| engDone p q 7 2 (fun e s => coreLog p 1 (le 4 (bits e.w 107 76) ++ le 4 (core s p).step ++ le 2 e.pc) s) s

/-- The armed slot that a DUMP of `sym` fires on core `p`: the lowest one. -/
def dumpSlot (c : Core) (sym : Nat) : Option (Nat × DumpSlot) :=
  c.dumps.find? fun e => e.2.symbol == sym && (e.2.step == c.step || e.2.step == 0xFFFFFFFF)

/-- A DUMP fires slot `i`: the entry is formed from the data as they stand, and its copy begins. -/
def fireDump (p : Nat) (e : EI) (i : Nat) (d : DumpSlot) (s : State) : State :=
  let c := core s p
  let len := bits e.w 54 39 * 32
  let trunc := decide (d.bytes - 32 < len)
  let n := min len (d.bytes - 32)
  let j := jobOf s p
  let flags := b2n trunc + 2 * b2n e.region
  let head := le 4 d.symbol ++ le 4 c.step ++ le 4 n ++ le 2 flags ++ le 1 (lcore s p) ++ le 1 p ++
    le 4 ((j.map (·.wid)).getD 0) ++ le 2 ((j.map (·.version)).getD 0) ++ zeros 2 ++ le 8 (now s)
  let s := setCore p { c with
    dumps := if d.hits + 1 < d.count then mset c.dumps i { d with hits := d.hits + 1 } else mdel c.dumps i,
    dumping := [{ addr := d.addr + d.hits * d.bytes, entry := head ++ localBytes s p (bits e.w 75 55 * 32) n, trunc := trunc }] } s
  coreLog p 7 (le 4 d.symbol ++ le 4 c.step ++ le 4 d.hits ++ le 2 flags) s

/-- DUMP: with no armed slot it does nothing; while an earlier copy runs, one that would fire waits. A range that leaves the
core store is illegal, and poison is refused (R355). -/
def execDump (p q : Nat) (s : State) : Host.Outcome State Fault Refusal :=
  .next <| engStep p q 7 3 (fun e s =>
    let c := core s p
    match dumpSlot c (bits e.w 107 76) with
    | none => doneEi p q e s
    | some (i, d) =>
      if !c.dumping.isEmpty then s
      else if !localIn (bits e.w 75 55 * 32) (bits e.w 54 39 * 32) then illegalEi p q e s
      else if localPoison s p (bits e.w 75 55 * 32) (min (bits e.w 54 39 * 32) (d.bytes - 32)) then refuseEi p q e s
      else doneEi p q e (fireDump p e i d s)) s

/-- DUMP_COPY: the next part of a fired dump's entry is written, as far as the caps of R530 let it: at most 1,310 words of core
store within 1,024 island cycles, and what the half's window has room for. -/
def execDumpCopy (p : Nat) (s : State) : Host.Outcome State Fault Refusal :=
  .next <|
    let c := core s p
    match c.dumping with
    | [] => s
    | d :: rest =>
      let cyc := ctr s (islCtr p)
      let free := c.dumpCyc = 0 || c.dumpCyc + 1023 ≤ cyc
      let a := d.addr + d.pos
      let n := min (min (d.entry.length - d.pos) (if free then 1310 * 32 else 0)) (obsRoom s (a / 0x3600000000) / 32 * 32)
      if !coreOn s p || n = 0 || hbmHeld s a n then s
      else
        let s := obsWrite a (sub d.entry d.pos n) s
        let more := d.pos + n < d.entry.length
        let s := setCore p { c with
          dumping := if more then { d with pos := d.pos + n } :: rest else rest, dumpCyc := cyc + 1 } s
        if more then s
        else
          let s := errc (baseObs + 0x10514) (baseObs + 0x10520) 1 1 s
          if d.trunc then errc (baseObs + 0x10518) (baseObs + 0x10520) 2 1 s else s

/-- DUMP_ARM (0x0F10). -/
def dumpArm (c : Call) (s : State) : CmdRes :=
  let l := u8 c.p 0
  let i := u8 c.p 1
  let op := u8 c.p 2
  let n := leAt c.p 12 2
  let a := leAt c.p 16 8
  let b := leAt c.p 24 4
  let p := physOf s l
  let armed := (mget (core s p).dumps i).isSome
  rows [
    (2, c.p.length != 32),
    (3, 3 < i || 1 < op || a % 32 != 0 || b % 32 != 0 || u8 c.p 3 != 0 || leAt c.p 14 2 != 0 || leAt c.p 28 4 != 0 ||
      (op == 1 && !zeroAt c.p 3 29)),
    (4, s.nv.cores ≤ l || (op == 0 && (n == 0 || b < 64 || 2097184 < b || !openHbm s a (n * b)))),
    (9, if op = 0 then armed else !armed),
    (8, !dbgOpen s 0)] s <|
    let x := core s p
    okay (setCore p { x with
      dumps := if op = 0 then mset x.dumps i { symbol := leAt c.p 4 4, step := leAt c.p 8 4, count := n, addr := a, bytes := b }
        else mdel x.dumps i } s)

/-! ### Arming a heave-to (R536, R541, R542) -/

/-- The heave-to `num` is armed at `t`. -/
def armHeave (num t : Nat) (s : State) : State := { s with hv := { s.hv with st := 1, t := t, armNum := num } }

/-- HV_ARM (0x0F20). -/
def hvArm (c : Call) (s : State) : CmdRes :=
  let op := u8 c.p 0
  let num := leAt c.p 4 4
  let t := leAt c.p 8 8
  rows [
    (2, c.p.length != 16),
    (3, 2 < op || !zeroAt c.p 1 3 || (op != 0 && num != 0) || (op == 1 && t != 0)),
    (4, op != 1 && (t < now s + 10000 || now s + 600000000000 < t)),
    (9, match op with
      | 0 => s.hv.st != 0 || s.ch.pwr == 1
      | 1 => s.hv.st != 1
      | _ => s.hv.st != 2),
    (8, !dbgOpen s 1)] s <|
    okay <| match op with
      | 0 => armHeave num t s
      | 1 => { s with hv := { s.hv with st := 0 } }
      | _ => { s with hv := { s.hv with st := 3, r := t } }

/-- A write of CW_HEAVE_CTL (R455): ARM, RESUME and CANCEL, in that order of its bits. -/
def heaveCtl (v : Nat) (s : State) : State :=
  let s := if bit v 0 && s.hv.st == 0 && s.ch.pwr != 1 then armHeave ((s.hv.num + 1) % 2 ^ 32) s.hv.tReg s else s
  let s := if bit v 1 && s.hv.st == 2 then { s with hv := { s.hv with st := 3, r := now s } } else s
  if bit v 2 && s.hv.st == 1 then { s with hv := { s.hv with st := 0 } } else s

/-- HEAVE_CTL_ARM: needs debug scope bit 1 (R502). -/
def execHeaveCtlArm (s : State) : Host.Outcome State Fault Refusal :=
  .next (if helmUp s && dbgOpen s 1 then heaveCtl 1 s else s)
/-- HEAVE_CTL_RESUME. -/
def execHeaveCtlResume (s : State) : Host.Outcome State Fault Refusal :=
  .next (if helmUp s && dbgOpen s 1 then heaveCtl 2 s else s)
/-- HEAVE_CTL_CANCEL. -/
def execHeaveCtlCancel (s : State) : Host.Outcome State Fault Refusal :=
  .next (if helmUp s && dbgOpen s 1 then heaveCtl 4 s else s)

/-! ### The stop (R424, R536 to R540) -/

/-- Island `i` stands still whatever a heave-to does (R384): banked, asleep, held in reset or in block reset, or retired. -/
def islandStopped (s : State) (i : Nat) : Bool :=
  decide (2 ≤ s.sys.level) || s.ch.pwr == 2 ||
  if i < 132 then s.ch.pwr == 1 || s.sys.level == 1 || bit s.nv.coreRetired i || (blk s 0 i).st == 4
  else if i < 138 then false
  else if i < 140 then (blk s 5 (i - 138)).st == 4
  else (blk s 4 (i - 140)).st == 4

/-- Link `n` sends its marker (R402, R424): the next flit, without a credit. -/
def sendMarker (num t n : Nat) (s : State) : State :=
  let dest := match (link s n).partner with | some (c, _, true) => c | _ => 0
  let (tag, s) := newTag 0xFE 7 dest num (newestNum s) 0xFFFFFFFF 0 0 false false s
  let x := link s n
  let rest := [BitVec.ofNat 8 (3 * 64), 44] ++ padTo 54 (tableFrame dest (tagBytes tag) (be 8 t))
  let q := x.tx
  perf (clLink n + 0x20) 1 (emit (.dataFlit n 0 q (flitBytes q x.rx rest)) (setLink n { x with
    replay := x.replay ++ [(0, rest)], tx := (q + 1) % 65536,
    ackT := if x.replay.isEmpty then now s else x.ackT, sentT := if x.replay.isEmpty then now s else x.sentT } s))

/-- Links that are up carry markers where they are Weltix v2, once the chip has an id (R30). -/
def markLink (s : State) (n : Nat) : Bool := linkUp s n && (link s n).ver == 2 && s.chip.isSome

/-- Every stopping island freezes for heave-to `num` at `t`; INLINE_OK falls; logbooks and links are told. -/
def heaveStop (num t : Nat) (byMarker : Bool) (s : State) : State :=
  let isl : Map (Bool × Nat) := (List.range 138).map fun i => (i, islandStopped s i, ctr s (islCtr i))
  let hl : Map HvLink := (List.range 8).map fun n => (n, { sent := markLink s n })
  let marks := (List.range 8).filter (markLink s)
  let s := (s.logs.filter fun e => 0x80 ≤ e.1 || !islandStopped s (physOf s e.1)).foldl (fun s e =>
    logRec e.1 10 (logUnit s e.1) 0 (le 4 num ++ zeros 4 ++ le 8 t) s) s
  let s := { s with
    inlineOk := false,
    hv := { s.hv with
      st := 2, num := num, ever := true, t := t, byMarker := byMarker, stopT := now s, islands := isl, links := hl, round := s.ver.round, divs := s.pw.div } }
  let s := errc (baseObs + 0x1051C) (baseObs + 0x10520) 3 1 s
  marks.foldl (fun s n => sendMarker num t n s) s

/-- HEAVE_TO_STOP: at the armed instant. -/
def execHeaveToStop (s : State) : Host.Outcome State Fault Refusal :=
  .next (if s.hv.st == 1 && s.hv.t ≤ now s then heaveStop s.hv.armNum s.hv.t false s else s)

/-! ### The capture (R540) -/

/-- The island of a unit code (R28, R381). -/
def unitIsland (u : Nat) : Nat :=
  if u < 132 then u else if u < 0xE0 then 136 + u % 32 / 16 else if u == 0xE6 || u == 0xFE then 134
  else if u < 0xF0 then 136 + u / 8 % 2 else 138 + u % 2
/-- The island that a tag of this chip travels to. -/
def tagIsland (s : State) (t : InTag) : Nat :=
  let g := tagOf t.tag
  if g.kind == 4 then (if bits g.workId 15 8 == 0xFF then 134 else physOf s (bits g.workId 15 8))
  else if g.kind == 3 then unitIsland g.unit else 138 + s.helm.active
/-- FIFOs that hold entries: sending island, receiving island, and the entries in order. -/
def fifos (s : State) : List (Nat × Nat × List Bytes) :=
  let items := s.inbox.map fun t =>
    (if t.link < 8 then 134 + t.link / 4 else unitIsland (tagOf t.tag).unit, tagIsland s t, t.tag ++ t.body)
  let keys := (items.map fun x => 65536 * x.1 + x.2.1).foldl sadd []
  keys.map fun k => (k / 65536, k % 65536, (items.filter fun x => 65536 * x.1 + x.2.1 == k).map (·.2.2))
/-- Link `n` is open in the capture: up, and its markers did not cross both ways. -/
def openLink (s : State) (n : Nat) : Bool :=
  let x := mgetD s.hv.links n {}
  linkUp s n && !(x.sent && x.got)

/-- A record of the capture; none where INDEX names no record. -/
def hvRecord (s : State) (sec idx : Nat) : Option Bytes :=
  match sec with
  | 0 =>
    if idx ≠ 0 then none
    else
      let cons := !(List.range 8).any (openLink s)
      some (le 4 s.hv.num ++ le 4 (b2n cons + 2 * b2n s.hv.byMarker) ++ le 8 s.hv.t ++ le 2 138 ++ le 2 (fifos s).length ++ [8] ++ zeros 11)
  | 1 => (mget s.hv.islands idx).map fun x =>
      le 2 idx ++ le 1 (b2n x.1) ++ zeros 5 ++ le 8 s.hv.stopT ++ le 8 x.2 ++ zeros 8
  | 2 => (fifos s)[idx]?.map fun f =>
      let w := (f.2.2.map (·.length)).foldl max 0
      le 2 f.1 ++ le 2 f.2.1 ++ le 2 f.2.2.length ++ le 2 w ++ (f.2.2.map (padTo w)).flatten
  | 3 =>
    if 8 ≤ idx then none
    else
      let x := link s idx
      let h := mgetD s.hv.links idx {}
      some (le 1 x.st ++ le 1 x.ver ++ le 1 (b2n h.sent + 2 * b2n h.got + 4 * b2n (openLink s idx)) ++ [0] ++ le 4 h.flits.length ++
        le 8 h.markerT ++ (h.flits.map (padTo 64)).flatten)
  | _ => if idx < s.nv.cores then some (coreRecord s (physOf s idx)) else none

/-- HV_READ (0x0F21). -/
def hvRead (c : Call) (s : State) : CmdRes :=
  let r := hvRecord s (u8 c.p 0) (leAt c.p 2 2)
  let off := leAt c.p 4 4
  let n := leAt c.p 8 4
  rows [
    (2, c.p.length != 12),
    (3, 4 < u8 c.p 0 || u8 c.p 1 != 0),
    (4, n == 0 || 4064 < n || ((s.hv.st == 2 || s.hv.st == 3) && match r with | none => true | some b => decide (b.length ≤ off))),
    (9, s.hv.st != 2 && s.hv.st != 3),
    (8, !dbgOpen s 1)] s (reply (sub (r.getD []) off n) s)

/-- OBS_CORE_READ. -/
def execObsCoreRead (r : Req) (s : State) : Host.Outcome State Fault Refusal := .next (mbxRow 0x0F01 obsCoreRead r s)
/-- LOG_CTL. -/
def execLogCtl (r : Req) (s : State) : Host.Outcome State Fault Refusal := .next (mbxRow 0x0F02 logCtl r s)
/-- DUMP_ARM. -/
def execDumpArm (r : Req) (s : State) : Host.Outcome State Fault Refusal := .next (mbxRow 0x0F10 dumpArm r s)
/-- HV_ARM. -/
def execHvArm (r : Req) (s : State) : Host.Outcome State Fault Refusal := .next (mbxRow 0x0F20 hvArm r s)
/-- HV_READ. -/
def execHvRead (r : Req) (s : State) : Host.Outcome State Fault Refusal := .next (mbxRow 0x0F21 hvRead r s)

end Sys2Proof.Machine
end

