-- ==== Sys2Proof/Machine/LinkLayer.lean ====
section
/-! DEFINITION. Weltix frames as they arrive (R401 to R403, R416 to R420), and what a link gives up when it goes down (R407). -/

namespace Sys2Proof.Machine

open Sys2Proof

/-! ### Routes (R338, R403, R407, R418) -/

/-- A copy to another chip ends as refused: its job ends FAULTED (R403). -/
def refuseCopies (bad : EI → Bool) (s : State) : State :=
  s.cores.foldl (fun s c => ((runAt c.2 12).filter fun e => e.ph == 2 && eiClass e.w == 4 && eiOp e.w == 1 && bad e).foldl
    (fun s e => refuseEi c.1 12 e s) s) s
/-- Operations toward chips whose route is lost end: sync operations with ORPHANED, copies as refused. -/
def endLost (s : State) : State :=
  let chips := (s.cores.flatMap fun c => ((runAt c.2 13).filter fun e => e.ph == 2 && e.chip != chipId s).map (·.chip)).foldl sadd []
  let s := (chips.filter (routeLost s)).foldl (fun s c => orphanToward c s) s
  refuseCopies (fun e => routeLost s e.chip) s

/-- A queued frame takes another route: by the table, or it is discarded where its path's link is not up. -/
def reroute (f : Bytes) (s : State) : State := if pathLen f = 0 then sendRouted (beAt f 0 2) f s else sendPath f s

/-- The frame of a reset request has not been acknowledged on its link: it waits, or its flit is in the replay buffer. -/
def rstOut (x : Lnk) (f : Bytes) : Bool :=
  let g := if x.ver = 1 then v1Frame f else f
  (mgetD x.queue 0 []).contains f || x.replay.any fun e => sub e.2 2 g.length == g
/-- Reset requests on link `n` that have been acknowledged end with OK, or, where the link is gone, with TIMEOUT (RST_REMOTE). -/
def rstAcked (n status : Nat) (s : State) : State :=
  let x := link s n
  let fin := s.cl.rstReqs.filter fun r => r.link == n && (status != 0 || !rstOut x r.frame)
  fin.foldl (fun s r => endWait r.who status 0 [] s) { s with cl := { s.cl with rstReqs := s.cl.rstReqs.filter fun r => !fin.contains r } }

/-- Link `n` leaves the up state for state `st` (R407): the replay buffer's flits are lost, queued frames are rerouted, tree nodes
that use it orphan. -/
def dropLink (n st : Nat) (s : State) : State :=
  let x := link s n
  let fs := (x.queue.map (·.2)).flatten
  let y := { x with
    st := st, ver := 0, active := 0, miswired := false, since := now s, retryAt := none, offer := none, tx := 0, una := 0, replay := [],
    rows := 0, rx := 0, nacked := false, cred := [0, 0, 0], grant := [0, 0, 0], back := [0, 0, 0], queue := [], part := [], asm := [],
    epoch := 0, laneReq := none, timeReq := none, timeSent := 0, exch := 0, marker := none, held := [] }
  let s := setLink n y s
  let s := if x.replay.isEmpty then s else clErr n 4 x.replay.length s
  let s := fs.foldl (fun s f => reroute f s) s
  if x.st == 5 || x.st == 6 then endLost (rstAcked n 10 s) else s

/-- The firmware of this chip has started. -/
def fwUp (s : State) : Bool := s.sys.boot == 2 && decide (s.sys.level < 2)
/-- Lanes of link `n` that are not retired. -/
def usableLanes (s : State) (n : Nat) : Nat := 255 - mgetD s.nv.laneRetired n 0 % 256

/-- Link `n` begins to train where it may (R405), and stays idle otherwise. -/
def startLink (n : Nat) (s : State) : State :=
  let x := link s n
  let st := if bit s.nv.linkRetired n then 7 else if x.en && fwUp s then 1 else 0
  setLink n { x with st := st, ver := 0, fast := false, since := now s, retryAt := none, offer := none } s
/-- A link leaves what it did and trains again. -/
def retrainLink (n : Nat) (s : State) : State := startLink n (dropLink n 1 s)
/-- A training attempt fails (R405). -/
def failLink (n : Nat) (s : State) : State :=
  clErr n 5 1 (setLink n { link s n with st := 1, ver := 0, offer := none, since := now s, retryAt := some (now s + 100000000) } s)

/-- A fault of link `n` or a lane of it (R505, R509). -/
def linkFault (code flags cls idx detail : Nat) : FltRec :=
  { code := code, unit := 0xFE, flags := flags, chclass := cls, index := idx, detail := detail }
/-- Link `n` is retired (R412), and the tree nodes that use it lose it (R344). -/
def retireLink (n : Nat) (s : State) : State :=
  let s := treeLinkLost n (dropLink n 7 { s with nv := { s.nv with linkRetired := setBit s.nv.linkRetired n } })
  raiseF { linkFault 0x0309 2 1 n 0 with version := newestNum s } s

/-! ### What a frame's bytes do when they have arrived -/

/-- A frame is discarded and counted in CL_FRAME_ERR. -/
def frameErr (n : Nat) (s : State) : State := clErr n 3 1 s
/-- The frame with HOPS one higher, at most 0xFF (R33). -/
def bumpHops (f : Bytes) : Bytes := f.set 32 (BitVec.ofNat 8 (min 255 (u8 f 32 + 1)))

/-- TAG_MALFORMED at the relay of link `n` (R42, R45). -/
def tagMalformed (n : Nat) (t : Tag) (s : State) : State :=
  raiseF { code := 0x0502, unit := 0xFE, index := n, version := newestNum s, detail := t.kind % 256 + 256 * (t.unit % 256) }
    (errc (baseObs + 0x10700) (baseObs + 0x10704) 0 1 s)

/-- A job that cannot be taken is answered with a result of status VERSION (R42). DESIGN CHOICE: its SHORT_BEARING is 0 where the version is
not live on this chip, which then holds no bearing of it. -/
def versionResult (t : Tag) (body : Bytes) (s : State) : State :=
  sendReturn { desc := padTo 64 body, wid := t.workId, version := t.version, deadline := t.deadline, origin := 4, chip := t.chip,
               unit := t.unit } 7 false [] s

/-- Error counter `k` places after OBS_VER_MISSED (R448). -/
def verCount (k : Nat) (s : State) : State := errc (baseObs + 0x10408 + 4 * k) (baseObs + 0x10418) k 1 s

/-- A return that is discarded takes its job out of those in flight here (R36). -/
def returnGone (t : Tag) (s : State) : State := if t.kind = 3 && (t.unit = 0xE4 || t.unit = 0xEC) then dropAway t.chip t.workId s else s

/-- R42 for a tag that came on link `n`: the state, and none where it goes no further, or whether it carries the mark of R445. A tag
that crossed a Weltix v1 link on an earlier hop is not compared (R43). -/
def checkTag (n : Nat) (v1 : Bool) (t : Tag) (body : Bytes) (s : State) : Option Bool × State :=
  if t.kind < 2 || 8 < t.kind || unitReserved t.unit || (v1 && (t.kind == 7 || t.kind == 8)) then (none, tagMalformed n t s)
  else if 4 < t.kind then (some false, s)
  else if (liveObjs s t.version).isNone then
    let s := returnGone t (verCount 1 s)
    (none, if t.kind = 2 then versionResult t body s else s)
  else if v1 || t.bearing = shortBearing s t.version then (some false, s)
  else
    let (k, s) := draw s
    if Config.crossedV1 k then (some false, s)
    else
    let s := clErr n 6 1 { s with ver := { s.ver with bmis := s.ver.bmis + 1 } }
    let s := raise1s { code := 0x0602, unit := 0xFE, index := n, version := t.version,
                       detail := t.bearing + 65536 * shortBearing s t.version } s
    if s.ver.policy = 2 then
      let s := returnGone t (verCount 2 s)
      (none, if t.kind = 2 then versionResult t body s else s)
    else (some (s.ver.policy == 1), s)

/-- A remote copy's frame (R403): its bytes are written, and after the last one the copy is confirmed. -/
def takeCopy (t : Tag) (body : Bytes) (s : State) : State :=
  let w := beAt body 0 8
  let a := w % 2 ^ 48
  let d := body.drop 8
  if !inMem s a d.length then s
  else
    let s := devWrite a d s
    if bit w 63 then
      let (c, s) := newTag 0xFE 3 t.chip t.workId t.version 0xFFFFFFFF t.prio t.dl false false s
      sendTag t.chip c [] s
    else s

/-- A frame for this chip is acted on, or waits in the inbox for the unit that acts on it. -/
def deliver (n : Nat) (v1 mark : Bool) (f : Bytes) (s : State) : State :=
  let tag := sub f 12 24
  let t := tagOf tag
  let body := f.drop 36
  let s := noteSeq t s
  let wait := { s with inbox := s.inbox ++ [{ link := n, tag := tag, body := body, path := f.take 10, v1 := v1, bmis := mark, at_ := now s }] }
  match t.kind with
  | 3 => if t.unit < 0x84 && 8 ≤ body.length then takeCopy t body s else wait
  | 6 => if 8 ≤ body.length && openHbm s (beAt body 0 8) (body.length - 8) then obsWrite (beAt body 0 8) (body.drop 8) s else s
  | 7 => s
  | _ => wait

/-- A chip without an id takes only a path-mode CL_CHIP_ID addressed to it (R420): a command frame whose request has that opcode. -/
def isChipIdCmd (f : Bytes) : Bool := frameKind f == 5 && u8 f 36 == 1 && u8 f 43 == 0xFF && leAt f 44 2 == 0x0B01

/-- A whole frame has arrived on link `n`, its first bit at `t0` in 1/256 ns (R401, R416, R419). A miswired link carries no frames
(R406). -/
def rxFrame (n t0 : Nat) (g : Bytes) (s : State) : State :=
  let v1 := (link s n).ver == 1
  let f := if v1 then g.take 22 ++ zeros 2 ++ g.drop 22 else g
  if f.length < 36 || f.length ≠ 36 + beAt f 10 2 || 4096 < beAt f 10 2 || (pathLen f != 0 && !pathRev f && pathLen f ≤ pathPtr f) ||
      (pathLen f != 0 && pathRev f && pathPtr f == 0) then frameErr n s
  else if (link s n).miswired then s
  else
    let t := tagOf (sub f 12 24)
    let s := linkMark n 1 0 t0 t s
    match checkTag n v1 t (f.drop 36) s with
    | (none, s) => s
    | (some mark, s) =>
      let f := if v1 then f.take 22 ++ le 2 (shortBearing s t.version) ++ f.drop 24 else f
      let fwd := if pathRev f then setPtr (pathPtr f - 1) f else setPtr (pathPtr f + 1) (setPathAt (pathPtr f) n f)
      let atEnd := if pathRev f then pathPtr f == 1 else pathPtr f + 1 == pathLen f
      if s.chip.isNone then (if pathLen f ≠ 0 && atEnd && isChipIdCmd fwd then deliver n v1 mark fwd s else s)
      else if pathLen f = 0 then
        if beAt f 0 2 = chipId s || t.kind = 7 || t.kind = 8 then deliver n v1 mark f s else sendRouted (beAt f 0 2) (bumpHops f) s
      else if atEnd then deliver n v1 mark fwd s
      else sendPath (bumpHops fwd) s

/-! ### Flits as they arrive (R398, R404, R409, R424) -/

/-- An accepted data flit's bytes 4 to 59, which arrived at `t`, take their place in the frame of their channel. A first flit ends
an unfinished frame, which is discarded, and begins its own. -/
def takeFlit (n t : Nat) (r : Bytes) (s : State) : State :=
  let pos := u8 r 0 / 64
  let v := u8 r 0 / 16 % 4
  let len := u8 r 1
  let first := pos == 0 || pos == 3
  let old := mget (link s n).asm v
  let s := setLink n { link s n with asm := mdel (link s n).asm v } s
  let s := if first && old.isSome then frameErr n s else s
  let fits := if pos == 0 || pos == 1 then len == 54 else decide (1 ≤ len) && decide (len ≤ 54)
  let (t0, bytes) := if first then (t, sub r 2 len) else match old with
    | some o => (o.1, o.2 ++ sub r 2 len)
    | none => (t, [])
  if v = 3 || !fits || (!first && old.isNone) || 4132 < bytes.length then frameErr n s
  else if pos = 0 || pos = 1 then setLink n { link s n with asm := mset (link s n).asm v (t0, bytes) } s
  else rxFrame n t0 bytes s

/-- The credit of a flit returns when it leaves its buffer (R404). -/
def giveBack (n v : Nat) (s : State) : State :=
  let x := link s n
  setLink n { x with back := x.back.set v (x.back.getD v 0 + 1) } s

/-- The flit is a heave-to marker: a one-flit kind 7 frame on a Weltix v2 link, which needs no credit (R402, R408). -/
def isMarker (x : Lnk) (r : Bytes) : Bool := x.ver == 2 && u8 r 0 / 64 == 3 && u8 r 17 == 7
/-- A marker has arrived on link `n`: its frame and its tag are checked like any other's (R42, R401), and it then waits for the stop. -/
def takeMarker (n : Nat) (r : Bytes) (s : State) : State :=
  let f := sub r 2 (u8 r 1)
  if f.length ≠ 44 || beAt f 10 2 ≠ 8 then frameErr n s
  else if (link s n).miswired || s.chip.isNone then s
  else
    let t := tagOf (sub f 12 24)
    match checkTag n false t (f.drop 36) s with
    | (none, s) => s
    | (some _, s) => setLink n { link s n with marker := some (t.workId, beAt f 36 8) } (noteSeq t s)

/-- Data flits are held back on link `n`: this chip holds, or the partner's marker has come and has not been acted on. -/
def holdsFlits (s : State) (n : Nat) : Bool := s.hv.st == 2 || s.hv.st == 3 || (link s n).marker.isSome

/-- A flit in order is taken: a marker for the stop, any other one at once or, while the chip holds, at the resume. -/
def acceptFlit (n : Nat) (flit : Bytes) (s : State) : State :=
  let r := sub flit 4 56
  let v := u8 r 0 / 16 % 4
  let s := perf (clLink n + 0x28) 1 s
  if isMarker (link s n) r then takeMarker n r s
  else
    let x := link s n
    let s := setLink n { x with grant := x.grant.set v (x.grant.getD v 0 - 1) } s
    if holdsFlits s n then
      let h := mgetD s.hv.links n {}
      let inFlight := s.hv.st == 2 && !h.got && (link s n).marker.isNone
      let s := if inFlight then { s with hv := { s.hv with links := mset s.hv.links n { h with flits := h.flits ++ [flit] } } } else s
      setLink n { link s n with held := (link s n).held ++ [(now256 s, r)] } s
    else takeFlit n (now256 s) r (giveBack n v s)

/-- ACK `a` frees what it covers, and measures the round trip (R409, R410). -/
def ackLink (n a : Nat) (s : State) : State :=
  let x := link s n
  let d := (a + 65536 - x.una) % 65536
  if d = 0 || x.replay.length < d then s
  else rstAcked n 0 <| pumpLink n (setLink n { x with
    una := a, replay := x.replay.drop d, ackT := now s, sentT := now s, rows := 0,
    rtt := if x.rows = 0 then min (now s - x.sentT) 0xFFFFFF else x.rtt } s)

/-- NACK leaves link `n`, once for each SEQ expected. -/
def sendNack (n : Nat) (s : State) : State :=
  let x := link s n
  if x.nacked then s
  else
    let b := [0x03] ++ be 2 x.rx ++ zeros 57
    emit (.flit n (b ++ be 4 (crc32c b))) (setLink n { x with nacked := true } s)

/-- Flits run on link `n`. -/
def flitsRun (s : State) (n : Nat) : Bool := n < 8 && ((link s n).st == 5 || (link s n).st == 6) && decide (s.sys.level < 2) && s.ch.pwr != 2
/-- The flit's CRC is right (R397). -/
def crcOk (flit : Bytes) : Bool := flit.length == 64 && beAt flit 60 4 == crc32c (flit.take 60)

/-- CL_DATA_FLIT: a flit of the 2-bit type `ty` (R396, R398, R404, R409). A control flit whose code has no row carries no news. -/
def execClDataFlit (n : Nat) (f : ClFlit) (s : State) : Host.Outcome State Fault Refusal :=
  .next <|
    if !flitsRun s n || f.bytes.length ≠ 64 then s
    else if 2 ≤ f.ty then frameErr n s
    else if f.ty = 0 then (if crcOk f.bytes then s else clErr n 1 1 s)
    else if !crcOk f.bytes then sendNack n (clErr n 1 1 s)
    else
      let s := ackLink n (beAt f.bytes 2 2) s
      let x := link s n
      if beAt f.bytes 0 2 ≠ x.rx then sendNack n s
      else
        let r := sub f.bytes 4 56
        let v := u8 r 0 / 16 % 4
        if v < 3 && !isMarker x r && x.grant.getD v 0 = 0 then retrainLink n (frameErr n s)
        else
          let s := setLink n { x with rx := (x.rx + 1) % 65536, nacked := false } s
          if v = 3 then frameErr n s else acceptFlit n f.bytes s

/-! ### Control flits (R399) -/

/-- A control flit of code `b` byte 0 and its fields leaves link `n`. -/
def sendCtl (n : Nat) (b : Bytes) (s : State) : State :=
  let b := padTo 60 b
  emit (.flit n (b ++ be 4 (crc32c b))) s
/-- A control flit of code `code` arrived on link `n`: it acts where its CRC is right. -/
def rxCtl (code n : Nat) (flit : Bytes) (f : State → State) (s : State) : State :=
  if 8 ≤ n || (link s n).st = 0 || (link s n).st = 7 || 2 ≤ s.sys.level || flit.length ≠ 64 then s
  else if !crcOk flit then clErr n 1 1 s
  else if u8 flit 0 ≠ code then s
  else f s

/-- Replays of link `n` in the last second (R509). -/
def replaysLast (s : State) (n : Nat) : Nat :=
  ((mgetD s.flt.hist (histKey 1 n 0) []).filter fun t => now s ≤ t + 1000000000).length

/-- The flits from SEQ `q` on are sent again (R409), counted towards the link's retirement (R512) and towards a retraining. -/
def replayFrom (n q : Nat) (s : State) : State :=
  let s := ackLink n q s
  let x := link s n
  let d := (q + 65536 - x.una) % 65536
  if x.replay.isEmpty || d ≠ 0 then s
  else
    let s := clErr n 2 1 (setLink n { x with rows := x.rows + 1, ackT := now s } s)
    let s := (x.replay.zipIdx).foldl (fun s e =>
      let s := perf (clLink n + 0x20) 1 (emit (.dataFlit n e.1.1 ((q + e.2) % 65536) (flitBytes ((q + e.2) % 65536) x.rx e.1.2)) s)
      if u8 e.1.2 0 / 64 % 3 = 0 then linkMark n 0 2 (now256 s) (tagOf (wireTag (x.ver == 1) (e.1.2.drop 2))) s else s) s
    let s := raise1s { linkFault 0x0205 0 1 n (min 255 (replaysLast s n + 1)) with version := newestNum s } s
    let (ret, s) := channelEvent 1 n 0 s
    if ret then retireLink n s else if 8 ≤ (link s n).rows then retrainLink n s else s

/-- NACK. -/
def execNack (n : Nat) (flit : Bytes) (s : State) : Host.Outcome State Fault Refusal :=
  .next (rxCtl 3 n flit (fun s => if flitsRun s n then replayFrom n (beAt flit 1 2) s else s) s)
/-- CREDIT: credits come back, and ACK advances. -/
def execCredit (n : Nat) (flit : Bytes) (s : State) : Host.Outcome State Fault Refusal :=
  .next (rxCtl 2 n flit (fun s =>
    if !flitsRun s n then s
    else
      let s := ackLink n (beAt flit 1 2) s
      let x := link s n
      pumpLink n (setLink n { x with cred := (List.range 3).map fun v => x.cred.getD v 0 + beAt flit (4 + 2 * v) 2 } s)) s)
/-- CL_CREDIT_SEND: what has left the buffers is granted again. -/
def execClCreditSend (n : Nat) (s : State) : Host.Outcome State Fault Refusal :=
  .next <|
    if !flitsRun s n then s
    else
      let x := link s n
      let c := fun v => min (x.back.getD v 0) 65535
      sendCtl n ([0x02] ++ be 2 x.rx ++ [0] ++ be 2 (c 0) ++ be 2 (c 1) ++ be 2 (c 2)) (setLink n { x with
        back := (List.range 3).map fun v => x.back.getD v 0 - c v,
        grant := (List.range 3).map fun v => x.grant.getD v 0 + c v } s)
/-- CL_REPLAY_TIMEOUT: ACK has not advanced for max(4 × RTT, 10 µs). -/
def execClReplayTimeout (n : Nat) (s : State) : Host.Outcome State Fault Refusal :=
  .next <|
    let x := link s n
    if flitsRun s n && !x.replay.isEmpty && x.ackT + max (4 * x.rtt) 10000 ≤ now s then replayFrom n x.una s else s

/-- DOWN: the partner is quiescing the link, so it goes down here and waits for the partner to train again. -/
def execDown (n : Nat) (flit : Bytes) (s : State) : Host.Outcome State Fault Refusal :=
  .next (rxCtl 8 n flit (fun s => if flitsRun s n then retrainLink n s else s) s)

/-- CL_LOCK_LOSS: codeword lock lost for more than 1 µs (R407). -/
def execClLockLoss (x : LinkLoss) (s : State) : Host.Outcome State Fault Refusal :=
  .next (if flitsRun s x.link then retrainLink x.link (if x.reset then treeLinkLost x.link s else s) else s)

/-! ### Training (R405, R406) -/

/-- A lane of link `n` is retired (R411, R412, R512): listed, reported, and the link runs on without it. -/
def retireLane (n lane : Nat) (s : State) : State :=
  let x := link s n
  let s := { s with nv := { s.nv with laneRetired := mset s.nv.laneRetired n (setBit (mgetD s.nv.laneRetired n 0) lane) } }
  let on := x.st == 5 || x.st == 6
  let m := if on then clrBit x.active lane else usableLanes s n
  let s := raiseF { linkFault 0x0308 2 0 (8 * n + lane) m with version := newestNum s } s
  if m = 0 then retireLink n s
  else if on && bit x.active lane then
    let (k, s) := draw s
    let e := (x.epoch + 1) % 256
    sendCtl n ([0x04] ++ le 1 m ++ le 1 e ++ [0] ++ be 2 (Config.switchWord k).toNat)
      (setLink n { x with epoch := e, laneReq := some (m, now s) } s)
  else s

/-- TRAIN leaves link `n` (R399): an offer or an acceptance of `ver`. -/
def sendTrainFlit (n step ver : Nat) (s : State) : State :=
  sendCtl n ([0x01] ++ le 1 step ++ le 1 ver ++ le 1 (usableLanes s n) ++ be 2 (chipId s) ++ le 1 (n + 8 * b2n s.chip.isSome) ++ [0] ++
    be 2 1024 ++ be 2 12800 ++ be 2 12800) s

/-- CL_LANE_LOCK: the lanes lock, at 106.25 GBd where `fast`, and then their codewords; `bad` names lanes that did not lock by the
step's limit, which fails the attempt. A lane that fails beside lanes that lock is retired the third time in a row (R512); where no
lane locks the partner is off or in reset, which is no fault (R405). -/
def execClLaneLock (n : Nat) (fast codeword : Bool) (bad : Nat) (s : State) : Host.Outcome State Fault Refusal :=
  .next <|
    let x := link s n
    let low := (List.range 8).filter fun i => bit bad i && bit (usableLanes s n) i
    if 8 ≤ n || x.retryAt.isSome || !fwUp s then s
    else if x.st = 1 && !codeword then
      if low.isEmpty then setLink n { x with st := 2, fast := fast && x.maxVer == 2, since := now s, lockFail := [] } s
      else if low.length = popcount (usableLanes s n) 8 then failLink n s
      else
        let fails := low.map fun i => (i, mgetD x.lockFail i 0 + 1)
        let s := failLink n (setLink n { x with lockFail := fails } s)
        (fails.filter fun e => 3 ≤ e.2).foldl (fun s e => retireLane n e.1 s) s
    else if x.st = 2 && codeword then sendTrainFlit n 1 x.maxVer (setLink n { x with st := 3, since := now s } s)
    else s

/-- The version two offers give: Weltix v1 at 53.125 GBd. -/
def linkVer (x : Lnk) (offered : Nat) : Nat := if x.fast then min x.maxVer offered else min 1 (min x.maxVer offered)

/-- The link is up: it takes the partner's credits, and carries no frames where the partner is not the expected one (R406). -/
def linkComesUp (n : Nat) (o : ClOffer) (s : State) : State :=
  let x := link s n
  let wrong := x.expectEn && o.valid && s.chip.isSome && (o.chip != x.expChip || o.link != x.expLink)
  let s := setLink n { x with
    st := 5, ver := linkVer x o.ver, active := usableLanes s n &&& o.mask, miswired := wrong, partner := some (o.chip, o.link, o.valid),
    cred := o.cred, grant := [1024, 12800, 12800], back := [0, 0, 0], since := now s, ackT := now s, sentT := now s, offer := none,
    exch := 0 } s
  if wrong then
    raiseF { code := 0x0603, unit := 0xFE, index := n, version := newestNum s, detail := o.chip + 65536 * o.link } s
  else s

/-- CL_TRAIN: the partner's offer or acceptance. -/
def execClTrain (n : Nat) (flit : Bytes) (s : State) : Host.Outcome State Fault Refusal :=
  .next (rxCtl 1 n flit (fun s =>
    let x := link s n
    if x.retryAt.isSome then s
    else if x.st = 3 && u8 flit 1 = 1 then
      let o : ClOffer := {
        ver := u8 flit 2, mask := u8 flit 3, chip := beAt flit 4 2, link := u8 flit 6 % 8, valid := bit (u8 flit 6) 3,
        cred := [beAt flit 8 2, beAt flit 10 2, beAt flit 12 2] }
      if usableLanes s n &&& o.mask = 0 then retireLink n s
      else if linkVer x o.ver = 0 then failLink n s
      else sendTrainFlit n 2 (linkVer x o.ver) (setLink n { x with st := 4, offer := some o, since := now s } s)
    else if x.st = 4 && u8 flit 1 = 2 then
      match x.offer with
      | some o => if u8 flit 2 = linkVer x o.ver then linkComesUp n o s else failLink n s
      | none => s
    else s) s)

/-- CL_TRAIN_RETRY: an attempt fails when its step has passed its limit (R67), and is repeated 100 ms after it failed. -/
def execClTrainRetry (n : Nat) (s : State) : Host.Outcome State Fault Refusal :=
  .next <|
    let x := link s n
    match x.retryAt with
    | some t => if t ≤ now s then startLink n s else s
    | none => if 1 ≤ x.st && x.st ≤ 4 && x.since + stepLimit x.st < now s then failLink n s else s

/-! ### Lanes (R411) -/

/-- Link `n` runs on mask `m`: lanes of this end that it drops are retired with it. -/
def adoptMask (n m e : Nat) (s : State) : State :=
  let x := link s n
  let gone := (List.range 8).filter fun i => bit x.active i && !bit m i
  let s := setLink n { x with active := m, epoch := e, laneReq := none } s
  gone.foldl (fun s i =>
    let old := mgetD s.nv.laneRetired n 0
    if bit old i then s
    else raiseF { linkFault 0x0308 2 0 (8 * n + i) m with version := newestNum s }
      { s with nv := { s.nv with laneRetired := mset s.nv.laneRetired n (setBit old i) } }) s

/-- LANE_REQ: its mask is taken, both ends' masks and the higher epoch where both asked, and answered. -/
def execLaneReq (n : Nat) (flit : Bytes) (s : State) : Host.Outcome State Fault Refusal :=
  .next (rxCtl 4 n flit (fun s =>
    if !flitsRun s n then s
    else
      let x := link s n
      let m := u8 flit 1 &&& (match x.laneReq with | some (a, _) => a | none => x.active)
      let e := match x.laneReq with | some _ => max x.epoch (u8 flit 2) | none => u8 flit 2
      if m = 0 then retireLink n s
      else
        let (k, s) := draw (adoptMask n m e s)
        sendCtl n ([0x05] ++ le 1 m ++ le 1 e ++ [0] ++ be 2 (Config.switchWord k).toNat) s) s)
/-- LANE_ACK of the mask and epoch that were asked for. -/
def execLaneAck (n : Nat) (flit : Bytes) (s : State) : Host.Outcome State Fault Refusal :=
  .next (rxCtl 5 n flit (fun s =>
    let x := link s n
    match x.laneReq with
    | some (m, _) => if flitsRun s n && u8 flit 1 = m && u8 flit 2 = x.epoch then adoptMask n m x.epoch s else s
    | none => s) s)
/-- LANE_ACK_TIMEOUT: none within 1 ms, so the link retrains without the lane. -/
def execLaneAckTimeout (n : Nat) (s : State) : Host.Outcome State Fault Refusal :=
  .next <| match (link s n).laneReq with
    | some (_, t) => if t + 1000000 ≤ now s then retrainLink n s else s
    | none => s

/-- Codewords run on lane `lane` of link `n`. -/
def laneRuns (s : State) (n lane : Nat) : Bool :=
  n < 8 && lane < 8 && decide (s.sys.level < 2) && s.ch.pwr != 2 &&
    (if (link s n).st == 5 || (link s n).st == 6 then bit (link s n).active lane
     else ((link s n).st == 3 || (link s n).st == 4) && bit (usableLanes s n) lane)
/-- UNCORRECTABLE_CODEWORD: a codeword with symbols in error on slice port `i`, or on a lane of chain link `i` (R51, R68,
R395, R512). Up to 15 are corrected and the codeword counted as corrected; more make it uncorrectable. -/
def execUncorrectableCodeword (chain : Bool) (i : Nat) (c : Codeword) (s : State) : Host.Outcome State Fault Refusal :=
  .next <|
    if c.errs = 0 then s
    else if !chain then
      if 64 ≤ i || (port s i).st < 3 || down s then s
      else if c.errs ≤ 15 then spPerf i 0x28 1 s
      else
        let s := spErr i 0 1 s
        if trained (port s i) then loseFraming i s else s
    else if !laneRuns s i c.lane then s
    else if c.errs ≤ 15 then perf (clLink i + 0x30) 1 s
    else
      let (ret, s) := channelEvent 0 (8 * i + c.lane) 0 (clErr i 0 1 s)
      if ret then retireLane i c.lane s else s

/-! ### Time transfer (R422) -/

/-- TIME_REQ is answered with its arrival, this flit's departure and the echo. -/
def execTimeReq (n : Nat) (flit : Bytes) (s : State) : Host.Outcome State Fault Refusal :=
  .next (rxCtl 6 n flit (fun s =>
    if !flitsRun s n then s
    else
      let t := be 8 (now s) ++ be 1 (now256 s % 256)
      sendCtl n ([0x07] ++ zeros 7 ++ t ++ zeros 7 ++ t ++ zeros 7 ++ sub flit 8 8) s) s)
/-- Stamp of 9 bytes at `o`, in 1/256 ns. -/
def stampAt (b : Bytes) (o : Nat) : Nat := 256 * beAt b o 8 + u8 b (o + 8)
/-- TIME_RESP to the request that is out yields a comparison. -/
def execTimeResp (n : Nat) (flit : Bytes) (s : State) : Host.Outcome State Fault Refusal :=
  .next (rxCtl 7 n flit (fun s =>
    let x := link s n
    match x.timeReq with
    | none => s
    | some t1 =>
      if !flitsRun s n || beAt flit 40 8 ≠ t1 / 256 || s.ch.source ≠ 3 || s.ch.link ≠ n then s
      else
        let off : Int := (((stampAt flit 8 : Int) - t1) - ((now256 s : Int) - stampAt flit 24)) / 2
        refCompare off (setLink n { x with timeReq := none } s)) s)
/-- TIME_REQ_SEND: one in each period of 2^20 ns on the chronometer's source link. -/
def execTimeReqSend (s : State) : Host.Outcome State Fault Refusal :=
  .next <|
    let n := s.ch.link
    let x := link s n
    let k := now s / 2 ^ 20 + 1
    if s.ch.source ≠ 3 || !flitsRun s n || k ≤ x.timeSent then s
    else sendCtl n ([0x06] ++ zeros 7 ++ be 8 (now s) ++ be 1 (now256 s % 256))
      (setLink n { x with timeSent := k, timeReq := some (now256 s) } s)

end Sys2Proof.Machine
end

