-- ==== Sys2Proof/Machine/CompassEval.lean ====
section
/-! DEFINITION. Tree ensembles (chapter 06): feature codes, the evaluation of a block, sums and link functions. -/

namespace Sys2Proof.Machine

open Sys2Proof

/-! ### Feature codes (R160 to R166) -/

/-- The code of an FP16 bit pattern (R161). -/
def fp16Code (h : Nat) : Nat :=
  if (h &&& 0x7C00) = 0x7C00 ∧ (h &&& 0x3FF) ≠ 0 then 0x8000
  else if h < 0x8000 then h else (0x10000 - h % 0x8000) % 0x10000

/-- An unsigned number as FP16, rounded toward zero, at most 65,504 (R164). -/
def uintFp16 (v : Nat) : Nat :=
  let v := min v 65504
  if v = 0 then 0
  else
    let e := log2 v
    (e + 14) * 1024 + (if 10 ≤ e then v / 2 ^ (e - 10) else v * 2 ^ (10 - e))

/-- CONV of a value `v` from a source of `width` bytes (R164). -/
def convert (conv width v : Nat) : Nat :=
  match conv with
  | 0 => v % 65536
  | 1 => min v 32767
  | 2 => ofSigned 16 (clampI (-32767) 32767 (toSigned (8 * width) v))
  | _ => fp16Code (uintFp16 v)

/-- Feature-map entry `e` of an ensemble for a slice (R162, R166). -/
def featureCode (g : Mem) (x : Slice) (e : Nat) : Nat :=
  let conv := bits e 7 4
  let src : Option (Nat × Nat) := match e % 16 with
    | 1 => if bit x.present (bits e 13 8) then some (readV g x.kv (bits e 13 8) (bits e 17 14) (bits e 20 18), bits e 20 18) else none
    | 2 => (mget x.lk.exact (bits e 10 8)).map fun d => (leAt d (8 + 2 * bits e 14 11) 2, 4)
    | 3 => if bits e 12 8 = 14 then x.lk.age.map fun a => (a, 4) else x.lk.flow.map fun f => (f.getD (bits e 12 8) 0, 4)
    | 4 => some (([x.frameLen, x.q, x.dl, x.level, x.insts].getD (bits e 12 8) 0), 4)
    | _ => none
  match src with
  | none => 0x8000
  | some (v, w) => convert conv w v

/-- FEATURES, K, LINK and BLOCKS of an ensemble image (R165). -/
def ensFeatures (m : Mem) : Nat := Mem.leAt m 6 2
def ensK (m : Mem) : Nat := Mem.leAt m 3 1
def ensLink (m : Mem) : Nat := Mem.leAt m 4 1
def ensBlocks (m : Mem) : Nat := Mem.leAt m 5 1
/-- The codes of a slice's features (R162). -/
def sliceCodes (g m : Mem) (x : Slice) : List Nat :=
  (List.range (ensFeatures m)).map fun f => featureCode g x (Mem.leAt m (64 + 4 * f) 4)
/-- The initial sums (R165, R171). -/
def initSums (m : Mem) : List Int := (List.range (ensK m)).map fun k => toSigned 16 (Mem.leAt m (8 + 2 * k) 2)

/-! ### Block images (R167 to R170) -/

def blkTrees (m : Mem) (b : Nat) : Nat := Mem.leAt m b 1
def blkSets (m : Mem) (b : Nat) : Nat := Mem.leAt m (b + 2) 2
/-- Byte `o` of the directory entry of tree `t`: 0 NODES, 1 ENTRIES, 2 LEAVES. -/
def dirF (m : Mem) (b t o : Nat) : Nat := Mem.leAt m (b + 32 + 8 * t + o) 1
/-- Sum of a directory byte over the first `t` trees. -/
def dirSum (m : Mem) (b o t : Nat) : Nat := ((List.range t).map fun i => dirF m b i o).sum
def blkNodesAt (m : Mem) (b : Nat) : Nat := b + 32 + 8 * blkTrees m b
def blkSetsAt (m : Mem) (b : Nat) : Nat := blkNodesAt m b + 4 * dirSum m b 0 (blkTrees m b)
def blkEntriesAt (m : Mem) (b : Nat) : Nat := blkSetsAt m b + 8 * blkSets m b
def blkValuesAt (m : Mem) (b : Nat) : Nat := blkEntriesAt m b + 40 * dirSum m b 1 (blkTrees m b)
/-- First byte after a block image, with its padding. -/
def blkEnd (m : Mem) (b : Nat) : Nat := (blkValuesAt m b + 16 * dirSum m b 2 (blkTrees m b) + 31) / 32 * 32
/-- Offset of block `k`. -/
def blkAt (m : Mem) : Nat → Nat
  | 0 => 1088
  | k + 1 => blkEnd m (blkAt m k)
/-- Length of an ensemble image (R165). -/
def ensLen (m : Mem) : Nat := blkAt m (ensBlocks m)

/-- The decision of a node entry (R158, R168), with the set it reads. -/
def nodeBit (m : Mem) (setsAt n : Nat) (codes : List Nat) : Bool :=
  let x := codes.getD (bits n 23 16) 0x8000
  let sx := toSigned 16 x
  if bit n 24 then
    if x = 0x8000 ∨ sx < 0 ∨ 64 ≤ sx then bit n 25 else bit (Mem.leAt m (setsAt + 8 * (n % 256)) 8) x
  else if x = 0x8000 then bit n 25 else decide (toSigned 16 n ≤ sx)

/-- What a tree gives: leaf `j`, nothing because an entry read bad, or nothing because its leaves disagree (R159, R174). -/
inductive TreeOut where
  | leaf (j : Nat)
  | parity (l : List PRef)
  | malformed
deriving DecidableEq, Repr

/-- Byte offset of the first leaf entry of tree `t` of the block at `b`. -/
def treeEntriesAt (m : Mem) (b t : Nat) : Nat := blkEntriesAt m b + 40 * dirSum m b 1 t

/-- Tree `t` of the block at `b` (R157 to R159); every entry read that fails parity is named (R174). -/
def evalTree (m : Mem) (ens b t : Nat) (codes : List Nat) (bad : PRef → Bool) (corrupt : Bool) : TreeOut :=
  let nAt := blkNodesAt m b + 4 * dirSum m b 0 t
  let eAt := treeEntriesAt m b t
  let vAt := blkValuesAt m b + 16 * dirSum m b 2 t
  let sAt := blkSetsAt m b
  let nodes := List.range (dirF m b t 0)
  let ents := List.range (dirF m b t 1)
  let setRefs := nodes.filterMap fun i =>
    let n := Mem.leAt m (nAt + 4 * i) 4
    if bit n 24 then some (PRef.comp ens (sAt + 8 * (n % 256))) else none
  let refs := (nodes.map fun i => PRef.comp ens (nAt + 4 * i)) ++ setRefs ++ (ents.map fun i => PRef.comp ens (eAt + 40 * i))
  match refs.filter bad with
  | r :: l => .parity (r :: l).eraseDups
  | [] =>
    let v := nodes.foldl (fun a i => a + (if nodeBit m sAt (Mem.leAt m (nAt + 4 * i) 4) codes then 2 ^ i else 0)) 0
    let hit := ents.filter fun i =>
      let mask := Mem.leAt m (eAt + 40 * i + 16) 16
      (v &&& mask) == (Mem.leAt m (eAt + 40 * i) 16 &&& mask)
    let leaves := hit.map fun i => Mem.leAt m (eAt + 40 * i + 32) 1
    match leaves with
    | [] => .malformed
    | j :: r =>
      if corrupt || r.any (· != j) then .malformed
      else if bad (.comp ens (vAt + 16 * j)) then .parity [.comp ens (vAt + 16 * j)] else .leaf j

/-- sat24 of R171. -/
def sat24 (x : Int) : Int := clampI (-8388608) 8388607 x

/-- What one block adds: the sums, whether a clamp acted, the trees malformed and the entries that read bad (R171). -/
structure BlockOut where
  sums : List Int
  sat : Bool
  malformed : List Nat
  parity : List PRef
deriving DecidableEq, Repr

/-- Block `k` of ensemble `ens` for a sample (R157, R171); `corrupt` are the trees whose leaf entries a corruption that
parity did not detect has broken (R159, R175). -/
def evalBlock (m : Mem) (ens k : Nat) (codes : List Nat) (sums : List Int) (bad : PRef → Bool) (corrupt : List Nat) : BlockOut :=
  let b := blkAt m k
  let outs := (List.range (blkTrees m b)).map fun t => (t, evalTree m ens b t codes bad (corrupt.contains t))
  let add (c : Nat) : Int := (outs.map fun o => match o.2 with
    | .leaf j => toSigned 16 (Mem.leAt m (blkValuesAt m b + 16 * (dirSum m b 2 o.1 + j) + 2 * c) 2)
    | _ => 0).sum
  let raw := sums.mapIdx fun c a => a + add c
  { sums := raw.map sat24, sat := raw.any fun a => sat24 a != a,
    malformed := outs.filterMap fun o => if o.2 == .malformed then some o.1 else none,
    parity := (outs.flatMap fun o => match o.2 with | .parity l => l | _ => []).eraseDups }

/-! ### Link functions (R172, R173) -/

/-- Fractional bits of the exponential. -/
def fxBits : Nat := 400
/-- e^(1/256) in `fxBits` fractional bits: the sum of 1 / (256^i i!). -/
def fxBase : Nat :=
  ((List.range 60).foldl (fun (t : Nat × Nat) i => (t.1 + t.2, t.2 / (256 * (i + 1)))) (0, 2 ^ fxBits)).1
/-- `x` to the power `n` in fixed point, by the binary digits of `n` below `2^k`. -/
def fxPow (x n : Nat) : Nat → Nat
  | 0 => 2 ^ fxBits
  | k + 1 =>
    let h := fxPow x (n / 2) k
    let sq := h * h / 2 ^ fxBits
    if n % 2 = 1 then sq * x / 2 ^ fxBits else sq
/-- e^(n / 256) in `fxBits` fractional bits, for |n| below 2^14. -/
def fxExp (n : Int) : Nat :=
  let p := fxPow fxBase n.natAbs 15
  if 0 ≤ n then p else 2 ^ (2 * fxBits) / p

/-- v / 2^p rounded to the nearest FP16 bit pattern, ties to even, at most 0x7BFF. -/
def fxFp16 (v p : Nat) : Nat :=
  if v = 0 then 0
  else
    let l := log2 v
    -- exponent of the unit in the last place above 2^-24: 0 for subnormal results
    let u := if p ≤ l + 14 then l + 14 - p else 0
    let den := 2 ^ p
    let num := v * 2 ^ 24
    let unit := den * 2 ^ u
    let q := num / unit
    let r := num % unit
    let q := if unit < 2 * r ∨ (2 * r = unit ∧ q % 2 = 1) then q + 1 else q
    min (u * 1024 + q) 0x7BFF

/-- The softmax score (R173). -/
def softmaxScore (a : List Int) : Nat :=
  let top := a.foldl max (a.headD 0)
  let m := (a.findIdx? (· == top)).getD 0
  let total := (a.map fun x => if x - top < -16000 then 0 else (65536 * fxExp (x - top) + 2 ^ (fxBits - 1)) / 2 ^ fxBits).sum
  let p := min 8191 ((2 * 2 ^ 29 + total) / (2 * total))
  m * 8192 + p

/-- SCORE of the sums under LINK (R172). -/
def linkScore (link : Nat) (a : List Int) : Nat :=
  let x := a.headD 0
  match link with
  | 0 => ofSigned 16 (clampI (-32768) 32767 x)
  | 1 =>
    if 4096 ≤ x then 65535 else if x ≤ -4096 then 0
    else
      let e := fxExp x
      -- 65,536 e / (1 + e) + 1/2, rounded down
      min 65535 ((2 * 65536 * e + (2 ^ fxBits + e)) / (2 * (2 ^ fxBits + e)))
  | 2 => softmaxScore a
  | _ => if 4096 ≤ x then 0x7BFF else if x ≤ -8192 then 0 else fxFp16 (fxExp x) fxBits

end Sys2Proof.Machine
end

