-- ==== Sys2Proof/Machine/Staging.lean ====
section
/-! DEFINITION. Staging rounds (chapter 15): objects and their canonical bytes, the bearing, seals, in-flight counts, and the
commands that open, arm and report a round. -/

namespace Sys2Proof.Machine

open Sys2Proof

/-! ### Objects of a version (R433, R434, R444) -/

/-- The image object `id`, padded to `n` bytes. -/
def imgBytes (o : Objs) (id n : Nat) : Bytes := Mem.bytes (imgMem o id) 0 n
/-- Ids of the image objects of a type that the version holds, rising. -/
def idsOf (o : Objs) (type : Nat) : List Nat := (o.img.filter fun e => e.1 / 2 ^ 24 == type).map (·.1)
/-- Stream contexts whose template is VALID, rising. -/
def scIds (o : Objs) : List Nat := (o.sc.filter fun c => c.1 % 64 == 0 && bit c.2.toNat 0).map (·.1 / 64)
/-- Exact tables that hold a VALID entry. -/
def exIds (o : Objs) : List Nat := (List.range 8).filter fun t => o.exact.any fun e => e.1 / 65536 == t
/-- Every object present in a version other than 0x0000, in ascending object id (R433). -/
def objIds (o : Objs) : List Nat :=
  [oidPg, oidSel] ++ idsOf o 3 ++ idsOf o 4 ++ [oidPlan] ++ (if o.pfx4.isEmpty then [] else [0x06000000]) ++
  (if o.pfx6.isEmpty then [] else [0x07000000]) ++ (exIds o).map (0x08000000 + ·) ++ idsOf o 9 ++ (List.range 8).map oidDlc ++
  o.models.map (fun m => oidModel m.1) ++ (scIds o).map oidSc ++ [oidKeyMap, oidThresh]

/-- The canonical bytes of a prefix table (R433). -/
def pfxCanon (w : Nat) (l : List Pfx) : Bytes := l.flatMap fun p => be (w / 8) p.addr ++ le 1 p.len ++ le 3 p.res
/-- The canonical bytes of a model (R434). -/
def modelCanon (n : Nat) (m : Model) : Bytes :=
  le 1 n ++ le 1 m.place ++ le 1 m.instances ++ le 1 m.firstCore ++ zeros 4 ++ le 8 m.length ++ padTo 32 m.digest ++ zeros 16
/-- The bytes of the retirement thresholds (R513, R514). -/
def threshCanon (o : Objs) : Bytes :=
  match mget o.img oidThresh with
  | some i => Mem.bytes i.data 0 80
  | none => threshDefault.flatMap fun t => le 1 t.1 ++ zeros 3 ++ le 4 t.2

/-- The canonical bytes of an object (R433). -/
def canon (o : Objs) (id : Nat) : Bytes :=
  let n := id % 2 ^ 24
  match id / 2 ^ 24 with
  | 0x01 => imgBytes o id 37632
  | 0x02 => imgBytes o id 4352
  | 0x03 => imgBytes o id (ruleLen (imgMem o id))
  | 0x04 => imgBytes o id 160
  | 0x05 => imgBytes o id 2112
  | 0x06 => pfxCanon 32 o.pfx4
  | 0x07 => pfxCanon 128 o.pfx6
  | 0x08 => (o.exact.filter fun e => e.1 / 65536 == n).flatMap fun e => le 2 (e.1 % 65536) ++ padTo 32 e.2
  | 0x09 => imgBytes o id (ensLen (imgMem o id))
  | 0x0A => imgBytes o id 16
  | 0x0B => match mget o.models n with | some m => modelCanon n m | none => []
  | 0x0C => scTpl o n
  | 0x0D => imgBytes o id 512
  | 0x0E => threshCanon o
  | _ => []

/-- The 44-byte record of an object (R444). -/
def objRecord (o : Objs) (id : Nat) : Bytes :=
  let c := canon o id
  le 4 id ++ le 8 c.length ++ sha256 c
/-- The bearing of a version's objects (R444). -/
def bearingOf (o : Objs) : Bytes :=
  let ids := objIds o
  sha256 (le 2 1 ++ zeros 2 ++ le 4 ids.length ++ zeros 8 ++ ids.flatMap (objRecord o))
/-- The bearing of version 0x0000: no objects. -/
def bearing0 : Bytes := sha256 (le 2 1 ++ zeros 14)
/-- The bearing of the newest version. -/
def newestBearing (s : State) : Bytes := if s.ver.newest.num = 0 then bearing0 else s.ver.newest.bearing

/-! ### Changes and seals (R437, R438, R562) -/

/-- The groups whose seals a change clears: 0 the parse graph, 1 a rule-classifier object, 2 the plan, prefixes or exact
tables, 3 an ensemble, 4 a template or the key map, 5 a model, 6 a deadline class or the thresholds. -/
def clears (what : Nat) : Nat := [0b1111, 0b10, 0b11100, 0b1000, 0b10000, 0b10000, 0].getD what 0
/-- Objects `o` result from a change of kind `what` in round `r`. -/
def Round.change (r : Round) (what : Nat) (o : Objs) : Round :=
  let own := if what < 5 then 2 ^ what else 0
  { r with
    objs := o, pending := r.pending ||| own ||| (r.sealed &&& clears what), sealed := clrMask r.sealed (clears what),
    dirty := r.dirty ||| own, bearingReady := false }
/-- Group `g` is sealed. -/
def Round.seal (r : Round) (g : Nat) : Round :=
  { r with pending := clrBit r.pending g, sealed := setBit r.sealed g, dirty := clrBit r.dirty g, bearingReady := false }
/-- A group of the mask `m` holds a change that has not been sealed since (R562). -/
def Round.unsealed (r : Round) (m : Nat) : Bool := r.dirty &&& m != 0
def setRound (r : Round) (s : State) : State := { s with ver := { s.ver with round := some r } }
/-- No staging round is open. -/
def noRound (s : State) : Bool := s.ver.round.isNone
/-- The open round is replaced by `f` of it. -/
def onRound (f : Round → Round) (s : State) : State :=
  match s.ver.round with
  | some r => setRound (f r) s
  | none => s

/-- R435 is met. -/
def r435 (s : State) (r : Round) : Bool :=
  s.ver.newest.num != 0 || ([oidPg, oidSel, oidPlan] ++ (List.range 8).map oidDlc).all fun i => (mget r.written i).isSome
/-- VER_STATUS byte 5. -/
def pendingByte (s : State) (r : Round) : Nat := r.pending % 32 + 32 * b2n (!r.bearingReady) + 64 * b2n (!r435 s r)
/-- The round is complete (R438). -/
def Round.complete (s : State) (r : Round) : Bool := pendingByte s r == 0

/-! ### Writing staged images (R105) -/

/-- A part of a staged image: `limit` is its largest size and `what` its kind of change. The first part in a round makes
every byte unwritten. -/
def stagePart (id limit what off : Nat) (b : Bytes) (r : Round) : Round :=
  let img : Img := if (mget r.written id).isSome then (mget r.objs.img id).getD { len := limit } else { len := limit }
  let blocks := (List.range (b.length / 32)).foldl (fun m k => setBit m (off / 32 + k)) (mgetD r.written id 0)
  ({ r with written := mset r.written id blocks } : Round).change what
    { r.objs with img := mset r.objs.img id { img with data := Mem.store img.data off b } }
/-- Every byte of the first `n` of image `id` has been written, where the round stages it. -/
def allWritten (r : Round) (id n : Nat) : Bool :=
  match mget r.written id with
  | none => true
  | some m => let k := (n + 31) / 32; decide (k ≤ log2 (m + 1)) && (m + 1) % 2 ^ k == 0
/-- The rows that PG_STAGE and its like share (R105), with OFFSET at `o`: `more` adds to BAD_FIELD. -/
def stageRows (c : Call) (o limit : Nat) (more : Bool) : List (Nat × Bool) :=
  let off := leAt c.p o 4
  let len := leAt c.p (o + 4) 4
  [(2, c.p.length != len + 16), (3, more || off % 32 != 0 || len % 32 != 0),
   (4, len == 0 || 4064 < len || limit < off + len)]

/-! ### Finding the first failing field -/

/-- The offset `o` fails where `c` holds. -/
def chk (c : Bool) (o : Nat) : List Nat := if c then [o] else []
/-- The first byte from `lo` up to `hi` that is not zero fails. -/
def nz (m : Mem) (lo hi : Nat) : List Nat := ((m.find? fun c => lo ≤ c.1 && c.1 < hi).map (·.1)).toList
/-- The lowest failing offset. -/
def firstFail (l : List Nat) : Option Nat :=
  l.foldl (fun a x => match a with | none => some x | some y => some (min x y)) none

/-! ### Work in flight (R442) -/

/-- Slices of version `v` whose verdict has not left or whose flow update is not made. -/
def slicesInFlight (s : State) (v : Nat) : Nat :=
  let a := (s.slices.filter fun e => e.2.version == v).map (·.1)
  let b := s.ports.flatMap fun p => (p.2.pend.filter fun e => e.version == v).map fun e => sliceKey p.1 e.seq
  let c := s.dies.flatMap fun d => d.2.misses.flatMap fun m => (m.upd.filter fun u => u.version == v).map fun u => sliceKey u.q u.seq
  ((a ++ b ++ c).foldl sadd []).length
/-- The frame bears work of version `v` (kinds 1 to 4). -/
def frameOf (v : Nat) (f : Bytes) : Bool := decide (22 ≤ f.length) && decide (frameKind f ≤ 4) && leAt f 20 2 == v
/-- Frames of version `v` in a link's buffers. -/
def linkInFlight (v : Nat) (x : Lnk) : Nat :=
  (x.queue.flatMap fun q => q.2.filter (frameOf v)).length +
  (x.replay.filter fun e => (u8 e.2 0 / 64 == 0 || u8 e.2 0 / 64 == 3) && frameOf v (e.2.drop 2)).length +
  (x.asm.filter fun a => frameOf v a.2.2).length
/-- Remote copies of version `v` that wait for their confirmation, and jobs to other chips that wait for their acceptance and return nothing. -/
def copiesInFlight (s : State) (v : Nat) : Nat :=
  (s.cores.flatMap fun c => (mgetD c.2.run 12 []).filter fun e =>
    e.ph == 2 && bits e.w 127 124 == 4 && e.ver == v && e.chip != chipId s && !(bits e.w 123 116 == 2 && s.away.any fun a => a.1 == e.wid && a.2.1 == e.chip)).length
/-- The in-flight count of version `v` on this chip. -/
def inFlight (s : State) (v : Nat) : Nat :=
  slicesInFlight s v + (s.records.flatMap fun d => d.2.filter fun r => leAt r.2 18 2 == v).length +
  (s.insts.flatMap fun i => (i.2.queue ++ i.2.running.toList).filter fun j => j.version == v).length +
  (s.results.filter fun r => r.job.version == v).length + (s.away.filter fun a => a.2.2 == v).length +
  (s.cjobs.flatMap fun d => d.2.filter fun j => j.version == v).length + copiesInFlight s v +
  (s.inbox.filter fun t => let g := tagOf t.tag; decide (g.kind ≤ 4) && g.version == v).length +
  (s.cl.links.map fun l => linkInFlight v l.2).foldl (· + ·) 0

/-! ### VER_OPEN, VER_ABORT, COMMIT_AT, VER_STATUS, VER_CTL -/

/-- The number after `v`. -/
def nextVersion (v : Nat) : Nat := if v = 0xFFFF then 1 else v + 1

/-- VER_OPEN (0x0C01); refused before HBM is initialised (R493). -/
def verOpen (c : Call) (s : State) : CmdRes :=
  let n := leAt c.p 0 2
  rows [(2, c.p.length != 4), (3, leAt c.p 2 2 != 0), (4, n != 0 && (liveObjs s n).isSome), (9, !noRound s || !s.mem.ready),
        (6, s.ver.older.isSome)] s <|
    okay (setRound { num := if n = 0 then nextVersion (newestNum s) else n, objs := s.ver.newest.objs } s)

/-- VER_ABORT (0x0C02). -/
def verAbort (c : Call) (s : State) : CmdRes :=
  rows [(2, c.p.length != 0), (9, noRound s)] s (okay { s with ver := { s.ver with round := none } })

/-- COMMIT_AT (0x0C03). -/
def commitAt (c : Call) (s : State) : CmdRes :=
  let t := leAt c.p 0 8
  rows [(2, c.p.length != 8), (9, noRound s), (4, t < now s + 10000 || now s + 600000000000 < t)] s <|
    okay (onRound (fun r => { r with armed := some t }) s)

/-- The summary of VER_STATUS. -/
def verSummary (s : State) : Bytes :=
  let r := s.ver.round
  let older := s.ver.older.map (·.1)
  le 2 (newestNum s) ++ le 2 ((older.map (·.num)).getD 0) ++
  le 1 (match r with | none => 0 | some x => if x.armed.isSome then 2 else 1) ++ le 1 ((r.map (pendingByte s)).getD 0) ++
  le 2 ((r.map (·.num)).getD 0) ++ le 8 ((r.bind (·.armed)).getD 0) ++
  le 4 (min ((older.map fun l => inFlight s l.num).getD 0) 0xFFFFFFFF) ++ zeros 4 ++ le 8 s.ver.newest.since ++
  newestBearing s ++ ((older.map (·.bearing)).getD (zeros 32)) ++
  (match r with | some x => if x.bearingReady then bearingOf x.objs else zeros 32 | none => zeros 32) ++
  (List.range 8).flatMap fun n => le 1 (linkAgree s n)
/-- The object records that WHICH names, from FIRST. -/
def verRecords (o : Option Objs) (first : Nat) : Bytes :=
  let ids := (o.map objIds).getD []
  let l := (ids.drop first).take 92
  le 4 ids.length ++ le 4 l.length ++ l.flatMap (objRecord (o.getD {}))

/-- VER_STATUS (0x0C04). -/
def verStatus (c : Call) (s : State) : CmdRes :=
  let w := u8 c.p 0
  let first := leAt c.p 4 4
  let o : Option Objs := match w with
    | 1 => if newestNum s = 0 then none else some s.ver.newest.objs
    | 2 => s.ver.older.map (·.1.objs)
    | _ => s.ver.round.map (·.objs)
  let n := ((o.map objIds).getD []).length
  rows [
    (2, c.p.length != 8),
    (3, 3 < w || !zeroAt c.p 1 3),
    (9, (w == 2 && s.ver.older.isNone) || (w == 3 && (match s.ver.round with | some r => !r.bearingReady | none => true))),
    (4, w != 0 && n != 0 && n ≤ first)] s <|
    reply (if w = 0 then verSummary s else verRecords o first) s

/-- VER_CTL (0x0C05). -/
def verCtl (c : Call) (s : State) : CmdRes :=
  let par := u8 c.p 1
  let ch := u8 c.p 2
  let ret := leAt c.p 4 2
  rows [
    (2, c.p.length != 8),
    (3, 2 < u8 c.p 0 || (7 < par && par != 0xFF) || (par < 8 && bit ch par) || leAt c.p 6 2 != 0),
    (4, ret == 0 || 1000 < ret),
    (11, (par < 8 && bit s.nv.linkRetired par) || ch &&& s.nv.linkRetired != 0)] s <|
    okay { s with ver := { s.ver with policy := u8 c.p 0, parent := par, children := ch, height := u8 c.p 3, retainMs := ret } }

/-- STAGED_BEARING_READY (R438). -/
def execStagedBearingReady (s : State) : Host.Outcome State Fault Refusal :=
  .next (onRound (fun r => { r with bearingReady := true }) s)

/-! ### DLC_STAGE and FLT_THRESH_STAGE -/

/-- An object that its own command checks whole. -/
def stageWhole (id : Nat) (b : Bytes) (r : Round) : Round :=
  ({ r with written := mset r.written id 1 } : Round).change 6
    { r.objs with img := mset r.objs.img id { len := b.length, data := Mem.store [] 0 b } }

/-- DLC_STAGE (0x0102). -/
def dlcStage (c : Call) (s : State) : CmdRes :=
  rows [
    (2, c.p.length != 16),
    (3, 7 < u8 c.p 0 || !zeroAt c.p 1 3 || !zeroAt c.p 12 4),
    (4, leAt c.p 4 4 < 150 || 10000000 < leAt c.p 4 4),
    (9, noRound s)] s (okay (onRound (stageWhole (oidDlc (u8 c.p 0)) c.p) s))

/-- FLT_THRESH_STAGE (0x0E01). -/
def fltThreshStage (c : Call) (s : State) : CmdRes :=
  rows [
    (2, c.p.length != 80),
    (3, (List.range 10).any fun k => !zeroAt c.p (8 * k + 1) 3),
    (4, (List.range 10).any fun k => u8 c.p (8 * k) == 0 || leAt c.p (8 * k + 4) 4 == 0 || 604800000 < leAt c.p (8 * k + 4) 4),
    (9, noRound s)] s (okay (onRound (stageWhole oidThresh c.p) s))

/-- VER_OPEN. -/
def execVerOpen (r : Req) (s : State) : Host.Outcome State Fault Refusal := .next (mbxRow 0x0C01 verOpen r s)
/-- VER_ABORT. -/
def execVerAbort (r : Req) (s : State) : Host.Outcome State Fault Refusal := .next (mbxRow 0x0C02 verAbort r s)
/-- COMMIT_AT. -/
def execCommitAt (r : Req) (s : State) : Host.Outcome State Fault Refusal := .next (mbxRow 0x0C03 commitAt r s)
/-- VER_STATUS. -/
def execVerStatus (r : Req) (s : State) : Host.Outcome State Fault Refusal := .next (mbxRow 0x0C04 verStatus r s)
/-- VER_CTL. -/
def execVerCtl (r : Req) (s : State) : Host.Outcome State Fault Refusal := .next (mbxRow 0x0C05 verCtl r s)
/-- DLC_STAGE. -/
def execDlcStage (r : Req) (s : State) : Host.Outcome State Fault Refusal := .next (mbxRow 0x0102 dlcStage r s)
/-- FLT_THRESH_STAGE. -/
def execFltThreshStage (r : Req) (s : State) : Host.Outcome State Fault Refusal := .next (mbxRow 0x0E01 fltThreshStage r s)

end Sys2Proof.Machine
end

