-- ==== Sys2Proof/Machine/Chain.lean ====
section
/-! DEFINITION. The chain's commands and frames (R403, R412 to R423, R446, R447): chip id, routes, relayed commands, confirmations,
bearing exchanges and reports. -/

namespace Sys2Proof.Machine

open Sys2Proof

/-! ### Enabling and quiescing a link (R430, R487) -/

/-- CL_LINK_CTL.EN is written 1. -/
def setLinkEn (n : Nat) (s : State) : State :=
  let x := link s n
  if x.en then s
  else
    let s := setLink n { x with en := true } s
    if x.st = 0 then startLink n s else s
/-- A link that is up takes no new frame, and its replay buffer drains. -/
def quiesceLink (n : Nat) (s : State) : State :=
  let x := link s n
  let fs := (x.queue.map (·.2)).flatten
  let s := startQuiesce 3 n (blk s 3 n).op (blk s 3 n).who (setLink n { x with st := 6, queue := [], since := now s } s)
  fs.foldl (fun s f => reroute f s) s
/-- CL_LINK_CTL.EN is written 0. -/
def clrLinkEn (n : Nat) (s : State) : State :=
  let x := link s n
  if !x.en then s
  else
    let s := setLink n { x with en := false } s
    if x.st = 5 then quiesceLink n s
    else if 1 ≤ x.st && x.st ≤ 4 then setLink n { link s n with st := 0, ver := 0, offer := none, retryAt := none } s
    else s

/-- CL_LINK_ENABLE. -/
def execClLinkEnable (n : Nat) (s : State) : Host.Outcome State Fault Refusal := .next (if n < 8 && helmUp s then setLinkEn n s else s)
/-- CL_LINK_DISABLE. -/
def execClLinkDisable (n : Nat) (s : State) : Host.Outcome State Fault Refusal := .next (if n < 8 && helmUp s then clrLinkEn n s else s)

/-! ### Commands -/

/-- CL_CHIP_ID (0x0B01). -/
def clChipId (c : Call) (s : State) : CmdRes :=
  let v := leAt c.p 0 2
  rows [(2, c.p.length != 4), (3, !zeroAt c.p 2 2), (9, match s.chip with | some x => x != v | none => false)] s
    (okay { s with chip := some v })

/-- A routing-table entry without reserved values (R414). -/
def routeOk (e : Byte) : Bool :=
  let ok := fun n : Nat => n < 8 || n == 15
  ok (e.toNat % 16) && ok (e.toNat / 16)
/-- CL_ROUTE_SET (0x0B02). -/
def clRouteSet (c : Call) (s : State) : CmdRes :=
  let f := leAt c.p 0 2
  let n := leAt c.p 2 2
  let es := c.p.drop 8
  rows [
    (2, c.p.length != 8 + n),
    (3, !es.all routeOk || !zeroAt c.p 4 4),
    (4, n == 0 || 4072 < n || 65536 < f + n),
    (9, s.chip.isNone)] s <|
    okay (endLost { s with cl := { s.cl with
      route := (es.zipIdx).foldl (fun m e => msetD m (f + e.2) e.1.toNat 0xFF) s.cl.route } })

/-- CL_UNRETIRE (0x0B03). -/
def clUnretire (c : Call) (s : State) : CmdRes :=
  let n := u8 c.p 0
  let m := u8 c.p 1
  let old := mgetD s.nv.laneRetired n 0
  rows [(2, c.p.length != 4), (3, 7 < n || m == 0 || !zeroAt c.p 2 2), (9, old &&& m == 0)] s <|
    okay (retrainLink n { s with nv := { s.nv with
      laneRetired := msetD s.nv.laneRetired n (clrMask old m) 0, linkRetired := clrBit s.nv.linkRetired n } })

/-- The 8 bytes before a command that travels in a control frame: request or response, and the authority of its session (R421). -/
def ctlPrefix (what : Nat) (anchored : Bool) : Bytes := le 1 what ++ le 1 (b2n anchored) ++ zeros 5 ++ [0xFF]

/-- CL_RELAY (0x0B10): the inner command leaves in a kind 5 frame, and the command waits for its response. -/
def clRelay (c : Call) (s : State) : CmdRes :=
  let dest := leAt c.p 0 2
  let mode := u8 c.p 2
  let plen := u8 c.p 3
  let path := leAt c.p 4 6
  let ms := leAt c.p 10 2
  let inner := c.p.drop 16
  rows [
    (2, inner.length < 16 || inner.length != 16 + leAt inner 2 2 || 4080 < c.p.length),
    (3, 1 < mode || (mode == 0 && (plen != 0 || path != 0)) || (mode == 1 && (plen == 0 || 15 < plen)) || ms == 0 || 10000 < ms ||
      !zeroAt c.p 12 4),
    (9, s.chip.isNone),
    (13, mode == 0 && (dest == chipId s || routeLost s dest)),
    (11, mode == 1 && bit s.nv.linkRetired (path % 8))] s <|
    let wid := leAt inner 4 4
    let (tag, s) := newTag (helmUnit s) 5 dest wid (newestNum s) 0xFFFFFFFF 7 0 false false s
    let body := ctlPrefix 1 c.anchored ++ inner
    let s := { s with cl := { s.cl with relays := s.cl.relays ++
      [{ mbx := c.who, wid := wid, ends := now s + ms * 1000000, chip := if mode = 0 then dest else 65536 }] } }
    { waits := true,
      s := if mode = 0 then sendTag dest tag body s
        else sendPath (pathFrame (be 2 dest ++ le 1 plen ++ [0] ++ be 6 path) (tagBytes tag) body) s }

/-- CL_CHIP_ID. -/
def execClChipId (r : Req) (s : State) : Host.Outcome State Fault Refusal := .next (mbxRow 0x0B01 clChipId r s)
/-- CL_ROUTE_SET. -/
def execClRouteSet (r : Req) (s : State) : Host.Outcome State Fault Refusal := .next (mbxRow 0x0B02 clRouteSet r s)
/-- CL_UNRETIRE. -/
def execClUnretire (r : Req) (s : State) : Host.Outcome State Fault Refusal := .next (mbxRow 0x0B03 clUnretire r s)
/-- CL_RELAY. -/
def execClRelay (r : Req) (s : State) : Host.Outcome State Fault Refusal := .next (mbxRow 0x0B10 clRelay r s)

/-- CL_RELAY_TIMEOUT: no inner response came for the command `who` within TIMEOUT_MS. -/
def execClRelayTimeout (who : Nat) (s : State) : Host.Outcome State Fault Refusal :=
  .next (if s.cl.relays.any fun r => r.mbx == who && decide (r.ends ≤ now s) then
    endWait who 10 0 [] { s with cl := { s.cl with relays := s.cl.relays.filter fun r => r.mbx != who } }
  else s)

/-! ### Frames that wait in the inbox -/

/-- Inbox entry `i` where `f` accepts it and it is served first among its own (R39), and the state without it. -/
def takeIn (i : Nat) (f : InTag → Bool) (s : State) : Option (InTag × State) :=
  match s.inbox[i]? with
  | none => none
  | some t => if f t && served s.inbox i then some (t, { s with inbox := s.inbox.eraseIdx i }) else none
/-- A control frame that carries a command's request (1) or response (2), or a reset request (3). -/
def ctlWhat (t : InTag) : Nat :=
  if (tagOf t.tag).kind == 5 && 8 ≤ t.body.length && u8 t.body 7 == 0xFF then u8 t.body 0 else 0
/-- A control frame of another content, of `n` bytes. -/
def plainCtl (n : Nat) (t : InTag) : Bool := (tagOf t.tag).kind == 5 && t.body.length == n && ctlWhat t == 0

/-- UNREACH: the route to the chip it names is lost for 10 ms (R417, R418). -/
def execUnreach (i : Nat) (s : State) : Host.Outcome State Fault Refusal :=
  .next <| match takeIn i (plainCtl 2) s with
    | none => s
    | some (t, s) =>
      let s := errc (baseCl + 0x08) (baseCl + 0x0C) 1 1 s
      endLost { s with cl := { s.cl with unreach := mset s.cl.unreach (beAt t.body 0 2) (now s + 10000000) } }

/-- The copies that wait for a confirmation from `chip` with WORK_ID `wid`, as core and instruction. -/
def copiesTo (s : State) (chip wid : Nat) : List (Nat × EI) :=
  s.cores.flatMap fun c => ((runAt c.2 12).filter fun e =>
    e.ph == 2 && eiClass e.w == 4 && eiOp e.w == 1 && e.chip == chip && e.wid == wid).map fun e => (c.1, e)
/-- The one sent first. -/
def oldestCopy (l : List (Nat × EI)) : Option (Nat × EI) :=
  l.foldl (fun a x => match a with | none => some x | some y => if x.2.sent < y.2.sent then some x else some y) none

/-- DCOPY_CONFIRM: a copy confirmation completes the oldest copy that it can mean (R403). -/
def execDcopyConfirm (i : Nat) (s : State) : Host.Outcome State Fault Refusal :=
  .next <| match takeIn i (fun t => (tagOf t.tag).kind == 3 && t.body.isEmpty) s with
    | none => s
    | some (t, s) => match oldestCopy (copiesTo s (tagOf t.tag).chip (tagOf t.tag).workId) with
      | some (p, e) => doneEi p 12 e s
      | none => s
/-- DCOPY_CONFIRM_TIMEOUT: none within 10 ms. -/
def execDcopyConfirmTimeout (s : State) : Host.Outcome State Fault Refusal :=
  .next (if holding s then s else refuseCopies (fun e => e.sent + 10000000 ≤ now s) s)

/-! ### Bearing exchange (R423, R446) -/

/-- The 72 bytes of an exchange, big-endian (R6, R423). -/
def exchangeBody (s : State) : Bytes :=
  let o := s.ver.older.map (·.1)
  be 2 (newestNum s) ++ be 2 ((o.map (·.num)).getD 0) ++ zeros 4 ++ newestBearing s ++ (o.map (·.bearing)).getD (zeros 32)

/-- BEARING_EXCHANGE_SEND on link `n`: at link-up and once in each period of 2^30 ns; on Weltix v1 from helm to helm. DESIGN CHOICE:
there too its WORK_ID is the number of the exchange on the link (R31), since it carries no command. -/
def execBearingExchangeSend (n : Nat) (s : State) : Host.Outcome State Fault Refusal :=
  .next <|
    let x := link s n
    let k := now s / 2 ^ 30 + 1
    match x.partner with
    | some (c, _, true) =>
      if !linkUp s n || s.chip.isNone || k ≤ x.exch || holding s || 2 ≤ s.sys.level || (x.ver == 1 && !helmUp s) then s
      else
        let s := setLink n { x with exch := k, exchNum := (x.exchNum + 1) % 2 ^ 32 } s
        let (tag, s) := newTag (if x.ver = 1 then helmUnit s else 0xFE) (if x.ver = 1 then 5 else 8) c x.exchNum (newestNum s) 0xFFFFFFFF
          (if x.ver = 1 then 7 else 0) 0 false false s
        enqueue n (tableFrame c (tagBytes tag) (exchangeBody s)) s
    | _ => s

/-- A version number live on both sides has different bearings: the partner's short bearing and this chip's. -/
def bearingDiffers (s : State) (b : Bytes) : Option (Nat × Nat) :=
  let mine := [(newestNum s, newestBearing s)] ++ (match s.ver.older with | some (l, _) => [(l.num, l.bearing)] | none => [])
  let theirs := [(beAt b 0 2, sub b 8 32), (beAt b 2 2, sub b 40 32)].filter (·.1 != 0)
  (mine.filter (·.1 != 0)).findSome? fun m =>
    (theirs.find? fun t => t.1 == m.1 && t.2 != m.2).map fun t => (leAt t.2 0 2, leAt m.2 0 2)

/-- BEARING_EXCHANGE: the partner's body sets the link's state. -/
def execBearingExchange (i : Nat) (s : State) : Host.Outcome State Fault Refusal :=
  .next <| match takeIn i (fun t => ((tagOf t.tag).kind == 8 && t.body.length == 72) || plainCtl 72 t) s with
    | none => s
    | some (t, s) =>
      let n := t.link
      let d := bearingDiffers s t.body
      let st := if d.isSome then 3 else if beAt t.body 0 2 = newestNum s then 1 else 2
      let s := { s with ver := { s.ver with link := mset s.ver.link n st, exchRx := mset s.ver.exchRx n (now s / 2 ^ 30) } }
      match d with
      | some (theirs, mine) =>
        raise1s { code := 0x0602, unit := 0xFE, index := n, version := newestNum s, detail := theirs + 65536 * mine + 2 ^ 32 } (verCount 3 s)
      | none => s

/-! ### Reports (R447) -/

/-- The 40 bytes of a report: its period and the seven counts, in the byte order `enc`: big-endian in a frame, little-endian in an
event (R6). -/
def reportBody (enc : Nat → Nat → Bytes) (k : Nat) (l : List Nat) : Bytes :=
  enc 8 k ++ (List.range 7).flatMap (fun i => enc 4 (l.getD i 0)) ++ zeros 4
/-- The counts of two reports together, each saturating. -/
def addCounts (a b : List Nat) : List Nat := (List.range 7).map fun i => min (a.getD i 0 + b.getD i 0) 0xFFFFFFFF
/-- This chip's own counts: CHIPS, DIFFER, LAG, UNKNOWN, MISSED, BMIS and LATE. -/
def ownCounts (s : State) : List Nat :=
  let st := if s.ver.parent = 0xFF then 1 else linkAgree s s.ver.parent
  [1, b2n (st == 3), b2n (st == 2), b2n (st == 0), b2n s.ver.missed, min s.ver.bmis 0xFFFFFFFF, 0]

/-- 1 ms after the exchange instant of the present period, the chip counts itself, and BMIS starts anew. -/
def countSelf (s : State) : State :=
  { s with ver := { s.ver with own := some (now s / 2 ^ 30, ownCounts s), bmis := 0 } }

/-- AGG_REPORT_SEND: the report of the present period, once every child has reported or the deadline has passed. -/
def execAggReportSend (s : State) : Host.Outcome State Fault Refusal :=
  .next <|
    let k := now s / 2 ^ 30
    let t := now s % 2 ^ 30
    let kids := (List.range 8).filter (bit s.ver.children)
    let got := s.ver.reports.filter fun r => r.1 == k && kids.contains r.2.1
    let all := kids.all fun n => got.any fun r => r.2.1 == n
    if !helmUp s || k < s.ver.aggSent || t < 1000000 || !(all || 1000000 + 2000000 * s.ver.height ≤ t) then s
    else
      let late := (kids.filter fun n => !got.any fun r => r.2.1 == n).length
      let s := if s.ver.own.any (·.1 == k) then s else countSelf s
      let own := (s.ver.own.map (·.2)).getD []
      let sum := got.foldl (fun a r => addCounts a r.2.2) (addCounts own [0, 0, 0, 0, 0, 0, late])
      let s := { s with ver := { s.ver with aggSent := k + 1, reports := s.ver.reports.filter fun r => k < r.1 } }
      if s.ver.parent = 0xFF then sendEvent 4 0 (reportBody le k sum ++ le 2 (newestNum s) ++ zeros 6 ++ newestBearing s) s
      else if s.chip.isNone then s
      else
        let dest := match (link s s.ver.parent).partner with | some (c, _, _) => c | none => 0
        let (tag, s) := newTag (helmUnit s) 5 dest 0 (newestNum s) 0xFFFFFFFF 7 0 false false s
        sendPath (pathFrame (be 2 dest ++ [1, 0] ++ be 6 s.ver.parent) (tagBytes tag) (reportBody be k sum)) s

/-- AGG_CHILD_REPORT: a child's report is kept for its period. -/
def execAggChildReport (i : Nat) (s : State) : Host.Outcome State Fault Refusal :=
  .next <| match takeIn i (plainCtl 40) s with
    | none => s
    | some (t, s) =>
      let k := beAt t.body 0 8
      if !bit s.ver.children t.link || k < now s / 2 ^ 30 || k < s.ver.aggSent then s
      else { s with ver := { s.ver with
        reports := (s.ver.reports.filter fun r => !(r.1 == k && r.2.1 == t.link)) ++
          [(k, t.link, (List.range 7).map fun j => beAt t.body (8 + 4 * j) 4)] } }

end Sys2Proof.Machine
end

