-- ==== Sys2Proof/Machine/CompassUnit.lean ====
section
/-! DEFINITION. Compass units at work (R171 to R183): blocks of slices and of job samples, compass jobs, and the instruction that
submits one. -/

namespace Sys2Proof.Machine

open Sys2Proof

def cmpUnit (u : Nat) : Nat := baseObs + 0x4000 + 0x40 * u
def cmpDie (d : Nat) : Nat := baseObs + 0x4800 + 0x40 * d

/-- Unit `u` takes new work: running and not retired. -/
def cmpRuns (s : State) (u : Nat) : Bool := decide (u < 32) && (blk s 1 u).st == 0 && !bit s.nv.cmpRetired u
/-- Unit `u` may take the next block of a slice that is inside unit `v` (R182). -/
def cmpTakes (s : State) (u v : Nat) : Bool :=
  let live := (List.range 32).any fun w => w / 16 == v / 16 && cmpRuns s w
  if cmpRuns s v then u == v else cmpRuns s u || (!live && u == v && (blk s 1 v).st == 1)

/-- A compass unit is retired (R512). -/
def retireCmp (u : Nat) (s : State) : State :=
  raiseF { code := 0x030A, unit := 0xE3 + 8 * (u / 16), flags := 2, chclass := 8, index := u, version := newestNum s }
    { s with nv := { s.nv with cmpRetired := setBit s.nv.cmpRetired u } }
/-- A counted event of the unit's channel. -/
def cmpEvent (u : Nat) (s : State) : Bool × State :=
  if bit s.nv.cmpRetired u then (false, s) else channelEvent 8 u 0 s

/-- A block-memory entry failed parity in unit `u` (R174): counted, and recorded at its first failure. -/
def cmpParity (u version : Nat) (r : PRef) (s : State) : State :=
  let s := errc (cmpUnit u + 0x1C) (cmpUnit u + 0x24) 1 1 s
  if marked s (2 + u) version r then s
  else
    let s := markBad (2 + u) version r s
    let (id, ix) := refDetail (u / 16) r
    let (ret, s) := cmpEvent u s
    let s := raiseF { code := 0x0103, unit := 0xE3 + 8 * (u / 16), flags := if ret then 2 else 0, chclass := 8, index := u,
                      version := version, detail := id + 2 ^ 32 * ix } s
    if ret then retireCmp u s else s

/-- The leaf entries of tree `t` of the block at `at_` hold a corruption in unit `u` that parity does not detect (R159, R175). -/
def treeBroken (s : State) (u version ens : Nat) (m : Mem) (at_ t : Nat) : Bool :=
  s.failed.any fun e => e.silent && e.place == 2 + u && e.ref == .comp ens (treeEntriesAt m at_ t) && e.vers.contains version
/-- The trees of block `b` that are so corrupted: before this evaluation, or found so by it. -/
def brokenTrees (s : State) (u version ens : Nat) (m : Mem) (b : Nat) (bad : List Nat) : List Nat :=
  let at_ := blkAt m b
  bad ++ (List.range (blkTrees m at_)).filter (treeBroken s u version ens m at_)
/-- A tree is malformed in unit `u` (R159, R175): counted for every evaluation, raised at most once per second per unit and tree. Its
leaf entries stay broken there until TABLE_REPAIR of the first of them rewrites them all. -/
def treeBad (u version ens b t : Nat) (s : State) : State :=
  let m := imgMem (objsOf s version) (oidEns ens)
  let r : PRef := .comp ens (treeEntriesAt m (blkAt m b) t)
  let s := if treeBroken s u version ens m (blkAt m b) t then s
    else { s with failed := s.failed ++ [{ place := 2 + u, ref := r, vers := storedIn s version r, silent := true }] }
  let s := errc (cmpUnit u + 0x18) (cmpUnit u + 0x24) 0 1 s
  let k := 2 ^ 24 + u * 2 ^ 18 + ens + 256 * b + 4096 * t
  if (match mget s.flt.lastRaise k with | some i => decide (now s < i + 1000000000) | none => false) then s
  else
    let s := { s with flt := { s.flt with lastRaise := mset s.flt.lastRaise k (now s) } }
    let (ret, s) := cmpEvent u s
    let s := raiseLim 0 { code := 0x0104, unit := 0xE3 + 8 * (u / 16), flags := if ret then 2 else 0, chclass := 8, index := u,
                          version := version, detail := ens + 256 * b + 4096 * t } s
    if ret then retireCmp u s else s

/-- What a block leaves behind it in unit `u`. -/
def noteBlock (u version ens b : Nat) (o : BlockOut) (s : State) : State :=
  let s := o.parity.foldl (fun s r => cmpParity u version r s) s
  let s := o.malformed.foldl (fun s t => treeBad u version ens b t s) s
  if o.sat then errc (cmpUnit u + 0x20) (cmpUnit u + 0x24) 2 1 s else s

/-- An evaluation enters unit `u`: it counts in the counter `o`, and takes a cycle that OBS_CMP_IDLE will not count. -/
def entered (u o : Nat) (s : State) : State :=
  perf (cmpUnit u + o) 1 { s with evals := mset s.evals u (mgetD s.evals u 0 + 1) }

/-- A slice's re-entry into unit `u` is due: the 24 ns of its last block are over (R177). -/
def reentryDue (s : State) (u : Nat) : Bool :=
  s.slices.any fun (_, x) => x.stage == 3 && x.blk != 0 && x.unit == u && decide (x.blkAt + 24 ≤ now s)
/-- A new slice waits on die `d` for its arbiter to steer it to a unit. -/
def sliceWaits (s : State) (d : Nat) : Bool := s.slices.any fun (_, x) => x.stage == 3 && x.blk == 0 && dieOfPort x.q == d

/-- One block of a slice on unit `u` (R177): a new slice is not steered to a unit that has a re-entry due. -/
def sliceBlock (u : Nat) (x : Slice) (pf : List PRef) (bad : List Nat) (s : State) : State :=
  let d := dieOfPort x.q
  if x.stage ≠ 3 || u / 16 ≠ d || !(if x.blk = 0 then cmpRuns s u && !reentryDue s u else cmpTakes s u x.unit) then s
  else
    let o := objsOf s x.version
    let m := imgMem o (oidEns x.lk.ens)
    let x := if x.blk = 0 then { x with codes := sliceCodes (imgMem o oidPg) m x, sums := initSums m } else x
    let r := evalBlock m x.lk.ens x.blk x.codes x.sums (readsBad s (2 + u) x.version pf)
      (brokenTrees s u x.version x.lk.ens m x.blk bad)
    let s := entered u 0 (noteBlock u x.version x.lk.ens x.blk { r with sat := r.sat && !x.sumSat } s)
    let x := { x with
      unit := u, blk := x.blk + 1, blkAt := now s, sums := r.sums, sumSat := x.sumSat || r.sat,
      lk := if r.parity.isEmpty then x.lk else { x.lk with flags := x.lk.flags ||| 0x40 } }
    setSlice (if x.blk = ensBlocks m then { x with score := some (linkScore (ensLink m) x.sums), stage := 4 } else x) s

/-- Jobs of die `d` in queue order. -/
def cjobsOf (s : State) (d : Nat) : List CJobSt := mgetD s.cjobs d []
def setCjobs (d : Nat) (l : List CJobSt) (s : State) : State := { s with cjobs := msetD s.cjobs d l [] }
/-- Bytes of a result record (R180). -/
def recSize (j : CJobSt) : Nat := if j.sumsOut then 32 else 4
/-- The record of a sample (R180). -/
def jobRecord (j : CJobSt) (link k : Nat) : Bytes :=
  le 2 (linkScore link j.sums) ++ le 2 j.flags ++
  (if j.sumsOut then (List.range 8).flatMap (fun i => le 3 (if i < k then ofSigned 24 (j.sums.getD i 0) else 0)) ++ zeros 4 else [])

/-- The job of die `d` that is served next: the one whose sample is in evaluation, else the first unfinished one (R181). -/
def servedCjob (s : State) (d : Nat) : Option CJobSt :=
  match (cjobsOf s d).find? fun j => !j.finished && j.blk != 0 with
  | some j => some j
  | none => (cjobsOf s d).find? (!·.finished)

/-- One block of a job sample on unit `u` (R177, R180, R181): only where no slice is due on it or waits for the die's arbiter. -/
def jobBlock (u : Nat) (pf : List PRef) (bad : List Nat) (s : State) : State :=
  let d := u / 16
  match servedCjob s d with
  | none => s
  | some j =>
    if !cmpRuns s u || reentryDue s u || sliceWaits s d then s
    else
      let put := fun (j' : CJobSt) (s : State) =>
        setCjobs d ((cjobsOf s d).map fun i => if i.id = j.id ∧ i.core = j.core then j' else i) s
      let m := imgMem (objsOf s j.version) (oidEns j.ens)
      let at_ := j.inAddr + j.sample * j.stride
      let n := 2 * ensFeatures m
      if (j.blk = 0 && hbmHeld s at_ n) || hbmHeld s (j.outAddr + j.sample * recSize j) (recSize j) then s
      else match if j.blk = 0 then firstPoison s at_ n else none with
      | some a => put { j with status := 12, finished := true } (poisonRead a s)
      | none =>
        let b := devBytes s at_ n
        let j := if j.blk = 0 then { j with
          codes := (List.range (ensFeatures m)).map fun i => leAt b (2 * i) 2, sums := initSums m, flags := 0 } else j
        let r := evalBlock m j.ens j.blk j.codes j.sums (readsBad s (2 + u) j.version pf)
          (brokenTrees s u j.version j.ens m j.blk bad)
        let s := entered u 8 (noteBlock u j.version j.ens j.blk { r with sat := r.sat && !bit j.flags 0 } s)
        let j := { j with
          blk := j.blk + 1, sums := r.sums,
          flags := j.flags ||| b2n r.sat ||| 2 * b2n (!r.malformed.isEmpty) ||| 4 * b2n (!r.parity.isEmpty) }
        if j.blk < ensBlocks m then put j s
        else
          let s := devWrite (j.outAddr + j.sample * recSize j) (jobRecord j (ensLink m) (ensK m)) s
          put { j with blk := 0, sample := j.sample + 1, finished := decide (j.sample + 1 = j.samples) } s

/-- COMPASS_BLOCK_EVAL (R177): unit `u` evaluates one block; `pf` names entries whose parity fails on this read, `bad` trees whose
leaf entries a corruption that parity did not detect has broken. -/
def execCompassBlockEval (u : Nat) (wk : CWork) (pf : List PRef) (bad : List Nat) (s : State) : Host.Outcome State Fault Refusal :=
  .next <| if frozen s then s else match wk with
    | .slice q seq => match slice? s q seq with
      | some x => sliceBlock u x pf bad s
      | none => s
    | .job => jobBlock u pf bad s

/-! ### Compass jobs (R179, R181, R283) -/

/-- A job takes its place in a die's queue: after every job of its priority or a higher one. -/
def insertCjob (j : CJobSt) (l : List CJobSt) : List CJobSt :=
  match l with
  | [] => [j]
  | a :: r => if a.prio < j.prio then j :: a :: r else a :: insertCjob j r
/-- Samples queued on a die (R179): those of its unfinished jobs. -/
def samplesQueued (s : State) (d : Nat) : Nat := (((cjobsOf s d).filter (!·.finished)).map fun j => j.samples - j.sample).foldl (· + ·) 0

/-- The status of a descriptor, checked whole (R181); an ensemble that does not exist counts as one of a single feature in the range
of its input. -/
def cjobStatus (s : State) (b : Bytes) (version : Nat) : Nat :=
  let m := imgMem (objsOf s version) (oidEns (u8 b 0))
  let stride := leAt b 24 2
  let n := leAt b 4 4
  let ens := hasObj (objsOf s version) (oidEns (u8 b 0))
  if !(u8 b 2 / 2 == 0 && u8 b 3 == 0 && zeroAt b 26 6) || !(u8 b 1 ≤ 1 || u8 b 1 == 0xFF) || stride % 32 != 0
      || (ens && stride < 2 * ensFeatures m) || leAt b 8 8 % 32 != 0 || leAt b 16 8 % 32 != 0 then 3
  else if n = 0 || 65536 < n || !inMem s (leAt b 8 8) ((n - 1) * stride + 2 * (if ens then ensFeatures m else 1))
      || !inMem s (leAt b 16 8) (n * (if bit (u8 b 2) 0 then 32 else 4)) then 4
  else if !ens then 13
  else 0

/-- CJOB: the job joins the queue of the die chosen at its release; a rejected job writes no record. -/
def execCjob (p : Nat) (s : State) : Host.Outcome State Fault Refusal :=
  .next <| engStep p 14 6 1 (fun e s =>
    let at_ := bits e.w 111 91 * 32
    let b := localBytes s p at_ 32
    let d := e.chip
    if localPoison s p at_ 32 then refuseEi p 14 e s
    else
      let v := jobVersion s p
      let st := cjobStatus s b v
      let j : CJobSt := {
        id := e.ord, core := p, prio := match jobOf s p with | some j => bits (u8 j.desc 12) 2 0 | none => 0,
        version := v, ens := u8 b 0, sumsOut := bit (u8 b 2) 0, samples := leAt b 4 4, inAddr := leAt b 8 8,
        outAddr := leAt b 16 8, stride := leAt b 24 2, status := st, finished := st != 0 }
      let s := if st = 0 then s else errc (cmpDie d + 0x0C) (cmpDie d + 0x10) 1 1 s
      putRun p 14 { e with ph := 2 } (setCjobs d (insertCjob j (cjobsOf s d)) s)) s

/-- COMPASS_JOB_COMPLETE (R181): the first finished job of die `d` returns its status and its count of records. -/
def execCompassJobComplete (d : Nat) (s : State) : Host.Outcome State Fault Refusal :=
  .next <| if frozen s then s else match (cjobsOf s d).find? (·.finished) with
    | none => s
    | some j =>
      let s := setCjobs d ((cjobsOf s d).filter fun i => !(i.id == j.id && i.core == j.core)) s
      let s := if j.status = 0 then perf (cmpDie d) 1 s else s
      match (runAt (core s j.core) 14).find? fun e => e.ord == j.id && e.ph == 2 with
      | none => s
      | some e =>
        let kd := bits e.w 90 87
        let c := core s j.core
        let s := setCore j.core (if kd = 0 then c else writeK kd (j.status + 65536 * j.sample) c) s
        util j.core 0x238 j.sample (doneEi j.core 14 e s)

end Sys2Proof.Machine
end

