-- ==== Sys2Proof/Machine/Reset.lean ====
section
/-! DEFINITION. Reset (R479 to R495): what each level clears, sources and their release, block reset and the quiesce handshake,
retirement of cores (R516, R517), takeover (R449 to R451) and boot (R491 to R498). -/

namespace Sys2Proof.Machine

open Sys2Proof

/-! ### What a reset of cores clears (R309, R337, R338, R480) -/

/-- Counters from `lo` up to `hi` cleared, with their flags. -/
def clearCtrs (lo hi : Nat) (s : State) : State :=
  { s with ctrs := s.ctrs.filter fun e => e.1 < lo || hi ≤ e.1, ovf := s.ovf.filter fun e => e.1 < lo || hi ≤ e.1 }
/-- The counters that a core reset clears (R223, R260, R297, R347, R373, R525). -/
def clearCoreCtrs (s : State) : State :=
  let o := baseObs
  clearCtrs (o + 0x6000) (o + 0x6000 + 0x40 * 132) (clearCtrs (o + 0x8200) (o + 0x9280) (clearCtrs (baseCc 0) (baseCc 132)
    (clearCtrs (o + 0xE000) (o + 0xE000 + 0x40 * 132) (clearCtrs (baseHb + 0x800) (baseHb + 0x800 + 0x20 * 132)
      (clearCtrs (utilKey 0) (utilKey 132) s)))))

/-- Streams lose what lay in the core stores that `hit` names by physical core (R309). -/
def clearStreams (hit : Nat → Bool) (s : State) : State :=
  let o := s.ver.newest.objs
  s.ctx.foldl (fun s e =>
    let i := e.1
    let t := scTpl o i
    if !scValid o i then s
    else
      let ring := match locOf s (tplRing t) with | some (.cs p _) => hit p | _ => false
      let on := if tplInst t = 0xFF then ((mget o.models (tplModel t)).map (·.nums)).getD [] else [tplInst t]
      let kv := tplKvCs t && tplKvPolicy t != 0 && on.any fun k => (instCores s k).any fun l => hit (physOf s l)
      let s := if ring then setCtx i { ctxOf s i with wr := 0, oldest := 0, since := 0, count := 0 } s else s
      if kv then scErr (tplHome t) 7 (setCtx i { ctxOf s i with kvTokens := 0 } s) else s) s

/-- Core `p` and its core store are cleared; its sync objects stay as orphaning left them. Its placements are to be reloaded. -/
def clearCore (p : Nat) (s : State) : State :=
  let c := core s p
  let lo := p * 2 ^ 26
  let s := setCore p { ({} : Core) with sync := c.sync, reload := c.reload || c.prog.isSome || !c.regions.isEmpty } s
  { s with mem := { s.mem with
    cs := Mem.clear s.mem.cs lo (2 ^ 26),
    csPoison := s.mem.csPoison.filter fun w => 32 * w < lo || lo + 2 ^ 26 ≤ 32 * w,
    csCorr := s.mem.csCorr.filter fun w => 32 * w < lo || lo + 2 ^ 26 ≤ 32 * w } }
/-- Instances with a rank on a core that lacks its placements wait for the reload (R309, R516). -/
def markLoading (s : State) : State :=
  { s with insts := s.insts.map fun e => (e.1, { e.2 with
    loading := e.2.loading || (instCores s e.1).any fun l => decide (l < s.nv.cores) && (core s (physOf s l)).reload }) }
/-- The job of core `p` is aborted there: the rank ends FAULTED. -/
def abortRank (p : Nat) (s : State) : State := if (core s p).st = 0 then s else endRank p 12 s
/-- One core is cleared: its objects are orphaned first, then its held operations withdrawn (R337, R338). -/
def resetOneCore (p : Nat) (s : State) : State :=
  markLoading (clearStreams (· == p) (clearCore p (abortRank p (withdrawCore p (orphanCore p orphanClear s)))))

/-! ### The quiesce handshake's end (R486, R487, R516, R517) -/

/-- A spare core for one of compute die `d`, of the same die first. -/
def spareFor (s : State) (d : Nat) : Option Nat :=
  (if d = 0 then [64, 65, 130, 131] else [130, 131, 64, 65]).find? fun x => !bit s.nv.coreRetired x && (logOf s x).isNone
/-- A placement of a live version lies on logical core `l`. -/
def placedOn (s : State) (l : Nat) : Bool :=
  let f := fun (o : Objs) => o.models.any fun e => e.2.firstCore ≤ l && l < e.2.firstCore + e.2.instances * e.2.ranks
  f s.ver.newest.objs || (match s.ver.older with | some (x, _) => f x.objs | none => false)
/-- The core that now runs logical core `l` needs that core's placements. -/
def needReload (l : Nat) (s : State) : State :=
  let p := physOf s l
  markLoading (setCore p { core s p with reload := placedOn s l } s)
/-- Core `p`, idle, is retired: a spare or the core of the highest logical number takes its place. -/
def finishRetire (p : Nat) (s : State) : State :=
  let l := logOf s p
  let s := resetOneCore p s
  let s := setCore p {} { s with nv := { s.nv with coreRetired := setBit s.nv.coreRetired p } }
  let rec_ := fun (l sp : Nat) (s : State) =>
    raiseF { code := 0x0304, unit := p, flags := 2, chclass := 7, index := p, version := newestNum s, detail := l + 256 * sp } s
  match l with
  | none => rec_ 0xFF 0xFF s
  | some l => match spareFor s (p / 66) with
    | some sp => rec_ l sp (needReload l { s with nv := { s.nv with coreMap := mset s.nv.coreMap l sp } })
    | none =>
      let h := s.nv.cores - 1
      let q := physOf s h
      let s := { s with insts := s.insts.map fun e => (e.1, { e.2 with out := e.2.out || (instCores s e.1).contains h }) }
      let s := if h = l then s else resetOneCore q s
      let s := { s with nv := { s.nv with coreMap := if h = l then s.nv.coreMap else mset s.nv.coreMap l q, cores := h } }
      rec_ l 0xFF (if h = l then s else needReload l s)

/-- The reset clears the unit (R487). -/
def clearUnit (u i : Nat) (s : State) : State :=
  match u with
  | 0 => resetOneCore i s
  | 1 => { s with failed := s.failed.filter fun e => e.place != 2 + i }
  | 2 => portDown i 0 s
  | 3 => if (link s i).st = 7 then s else dropLink i 0 s
  | 4 => { s with mem := { s.mem with selfRef := setBit s.mem.selfRef i } }
  | 5 => { s with helm := { s.helm with standby := false } }
  | _ => s

/-- What answers the block operation, with the items dropped as DETAIL. -/
def answerBlk (b : Blk) (s : State) : State := match b.who with | some w => endWait w 0 b.dropped [] s | none => s

/-- Unit `i` of kind `u` is empty, having dropped `n` items: the operation goes on. -/
def quiesced (u i n : Nat) (s : State) : State :=
  let b := { blk s u i with dropped := n }
  match b.op with
  | some 0 => setBlk u i { b with st := 4 } (clearUnit u i s)
  | some 1 =>
    let s := match u with
      | 2 => setBlk u i {} (portDown i 0 s)
      | 3 => setBlk u i {} (dropLink i 0 (sendCtl i [0x08] s))
      | _ => setBlk u i { st := 5 } s
    answerBlk b s
  | some 3 => finishRetire i (setBlk u i {} s)
  | some 5 =>
    let s := setBlk u i { st := 2 } s
    match u with
      | 2 => portDown i 0 s
      | 3 => dropLink i 0 (sendCtl i [0x08] s)
      | _ => s
  | _ =>
    let s := setBlk u i {} s
    match u with
    | 2 =>
      let s := portDown i 0 s
      if (port s i).en && s.ver.newest.num != 0 then startTraining i s else s
    | 3 => startLink i (dropLink i 0 (sendCtl i [0x08] s))
    | _ => s

/-- The unit holds no work any more. -/
def drained (s : State) (u i : Nat) : Bool :=
  match u with
  | 0 => (core s i).st == 0
  | 1 => (List.range 32).any (fun w => w / 16 == i / 16 && cmpRuns s w) || !s.slices.any fun x => x.2.stage == 3 && x.2.unit == i
  | 2 => (port s i).st != 7 || (port s i).pend.isEmpty
  | 3 => (link s i).st != 6 || ((link s i).replay.isEmpty && (link s i).part.isEmpty)
  | _ => true

/-- QUIESCE_ACK: unit `i` of kind `u` acknowledges that it is empty. A pre-empted core does so by saving its context. -/
def execQuiesceAck (u i : Nat) (s : State) : Host.Outcome State Fault Refusal :=
  .next (if (blk s u i).st == 1 && (blk s u i).op != some 4 && drained s u i && !(holding s && u < 3) then quiesced u i 0 s else s)

/-- Work that a forced unit still holds is aborted: the items dropped. For an HBM controller the environment names how many
reads were in flight and the lines of the writes. -/
def abortWork (u i reads : Nat) (lines : List Nat) (s : State) : Nat × State :=
  match u with
  | 0 => (b2n ((core s i).st != 0), abortRank i s)
  | 2 => ((port s i).pend.length, loseVerdicts i s)
  | 3 => ((link s i).replay.length, s)
  | 4 =>
    let l := lines.filter fun l => inHbm s (64 * l) 64 && pchOf s (64 * l) / 32 == i
    (reads + l.length, { s with mem := { s.mem with poison := l.foldl sadd s.mem.poison } })
  | _ => (0, s)
/-- Origin unit that names a unit of the handshake in a fault record (R28). -/
def blkUnit (s : State) (u i : Nat) : Nat :=
  match u with
  | 0 => i
  | 1 => 0xE3 + 8 * (i / 16)
  | 2 => composerUnit i
  | 3 => 0xFE
  | 4 => helmUnit s
  | _ => 0xF0 + i
/-- FORCED_RESET (R486). -/
def forcedReset (u i n : Nat) (s : State) : State :=
  raiseF { code := 0x0208, unit := blkUnit s u i, index := if u = 0 then (logOf s i).getD 0 else i, version := newestNum s,
           detail := n } s

/-- QUIESCE_TIMEOUT: the timeout expires before the acknowledgement, and the unit is forced (R486). -/
def execQuiesceTimeout (u i reads : Nat) (lines : List Nat) (s : State) : Host.Outcome State Fault Refusal :=
  .next <|
    let b := blk s u i
    if b.st ≠ 1 || now s < b.since + b.limit || u = 1 || (holding s && u < 3) then s
    else
      let (n, s) := abortWork u i reads lines s
      let s := forcedReset u i n s
      if b.op = some 4 then setBlk 0 i {} (resetOneCore i s) else quiesced u i n (setBlk u i b s)

/-- BLOCK_RESET_DONE: the unit under block reset is clear, and BLK_CTL responds (R487). -/
def execBlockResetDone (u i : Nat) (s : State) : Host.Outcome State Fault Refusal :=
  .next <|
    let b := blk s u i
    if b.st ≠ 4 || (holding s && u < 3) then s
    else
      let s := setBlk u i {} s
      let s := match u with
        | 2 => if (port s i).en && s.ver.newest.num != 0 then startTraining i s else s
        | 3 => startLink i s
        | 4 => if s.sys.level = 0 then { s with mem := { s.mem with selfRef := clrBit s.mem.selfRef i } } else s
        | 5 => { s with helm := { s.helm with heldPair := none } }
        | _ => s
      answerBlk b s

/-! ### Core, system and power-on reset (R480) -/

/-- A core reset takes effect. -/
def coreReset (s : State) : State :=
  let ps := s.cores.map (·.1)
  let s := (List.range 132).foldl (fun s p => orphanCore p orphanClear s) s
  let s := ps.foldl (fun s p => withdrawCore p s) s
  let s := { s with insts := s.insts.map fun e => (e.1, { e.2 with running := e.2.running.map fun j => { j with saved := [] } }) }
  let s := ps.foldl (fun s p => abortRank p s) s
  let s := { s with insts := s.insts.map fun e => (e.1, { e.2 with running := e.2.running.map fun j => { j with
    ended := (List.range e.2.ranks).foldl (fun m r => if (mget m r).isSome then m else mset m r 12) j.ended } }) }
  let s := clearStreams (fun _ => true) s
  let s := ps.foldl (fun s p => clearCore p s) s
  let s := markLoading (clearCoreCtrs { s with cjobs := [], mem := { s.mem with cs := [], csPoison := [], csCorr := [] } })
  let s := { s with reloading := s.insts.any (·.2.loading) }
  ps.foldl (fun s p => if (blk s 0 p).st == 1 then
    (if (blk s 0 p).op == some 4 || (blk s 0 p).op == none then setBlk 0 p {} s else quiesced 0 p 0 s) else s) s

/-- What the always-on domain and MRAM keep, and the power-on values where `por`; everything else takes its reset value. -/
def sysReset (por : Bool) (s : State) : State :=
  let c := s.ch
  let ch : Chron := { ({} : Chron) with
    cnt := c.cnt, ref10 := c.ref10, crystal := c.crystal, wakeLvl := c.wakeLvl, light := c.light, vbk := c.vbk }
  let ch := if por then ch else { ch with
    valid := c.valid, alarm := c.alarm, alEn := c.alEn, alEvent := c.alEvent, alFired := c.alFired, wakeCtl := c.wakeCtl,
    wakeCause := c.wakeCause, wakeMask := c.wakeMask, countOnly := c.countOnly }
  { ({} : State) with
    ctrs := (List.range 12).foldl (fun m h => msetD m (baseHb + 0x100 + 0x40 * h) (now s) 0) [],
    pending := s.pending, free := s.free, out := s.out, nv := s.nv, ch := ch, jtag := if por then {} else s.jtag,
    sys := { ({} : Sys) with
      level := s.sys.level, srcs := s.sys.srcs, srcT := s.sys.srcT, cause := s.sys.cause, causeNew := s.sys.causeNew, cnt := s.sys.cnt,
      rail := s.sys.rail } }

/-! ### Sources (R481 to R485) -/

/-- Level of a source: 0 POR, 1 SUPPLY, 2 SYS_PIN, 3 CORE_PIN, 4 MBX_SYS, 5 MBX_CORE, 6 WATCHDOG, 7 REMOTE, 8 THERMAL,
9 SLEEP, 10 the 100 MHz reference, whose cause bit is SUPPLY. -/
def srcLevel (k : Nat) : Nat := if k = 0 || k = 1 || k = 10 then 3 else if k = 3 || k = 5 then 1 else 2
def causeBit (k : Nat) : Nat := if k = 10 then 1 else k
/-- Cause bits whose source is asserted (R485). -/
def assertedCauses (s : State) : Nat := (List.range 11).foldl (fun a k => if bit s.sys.srcs k then setBit a (causeBit k) else a) 0
/-- The widest level among the asserted sources. -/
def widest (srcs : Nat) : Nat := (List.range 11).foldl (fun a k => if bit srcs k then max a (srcLevel k) else a) 0

/-- A reset counter counts (R484): 24 bits, and SAT in bit 24. -/
def countReset (n : Nat) (s : State) : State :=
  let v := mgetD s.sys.cnt n 0
  let v' := if v % 2 ^ 24 = 0xFFFFFF then setBit v 24 else v + 1
  { s with sys := { s.sys with cnt := msetD s.sys.cnt n v' 0 } }

/-- Source `k` is asserted: its cause bit is set, and a wider level takes effect; a power-on reset clears the causes but
those of the asserted sources (R480, R485). A core reset during a hold waits for the resume
(R542). -/
def assertSrc1 (k : Nat) (s : State) : State :=
  let old := s.sys.level
  let new := max old (srcLevel k)
  let s := { s with sys := { s.sys with srcs := setBit s.sys.srcs k, srcT := mset s.sys.srcT k (now s) } }
  let s := if old < 3 && new = 3 then { s with sys := { s.sys with cause := assertedCauses s } } else s
  let s := { s with sys := { s.sys with cause := setBit s.sys.cause (causeBit k), causeNew := setBit s.sys.causeNew (causeBit k) } }
  if new ≤ old then s
  else
    let s := countReset (3 - new) { s with sys := { s.sys with level := new } }
    if new = 1 then
      let s := { s with mem := { s.mem with selfRef := 0xFFF } }
      if holding s then { s with sys := { s.sys with coreRstHeld := true } } else coreReset s
    else
      let s := sysReset (new == 3) s
      if new = 3 then { s with ch := { s.ch with crystal := !s.ch.ref10 } } else s
/-- SLEEP ends through the system reset of a source of its own; CH_PWR.COUNT_ONLY says how it counted (R377, R387, R392). -/
def leaveSleep (s : State) : State := assertSrc1 9 { s with ch := { s.ch with pwr := 0, countOnly := s.ch.crystal, crystal := false } }
/-- The part enters SLEEP: everything but the always-on domain ends. A wake source that has fired since the request wakes it at once. -/
def sleepEnter (s : State) : State :=
  let c := s.ch
  let s := sysReset false s
  let s := { s with ch := { s.ch with pwr := 2, crystal := !c.ref10 } }
  if c.wakeCause &&& c.wakeMask = 0 then s else leaveSleep s
/-- SLEEP is entered once every unit has quiesced (R387). -/
def sleepGate (s : State) : State :=
  if s.ch.pwr = 3 && s.ch.toSleep && s.sys.blocks.all (fun e => e.2.st != 1) then sleepEnter s else s

/-- A source of a system or power-on reset also ends SLEEP (R387). -/
def assertSrc (k : Nat) (s : State) : State := assertSrc1 k (if s.ch.pwr = 2 && 2 ≤ srcLevel k then leaveSleep s else s)

/-- The stacks whose controllers are under block reset, as a mask (R349). -/
def hbmInReset (s : State) : Nat := (List.range 12).foldl (fun m i => if (blk s 4 i).st == 4 then setBit m i else m) 0
/-- Those who wait for a core reset are answered once the cores have left reset. -/
def coresLeft (s : State) : State :=
  if s.sys.level ≠ 0 || s.sys.coreRstHeld then s
  else s.sys.rstWait.foldl (fun s w => endWait w 0 0 [] s) { s with sys := { s.sys with rstWait := [] }, mem := { s.mem with selfRef := hbmInReset s } }
/-- Source `k` is released (R483). -/
def releaseSrc (k : Nat) (s : State) : State :=
  let m := clrBit s.sys.srcs k
  let s := { s with ch := { s.ch with crystal := s.ch.crystal && (widest m == 3 || s.ch.pwr == 2) } }
  coresLeft (inlineRise { s with sys := { s.sys with
    srcs := m, srcT := mdel s.sys.srcT k, level := widest m,
    t0 := if 2 ≤ s.sys.level && widest m < 2 then now s else s.sys.t0 } })

/-- A source that lasts 10 µs. -/
def timedSrc (k : Nat) : Bool := k == 4 || k == 5 || k == 6 || k == 7 || k == 9

/-- POWER_ON_RESET: a main rail is below its operating minimum as the rails first rise. -/
def execPowerOnReset (s : State) : Host.Outcome State Fault Refusal := .next (assertSrc 0 s)
/-- SYS_RST_N. -/
def execSysRstN (s : State) : Host.Outcome State Fault Refusal := .next (assertSrc 2 s)
/-- CORE_RST_N. -/
def execCoreRstN (s : State) : Host.Outcome State Fault Refusal := .next (if s.ch.pwr = 2 then s else assertSrc 3 s)
/-- SUPPLY_TRIP: main rail `rail`, 0 to 9, has fallen. -/
def execSupplyTrip (rail : Nat) (s : State) : Host.Outcome State Fault Refusal :=
  .next (if 10 ≤ rail then s else
    let s := assertSrc 1 s
    { s with sys := { s.sys with rail := rail } })
/-- REFCLK_LOSS (R555). -/
def execRefclkLoss (s : State) : Host.Outcome State Fault Refusal :=
  .next (let s := assertSrc 10 s
    { s with sys := { s.sys with rail := 0x10 } })
/-- THERMAL_TRIP. -/
def execThermalTrip (s : State) : Host.Outcome State Fault Refusal := .next (if s.ch.pwr = 2 then s else assertSrc 8 s)
/-- RESET_RELEASE of source `k`. -/
def execResetRelease (k : Nat) (s : State) : Host.Outcome State Fault Refusal :=
  .next (if bit s.sys.srcs k && (!timedSrc k || mgetD s.sys.srcT k 0 + 10000 ≤ now s) then releaseSrc k s else s)
/-- MBX_SYS_ASSERT: 1 ms after the response to RST LEVEL 1. -/
def execMbxSysAssert (s : State) : Host.Outcome State Fault Refusal :=
  .next <| match s.sys.rstAt with
    | some t => if t ≤ now s then assertSrc 4 s else s
    | none => s
/-- REMOTE_RESET_REQUEST: inbox entry `i` asks for a system reset, on a link that is up and not MISWIRED. -/
def execRemoteResetRequest (i : Nat) (s : State) : Host.Outcome State Fault Refusal :=
  .next <| match takeIn i (fun t => ctlWhat t == 3) s with
    | none => s
    | some (t, s) => if linkUp s t.link then assertSrc 7 s else s

/-- VBK_LOSS: the always-on domain ends (R481). -/
def execVbkLoss (s : State) : Host.Outcome State Fault Refusal :=
  .next { s with ch := { s.ch with vbk := false, cnt := 0 }, sys := { s.sys with cnt := [], srcT := s.sys.srcT.map fun e => (e.1, 0) } }
/-- VBK_APPLIED: count and reset counters start from 0, the always-on fields from their power-on values (R377, R484). -/
def execVbkApplied (s : State) : Host.Outcome State Fault Refusal :=
  .next (if s.ch.vbk then s else
    { s with
      ch := { s.ch with
        vbk := true, cnt := 0, valid := false, alarm := [], alEn := 0, alEvent := 0, alFired := 0, wakeCtl := 0xF0F, wakeCause := 0, wakeMask := 0,
        countOnly := false, crystal := !s.ch.ref10 },
      sys := { s.sys with cnt := [], rail := 0xFF } })

/-! ### Sleep (R387, R390) and what follows a response -/

/-- Units that take part in the handshake, by kind. -/
def blkUnits : List (Nat × Nat) := [132, 32, 64, 8, 12, 2].zipIdx.flatMap fun e => (List.range e.1).map fun i => (e.2, i)
/-- Core `p`, and the job on it, are discarded as SLEEP is entered. -/
def discardCore (p : Nat) (s : State) : State := clearCore p (withdrawCore p (orphanCore p orphanClear s))
/-- Entry to SLEEP quiesces the unit, unless an operation already does (R47). -/
def sleepUnit (u i : Nat) (s : State) : State :=
  if (blk s u i).st ≠ 0 then s
  else match u with
    | 1 => if drained s 1 i then s else startQuiesce 1 i (some 5) none s
    | 2 => if trained (port s i) then startQuiesce 2 i (some 5) none (setPort i { port s i with st := 7, since := now s } s) else s
    | 3 => if (link s i).st = 5 then quiesceLink i (startQuiesce 3 i (some 5) none s) else s
    | 4 => startQuiesce 4 i (some 5) none s
    | _ => s
/-- Entry to SLEEP begins, the response having been sent: INLINE_OK falls, queued and running jobs are discarded, units quiesce. -/
def sleepBegin (s : State) : State :=
  if !s.ch.toSleep then s
  else
    let busy := (s.cores.filter (·.2.st != 0)).map (·.1)
    let s := { s with
      inlineOk := false, ch := { s.ch with pwr := 3 }, cjobs := [],
      insts := s.insts.map fun e => (e.1, { e.2 with queue := [], running := none }) }
    blkUnits.foldl (fun s e => sleepUnit e.1 e.2 s) (busy.foldl (fun s p => discardCore p s) s)

/-- Wake source `b` (in wake-mask bit order) fires (R387, R389, R390, R391). -/
def wakeFire (b : Nat) (s : State) : State :=
  if s.ch.pwr = 2 || s.ch.toSleep then
    let s := { s with ch := { s.ch with wakeCause := setBit s.ch.wakeCause b } }
    if s.ch.pwr = 2 && bit s.ch.wakeMask b then leaveSleep s else s
  else s

/-- Sessions that a trust-anchor command dooms close, its response having been sent (R501). -/
def closeDoomed (s : State) : State :=
  (List.range 4).foldl (fun s i => if (sess s i).opened && (sess s i).doomed then sendClose i 0 s else s) s
/-- What begins once the response to an accepted command has left: RST LEVEL 1, PWR_STATE to SLEEP, TA_ADD and TA_REMOVE. -/
def afterCmd (op : Nat) (p : Bytes) (s : State) : State :=
  if op = 0x0D01 && u8 p 0 = 1 then { s with sys := { s.sys with rstAt := some (now s + 1000000) } }
  else if op = 0x0A10 && u8 p 0 = 2 then sleepBegin s
  else if op = 0x0D10 || op = 0x0D11 then closeDoomed s
  else s
/-- The opcode and payload of the accepted command that mailbox `m` is about to complete. -/
def finishing (s : State) (m : Nat) : Option (Nat × Bytes) :=
  let x := mbx s m
  match x.st, x.ready, x.rq with
  | 2, some r, some q => if r.status = 0 then some (q.op, q.payload) else none
  | _, _, _ => none
/-- Mailbox `m` completes, and what its response was to precede follows. -/
def finishMbx (m : Nat) (s : State) : State :=
  match finishing s m with
  | some (op, p) => afterCmd op p (completeMbx m s)
  | none => completeMbx m s
/-- MBX_COMPLETE (R459). -/
def execMbxComplete (m : Nat) (s : State) : Host.Outcome State Fault Refusal :=
  .next (if helmUp s then finishMbx m s else s)

/-! ### The helm pairs (R449 to R451) -/


/-- Bulk transfers that run, by session and XID. -/
def bulksRunning (s : State) : List (Nat × Nat) :=
  (List.range 4).flatMap fun i => ((sess s i).bulk.filter fun b => !b.ended).map fun b => (i, b.xid)
/-- BULK_STATUS of a transfer, which ends. -/
def endBulk (i xid status detail : Nat) (s : State) : State :=
  let x := sess s i
  sendSeq i 0x23 0 (be 4 xid ++ be 2 status ++ zeros 2 ++ be 8 detail)
    (setSess i { x with bulk := (x.bulk.filter fun b => b.xid != xid) ++ [{ xid := xid, reading := false, ended := true }] } s)
/-- Every unacknowledged frame of session `i` is sent again, counted (R472). -/
def resend (i : Nat) (s : State) : State :=
  let x := sess s i
  if x.unacked.isEmpty then s
  else errc 0x320 0x32C 4 x.unacked.length (x.unacked.foldl (fun s f => frameOut i f.type f.flags f.fseq f.body s)
    (setSess i { x with ackT := now s } s))

/-- The standby pair takes over (R450): completed commands answer, those without effect start again, sessions go on. -/
def takeover (s : State) : State :=
  let old := s.helm.active
  let rerun := s.helm.mbx.filter fun e => e.2.st == 1 || (e.2.st == 2 && e.2.stalled)
  let bulks := bulksRunning s
  let after := (List.range 32).filterMap (finishing s)
  let s := { s with helm := { s.helm with
    active := 1 - old, standby := false, stopped := false, heldPair := some old, hs := [],
    mbx := s.helm.mbx.map fun e => (e.1, if e.2.st == 2 && e.2.stalled then { e.2 with st := 1, stalled := false } else e.2) } }
  let s := setBlk 5 old { blk s 5 old with st := 4, since := now s, op := some 0 } s
  let s := (List.range 32).foldl (fun s m => completeMbx m s) s
  let s := (List.range 4).foldl (fun s i => if (sess s i).opened then resend i s else s) s
  let s := bulks.foldl (fun s b => endBulk b.1 b.2 12 0 s) s
  let s := { s with flt := { s.flt with noStandby := true } }
  let s := raiseF { code := 0x0209, unit := helmUnit s, version := newestNum s, detail := s.helm.active } s
  let s := sendEvent 7 0 (le 1 s.helm.active ++ zeros 3 ++ le 4 rerun.length ++ le 4 bulks.length) s
  after.foldl (fun s a => afterCmd a.1 a.2 s) s

/-- HELM_TAKEOVER: the active pair has stopped and a standby is ready. -/
def execHelmTakeover (s : State) : Host.Outcome State Fault Refusal :=
  .next (if s.helm.stopped && s.helm.standby && s.sys.level < 2 then takeover s else s)
/-- The active pair stops (R449, R450, R481): with no standby that is a watchdog expiry. -/
def stopActive (s : State) : State :=
  if s.helm.standby then { s with helm := { s.helm with stopped := true } } else assertSrc 6 s
/-- HELM_LOCKSTEP_STOP of pair `i`: a standby pair that stops is no standby any more. -/
def execHelmLockstepStop (i : Nat) (s : State) : Host.Outcome State Fault Refusal :=
  .next <|
    if !s.sys.rom || 2 ≤ s.sys.level || s.ch.pwr = 2 || 2 ≤ i then s
    else if i = s.helm.active then stopActive s
    else { s with helm := { s.helm with standby := false } }
/-- WATCHDOG_EXPIRY: 250 ms without a kick of the firmware. -/
def execWatchdogExpiry (s : State) : Host.Outcome State Fault Refusal := .next (if fwUp s && s.ch.pwr != 2 then stopActive s else s)
/-- STANDBY_SELF_TEST: the pair that is not active passes or fails its self-test. -/
def execStandbySelfTest (pass : Bool) (s : State) : Host.Outcome State Fault Refusal :=
  .next (if fwUp s && s.helm.heldPair.isNone && (blk s 5 (1 - s.helm.active)).st == 0 then
    { s with helm := { s.helm with standby := pass }, flt := { s.flt with noStandby := !pass } } else s)

/-! ### RST, BLK_CTL, QUIESCE_SET, RST_REMOTE -/

/-- RST (0x0D01): LEVEL 1 takes effect 1 ms after its response, LEVEL 2 now. -/
def rst (c : Call) (s : State) : CmdRes :=
  let l := u8 c.p 0
  rows [(2, c.p.length != 4), (3, (l != 1 && l != 2) || !zeroAt c.p 1 3)] s <|
    if l = 1 then okay s
    else { waits := true, s := assertSrc 5 { s with sys := { s.sys with rstWait := s.sys.rstWait ++ [c.who] } } }

/-- Units of a kind. -/
def blkCount (s : State) (u : Nat) : Nat := [s.nv.cores, 32, 64, 8, 12, 2].getD u 0
/-- The unit is disabled. -/
def blkOff (s : State) (u i : Nat) : Bool :=
  match u with
  | 2 => !(port s i).en && (port s i).st == 0
  | 3 => !(link s i).en && (link s i).st == 0
  | _ => (blk s u i).st == 5
/-- BLK_CTL (0x0D02). -/
def blkCtl (c : Call) (s : State) : CmdRes :=
  let u := u8 c.p 0
  let op := u8 c.p 1
  let n := leAt c.p 2 2
  let i := if u = 0 then physOf s n else n
  rows [
    (2, c.p.length != 8),
    (3, 5 < u || 2 < op || (op != 0 && 4 ≤ u) || !zeroAt c.p 4 4),
    (4, blkCount s u ≤ n),
    (11, (u == 0 && bit s.nv.coreRetired i) || (u == 1 && bit s.nv.cmpRetired i) || (u == 3 && bit s.nv.linkRetired i)),
    (9, (op == 1 && u == 0 && placedOn s n) || (op == 2 && !blkOff s u i) || (op == 0 && u == 5 && i == s.helm.active && !s.helm.standby)),
    (6, (blk s u i).op.isSome || (blk s u i).st == 4)] s <|
    if op = 0 then
      if u = 5 && i = s.helm.active then
        let s := takeover s
        { waits := true, s := setBlk 5 i { blk s 5 i with who := some c.who } s }
      else if blkOff s u i then okay (clearUnit u i s)
      else
        let s := match u with
          | 2 => if trained (port s i) then setPort i { port s i with st := 7, since := now s } s else s
          | 3 => if (link s i).st = 5 then quiesceLink i s else s
          | _ => s
        { waits := true, s := startQuiesce u i (some 0) (some c.who) s }
    else if op = 1 then
      if blkOff s u i then okay s
      else
        let s := match u with | 2 => clrPortEn i s | 3 => clrLinkEn i s | _ => s
        { waits := true, s := startQuiesce u i (some 1) (some c.who) s }
    else
      let s := setBlk u i {} s
      okay (match u with | 2 => setPortEn i s | 3 => setLinkEn i s | _ => s)

/-- QUIESCE_SET (0x0D03). -/
def quiesceSet (c : Call) (s : State) : CmdRes :=
  let t := leAt c.p 0 4
  rows [(2, c.p.length != 4), (4, t == 0 || 10000 < t)] s (okay { s with sys := { s.sys with quiesceUs := t } })

/-- RST_REMOTE (0x0D04): the request leaves on the link, and the command waits until it has been acknowledged. -/
def rstRemote (c : Call) (s : State) : CmdRes :=
  let n := u8 c.p 0
  rows [
    (2, c.p.length != 4),
    (3, 7 < n || !zeroAt c.p 1 3),
    (11, bit s.nv.linkRetired n),
    (9, !linkUp s n || s.chip.isNone)] s <|
    let dest := match (link s n).partner with | some (d, _, _) => d | none => 0
    let (tag, s) := newTag (helmUnit s) 5 dest c.seq (newestNum s) 0xFFFFFFFF 7 0 false false s
    let f := pathFrame (be 2 dest ++ [1, 0] ++ be 6 n) (tagBytes tag) (ctlPrefix 3 c.anchored)
    { waits := true, s := enqueue n f { s with cl := { s.cl with rstReqs := s.cl.rstReqs ++ [{ who := c.who, link := n, frame := f }] } } }

/-- RST. -/
def execRst (r : Req) (s : State) : Host.Outcome State Fault Refusal := .next (mbxRow 0x0D01 rst r s)
/-- BLK_CTL. -/
def execBlkCtl (r : Req) (s : State) : Host.Outcome State Fault Refusal := .next (mbxRow 0x0D02 blkCtl r s)
/-- QUIESCE_SET. -/
def execQuiesceSet (r : Req) (s : State) : Host.Outcome State Fault Refusal := .next (mbxRow 0x0D03 quiesceSet r s)
/-- RST_REMOTE. -/
def execRstRemote (r : Req) (s : State) : Host.Outcome State Fault Refusal := .next (mbxRow 0x0D04 rstRemote r s)

end Sys2Proof.Machine
end

