-- ==== Sys2Proof/Machine/Heave.lean ====
section
/-! DEFINITION. Markers that arrive and the resume from a heave-to (R424, R538, R541, R542). -/

namespace Sys2Proof.Machine

open Sys2Proof

/-- The data flits that link `n` has held back are delivered in order, and their buffers freed. -/
def releaseHeld (n : Nat) (s : State) : State :=
  let l := (link s n).held
  let s := setLink n { link s n with held := [] } s
  pumpLink n (l.foldl (fun s r => takeFlit n r.1 r.2 (giveBack n (u8 r.2 0 / 16 % 4) s)) s)

/-- HEAVE_TO_MARKER: a marker that arrived on link `n` (R424, R538). -/
def execHeaveToMarker (n : Nat) (s : State) : Host.Outcome State Fault Refusal :=
  .next <| match (link s n).marker with
    | none => s
    | some (h, t) =>
      let s := setLink n { link s n with marker := none } s
      let close := fun s : State =>
        { s with hv := { s.hv with links := mupd s.hv.links n {} fun x => { x with got := true, markerT := t } } }
      if holding s then close s
      else if s.hv.ever && s.hv.num == h then releaseHeld n s
      else close (heaveStop h t true s)

/-- The quiesce timeouts of stopped units and the sync timeout of R340 go on with the time they had left, `d` ns later. -/
def shiftTimeouts (d : Nat) (s : State) : State :=
  { s with
    sys := { s.sys with blocks := s.sys.blocks.map fun e => if e.1 < 3 * 65536 then (e.1, { e.2 with since := e.2.since + d }) else e },
    cores := s.cores.map fun c => (c.1, { c.2 with run := c.2.run.map fun q =>
      if q.1 = 13 then (q.1, q.2.map fun e => { e with sent := e.sent + d }) else q }) }

/-- The islands restart. -/
def resume (s : State) : State :=
  let d := now s - s.hv.stopT
  let s := { s with hv := { s.hv with st := 0, islands := [], links := [], round := none, divs := [] } }
  let s := if s.sys.coreRstHeld then
      coresLeft (coreReset { s with sys := { s.sys with coreRstHeld := false } }) else s
  let s := shiftTimeouts d s
  let s := (List.range 64).foldl (fun s q => if (port s q).pend.isEmpty then s else loseVerdicts q s) s
  let s := (List.range 64).foldl (fun s q => takeHeld q s) s
  let s := (List.range 8).foldl (fun s n => releaseHeld n s) s
  inlineRise s

/-- HEAVE_TO_RESUME: at instant R. -/
def execHeaveToResume (s : State) : Host.Outcome State Fault Refusal :=
  .next (if s.hv.st = 3 && s.hv.r ≤ now s then resume s else s)

end Sys2Proof.Machine
end

