-- ==== Sys2Proof/Machine/Trust.lean ====
section
/-! DEFINITION. Boot (R491 to R493), firmware (R496 to R498), identity and attestation (R499, R500), trust anchors (R501) and debug
unlock (R502 to R504). -/

namespace Sys2Proof.Machine

open Sys2Proof

/-! ### Strap (R491, R492) -/

/-- BOOT_SRC, TIME_REF and DBG_FREE of each band, as CW_STRAP [3:0]. -/
def strapBands : List Nat := [3, 7, 2, 6, 8, 12, 9, 13, 10, 14, 11, 15, 5, 1, 4, 0]
/-- The mean of 16 samples, rounded down, and their span. -/
def strapMean (l : List Nat) : Nat := l.foldl (· + ·) 0 / 16
def strapSpan (l : List Nat) : Nat := l.foldl max 0 - l.foldl min 255
/-- CW_STRAP for 16 samples: an unstable reading takes band 0. -/
def strapOf (l : List Nat) : Nat :=
  let m := strapMean l
  strapBands.getD (if 6 < strapSpan l then 0 else m / 16) 0 + 16 * m
def bootSrc (s : State) : Nat := bits s.sys.strap 1 0
def dbgFree (s : State) : Bool := bit s.sys.strap 3

/-! ### Boot (R493, R499, R508, R510) -/

/-- A record written after boot for a cause bit (R510). -/
def fromReset (code unit detail : Nat) (s : State) : State :=
  raiseF { code := code, unit := unit, flags := 1, version := newestNum s, detail := detail } s
/-- The records for the cause bits that resets have set since the previous firmware start (R508). -/
def bootRecords (s : State) : State :=
  let c := s.sys.causeNew
  let s := if bit c 1 then fromReset 0x0802 (helmUnit s) s.sys.rail s else s
  let s := if bit c 6 then fromReset 0x0208 0xF0 0 s else s
  let s := if bit c 8 then fromReset 0x0801 (helmUnit s) 2 s else s
  { s with sys := { s.sys with causeNew := 0 } }

/-- BOOT_ROM_START: the strap's samples, whether the identity could be reconstructed, and the MRAM records found torn. -/
def execBootRomStart (samples : List Nat) (idOk : Bool) (torn : List Nat) (s : State) : Host.Outcome State Fault Refusal :=
  .next <|
    if s.sys.rom || 2 ≤ s.sys.level || s.ch.pwr = 2 || samples.length ≠ 16 || samples.any fun x => 255 < x then s
    else
      let w := strapOf samples
      let s := { s with
        sys := { s.sys with rom := true, strap := w, idOk := idOk, boot := if !idOk then 4 else if w % 4 = 3 then 3 else 1 },
        ch := { s.ch with source := 1 + bits w 2 2 } }
      let s := [0, 1].foldl (fun s p => setBxPort p { bxPort s p with txOn := true } s) s
      let s := if 6 < strapSpan samples then
          raiseF { code := 0x0804, unit := helmUnit s, detail := strapMean samples + 256 * strapSpan samples } s else s
      let s := torn.foldl (fun s r => raiseF { code := 0x020A, unit := helmUnit s, detail := r % 65536 } s) s
      if idOk then s else raiseF { code := 0x0704, unit := helmUnit s } s

/-- The first field of an image that breaks R496, by its offset. -/
def imageFault (m : Mem) : Option Nat :=
  firstFail <|
    chk (Mem.leAt m 0 4 != 0x5746594E) 0 ++ chk (Mem.leAt m 4 2 != 1) 4 ++ chk (!Mem.zeroAt m 6 2) 6 ++ chk (!Mem.zeroAt m 11 1) 8 ++
    chk (Mem.leAt m 16 4 == 0 || 4194176 < Mem.leAt m 16 4) 16 ++ chk (1 < Mem.leAt m 20 1) 20 ++ chk (!Mem.zeroAt m 21 43) 21
/-- The firmware digest of an image. -/
def fwDigest (m : Mem) : Bytes := sha256 (Mem.bytes m 0 (64 + Mem.leAt m 16 4))
/-- The image passes the verification of R497, its signature apart. -/
def imageOk (s : State) (m : Mem) : Bool := (imageFault m).isNone && decide (s.nv.rollback ≤ Mem.leAt m 12 4)

/-- The boot ROM starts an image (R493): links begin to train, and the resets' records are written. -/
def startFw (m : Mem) (slot : Option Nat) (s : State) : State :=
  let s := { s with sys := { s.sys with
    boot := 2, fwVer := Mem.leAt m 8 4, svn := Mem.leAt m 12 4, fwDigest := fwDigest m, fwSlot := slot } }
  (List.range 8).foldl (fun s n => startLink n s) (bootRecords s)
/-- The slots in the order in which the boot ROM tries them. -/
def slotOrder (s : State) : List Nat :=
  let l := s.nv.pending.toList ++ s.nv.active.toList ++ [0, 1]
  (l.foldl (fun a x => if a.contains x then a else a ++ [x]) []).take 2

/-- FIRMWARE_START: for BOOT_SRC 0, bit k of `sig` says that the image of slot k carries a signature that verifies. -/
def execFirmwareStart (sig : Nat) (s : State) : Host.Outcome State Fault Refusal :=
  .next <|
    if !s.sys.rom || 2 ≤ s.sys.level || s.sys.boot ≠ 1 || bootSrc s ≠ 0 then s
    else
      let tried := slotOrder s
      let good := fun k => bit sig k && (match mget s.nv.slots k with | some i => imageOk s i.data | none => false)
      let s := { s with nv := { s.nv with pending := none } }
      match tried.find? good with
      | some k => startFw ((mget s.nv.slots k).getD { len := 0 }).data (some k) s
      | none =>
        raiseF { code := 0x0703, unit := helmUnit s, detail := tried.foldl setBit 0 } { s with sys := { s.sys with boot := 4 } }

/-- HBM_INIT_COMPLETE: the stacks are initialised, repairs made permanent (R357, R493). -/
def execHbmInitComplete (s : State) : Host.Outcome State Fault Refusal :=
  .next (if fwUp s && s.ch.pwr != 2 then { s with
    mem := { s.mem with ready := true },
    nv := { s.nv with repaired := s.nv.repaired.map fun r => (r.1, r.2.1, true) } } else s)

/-! ### Firmware commands -/

/-- FW_LOAD (0x0D40). -/
def fwLoad (c : Call) (s : State) : CmdRes :=
  let off := leAt c.p 0 4
  rows (stageRows c 0 4194304 (!zeroAt c.p 8 8)) s <|
    let b := c.p.drop 16
    let old := if off = 0 then ([], 0) else (s.sys.load, s.sys.loaded)
    okay { s with sys := { s.sys with
      load := Mem.store old.1 off b,
      loaded := (List.range (b.length / 32)).foldl (fun m k => setBit m (off / 32 + k)) old.2 } }
/-- Every byte of the first `n` of the load buffer has been written. -/
def loadedAll (s : State) (n : Nat) : Bool := (s.sys.loaded + 1) % 2 ^ ((n + 31) / 32) == 0
/-- FW_INSTALL (0x0D41): OP 0 into the slot that is not ACTIVE, OP 1 starts the buffer. -/
def fwInstall (c : Call) (s : State) : CmdRes :=
  let op := u8 c.p 0
  let m := s.sys.load
  let bad := imageFault m
  rows [(2, c.p.length != 4), (3, 1 < op || !zeroAt c.p 1 3)] s <|
    if bad.isSome then rejAt 3 (bad.getD 0) s
    else
      rows [
        (9, !loadedAll s (128 + Mem.leAt m 16 4) || (op == 1 && !romMode s) || (op == 0 && romMode s && s.sys.boot != 3 && s.sys.boot != 4)),
        (8, !c.cr.sigOk),
        (7, decide (Mem.leAt m 12 4 < s.nv.rollback))] s <|
        if op = 1 then okay (startFw m none s)
        else
          let k := if s.nv.active = some 0 then 1 else 0
          okay { s with nv := { s.nv with
            slots := mset s.nv.slots k { len := 128 + Mem.leAt m 16 4, data := m.filter fun e => e.1 < 128 + Mem.leAt m 16 4 },
            pending := some k } }
/-- FW_CONFIRM (0x0D42): an image that runs from the load buffer has no slot to mark. -/
def fwConfirm (c : Call) (s : State) : CmdRes :=
  rows [
    (2, !c.p.isEmpty),
    (9, (s.sys.fwSlot.isNone || s.sys.fwSlot == s.nv.active) && s.sys.svn ≤ s.nv.rollback)] s <|
    okay { s with nv := { s.nv with
      active := if s.sys.fwSlot.isSome then s.sys.fwSlot else s.nv.active, rollback := max s.nv.rollback s.sys.svn } }

/-! ### Attestation (R499, R500) -/

/-- The identity public key, and its SHA-256. -/
def idKey : Bytes := padTo 65 Config.identityKey
def idHash : Bytes := sha256 idKey
/-- CW_RESET_CNT_n. -/
def resetCnt (s : State) (n : Nat) : Nat := mgetD s.sys.cnt n 0
/-- Debug is unlocked. -/
def unlocked (s : State) : Bool := s.sys.dbg != 0

/-- Model entries (R500): model, LIVE and digest, in ascending model order, the newest first. -/
def modelEntries (s : State) : List (Nat × Nat × Bytes) :=
  let new := s.ver.newest.objs.models
  let old := match s.ver.older with | some (l, _) => l.objs.models | none => []
  (List.range 256).flatMap fun n =>
    let d := fun (m : Model) => padTo 32 m.digest
    match mget new n, mget old n with
    | none, none => []
    | some a, none => [(n, 1, d a)]
    | none, some b => [(n, 2, d b)]
    | some a, some b => if d a = d b then [(n, 3, d a)] else [(n, 1, d a), (n, 2, d b)]
/-- The report up to its signature. -/
def attestBody (s : State) (nonce : Bytes) (first : Nat) : Bytes :=
  let l := modelEntries s
  let e := (l.drop first).take 92
  let older := s.ver.older.map (·.1)
  le 2 1 ++ le 2 (chipId s) ++
  le 1 (b2n s.chip.isSome + 2 * b2n (unlocked s) + 4 * b2n (!s.nv.anchors.isEmpty) + 8 * s.helm.active) ++ le 1 (s.sys.strap % 16) ++ zeros 2 ++
  le 8 (now s) ++ padTo 32 nonce ++ padTo 32 s.sys.fwDigest ++ le 4 s.sys.fwVer ++ le 4 s.sys.svn ++ le 4 s.nv.rollback ++
  le 4 (resetCnt s 0) ++ le 4 (resetCnt s 1) ++ le 4 (resetCnt s 2) ++ le 4 s.sys.cause ++ le 2 (newestNum s) ++
  le 2 ((older.map (·.num)).getD 0) ++ padTo 32 (newestBearing s) ++ padTo 32 ((older.map (·.bearing)).getD []) ++
  padTo 65 (Config.attestKey s.sys.fwDigest) ++ zeros 3 ++ padTo 64 (Config.endorsement s.sys.fwDigest) ++
  le 2 l.length ++ le 2 first ++ le 2 e.length ++ zeros 2 ++ e.flatMap fun x => le 1 x.1 ++ le 1 x.2.1 ++ zeros 6 ++ x.2.2

/-- ATTEST (0x0D20). -/
def attest (c : Call) (s : State) : CmdRes :=
  let n := (modelEntries s).length
  let first := leAt c.p 32 2
  rows [(2, c.p.length != 40), (3, !zeroAt c.p 34 6), (4, n != 0 && n ≤ first)] s <|
    let b := attestBody s (c.p.take 32) first
    let (k, s) := draw s
    reply (b ++ padTo 64 (Config.signature (Config.attestKey s.sys.fwDigest) b k)) s

/-- CERT_READ (0x0D21). -/
def certRead (c : Call) (s : State) : CmdRes := rows [(2, !c.p.isEmpty)] s (reply (Config.certificate.take 1024) s)

/-! ### Trust anchors (R474, R501) -/

/-- TA_ADD (0x0D10). -/
def taAdd (c : Call) (s : State) : CmdRes :=
  let k := u8 c.p 0
  let n := leAt c.p 4 2
  rows [
    (2, c.p.length != 8 + n),
    (3, 7 < k || n == 0 || 1024 < n || !c.cr.sigOk || 2 ≤ u8 c.p 1 || leAt c.p 2 2 != 0 || leAt c.p 6 2 != 0),
    (9, (mget s.nv.anchors k).isSome),
    (8, !s.nv.anchors.isEmpty && !c.anchored)] s <|
    let first := s.nv.anchors.isEmpty
    let s := (List.range 4).foldl (fun s i =>
      let x := sess s i
      if !x.opened then s
      else if bit c.cr.chain i then setSess i { x with anchors := setBit x.anchors k, anchored := true } s
      else if first then setSess i { x with doomed := true } s
      else s) s
    okay { s with nv := { s.nv with anchors := mset s.nv.anchors k (u8 c.p 1, c.p.drop 8) } }

/-- TA_REMOVE (0x0D11). -/
def taRemove (c : Call) (s : State) : CmdRes :=
  let k := u8 c.p 0
  rows [(2, c.p.length != 4), (3, 7 < k || !zeroAt c.p 1 3), (13, (mget s.nv.anchors k).isNone)] s <|
    let s := (List.range 4).foldl (fun s i =>
      let x := sess s i
      if x.opened && bit x.anchors k then
        setSess i { x with anchors := clrBit x.anchors k, doomed := x.doomed || clrBit x.anchors k == 0 } s
      else s) s
    okay { s with nv := { s.nv with anchors := mdel s.nv.anchors k } }

/-! ### Debug unlock (R502 to R504) -/

/-- Debug is locked again. -/
def lockDebug (s : State) : State := { s with sys := { s.sys with dbg := 0, dbgExp := none } }
/-- Debug is unlocked for `scopes`. -/
def unlockDebug (scopes : Nat) (exp : Option Nat) (free : Bool) (s : State) : State :=
  raiseF { code := 0x0701, unit := helmUnit s, version := newestNum s, detail := scopes + 8 * b2n free }
    { s with sys := { s.sys with dbg := scopes, dbgExp := exp } }

/-- DBG_CHALLENGE (0x0D30). -/
def dbgChallenge (c : Call) (s : State) : CmdRes :=
  rows [(2, !c.p.isEmpty)] s <|
    let (k, s) := draw s
    let x := padTo 32 (Config.entropy k)
    reply (x ++ idHash) { s with sys := { s.sys with challenge := some (x, now s) } }

/-- An installed anchor that has DEBUG set, or the vendor's debug root, signs the token (R504). -/
def debugRoot (s : State) (chain : Nat) : Bool :=
  bit chain 8 || s.nv.anchors.any fun e => bit chain e.1 && bit e.2.1 0

/-- DBG_UNLOCK (0x0D31). -/
def dbgUnlock (c : Call) (s : State) : CmdRes :=
  let n := leAt c.p 48 2
  if c.p.isEmpty && dbgFree s then rows [(8, !c.anchored)] s (okay (unlockDebug 7 none true s))
  else
    let scope := leAt c.p 40 4
    let exp := leAt c.p 32 8
    let cur := match s.sys.challenge with | some (_, t) => decide (now s ≤ t + 60000000000) | none => false
    rows [
      (2, c.p.length != 116 + n),
      (3, scope == 0 || 7 < scope || n == 0 || 1024 < n || !zeroAt c.p 44 4 || leAt c.p 50 2 != 0),
      (9, !cur)] s <|
      let same := match s.sys.challenge with | some (x, _) => x == c.p.take 32 | none => false
      let s := { s with sys := { s.sys with challenge := none } }
      rows [(4, exp ≤ now s), (8, !c.cr.sigOk || !debugRoot s c.cr.chain || !same || !c.anchored)] s
        (okay (unlockDebug scope (some exp) false s))

/-- CW_DBG_LOCK: a write of 1 to CW_DBG.LOCK. -/
def execCwDbgLock (s : State) : Host.Outcome State Fault Refusal := .next (if helmUp s then lockDebug s else s)
/-- DEBUG_EXPIRY. -/
def execDebugExpiry (s : State) : Host.Outcome State Fault Refusal :=
  .next <| match s.sys.dbgExp with
    | some t => if t ≤ now s then lockDebug s else s
    | none => s

/-- ATTEST. -/
def execAttest (r : Req) (s : State) : Host.Outcome State Fault Refusal := .next (mbxRow 0x0D20 attest r s)
/-- CERT_READ. -/
def execCertRead (r : Req) (s : State) : Host.Outcome State Fault Refusal := .next (mbxRow 0x0D21 certRead r s)
/-- TA_ADD. -/
def execTaAdd (r : Req) (s : State) : Host.Outcome State Fault Refusal := .next (mbxRow 0x0D10 taAdd r s)
/-- TA_REMOVE. -/
def execTaRemove (r : Req) (s : State) : Host.Outcome State Fault Refusal := .next (mbxRow 0x0D11 taRemove r s)
/-- DBG_CHALLENGE. -/
def execDbgChallenge (r : Req) (s : State) : Host.Outcome State Fault Refusal := .next (mbxRow 0x0D30 dbgChallenge r s)
/-- DBG_UNLOCK. -/
def execDbgUnlock (r : Req) (s : State) : Host.Outcome State Fault Refusal := .next (mbxRow 0x0D31 dbgUnlock r s)
/-- FW_LOAD. -/
def execFwLoad (r : Req) (s : State) : Host.Outcome State Fault Refusal := .next (mbxRow 0x0D40 fwLoad r s)
/-- FW_INSTALL. -/
def execFwInstall (r : Req) (s : State) : Host.Outcome State Fault Refusal := .next (mbxRow 0x0D41 fwInstall r s)
/-- FW_CONFIRM. -/
def execFwConfirm (r : Req) (s : State) : Host.Outcome State Fault Refusal := .next (mbxRow 0x0D42 fwConfirm r s)

end Sys2Proof.Machine
end

