-- ==== Sys2Proof/Machine/Power.lean ====
section
/-! DEFINITION. The damper and the thermal state (R513, R550 to R554), and the power states with their wake sources (R385 to R391). -/

namespace Sys2Proof.Machine

open Sys2Proof

/-! ### Temperatures (R513, R552, R553) -/

/-- A junction sensor's reading in 1/16 °C. -/
def tjOf (s : State) (k : Nat) : Option Int := (mget s.pw.tj k).map (toSigned 16)
/-- The hottest of some readings, with its number; the lowest number among equals. -/
def hottest (l : List (Nat × Int)) : Option (Nat × Int) :=
  l.foldl (fun a x => match a with | none => some x | some y => if y.2 < x.2 then some x else a) none
/-- The hottest junction sensor, once any has been read. -/
def tjMax (s : State) : Option (Nat × Int) := hottest ((List.range 48).filterMap fun k => (tjOf s k).map fun t => (k, t))
/-- The hottest stack, once any has been read. -/
def hbmMax (s : State) : Option (Nat × Int) :=
  hottest ((List.range 12).filterMap fun k => (mget s.mem.temps k).map fun t => (k, toSigned 16 t))
/-- A reading as PWR_READ and SMBus show it: 0x8000 until read (R557). -/
def tempWord (x : Option (Nat × Int)) : Nat := match x with | some (_, t) => ofSigned 16 t | none => 0x8000
/-- Some stack reports 95 °C or more. -/
def hbmHot (s : State) : Bool := match hbmMax s with | some (_, t) => decide (1520 ≤ t) | none => false
/-- Every value lies below 90 °C. -/
def allCool (x : Option (Nat × Int)) : Bool := match x with | some (_, t) => decide (t < 1440) | none => true
/-- The 48 junction sensors are read. -/
def readTj (l : List Nat) (s : State) : State :=
  { s with pw := { s.pw with tj := (List.range 48).map fun k => (k, l.getD k 0 % 65536) } }

/-- THERMAL_WARNING (R513): a junction sensor reads `temp` sixteenths of a °C. -/
def execThermalWarning (sensor temp : Nat) (s : State) : Host.Outcome State Fault Refusal :=
  .next <|
    if down s || 48 ≤ sensor || toSigned 16 temp < 1520 then s
    else
      let s := { s with pw := { s.pw with tj := mset s.pw.tj sensor (temp % 65536) } }
      if s.flt.hot then s
      else raiseF { code := 0x0801, unit := helmUnit s, version := newestNum s, detail := 1 + 256 * sensor + 65536 * (temp % 65536) }
        { s with flt := { s.flt with hot := true } }
/-- THERMAL_WARNING_CLEAR (R513): all 48 sensors read below 90 °C. -/
def execThermalWarningClear (tj : List Nat) (s : State) : Host.Outcome State Fault Refusal :=
  .next <|
    if down s || tj.length ≠ 48 || !tj.all fun t => decide (toSigned 16 t < 1440) then s
    else
      let s := readTj tj s
      { s with flt := { s.flt with hot := false } }
/-- WORKING_CAP_STEP (R552): each ms, with the sensors' readings. -/
def execWorkingCapStep (tj : List Nat) (s : State) : Host.Outcome State Fault Refusal :=
  .next <|
    if down s || tj.length ≠ 48 then s
    else
      let s := readTj tj s
      let w := s.pw.work
      let w' := if s.flt.hot || hbmHot s then max 900 (w - 25)
        else if allCool (tjMax s) && allCool (hbmMax s) then min s.pw.cap (w + 25) else w
      { s with pw := { s.pw with work := w' } }

/-! ### The damper (R550, R551) -/

/-- Where the damper's counters lie (R554). -/
def basePwr : Nat := baseObs + 0x10600
/-- Clock division level of a core island. -/
def divOf (s : State) (p : Nat) : Nat := mgetD s.pw.div p 0
/-- Active core islands below division 8, in rotation from where it stands: first those that were busy. -/
def divNext (s : State) (busy : Nat) : Option Nat :=
  let order := (List.range 132).map fun k => (s.pw.rot + k) % 132
  let may := order.filter fun p => (logOf s p).isSome && decide (divOf s p < 3)
  match may.find? fun p => bit busy p with
  | some p => some p
  | none => may.head?
/-- One step more. -/
def damperStep (busy : Nat) (s : State) : State :=
  match divNext s busy with
  | some p => { s with pw := { s.pw with
      div := mset s.pw.div p (divOf s p + 1), steps := p :: s.pw.steps, rot := (p + 1) % 132 } }
  | none =>
    if s.pw.hold < fullHold then { s with pw := { s.pw with hold := s.pw.hold + 1, steps := 132 :: s.pw.steps } }
    else if s.pw.floor then s
    else errc (basePwr + 0x10) (basePwr + 0x14) 0 1 { s with pw := { s.pw with floor := true } }
/-- The last step is undone. -/
def damperUndo (s : State) : State :=
  match s.pw.steps with
  | [] => s
  | p :: r =>
    let s := { s with pw := { s.pw with steps := r, undone := now s, floor := false } }
    if p = 132 then { s with pw := { s.pw with hold := s.pw.hold - 1 } }
    else { s with pw := { s.pw with div := msetD s.pw.div p (divOf s p - 1) 0 } }

/-- A measurement of `mw` enters the averages and the energy. -/
def measure (rails : List Nat) (mw : Nat) (s : State) : State :=
  let x := s.pw
  let w := (mw :: x.win).take 10
  let full := x.msN + 1 = 1000
  { s with pw := { x with
    rails := (List.range 11).map fun k => (k, rails.getD k 0 % 65536),
    win := w, avg := w.foldl (· + ·) 0 / w.length, energy := x.energy + mw,
    avgMs := if full then (x.msSum + mw) / 1000000 else x.avgMs,
    msSum := if full then 0 else x.msSum + mw, msN := if full then 0 else x.msN + 1 } }

/-- DAMPER_MEASURE: each 1 µs, the rails in mV, the package power in mW and the core islands whose arrays or matrix-vector paths
were busy in the last 1 µs. -/
def execDamperMeasure (rails : List Nat) (mw busy : Nat) (s : State) : Host.Outcome State Fault Refusal :=
  .next <|
    if down s then s
    else
      let s := measure rails mw s
      let a := s.pw.avg
      if 1000 * s.pw.work < a then damperStep busy { s with pw := { s.pw with below := none } }
      else
        let s := { s with pw := { s.pw with floor := false } }
        if 970 * s.pw.work ≤ a then { s with pw := { s.pw with below := none } }
        else match s.pw.below with
          | none => { s with pw := { s.pw with below := some (now s) } }
          | some t => if t + 100000 ≤ now s && s.pw.undone + 10000 ≤ now s then damperUndo s else s

/-- PWR_CAP (0x1001): the working cap keeps its distance below the set cap (R550, R552). -/
def pwrCap (c : Call) (s : State) : CmdRes :=
  let w := leAt c.p 0 2
  rows [(2, c.p.length != 4), (3, leAt c.p 2 2 != 0), (4, w < 900 || 1850 < w)] s <|
    okay { s with pw := { s.pw with cap := w, work := max 900 (w - (s.pw.cap - s.pw.work)) } }

/-- PWR_READ (0x1002): the 48 bytes of R553. -/
def pwrRead (c : Call) (s : State) : CmdRes :=
  rows [(2, !c.p.isEmpty)] s <|
    let x := s.pw
    let num := fun (m : Option (Nat × Int)) => match m with | some (k, _) => k | none => 0
    reply (le 4 x.avg ++ le 2 x.cap ++ le 2 x.work ++ le 2 (tempWord (tjMax s)) ++ le 1 (num (tjMax s)) ++
      le 1 (b2n (!x.steps.isEmpty) + 2 * b2n x.floor + 4 * b2n s.flt.hot + 8 * b2n (hbmHot s)) ++ le 2 (tempWord (hbmMax s)) ++
      le 1 (num (hbmMax s)) ++ [0] ++ ((List.range 11).flatMap fun k => le 2 (mgetD x.rails k 0)) ++ zeros 2 ++
      le 8 (x.energy / 1000000)) s

/-! ### Power states (R385 to R387) -/

/-- Every instance is idle. -/
def allIdle (s : State) : Bool := s.insts.all (fun e => e.2.running.isNone) && s.cores.all fun c => c.2.st == 0

/-- PWR_STATE (0x0A10). -/
def pwrState (c : Call) (s : State) : CmdRes :=
  let t := u8 c.p 0
  let m := u8 c.p 1
  rows [
    (2, c.p.length != 4),
    (3, 2 < t || (if t = 2 then m == 0 else m != 0) || leAt c.p 2 2 != 0),
    (9, t == s.ch.pwr || holding s),
    (6, s.ch.pwr == 3 || s.ch.toSleep)] s <|
    match t with
    | 0 => okay { s with ch := { s.ch with pwr := 0 } }
    | 1 =>
      let s := s.cores.foldl (fun s e => if e.2.st != 0 && (blk s 0 e.1).st == 0 then startQuiesce 0 e.1 none none s else s) s
      okay { s with ch := { s.ch with pwr := 3, toSleep := false } }
    | _ => okay { s with ch := { s.ch with toSleep := true, wakeMask := m, wakeCause := 0 } }

/-- BANKED_ENTRY: every instance is idle, and the core islands stop (R386). -/
def execBankedEntry (s : State) : Host.Outcome State Fault Refusal :=
  .next (if s.ch.pwr = 3 && !s.ch.toSleep && allIdle s && !frozen s then { s with ch := { s.ch with pwr := 1 } } else s)
/-- COUNT_ONLY_ENTRY: while the always-on domain counts, no 10 MHz edge for 1 µs (R377). -/
def execCountOnlyEntry (s : State) : Host.Outcome State Fault Refusal :=
  .next (if coarse s && !s.ch.ref10 then { s with ch := { s.ch with crystal := true } } else s)

/-! ### Alarms and wake sources (R389, R390) -/

/-- Alarm `n` fires where it is armed and its value has been reached (R389). -/
def alarmFire (n : Nat) (s : State) : State :=
  let c := s.ch
  let a := mgetD c.alarm n 0
  if 4 ≤ n || !bit c.alEn n || !c.vbk || now s < a then s
  else
    let s := { s with ch := { c with alEn := clrBit c.alEn n, alFired := setBit c.alFired n } }
    wakeFire n (if bit c.alEvent n && c.pwr != 2 then sendEvent 5 0 (le 1 n ++ zeros 7 ++ le 8 a) s else s)
/-- ALARM_FIRE. -/
def execAlarmFire (n : Nat) (s : State) : Host.Outcome State Fault Refusal := .next (alarmFire n s)

/-- Threshold of a WAKE pin in mV, and whether it fires below it (R390, R392). -/
def wakeThr (s : State) (n : Nat) : Nat := (bits s.ch.wakeCtl (8 * n + 3) (8 * n) + 1) * 100
def wakePol (s : State) (n : Nat) : Bool := bit s.ch.wakeCtl (8 * n + 4)
/-- `mv` lies on the POL side of pin `n`'s threshold, moved by `h` mV away from it. -/
def wakeSide (s : State) (n mv h : Nat) : Bool :=
  if wakePol s n then decide (mv < wakeThr s n + h) else decide (wakeThr s n < mv + h)
/-- WAKE_COMPARATOR_FIRE: 32 samples of pin `n` at `mv`. The output falls again only 50 mV beyond the threshold. -/
def execWakeComparatorFire (n mv : Nat) (s : State) : Host.Outcome State Fault Refusal :=
  .next <|
    if 2 ≤ n || !s.ch.vbk then s
    else
      let hi := wakeSide s n mv (if bit s.ch.wakeLvl n then 50 else 0)
      let s := { s with ch := { s.ch with wakeLvl := if hi then setBit s.ch.wakeLvl n else clrBit s.ch.wakeLvl n } }
      if wakeSide s n mv 0 then wakeFire (4 + n) s else s

/-- LIGHT_DETECT: the comparator of port `p` sees light or its end, and the port's PCS its lock. -/
def execLightDetect (p : Nat) (on lock : Bool) (s : State) : Host.Outcome State Fault Refusal :=
  .next <|
    if 2 ≤ p || !s.ch.vbk then s
    else
      let s := { s with ch := { s.ch with light := if on then setBit s.ch.light p else clrBit s.ch.light p } }
      let s := if down s then s else setBxPort p { bxPort s p with lock := on && lock } s
      if on then wakeFire (6 + p) s else s

/-- PWR_CAP. -/
def execPwrCap (r : Req) (s : State) : Host.Outcome State Fault Refusal := .next (mbxRow 0x1001 pwrCap r s)
/-- PWR_READ. -/
def execPwrRead (r : Req) (s : State) : Host.Outcome State Fault Refusal := .next (mbxRow 0x1002 pwrRead r s)
/-- PWR_STATE. -/
def execPwrState (r : Req) (s : State) : Host.Outcome State Fault Refusal := .next (mbxRow 0x0A10 pwrState r s)

end Sys2Proof.Machine
end

