-- ==== Sys2Proof/Machine/SealParser.lean ====
section
/-! DEFINITION. PG_STAGE and PG_SEAL (R105, R106): staging the parse graph and checking it whole. -/

namespace Sys2Proof.Machine

open Sys2Proof

/-! ### Entries in use (R90) -/

/-- Node `n` of the image is valid. -/
def nodeValid (g : Mem) (n : Nat) : Bool := n < Mem.leAt g 4 2 && n < 256 && bit (nodeF g n 0 1) 0
def nodeTerminal (g : Mem) (n : Nat) : Bool := bit (nodeF g n 0 1) 1
/-- First and number of the transitions, and of the extraction entries, of node `n` (R91). -/
def nodeTrans (g : Mem) (n : Nat) : Nat × Nat := let x := nodeF g n 16 2; (bits x 10 0, bits x 15 11)
def nodeExt (g : Mem) (n : Nat) : Nat × Nat := let x := nodeF g n 18 2; (bits x 9 0, bits x 14 10)
/-- `i` lies in the range. -/
def inRange (r : Nat × Nat) (i : Nat) : Bool := r.1 ≤ i && i < r.1 + r.2
/-- The valid nodes of the image. -/
def validNodes (g : Mem) : List Nat := (List.range 256).filter (nodeValid g)

/-! ### The check (R106): offsets of failing fields

DESIGN CHOICE: fields that R90, R91 and R94 give a range or no meaning are refused outside it, though R106 does not list them:
BASE_LEN above 512, LEN_OFF or SEL_OFF above 63, SLOT_BYTES above 16, node byte 3 [7:6] and transition byte 5 [7:2]. -/

/-- Header, depth table and slot table. -/
def pgHead (g : Mem) : List Nat :=
  chk (Mem.leAt g 0 2 != 1) 0 ++ chk (!nodeValid g (Mem.leAt g 2 1)) 2 ++ nz g 3 4 ++
  chk (Mem.leAt g 4 2 == 0 || 256 < Mem.leAt g 4 2) 4 ++ nz g 6 0x20 ++
  ((List.range 64).flatMap fun q => chk (depthOf g q == 544) (0x20 + q / 2)) ++
  ((List.range 48).flatMap fun k =>
    let o := 0x40 + 2 * k
    let n := slotBytes g k
    let a := slotOff g k
    if n = 0 then nz g o (o + 2)
    else
      chk (16 < n || 128 < a + n) o ++ chk (12 ≤ log2 (Mem.leAt g o 2)) (o + 1) ++
      chk ((List.range 48).any fun j => j != k && slotBytes g j != 0 && a < slotOff g j + slotBytes g j && slotOff g j < a + n) o) ++
  nz g 0xA0 0x100

/-- Node `n`. -/
def pgNode (g : Mem) (n : Nat) : List Nat :=
  let o := 0x100 + 32 * n
  let f := nodeF g n
  let t := nodeTrans g n
  let e := nodeExt g n
  let live := !nodeTerminal g n
  if !nodeValid g n then nz g o (o + 32)
  else
    chk (32 ≤ f 0 1) o ++ chk (f 1 1 % 4 == 3 || bits (f 1 1) 3 2 == 3) (o + 1) ++
    chk (live && bits (f 1 1) 3 2 == 1 && !nodeValid g (f 2 1)) (o + 2) ++
    chk (64 ≤ f 3 1 || (bit (f 0 1) 3 && Mem.leAt g (mapAt (f 3 1 % 64)) 1 == 0)) (o + 3) ++
    chk (512 < f 4 2 || (f 1 1 % 4 != 0 && f 4 2 != 0)) (o + 4) ++ chk (63 < f 6 1) (o + 6) ++ chk (4 ≤ f 8 1) (o + 8) ++
    chk (63 < f 10 1) (o + 10) ++ chk (live && 2048 < t.1 + t.2) (o + 16) ++ chk (16 < e.2 || 1024 < e.1 + e.2) (o + 18) ++
    chk (bit (f 18 2) 15) (o + 19) ++ nz g (o + 20) (o + 32)

/-- Transition `i`. -/
def pgTrans (g : Mem) (used : List (Nat × Nat)) (i : Nat) : List Nat :=
  let o := 0x2100 + 8 * i
  let c := Mem.leAt g (o + 5) 1
  if !(used.any fun r => inRange r i) || !bit c 0 then nz g o (o + 8)
  else chk (!bit c 1 && !nodeValid g (Mem.leAt g (o + 4) 1)) (o + 4) ++ chk (4 ≤ c) (o + 5) ++ nz g (o + 6) (o + 8)

/-- Extraction entry `i` (R98). -/
def pgExt (g : Mem) (used : List (Nat × Nat)) (i : Nat) : List Nat :=
  let o := 0x6100 + 4 * i
  let w := extOf g i
  let n := slotBytes g (bits w 24 19)
  if !(used.any fun r => inRange r i) then nz g o (o + 4)
  else
    chk (n != 0 && 8 * n < bits w 18 12 + 1) (o + 1) ++ chk (n == 0) (o + 2) ++
    chk (bits w 26 25 == 3 || bits w 31 30 != 0) (o + 3)

/-- Payload field map `m` (R99). -/
def pgMap (g : Mem) (m : Nat) : List Nat :=
  let o := mapAt m
  let n := Mem.leAt g o 1
  let k := Mem.leAt g (o + 1) 1
  let q := Mem.leAt g (o + 2) 1
  if n = 0 then nz g o (o + 136)
  else
    chk (64 < n) o ++ chk (slotBytes g k == 0) (o + 1) ++ chk (q != 0xFF && slotBytes g q == 0) (o + 2) ++ nz g (o + 3) (o + 8) ++
    ((List.range (min n 64)).flatMap fun i =>
      let a := o + 8 + 2 * i
      let w := Mem.leAt g a 2
      let ty := bits w 11 9
      chk (ty < 6 && 512 < w % 512 + (if ty < 2 then 2 else 4)) a ++ chk (5 < ty || bits w 15 12 != 0) (a + 1)) ++
    nz g (o + 8 + 2 * min n 64) (o + 136)

/-- The offset of the first failing field of a parse-graph image (R106). -/
def pgCheck (g : Mem) : Option Nat :=
  let vs := validNodes g
  let ts := (vs.filter fun n => !nodeTerminal g n).map (nodeTrans g)
  let es := vs.map (nodeExt g)
  firstFail (pgHead g ++ ((List.range 256).flatMap (pgNode g)) ++ ((List.range 2048).flatMap (pgTrans g ts)) ++
    ((List.range 1024).flatMap (pgExt g es)) ++ ((List.range 64).flatMap (pgMap g)))

/-! ### The commands -/

/-- PG_STAGE (0x0201, R105). -/
def pgStage (c : Call) (s : State) : CmdRes :=
  rows (stageRows c 0 37632 (!zeroAt c.p 8 8) ++ [(9, noRound s)]) s <|
    okay (onRound (stagePart oidPg 37632 0 (leAt c.p 0 4) (c.p.drop 16)) s)

/-- PG_SEAL (0x0202, R106). -/
def pgSeal (c : Call) (s : State) : CmdRes :=
  rows [(2, c.p.length != 0), (9, noRound s)] s <|
    match s.ver.round with
    | none => rej 9 s
    | some r =>
      if (mget r.written oidPg).isNone || !allWritten r oidPg 37632 then rej 9 s
      else match pgCheck (imgMem r.objs oidPg) with
        | some o => rejAt 3 o s
        | none => okay (setRound (r.seal 0) s)

/-- PG_STAGE. -/
def execPgStage (r : Req) (s : State) : Host.Outcome State Fault Refusal := .next (mbxRow 0x0201 pgStage r s)
/-- PG_SEAL. -/
def execPgSeal (r : Req) (s : State) : Host.Outcome State Fault Refusal := .next (mbxRow 0x0202 pgSeal r s)

end Sys2Proof.Machine
end

