-- ==== Sys2Proof/Machine/SealRules.lean ====
section
/-! DEFINITION. RC_STAGE, RC_DELETE and RC_SEAL (R127 to R129): staging the rule classifier and checking it whole. -/

namespace Sys2Proof.Machine

open Sys2Proof

/-! ### Failing fields of an action (R118, R129) -/

/-- The action at `o`; one of a score map selects no ensemble. -/
def actionBad (m : Mem) (o : Nat) (band : Bool) : List Nat :=
  let c := Mem.leAt m (o + 2) 1
  let e := Mem.leAt m (o + 3) 1
  chk (16 ≤ c || (band && bit c 3)) (o + 2) ++
  chk (if band then e != 0 else if bit c 3 then e == 0 || 64 < e else e != 0) (o + 3) ++ nz m (o + 4) (o + 8)

/-! ### Rule sets (R112 to R117) -/

/-- Byte of the child pointer `w` that holds its failing field (R114): it names an entry beyond its array or a node that is
not VALID, TYPE 3 or a reserved bit. -/
def ptrBad (m : Mem) (w : Nat) : Option Nat :=
  let i := w % 2 ^ 22
  match bits w 23 22 with
  | 1 => if Mem.leAt m 8 4 ≤ i || !bit (Mem.leAt m (nodesAt m + 16 * i) 1) 0 then some 0 else if 2 ^ 24 ≤ w then some 3 else none
  | 2 => if Mem.leAt m 16 4 ≤ i then some 0 else if 2 ^ 24 ≤ w then some 3 else none
  | 3 => some 2
  | _ => if 2 ^ 24 ≤ w then some 3 else none

/-- Indices of the child pointers of node `n` (R113). -/
def nodePtrs (m : Mem) (n : Nat) : List Nat :=
  let a := nodesAt m + 16 * n
  let b := Mem.leAt m (a + 4) 4 % 2 ^ 22
  let c := bits (Mem.leAt m (a + 3) 1) 7 5
  (List.range (2 ^ c)).map (b + ·)

/-- Offsets of the pointers that lead into a 13th node, or back to a node of its own path (R129); `path` is held nearest
first and its head is the node reached. -/
def deepPtrs (m : Mem) : Nat → List Nat → List Nat
  | 0, _ => []
  | fuel + 1, path =>
    (nodePtrs m (path.headD 0)).flatMap fun j =>
      let o := ptrsAt m + 4 * j
      let w := Mem.leAt m o 4
      if bits w 23 22 != 1 || Mem.leAt m 12 4 ≤ j || (ptrBad m w).isSome then []
      else if path.contains (w % 2 ^ 22) || 12 ≤ path.length then [o]
      else deepPtrs m fuel (w % 2 ^ 22 :: path)

/-- The condition at `o` (R116). -/
def condBad (m g : Mem) (o : Nat) : List Nat :=
  let x := Mem.leAt m o 2
  let n := slotBytes g (x % 64)
  let mode := bits x 7 6
  let w := bits x 14 12
  chk (mode == 3 || n == 0) o ++
  chk (bit x 15 || w == 0 || 4 < w || (n != 0 && n < bits x 11 8 + w)) (o + 1) ++ nz m (o + 2) (o + 4) ++
  (if mode = 2 then chk (Mem.leAt m (o + 4) 4 != 0) (o + 4) ++ chk (Mem.leAt m (o + 8) 4 != 0) (o + 8) else [])

/-- Rule `i` (R116). -/
def ruleBad (m g : Mem) (i : Nat) : List Nat :=
  let o := 64 + 128 * i
  let c := Mem.leAt m (o + 4) 1
  if !bit c 7 then nz m o (o + 128)
  else
    let n := min (c % 16) 9
    chk (9 < c % 16 || bits c 6 4 != 0) (o + 4) ++ nz m (o + 5) (o + 8) ++ actionBad m (o + 8) false ++
    ((List.range n).flatMap fun k => condBad m g (o + 16 + 12 * k)) ++ nz m (o + 16 + 12 * n) (o + 128)

/-- Node `i` (R113); the pointers a valid node uses. -/
def treeNodeBad (m g : Mem) (i : Nat) : List Nat :=
  let o := nodesAt m + 16 * i
  let x := Mem.leAt m o 4
  let n := slotBytes g (bits x 13 8)
  let w := bits x 22 20
  let cut := bits x 31 29
  let base := Mem.leAt m (o + 4) 4
  chk (bits x 7 1 != 0) o ++ chk (bits x 15 14 != 0) (o + 1) ++ chk (bit x 23) (o + 2) ++ chk (2 ^ 22 ≤ base) (o + 6) ++
  nz m (o + 8) (o + 16) ++
  (if !bit x 0 then []
   else
    chk (n == 0) (o + 1) ++ chk (w == 0 || 4 < w || n < bits x 19 16 + w) (o + 2) ++
    chk (cut == 0 || 6 < cut || 8 * w < bits x 28 24 + cut) (o + 3) ++
    (if cut == 0 || 6 < cut then []
     else if Mem.leAt m 12 4 < base % 2 ^ 22 + 2 ^ cut then [o + 4]
     else (nodePtrs m i).flatMap fun j =>
      ((ptrBad m (Mem.leAt m (ptrsAt m + 4 * j) 4)).map (ptrsAt m + 4 * j + ·)).toList))

/-- Leaf `i` (R115). -/
def leafBad (m : Mem) (i : Nat) : List Nat :=
  let o := leavesAt m + 32 * i
  (List.range 8).flatMap fun j =>
    let a := o + 4 * j
    let w := Mem.leAt m a 4
    let ru := w % 2 ^ 18
    chk (bits w 30 18 != 0) (a + 2) ++
    (if !bit w 31 then []
     else
      chk ((List.range j).any fun k => !bit (Mem.leAt m (o + 4 * k) 4) 31) (a + 3) ++
      chk (Mem.leAt m 4 4 ≤ ru || !bit (Mem.leAt m (64 + 128 * ru + 4) 1) 7) a)

/-- The offset of the first failing field of rule set `n` (R129). -/
def ruleCheck (m g : Mem) (n : Nat) : Option Nat :=
  let head := chk (Mem.leAt m 0 2 != 1) 0 ++ chk (Mem.leAt m 2 1 != n) 2 ++ nz m 3 4 ++ chk (262144 < Mem.leAt m 4 4) 4 ++
    chk (1048576 < Mem.leAt m 8 4) 8 ++ chk (4194304 < Mem.leAt m 12 4) 12 ++ chk (1048576 < Mem.leAt m 16 4) 16
  if !head.isEmpty then firstFail head
  else
    let root := Mem.leAt m 20 4
    let d := Mem.leAt m 26 1
    let deep := if bits root 23 22 == 1 && (ptrBad m root).isNone then deepPtrs m 12 [root % 2 ^ 22] else []
    firstFail (((ptrBad m root).map (20 + ·)).toList ++ actionBad m 24 false ++ chk (d % 8 != 7) 26 ++ actionBad m 32 false ++
      chk (clrMask (Mem.leAt m 40 2) 0x07F1 != 0) 40 ++ chk (2 ≤ Mem.leAt m 42 1) 42 ++ nz m 43 64 ++
      ((List.range (Mem.leAt m 4 4)).flatMap (ruleBad m g)) ++ ((List.range (Mem.leAt m 8 4)).flatMap (treeNodeBad m g)) ++
      ((List.range (Mem.leAt m 12 4)).flatMap fun j =>
        let w := Mem.leAt m (ptrsAt m + 4 * j) 4
        chk (bits w 23 22 == 3) (ptrsAt m + 4 * j + 2) ++ chk (2 ^ 24 ≤ w) (ptrsAt m + 4 * j + 3)) ++
      ((List.range (Mem.leAt m 16 4)).flatMap (leafBad m)) ++ deep ++
      nz m (leavesAt m + 32 * Mem.leAt m 16 4) (ruleLen m))

/-! ### The selection table and score maps (R110, R124) -/

/-- The offset of the first failing field of the selection table; `held` are the rule sets of the next version. -/
def selCheck (m : Mem) (held : List Nat) : Option Nat :=
  firstFail (((List.range 64).flatMap fun q =>
      let e := Mem.leAt m (4 * q) 4
      chk (!bit e 4 && !held.contains (e % 16)) (4 * q) ++ chk (2 ^ 12 ≤ e) (4 * q + 1)) ++
    ((List.range 4096).flatMap fun v =>
      let e := Mem.leAt m (256 + v) 1
      chk (bits e 6 4 != 0 || (bit e 7 && !held.contains (e % 16))) (256 + v)))

/-- The offset of the first failing field of a score map. -/
def scoreCheck (m : Mem) : Option Nat :=
  let c := Mem.leAt m 0 1
  let t := fun i => if bit c 4 then toSigned 16 (Mem.leAt m (2 + 2 * i) 2) else (Mem.leAt m (2 + 2 * i) 2 : Int)
  firstFail (chk (32 ≤ c) 0 ++ nz m 1 2 ++
    ((List.range 15).flatMap fun i =>
      chk (if c % 16 ≤ i then Mem.leAt m (2 + 2 * i) 2 != 0 else i != 0 && t i ≤ t (i - 1)) (2 + 2 * i)) ++
    ((List.range 16).flatMap fun b => actionBad m (32 + 8 * b) true))

/-! ### The commands -/

/-- The object id of OBJ and NUM, and its largest size. -/
def rcOid (obj num : Nat) : Nat := match obj with | 0 => oidRule num | 1 => oidSel | _ => oidScore num
def rcLimit (obj : Nat) : Nat := [50331648, 4352, 160].getD obj 0
/-- NUM lies outside its range. -/
def rcNumBad (obj num : Nat) : Bool := match obj with | 0 => decide (15 < num) | 1 => num != 0 | _ => num == 0 || decide (64 < num)

/-- RC_STAGE (0x0301, R127). -/
def rcStage (c : Call) (s : State) : CmdRes :=
  let obj := u8 c.p 0
  let num := u8 c.p 1
  rows (stageRows c 4 (rcLimit obj) (2 < obj || rcNumBad obj num || !zeroAt c.p 2 2 || !zeroAt c.p 12 4) ++ [(9, noRound s)]) s <|
    okay (onRound (stagePart (rcOid obj num) (rcLimit obj) 1 (leAt c.p 4 4) (c.p.drop 16)) s)

/-- The removal of an image object (R128, R185). -/
def stageDelete (id what : Nat) (r : Round) : Round :=
  ({ r with written := mdel r.written id } : Round).change what { r.objs with img := mdel r.objs.img id }

/-- RC_DELETE (0x0303, R128). -/
def rcDelete (c : Call) (s : State) : CmdRes :=
  let obj := u8 c.p 0
  let num := u8 c.p 1
  rows [(2, c.p.length != 4), (3, (obj != 0 && obj != 2) || rcNumBad obj num || !zeroAt c.p 2 2), (9, noRound s)] s <|
    okay (onRound (stageDelete (rcOid obj num) 1) s)

/-- DETAIL of the first object of the rule classifier that fails (R129). -/
def rcFirst (o : Objs) (g : Mem) : Option Nat :=
  let sets := (List.range 16).filter fun n => hasObj o (oidRule n)
  let maps := ((List.range 65).drop 1).filter fun n => hasObj o (oidScore n)
  let fails := (sets.filterMap fun n => (ruleCheck (imgMem o (oidRule n)) g n).map fun x => n * 2 ^ 24 + x % 2 ^ 24) ++
    ((selCheck (imgMem o oidSel) sets).map fun x => 2 ^ 30 + x).toList ++
    (maps.filterMap fun n => (scoreCheck (imgMem o (oidScore n))).map fun x => 2 * 2 ^ 30 + (n - 1) * 2 ^ 24 + x)
  fails.head?

/-- Bytes of the rule region that the staged and the newest version take together (R129). -/
def rcBytes (r : Round) (s : State) : Nat :=
  ((List.range 16).map fun n =>
    let id := oidRule n
    let old := s.ver.newest.objs
    (if hasObj r.objs id then ruleLen (imgMem r.objs id) else 0) +
    (if hasObj old id && ((mget r.written id).isSome || !hasObj r.objs id) then ruleLen (imgMem old id) else 0)).sum

/-- Every image of the rule classifier staged in the round is written over its computed length. -/
def rcWritten (r : Round) : Bool :=
  ((List.range 16).all fun n => allWritten r (oidRule n) 64 && allWritten r (oidRule n) (ruleLen (imgMem r.objs (oidRule n)))) &&
  allWritten r oidSel 4352 && (List.range 65).all fun n => allWritten r (oidScore n) 160

/-- RC_SEAL (0x0302, R129). A parser group that is not unsealed stands in the round as R562 has it used. -/
def rcSeal (c : Call) (s : State) : CmdRes :=
  rows [(2, c.p.length != 0), (9, noRound s)] s <|
    match s.ver.round with
    | none => rej 9 s
    | some r =>
      if r.unsealed 1 || !rcWritten r then rej 9 s
      else match rcFirst r.objs (imgMem r.objs oidPg) with
        | some d => rejAt 3 d s
        | none => if 100663296 < rcBytes r s then rej 5 s else okay (setRound (r.seal 1) s)

/-- RC_STAGE. -/
def execRcStage (r : Req) (s : State) : Host.Outcome State Fault Refusal := .next (mbxRow 0x0301 rcStage r s)
/-- RC_DELETE. -/
def execRcDelete (r : Req) (s : State) : Host.Outcome State Fault Refusal := .next (mbxRow 0x0303 rcDelete r s)
/-- RC_SEAL. -/
def execRcSeal (r : Req) (s : State) : Host.Outcome State Fault Refusal := .next (mbxRow 0x0302 rcSeal r s)

end Sys2Proof.Machine
end

