-- ==== Sys2Proof/Machine/Tables.lean ====
section
/-! DEFINITION. The table command registers (R148 to R151), TB_PLAN_STAGE and TB_SEAL (R154, R155). -/

namespace Sys2Proof.Machine

open Sys2Proof

/-! ### Entries as bytes (R138, R144) -/

/-- The entry in 16 bytes. -/
def lentOf (b : Bytes) : LEnt :=
  let f := leAt b 6 2
  { mac := beAt b 0 6, vlan := f % 4096, valid := bit f 12, static := bit f 13, shV := bit f 14, port := leAt b 8 2,
    stream := leAt b 10 2, lastSec := leAt b 12 2 }
/-- The 64 bytes of a flow record. -/
def frecBytes (r : FRec) : Bytes :=
  le 4 (r.tag + 2 ^ 31 * b2n r.srefV) ++ le 5 r.pkts ++ le 5 r.bytes ++ le 2 r.sref ++ le 6 r.lastSeen ++ le 4 r.gapMean ++
  le 4 r.gapVar ++ r.hist.flatMap (le 1) ++ le 5 r.syn ++ le 5 r.fr ++ padTo 16 r.ovr
/-- The record in 64 bytes. -/
def frecOf (b : Bytes) : FRec :=
  let t := leAt b 0 4
  { tag := t % 2 ^ 31, srefV := bit t 31, pkts := leAt b 4 5, bytes := leAt b 9 5, sref := leAt b 14 2, lastSeen := leAt b 16 6,
    gapMean := leAt b 22 4, gapVar := leAt b 26 4, hist := (List.range 8).map fun i => u8 b (30 + i), syn := leAt b 38 5,
    fr := leAt b 43 5, ovr := if zeroAt b 48 16 then [] else sub b 48 16 }

/-! ### Prefix tables and their pools (R135, R136) -/

/-- `l` with the prefix in its place, one of equal address and length replaced. -/
def insPfx (p : Pfx) : List Pfx → List Pfx
  | [] => [p]
  | x :: r =>
    if x.addr = p.addr ∧ x.len = p.len then p :: r
    else if p.addr < x.addr ∨ (p.addr = x.addr ∧ p.len < x.len) then p :: x :: r else x :: insPfx p r
/-- The address with its bits below the prefix length clear. -/
def maskAddr (w a len : Nat) : Nat := a / 2 ^ (w - len) * 2 ^ (w - len)
/-- The prefix as stored, if it is. -/
def findPfx (l : List Pfx) (a len : Nat) : Option Pfx := l.find? fun p => p.addr == a && p.len == len
def setFam (o : Objs) (f : Nat) (l : List Pfx) : Objs := if f = 0 then { o with pfx4 := l } else { o with pfx6 := l }
/-- The trie blocks on the path of a prefix, each as one number of its first bit and the address bits above it. -/
def pathBlocks (f addr len : Nat) : List Nat :=
  ((List.range (if f = 0 then 2 else 14)).map fun k => 16 + 8 * k).filterMap fun st =>
    if st < len then some (st * 2 ^ 128 + addr / 2 ^ (famWidth f - st)) else none
/-- The distinct trie blocks that a prefix set takes (R136). -/
def trieBlocks (f : Nat) (l : List Pfx) : List Nat := (l.flatMap fun p => pathBlocks f p.addr p.len).foldl sadd []
/-- Pool blocks, and prefixes of one version, of a family. -/
def poolLimit (f : Nat) : Nat := if f = 0 then 65024 else 32256
def pfxLimit (f : Nat) : Nat := if f = 0 then 2097152 else 1048576
/-- A changed prefix rewrites entries of block `b` that inherit its result (R135): it covers the block, no longer prefix shields the
block, and some entry of the block is a leaf of its own. -/
def pushedInto (f : Nat) (l : List Pfx) (t : Nat × Nat × Nat) (b : Nat) : Bool :=
  let w := famWidth f
  let st := b / 2 ^ 128
  let path := b % 2 ^ 128
  t.1 == f && t.2.2 ≤ st && t.2.1 / 2 ^ (w - t.2.2) == path / 2 ^ (st - t.2.2) &&
    !(l.any fun p => t.2.2 < p.len && p.len ≤ st && p.addr / 2 ^ (w - p.len) == path / 2 ^ (st - p.len)) &&
    (List.range 256).any fun e => !(l.any fun p => st < p.len &&
      (if p.len ≤ st + 8 then p.addr / 2 ^ (w - p.len) == (256 * path + e) / 2 ^ (st + 8 - p.len)
       else p.addr / 2 ^ (w - st - 8) == 256 * path + e))
/-- Pool blocks that the newest version and the staged set `l` take, where the round has touched `t`. -/
def poolUse (s : State) (f : Nat) (l : List Pfx) (t : List (Nat × Nat × Nat)) : Nat :=
  let copied := ((t.filter fun e => e.1 == f).flatMap fun e => pathBlocks f e.2.1 e.2.2).foldl sadd []
  (trieBlocks f (famPfx s.ver.newest.objs f)).length +
    ((trieBlocks f l).filter fun b => copied.contains b || t.any fun e => pushedInto f l e b).length

/-! ### The operations (R149, R150) -/

/-- A table command as taken at GO: unit, OP, VIEW, DIE, TABLE, ARG, KEY and DATA. -/
structure TblOp where
  u : Nat
  op : Nat
  view : Bool
  die : Nat
  table : Nat
  arg : Nat
  key : Nat
  data : Nat
deriving DecidableEq, Repr

/-- A rejection. -/
def tblRej (status : Nat) (s : State) : TblRes × State := ({ status := status }, s)
/-- An entry's bytes in DATA; the words beyond them stay. -/
def tblData (c : TblOp) (b : Bytes) : Option Nat := some (leNat b + c.data / 256 ^ b.length * 256 ^ b.length)
/-- The operation is not one of the unit's (R149). -/
def opRejected (u op : Nat) : Bool :=
  op == 0 || decide (6 < op) || (match u with
    | 0 => op == 2 || op == 6
    | 1 => op == 3 || op == 5 || op == 6
    | 2 => false
    | _ => op == 3)
/-- The objects that VIEW names. -/
def viewObjs (c : TblOp) (s : State) : Objs :=
  if c.view then (match s.ver.round with | some r => r.objs | none => {}) else s.ver.newest.objs

/-- A change of versioned objects in the staged view (R46, R437). -/
def changeTables (o : Objs) (s : State) : State := onRound (fun r => r.change 2 o) s

/-- The prefix unit. -/
def tblPrefix (c : TblOp) (s : State) : TblRes × State :=
  let f := c.table
  let w := famWidth f
  let a := beNat (le (w / 8) c.key)
  let o := viewObjs c s
  let l := famPfx o f
  let k := maskAddr w a c.arg
  if c.op ≠ 5 ∧ w < c.arg then tblRej 4 s
  else match c.op with
    | 1 => (match findPfx l k c.arg with
      | none => tblRej 13 s
      | some p => ({ status := 0, data := some (p.res + c.data / 2 ^ 32 * 2 ^ 32) }, s))
    | 3 =>
      let l' := insPfx { addr := k, len := c.arg, res := c.data % 2 ^ 20 } l
      let t := (match s.ver.round with | some r => r.touched | none => [])
      if pfxLimit f < l'.length || poolLimit f < poolUse s f l' ((f, k, c.arg) :: t) then tblRej 5 s
      else ({ status := 0 }, onRound (fun r => { r with touched := (f, k, c.arg) :: r.touched }) (changeTables (setFam o f l') s))
    | 4 => (match findPfx l k c.arg with
      | none => tblRej 13 s
      | some p => ({ status := 0 }, onRound (fun r => { r with touched := (f, k, c.arg) :: r.touched })
          (changeTables (setFam o f (l.filter (· != p))) s)))
    | _ => (match longest w l a with
      | none => tblRej 13 s
      | some p => ({ status := 0, detail := p.len, data := some p.res }, s))

/-- The round has written exact key `k` anew (R153). -/
def wroteExact (k : Nat) (s : State) : State := onRound (fun r => { r with exactW := sadd r.exactW k }) s
/-- The exact unit. -/
def tblExact (c : TblOp) (s : State) : TblRes × State :=
  let o := viewObjs c s
  let k := 65536 * c.table + c.arg
  let b := le 32 c.data
  if 65535 < c.arg then tblRej 4 s
  else match c.op with
    | 1 => ({ status := 0, data := tblData c ((mget o.exact k).getD (zeros 32)) }, s)
    | 2 => ({ status := 0 }, wroteExact k (changeTables { o with exact := if bit c.data 0 then mset o.exact k b else mdel o.exact k } s))
    | _ => ({ status := 0 }, wroteExact k (changeTables { o with exact := mdel o.exact k } s))

/-- The entry at a position has been written on the dies that `at_` names: its failure marks go (R153). -/
def rewritten (at_ : Nat → Bool) (r : PRef) (s : State) : State :=
  { s with failed := s.failed.filter fun e => !(at_ e.place && e.ref == r) }

/-- The learning unit (R151: the command's entry stands). -/
def tblLearn (c : TblOp) (s : State) : TblRes × State :=
  let kb := le 8 c.key
  let mac := beAt kb 0 6
  let vlan := leAt kb 6 2 % 4096
  let b := learnBucket mac vlan
  let hit := findWay s (b % 2) b mac vlan []
  match c.op with
  | 1 => if 2 ^ 20 ≤ c.arg then tblRej 4 s
         else ({ status := 0, data := tblData c (lentBytes (learnEnt s (c.arg / 4) (c.arg % 4))) }, s)
  | 2 => if 2 ^ 20 ≤ c.arg then tblRej 4 s
         else ({ status := 0 }, rewritten (fun _ => true) (.learn (c.arg / 4) (c.arg % 4)) (setLearn (c.arg / 4) (c.arg % 4) (lentOf (le 16 c.data)) s))
  | 3 =>
    (match hit, (List.range 4).find? fun w => !wayFull s (b % 2) b [] w with
    | some w, _ => ({ status := 9, detail := 4 * b + w }, s)
    | none, none => tblRej 5 s
    | none, some w =>
      ({ status := 0, detail := 4 * b + w }, setLearn b w { lentOf (le 16 c.data) with mac := mac, vlan := vlan, valid := true } s))
  | 6 =>
    let age := if c.arg = 0 then ageS s else c.arg
    if 32767 < c.arg then tblRej 4 s
    else if age = 0 then ({ status := 0 }, s)
    else
      let (gone, s) := ageLearn (fun _ => true) age s
      let own := fun d : Nat => (gone.filter fun k => k / 4 % 2 == d).length
      ({ status := 0, detail := gone.length }, perf (tblCtr 0 + 0x20) (own 0) (perf (tblCtr 1 + 0x20) (own 1) s))
  | op =>
    match hit with
    | none => tblRej 13 s
    | some w =>
      if op = 4 then ({ status := 0 }, setLearn b w {} s)
      else ({ status := 0, detail := 4 * b + w, data := tblData c (lentBytes (learnEnt s b w)) }, s)

/-- The record at index `i` of die `d` is removed. -/
def dropFlow (d i : Nat) (s : State) : State :=
  let x := die s d
  setDie d { x with cache := mdel x.cache i, flows := mdel x.flows i } s

/-- The flow-record unit. -/
def tblFlow (c : TblOp) (s : State) : TblRes × State :=
  let x := die s c.die
  let bucket := c.key % 2 ^ 25
  let tag := c.key / 2 ^ 32 % 2 ^ 31
  let hit := ((List.range 4).map fun w => 4 * bucket + w).find? fun i => (flowRec x i).tag == tag && !flowFree (flowRec x i)
  match c.op with
  | 1 => if 2 ^ 27 ≤ c.arg then tblRej 4 s else ({ status := 0, data := tblData c (frecBytes (flowRec x c.arg)) }, s)
  | 2 =>
    let r := frecOf (le 64 c.data)
    if 2 ^ 27 ≤ c.arg then tblRej 4 s
    else if ovrValid r.ovr && !ovrValid (flowRec x c.arg).ovr && pinLines ≤ (x.cache.filter fun e => pinned e.2).length then
      ({ status := 5 }, tblErr c.die 4 1 s)
    else if flowFree r then
      ({ status := 0 }, setDie c.die { x with cache := mdel x.cache c.arg, flows := msetD x.flows c.arg r {} } s)
    else ({ status := 0 }, rewritten (· == c.die) (.flow c.arg) (setDie c.die (putLine c.arg r true x) s))
  | 6 =>
    if 32767 < c.arg then tblRej 4 s
    else
      let idx := (x.cache.map (·.1) ++ x.flows.map (·.1)).foldl sadd []
      let gone := idx.filter fun i =>
        let r := flowRec x i
        !flowFree r && !ovrValid r.ovr && c.arg * 1000000000 < (now s + 2 ^ 48 - r.lastSeen) % 2 ^ 48
      ({ status := 0, detail := gone.length }, gone.foldl (fun s i => dropFlow c.die i s) s)
  | op =>
    match hit with
    | none => tblRej 13 s
    | some i =>
      if op = 4 then ({ status := 0 }, dropFlow c.die i s)
      else ({ status := 0, detail := i, data := tblData c (frecBytes (flowRec x i)) }, s)

/-- A reserved field that the operation reads is not zero, or a learning INSERT names a group MAC (R150). -/
def tblReserved (c : TblOp) : Bool :=
  let d := le 64 c.data
  let kf := bits c.key 63 48
  match c.u with
  | 0 => c.op == 3 && bits c.data 31 20 != 0
  | 1 => c.op == 2 && (4 ≤ u8 d 0 || u8 d 1 != 0 || !zeroAt d 4 4)
  | 2 => ((c.op == 2 || c.op == 3) && (bit (u8 d 7) 7 || !zeroAt d 14 2)) ||
         ((c.op == 3 || c.op == 4 || c.op == 5) && 4096 ≤ kf) || (c.op == 3 && bit c.key 0)
  | _ => c.op == 2 && (bits (u8 d 56) 6 5 != 0 || !zeroAt d 57 3)

/-- A table command checked whole and applied (R149, R150). -/
def tblRun (c : TblOp) (s : State) : TblRes × State :=
  if opRejected c.u c.op || (match c.u with | 0 => decide (1 < c.table) | 1 => decide (7 < c.table) | _ => c.table != 0 || c.view) ||
      tblReserved c then tblRej 3 s
  else if (c.view && noRound s) || (c.u < 2 && !c.view && (c.op == 2 || c.op == 3 || c.op == 4)) then tblRej 9 s
  else match c.u with
    | 0 => tblPrefix c s
    | 1 => tblExact c s
    | 2 => tblLearn c s
    | _ => tblFlow c s

/-! ### The registers (R148) -/

/-- `x` with word `i` replaced. -/
def setWord (x i v : Nat) : Nat := x - x / 2 ^ (32 * i) % 2 ^ 32 * 2 ^ (32 * i) + v % 2 ^ 32 * 2 ^ (32 * i)

/-- A write of `v` at offset `off` of table unit `u`. -/
def tblWrite (u off v : Nat) (s : State) : State :=
  let x := tunit s u
  if off = 4 then setTunit u { x with done := x.done && !bit v 1, collide := x.collide && !bit v 2 } s
  else if x.busy then setTunit u { x with collide := true } s
  else if off = 0 then
    let x := { x with ctl := v &&& 0xF3F }
    if !bit v 31 then setTunit u x s
    else
      let c : TblOp := { u := u, op := v % 16, view := bit v 4, die := b2n (bit v 5), table := bits v 11 8, arg := x.arg,
                         key := x.key, data := x.data }
      let r := tblRun c s
      setTunit u { x with busy := true, run := some r.1 } r.2
  else if off = 0x0C then setTunit u { x with arg := v % 2 ^ 32 } s
  else if 0x20 ≤ off ∧ off < 0x40 then setTunit u { x with key := setWord x.key ((off - 0x20) / 4) v } s
  else if 0x40 ≤ off ∧ off < 0x80 then setTunit u { x with data := setWord x.data ((off - 0x40) / 4) v } s
  else s

/-- A read at offset `off` of table unit `u`. -/
def tblRead (u off : Nat) (s : State) : Nat :=
  let x := tunit s u
  if off = 0 then x.ctl
  else if off = 4 then b2n x.busy + 2 * b2n x.done + 4 * b2n x.collide + 65536 * x.status
  else if off = 8 then x.detail
  else if off = 0x0C then x.arg
  else if 0x20 ≤ off ∧ off < 0x40 then x.key / 2 ^ (8 * (off - 0x20)) % 2 ^ 32
  else if 0x40 ≤ off ∧ off < 0x80 then x.data / 2 ^ (8 * (off - 0x40)) % 2 ^ 32
  else 0

/-- A table command completes: STATUS, DETAIL and results are published (R149). -/
def tblComplete (u : Nat) (s : State) : State :=
  let x := tunit s u
  match x.busy, x.run with
  | true, some r => setTunit u { x with
      busy := false, done := true, status := r.status, detail := r.detail % 2 ^ 32, data := r.data.getD x.data, run := none } s
  | _, _ => s

/-- A write of `v` to the control register of unit `u` that starts operation `op`. -/
def tblGo (op u v : Nat) (s : State) : State := if u < 4 && bit v 31 && v % 16 == op then tblWrite u 0 v s else s

/-- READ (R149). -/
def execTblRead (u v : Nat) (s : State) : Host.Outcome State Fault Refusal := .next (tblGo 1 u v s)
/-- WRITE. -/
def execTblWrite (u v : Nat) (s : State) : Host.Outcome State Fault Refusal := .next (tblGo 2 u v s)
/-- INSERT. -/
def execTblInsert (u v : Nat) (s : State) : Host.Outcome State Fault Refusal := .next (tblGo 3 u v s)
/-- DELETE. -/
def execTblDelete (u v : Nat) (s : State) : Host.Outcome State Fault Refusal := .next (tblGo 4 u v s)
/-- SEARCH. -/
def execTblSearch (u v : Nat) (s : State) : Host.Outcome State Fault Refusal := .next (tblGo 5 u v s)
/-- AGE_SCAN. -/
def execTblAgeScan (u v : Nat) (s : State) : Host.Outcome State Fault Refusal := .next (tblGo 6 u v s)
/-- TBL_CMD_COMPLETE (R149). -/
def execTblCmdComplete (u : Nat) (s : State) : Host.Outcome State Fault Refusal := .next (if frozen s then s else tblComplete u s)
/-- TBL_REG_COLLIDE (R149): a write reaches a unit that is BUSY. -/
def execTblRegCollide (u off v : Nat) (s : State) : Host.Outcome State Fault Refusal :=
  .next (if u < 4 && (tunit s u).busy then tblWrite u off v s else s)

/-! ### TB_PLAN_STAGE and TB_SEAL (R154, R155) -/

/-- Failing fields of the plan entry of port `q`. -/
def planPortBad (p g : Mem) (q : Nat) : List Nat :=
  let o := planAt q
  let f := planF p q
  let named := fun k => f k != 0xFF
  let sum := fun n => ((List.range n).map fun k => if named (16 + k) then slotBytes g (f (16 + k)) else 0).sum
  (([0, 1, 4, 5, 6, 7, 8, 9, 10, 11, 12, 13, 14, 16, 17, 18, 19, 20, 21] : List Nat).flatMap fun k =>
    chk (named k && (slotBytes g (f k) == 0 || (k == 0 && slotBytes g (f k) != 4) || (k == 1 && slotBytes g (f k) != 16))) (o + k)) ++
  chk (f 3 != 0) (o + 3) ++ chk (4 ≤ f 15) (o + 15) ++
  ((List.range 5).flatMap fun k => chk (40 < sum (k + 1)) (o + 16 + k)) ++
  chk (32 ≤ f 22 || (bit (f 22) 4 && (f 22 % 16 == 0 || 8 < f 22 % 16))) (o + 22) ++ nz p (o + 23) (o + 32)
/-- The offset of the first failing field of the plan (R155). -/
def planCheck (p g : Mem) : Option Nat :=
  firstFail (chk (Mem.leAt p 0 2 != 1) 0 ++ chk (32767 < Mem.leAt p 2 2) 2 ++ nz p 4 64 ++ (List.range 64).flatMap (planPortBad p g))

/-- TB_PLAN_STAGE (0x0401, R154). -/
def tbPlanStage (c : Call) (s : State) : CmdRes :=
  rows (stageRows c 0 2112 (!zeroAt c.p 8 8) ++ [(9, noRound s)]) s <|
    okay (onRound (stagePart oidPlan 2112 2 (leAt c.p 0 4) (c.p.drop 16)) s)

/-- TB_SEAL (0x0402, R155). -/
def tbSeal (c : Call) (s : State) : CmdRes :=
  rows [(2, c.p.length != 0), (9, noRound s)] s <|
    match s.ver.round with
    | none => rej 9 s
    | some r =>
      if !allWritten r oidPlan 2112 || r.unsealed 1 then rej 9 s
      else match planCheck (imgMem r.objs oidPlan) (imgMem r.objs oidPg) with
        | some o => rejAt 3 o s
        | none =>
          if [0, 1].any fun f => poolLimit f < poolUse s f (famPfx r.objs f) r.touched then rej 5 s
          else okay (setRound (r.seal 2) s)

/-- TB_PLAN_STAGE. -/
def execTbPlanStage (r : Req) (s : State) : Host.Outcome State Fault Refusal := .next (mbxRow 0x0401 tbPlanStage r s)
/-- TB_SEAL. -/
def execTbSeal (r : Req) (s : State) : Host.Outcome State Fault Refusal := .next (mbxRow 0x0402 tbSeal r s)

end Sys2Proof.Machine
end

