-- ==== Sys2Proof/Machine/Registers.lean ====
section
/-! DEFINITION. The register space (R9 to R16, R452 to R456 and the register tables of every chapter): what each register reads, what
a write does, latches, the window and its aperture, REG_READ and REG_WRITE. -/

namespace Sys2Proof.Machine

open Sys2Proof

/-! ### Counters (R13, R14) -/

/-- A bank of counters: `n` sets from `base`, `stride` apart; offsets of its performance counters, of its error and event counters
in the order of their flags, and of its flag register. -/
structure CtrBank where
  base : Nat
  stride : Nat
  n : Nat
  perf : List Nat
  err : List Nat
  flags : Option Nat
deriving DecidableEq, Repr

/-- `n` consecutive words from `o`. -/
def words (o n : Nat) : List Nat := (List.range n).map fun k => o + 4 * k

/-- Every counter table of the spec (R45, R86, R109, R130, R156, R183, R223, R260, R297, R323, R347, R373, R393, R431, R448, R456,
R522, R543, R554). -/
def banks : List CtrBank :=
  let o := baseObs
  [⟨0, 0x1000, 1, [0x300, 0x308], words 0x310 7, some 0x32C⟩, ⟨baseSp, 0x100, 64, [0x10, 0x18, 0x20, 0x28], words 0x30 8, some 0x50⟩,
   ⟨baseFlt, 0x1000, 1, [], words 0x40 8, some 0x60⟩, ⟨baseTbl + 0x800, 0x80, 2, [0, 8, 0x10, 0x18, 0x20], words 0x28 8, some 0x48⟩,
   ⟨o + 0x2000, 0x40, 32, [0, 8], words 0x10 3, some 0x1C⟩, ⟨o + 0x3000, 0x80, 2, [0, 8, 0x10], words 0x18 4, some 0x28⟩,
   ⟨o + 0x4000, 0x40, 32, [0, 8, 0x10], words 0x18 3, some 0x24⟩, ⟨o + 0x4800, 0x40, 2, [0], words 8 2, some 0x10⟩] ++
  [⟨o + 0x6000, 0x40, 132, [0, 8, 0x10, 0x18], words 0x20 5, some 0x38⟩, ⟨o + 0x8200, 0x20, 132, [0, 8], words 0x10 3, some 0x1C⟩,
   ⟨o + 0xA000, 0x40, 132, [0, 8], words 0x10 5, some 0x24⟩, ⟨o + 0xD000, 0x80, 2, [0, 8, 0x10], words 0x18 8, some 0x38⟩,
   ⟨o + 0xE000, 0x40, 132, [0, 8], words 0x10 5, some 0x24⟩, ⟨o + 0x10200, 0x40, 1, [0, 8], words 0x10 5, some 0x24⟩,
   ⟨baseHb + 0x100, 0x40, 12, [0, 0x20], words 8 6, some 0x28⟩, ⟨baseHb + 0x800, 0x20, 132, [], words 0 2, some 0x0C⟩] ++
  [⟨baseCl, 0x100, 1, [], words 4 2, some 0x0C⟩, ⟨baseCl + 0x100, 0x100, 8, [0x20, 0x28, 0x30], words 0x38 7, some 0x54⟩,
   ⟨baseCh + 0x1000, 0x20, 152, [0, 8, 0x10, 0x18], [], none⟩, ⟨o + 0x10400, 0x40, 1, [0], words 8 4, some 0x18⟩,
   ⟨o + 0x10500, 0x40, 1, [0, 8], words 0x10 4, some 0x20⟩, ⟨o + 0x10600, 0x40, 1, [0, 8], words 0x10 1, some 0x14⟩,
   ⟨o + 0x10700, 0x40, 1, [], words 0 1, some 4⟩]

/-- What stands at an offset of a bank. -/
inductive CtrAt where
  /-- Low or high word of a performance counter whose low word lies at `o`. -/
  | lo (o : Nat)
  | hi (o : Nat)
  /-- An error or event counter, with its flag register and its flag. -/
  | err (o : Nat) (flag : Option (Nat × Nat))
  /-- A register of overflow flags. -/
  | flags (o : Nat)
deriving DecidableEq, Repr

/-- The counter register at an offset. -/
def ctrAt (off : Nat) : Option CtrAt :=
  banks.findSome? fun b =>
    if off < b.base || b.base + b.stride * b.n ≤ off then none
    else
      let x := (off - b.base) % b.stride
      let at_ := off - x
      if b.perf.contains x then some (.lo off)
      else if 4 ≤ x && b.perf.contains (x - 4) then some (.hi (off - 4))
      else if b.err.contains x then some (.err off (b.flags.map fun f => (at_ + f, b.err.idxOf x)))
      else if b.flags = some x then some (.flags off)
      else none

/-- Counters of what no command tells: HB_BYTES (R373). -/
def pinCtr (off : Nat) : Bool := baseHb + 0x100 ≤ off && off < baseHb + 0x400 && off % 0x40 == 0
/-- The value of the performance counter at `o`. One of `pinCtr` holds the ns of its last clear instead: it reads 0 at that ns and
an open value later. -/
def ctrVal (s : State) (o : Nat) : Nat :=
  if pinCtr o then (if now s ≤ ctr s o then 0 else (Config.pinCount o (ctr s o) (now s)).toNat) else ctr s o

/-! ### 64-bit registers and their latches (R9) -/

/-- Accessors: sessions 0 to 3, 0x100 + the unit that reaches the window through the device map, and the JTAG debug port. -/
def accJtag : Nat := 0x200
/-- The key of an accessor's latch for the register whose low word lies at `off`. -/
def latchKey (acc off : Nat) : Nat := acc * 2 ^ 24 + off
/-- The low words of CH_ALARM_0 to CH_ALARM_3 (R392). -/
def alarmAt (off : Nat) : Bool := baseCh + 0x20 ≤ off && off < baseCh + 0x40 && off % 8 == 0
/-- The 64-bit registers, by the offset of the low word: value and fraction. -/
def wide (s : State) (off : Nat) : Option (Nat × Nat) :=
  if off = 0x60 || off = baseCh then some (now s, now256 s % 256)
  else if off = 0x40 then some (0x20000FFE0000, 0)
  else if off = 0x80 then some (s.hv.tReg, 0)
  else if alarmAt off then some (mgetD s.ch.alarm ((off - baseCh - 0x20) / 8) 0, 0)
  else match ctrAt off with
    | some (.lo o) => some (ctrVal s o, 0)
    | _ => none
/-- The low word of the 64-bit register whose high word or fraction lies at `off`; true for the fraction. -/
def wideOf (off : Nat) : Option (Nat × Bool) :=
  if off = 0x64 || off = 0x44 || off = 0x84 then some (off - 4, false)
  else if 4 ≤ off && alarmAt (off - 4) then some (off - 4, false)
  else if off = 0x68 then some (0x60, true)
  else if off = baseCh + 4 then some (baseCh, false)
  else if off = baseCh + 8 then some (baseCh, true)
  else match ctrAt off with
    | some (.hi o) => some (o, false)
    | _ => none

/-! ### Control-window registers (R455) -/

/-- Open sessions. -/
def openSess (s : State) : Nat := ((List.range 4).filter fun i => (sess s i).opened).length
/-- Bit m: the mailbox satisfies `f`. -/
def mbxMask (s : State) (f : Mbx → Bool) : Nat := (List.range 32).foldl (fun a m => if f (mbx s m) then setBit a m else a) 0
/-- CW_STATUS. -/
def cwStatus (s : State) : Nat :=
  s.sys.boot + 8 * b2n (s.ver.newest.num != 0) + 16 * b2n s.inlineOk + 32 * s.helm.active + 64 * b2n s.helm.standby +
  128 * b2n (unlocked s) + 256 * b2n (holding s) + 512 * s.ch.pwr + 2048 * openSess s
/-- The PTP port (R475): the active port of the lowest-numbered open session, or port A. -/
def ptpPort (s : State) : Nat :=
  match (List.range 4).find? fun i => (sess s i).opened with | some i => (sess s i).port | none => 0
/-- CW_MBX_STAT_m. -/
def mbxStat (s : State) (m : Nat) : Nat :=
  let x := mbx s m
  x.st + 4 * x.last + 16 * b2n (x.st == 1 && !fenceOpen s m) + 65536 * ((x.resp.map (·.status)).getD 0)
/-- A register of the control window. -/
def cwVal (s : State) (off : Nat) : Option Nat :=
  let v := s.sys.fwVer
  match off with
  | 0x000 => some 0x71605242
  | 0x004 => some (Config.stepping.toNat + 256 * bits v 23 16 + 65536 * bits v 15 8 + 2 ^ 24 * bits v 7 0)
  | 0x008 => some (s.nv.cores + 0x1400 + 32 * 65536 + 4 * 2 ^ 24)
  | 0x010 => some (cwStatus s)
  | 0x014 => some s.sys.cause
  | 0x018 => some (resetCnt s 0)
  | 0x01C => some (resetCnt s 1)
  | 0x020 => some (resetCnt s 2)
  | 0x024 => some s.sys.strap
  | 0x030 => some s.helm.page
  | 0x048 => some (s.flt.wr + 4096 * s.flt.lap)
  | 0x04C => some s.flt.rd
  | 0x088 => some (16 * s.hv.st)
  | 0x08C => some s.hv.num
  | 0x0A0 => some (b2n (unlocked s) + 2 * b2n (dbgFree s))
  | 0x0B0 => some (Config.hbmReserved 0).toNat
  | 0x0B4 => some (Config.hbmReserved 1).toNat
  | 0x100 => some 0
  | 0x104 => some (mbxMask s fun x => x.st == 1 || x.st == 2)
  | 0x108 => some (mbxMask s fun x => x.st == 3)
  | 0x10C => some s.helm.collide
  | _ =>
    if 0x180 ≤ off && off < 0x200 then some (mbxStat s ((off - 0x180) / 4))
    else if 0x200 ≤ off && off < 0x280 then some (mbx s ((off - 0x200) / 4)).seq
    else if 0x400 ≤ off && off < 0x440 then
      let x := sess s ((off - 0x400) / 16)
      match off % 16 with
      | 0 => some (b2n x.opened + 2 * x.port + 256 * x.ifv)
      | 4 => some x.peer
      | _ => none
    else if off = 0x480 || off = 0x484 then
      let p := (off - 0x480) / 4
      some (b2n (bit s.ch.light p) + 2 * b2n (bxPort s p).lock + 4 * b2n (bxPort s p).txOn + 8 * b2n (ptpPort s == p))
    else none

/-! ### Slice ports, faults, links, chronometer, memory (R82 to R85, R392, R429, R430, R372, R521) -/

/-- Slice-port and deadline-class registers. -/
def spVal (s : State) (off : Nat) : Option Nat :=
  if 0x4000 ≤ off then
    if 0x4040 ≤ off then none
    else
      let d := imgMem s.ver.newest.objs (oidDlc ((off - 0x4000) / 8))
      let cq := Mem.leAt d 9 1
      if off % 8 = 0 then some (Mem.leAt d 4 3)
      else some (Mem.leAt d 8 1 + 256 * (cq / 64) + 1024 * (cq % 64) + 65536 * Mem.leAt d 10 2)
  else
    let q := off / 0x100
    let p := port s q
    match off % 0x100 with
    | 0 => some (if unusedPort s q then 0
        else b2n p.en + 2 * b2n (q % 2 == 0 && p.width) + 4 * p.maxVer + 16 * b2n p.stampLocal)
    | 4 => some (if unusedPort s q then 0 else p.st + 8 * p.ver + 32 * b2n p.swStamps + 256 * min 4096 p.pend.length)
    | _ => none

/-- ALARM_N[1:0] are pulled low (R518): bit 0 and bit 1. -/
def noSpare (s : State) : Bool := decide (s.nv.cores < 128)
def alarmPins (s : State) : Nat :=
  if !fwUp s then 0
  else b2n (s.flt.pend &&& s.flt.alarmCtl % 256 != 0) +
    2 * b2n (s.flt.pend &&& s.flt.alarmCtl / 256 != 0 || s.flt.hot || s.flt.noStandby || noSpare s)
/-- FLT_ALARM_STAT. -/
def alarmStat (s : State) : Nat :=
  s.flt.pend + 256 * alarmPins s + 1024 * b2n s.flt.hot + 2048 * b2n s.flt.noStandby + 4096 * b2n (noSpare s)
/-- Spare cores left on compute die `d`. -/
def sparesLeft (s : State) (d : Nat) : Nat :=
  ([66 * d + 64, 66 * d + 65].filter fun p => !bit s.nv.coreRetired p && (logOf s p).isNone).length
/-- Fault registers. -/
def fltVal (s : State) (off : Nat) : Option Nat :=
  match off with
  | 0 => some s.flt.alarmCtl
  | 4 => some (alarmStat s)
  | 8 => some (sparesLeft s 0 + 4 * sparesLeft s 1 + 16 * (popcount s.nv.coreRetired 132 % 256))
  | 0x0C => some s.nv.cmpRetired
  | 0x10 => some s.nv.pipeRetired
  | _ => if 0x80 ≤ off && off < 0xD0 then
      let t := threshOf s ((off - 0x80) / 8)
      some (if off % 8 = 0 then t.1 else t.2)
    else none

/-- Chain registers. -/
def clVal (s : State) (off : Nat) : Option Nat :=
  if off = 0 then some (chipId s + 65536 * b2n s.chip.isSome)
  else if off < 0x100 || 0x900 ≤ off then none
  else
    let n := off / 0x100 - 1
    let x := link s n
    match off % 0x100 with
    | 0x00 => some (b2n x.en + 2 * x.maxVer + 8 * b2n x.expectEn)
    | 0x04 => some (x.expChip + 65536 * x.expLink)
    | 0x08 => some ((if bit s.nv.linkRetired n then 7 else x.st) + 8 * x.ver + 32 * x.active + 2 ^ 13 * mgetD s.nv.laneRetired n 0 +
        2 ^ 21 * b2n x.miswired)
    | 0x0C => some (match x.partner with | some (c, l, v) => c + 65536 * l + 2 ^ 19 * b2n v | none => 0)
    | 0x10 => some x.rtt
    | _ => none

/-- Chronometer registers. -/
def chVal (s : State) (off : Nat) : Option Nat :=
  let c := s.ch
  match off with
  | 0x0C => some (c.source + 4 * c.link + 32 * c.st + 128 * b2n c.valid + 256 * ptpPort s)
  | 0x10 => some (ofSigned 32 c.offset)
  | 0x14 => some (ofSigned 32 c.adj)
  | 0x40 => some (c.alEn + 16 * c.alEvent + 256 * c.alFired)
  | 0x44 => some c.wakeCtl
  | 0x48 => some (c.wakeCause + 256 * c.wakeLvl + 1024 * c.light)
  | 0x4C => some (c.pwr + 4 * b2n c.countOnly + 256 * c.wakeMask)
  | _ => none

/-- HBM and core-store registers. -/
def hbVal (s : State) (off : Nat) : Option Nat :=
  if off = 0 || off = 4 then some (activeN s (off / 4) + 256 * (activeN s (off / 4) * 18432))
  else if 8 ≤ off && off < 0x38 then some (s.nv.pchRetired / 2 ^ (8 * (off - 8)) % 2 ^ 32)
  else if off = 0x38 then
    some ((match s.mem.migrate.head? with
      | some (h, _) => 1 + 2 * h + 8 * (Config.migrateDone (now s)).toNat
      | none => 0) + 4 * b2n (!s.mem.queued.isEmpty))
  else if off = 0x3C then some (s.mem.rowCe + 16 * s.mem.rowWin)
  else if 0x800 ≤ off && off < 0x800 + 0x20 * 132 && off % 0x20 = 8 then
    let p := (off - 0x800) / 0x20
    let l := mgetD s.nv.spared p []
    let one := fun i => match l[i]? with | some b => b + 64 | none => 0
    some (one 0 + 256 * one 1 + 2 ^ 15 * b2n (!(mgetD s.mem.copying p []).isEmpty))
  else none

/-- OBS_PARSE_LAST (R109), OBS_ARR_STATE (R223) and the reserved word of the array counters (R231). -/
def obsVal (s : State) (off : Nat) : Option Nat :=
  if 0x2000 ≤ off && off < 0x2000 + 0x40 * 32 && off % 0x40 = 0x20 then some (pipe s ((off - 0x2000) / 0x40)).last
  else if 0x6000 ≤ off && off < 0x6000 + 0x40 * 132 && off % 0x40 = 0x3C then some 0
  else if 0x6000 ≤ off && off < 0x6000 + 0x40 * 132 && off % 0x40 = 0x34 then
    let p := (off - 0x6000) / 0x40
    some (mgetD s.nv.arrRetired p 0 % 16 + 16 * b2n (bit s.nv.mvRetired p) + 32 * b2n ((core s p).st != 0 && bit (core s p).mode 0))
  else none

/-- A register of the table units (R148). -/
def tblVal (s : State) (off : Nat) : Option Nat :=
  let x := off % 0x100
  if 0x400 ≤ off then none
  else if x ≤ 0x0C || (0x20 ≤ x && x < 0x80) then some (tblRead (off / 0x100) x s) else none

/-- The value of the register at `off`, latches apart; none where nothing is mapped (R452). Aperture offsets read zero here: REG_READ
does not use the aperture (R454). -/
def regVal (s : State) (off : Nat) : Option Nat :=
  if off % 4 ≠ 0 || 2 ^ 24 ≤ off then none
  else match ctrAt off with
    | some (.lo o) => some (ctrVal s o % 2 ^ 32)
    | some (.hi o) => some (ctrVal s o / 2 ^ 32)
    | some (.err o _) => some (ctr s o)
    | some (.flags o) => some (mgetD s.ovf o 0)
    | none =>
      if (wide s off).isSome || (wideOf off).isSome then some 0
      else if off < baseTbl then cwVal s off
      else if off < baseSp then tblVal s (off - baseTbl)
      else if off < baseFlt then spVal s (off - baseSp)
      else if off < 0x8000 then fltVal s (off - baseFlt)
      else if off < baseCl then some 0
      else if off < baseCh then clVal s (off - baseCl)
      else if off < baseHb then chVal s (off - baseCh)
      else if off < 0x1C000 then hbVal s (off - baseHb)
      else if baseObs ≤ off && off < 0x40000 then obsVal s (off - baseObs)
      else none

/-- A register is mapped at `off`. -/
def mapped (s : State) (off : Nat) : Bool := (regVal s off).isSome
/-- A read by accessor `acc` of the register at `off`, with its latches (R9). -/
def regRead (acc off : Nat) (s : State) : Nat × State :=
  match wide s off, wideOf off with
  | some (v, f), _ => (v % 2 ^ 32, { s with latch := mset s.latch (latchKey acc off) (v / 2 ^ 32, f) })
  | none, some (lo, frac) =>
    let l := mgetD s.latch (latchKey acc lo) (0, 0)
    (if frac then l.2 else l.1, s)
  | none, none => ((regVal s off).getD 0, s)

/-! ### Writes (R10, R11, R14) -/

/-- A write of 0 to a counter's low word clears it and its flag. -/
def ctrClear (off : Nat) (s : State) : State :=
  match ctrAt off with
  | some (.lo o) => { s with ctrs := if pinCtr o then msetD s.ctrs o (now s) 0 else mdel s.ctrs o }
  | some (.err o f) =>
    let s := { s with ctrs := mdel s.ctrs o }
    match f with
    | some (r, b) => { s with ovf := msetD s.ovf r (clrBit (mgetD s.ovf r 0) b) 0 }
    | none => s
  | _ => s
/-- DONE bits in `mask` are cleared: those mailboxes become IDLE (R459). -/
def clearDone (mask : Nat) (s : State) : State :=
  { s with helm := { s.helm with mbx := s.helm.mbx.map fun e => (e.1, if e.2.st == 3 && bit mask e.1 then { e.2 with st := 0 } else e.2) } }
/-- The request that stands in mailbox `m`'s request area (R458). -/
def areaRq (s : State) (m : Nat) : Rq :=
  let a := (mbx s m).area
  { op := Mem.leAt a 0 2, len := Mem.leAt a 2 2, seq := Mem.leAt a 4 4, ifv := Mem.leAt a 8 1, flags := Mem.leAt a 9 1,
    rsvd := Mem.leAt a 10 6, payload := Mem.bytes a 16 (min 4080 (Mem.leAt a 2 2)) }
/-- CW_MBX_DB written by a REG_WRITE of session `i`: the mailboxes ring in ascending order (R460, R461). -/
def ringMask (i mask : Nat) (s : State) : State :=
  (List.range 32).foldl (fun s m => if bit mask m then ringMbx m i (areaRq s m) s else s) s

/-- Half `h` of a 64-bit value is written. -/
def setHalf (x h v : Nat) : Nat := if h = 0 then x / 2 ^ 32 * 2 ^ 32 + v % 2 ^ 32 else x % 2 ^ 32 + 2 ^ 32 * (v % 2 ^ 32)

/-- A write to a control-window register by accessor `acc`. -/
def cwWrite (acc off v : Nat) (s : State) : State :=
  match off with
  | 0x014 => { s with sys := { s.sys with cause := clrMask s.sys.cause (clrMask v (assertedCauses s)) } }
  | 0x030 => { s with helm := { s.helm with page := v % 512 } }
  | 0x04C => { s with flt := { s.flt with rd := v % 4096 } }
  | 0x080 => if dbgOpen s 1 then { s with hv := { s.hv with tReg := setHalf s.hv.tReg 0 v } } else s
  | 0x084 => if dbgOpen s 1 then { s with hv := { s.hv with tReg := setHalf s.hv.tReg 1 v } } else s
  | 0x088 => if dbgOpen s 1 then heaveCtl v s else s
  | 0x0A0 => if bit v 8 then lockDebug s else s
  | 0x100 => if acc < 4 then ringMask acc v s else s
  | 0x108 => clearDone v s
  | 0x10C => { s with helm := { s.helm with collide := clrMask s.helm.collide v } }
  | _ => s

/-- A write to SP_PORT_CTL of port `q` (R82, R83). -/
def spWrite (q v : Nat) (s : State) : State :=
  if unusedPort s q then s
  else
    let s := setPortWidth q (bit v 1) s
    let p := port s q
    let s := setPort q { p with maxVer := if bits v 3 2 = 1 || bits v 3 2 = 2 then bits v 3 2 else p.maxVer, stampLocal := bit v 4 } s
    if bit v 0 then setPortEn q s else clrPortEn q s
/-- A write to a chain-link register (R430). -/
def clWrite (n off v : Nat) (s : State) : State :=
  let x := link s n
  match off with
  | 0 =>
    let s := setLink n { x with maxVer := if bits v 2 1 = 1 || bits v 2 1 = 2 then bits v 2 1 else x.maxVer, expectEn := bit v 3 } s
    if bit v 0 then setLinkEn n s else clrLinkEn n s
  | 4 => setLink n { x with expChip := v % 65536, expLink := bits v 18 16 } s
  | _ => s
/-- A write to a chronometer register (R392). -/
def chWrite (off v : Nat) (s : State) : State :=
  let s := if 0x20 ≤ off && off < 0x40 then alarmFire ((off - 0x20) / 8) s else s
  let c := s.ch
  match off with
  | 0x40 => setCh { c with alEn := v % 16, alEvent := bits v 7 4, alFired := clrMask c.alFired (bits v 11 8) } s
  | 0x44 => setCh { c with wakeCtl := v &&& 0x1F1F } s
  | 0x48 => setCh { c with wakeCause := clrMask c.wakeCause (v % 256) } s
  | _ => if 0x20 ≤ off && off < 0x40 then
      let n := (off - 0x20) / 8
      setCh { c with alarm := msetD c.alarm n (setHalf (mgetD c.alarm n 0) (off / 4 % 2) v) 0 } s
    else s

/-- A write of `v` to the register at `off` by accessor `acc` (R10). DESIGN CHOICE: HB_REPAIR_CTL keeps 1 where 0 is written, since
"0 is taken as 1" (R372), and then reads 1. -/
def regWrite (acc off v : Nat) (s : State) : State :=
  match ctrAt off with
  | some (.flags o) => { s with ovf := msetD s.ovf o (clrMask (mgetD s.ovf o 0) v) 0 }
  | some _ => if v = 0 then ctrClear off s else s
  | none =>
    if off % 4 ≠ 0 then s
    else if off < baseTbl then cwWrite acc off v s
    else if off < baseTbl + 0x400 then tblWrite ((off - baseTbl) / 0x100) (off % 0x100) v s
    else if baseSp ≤ off && off < baseSp + 0x4000 then
      if off % 0x100 = 0 then spWrite ((off - baseSp) / 0x100) v s else s
    else if off = baseFlt then { s with flt := { s.flt with alarmCtl := v % 65536 } }
    else if off = baseFlt + 4 then { s with flt := { s.flt with pend := clrMask s.flt.pend (v % 256) } }
    else if baseCl + 0x100 ≤ off && off < baseCl + 0x900 then clWrite ((off - baseCl) / 0x100 - 1) (off % 0x100) v s
    else if baseCh ≤ off && off < baseHb then chWrite (off - baseCh) v s
    else if off = baseHb + 0x3C then { s with mem := { s.mem with rowCe := max 1 (v % 16), rowWin := max 1 (bits v 15 4) } }
    else s

/-! ### The window and its aperture (R452 to R454) -/

/-- The register that window offset `x` reaches. -/
def windowOff (s : State) (x : Nat) : Option Nat :=
  if x < 0x8000 then some x
  else if 0x10000 ≤ x || s.helm.page < 2 then none
  else some (s.helm.page * 0x8000 + (x - 0x8000))
/-- A read by accessor `acc`: a session reaches every offset, any other accessor the window. -/
def accRead (acc off : Nat) (s : State) : Nat × State :=
  match (if acc < 4 then some off else windowOff s off) with
  | some o => if mapped s o then regRead acc o s else (0, s)
  | none => (0, s)
/-- A write by accessor `acc`. -/
def accWrite (acc off v : Nat) (s : State) : State :=
  match (if acc < 4 then some off else windowOff s off) with
  | some o => if mapped s o then regWrite acc o v s else s
  | none => s
/-- Accessor `acc` reaches the registers now: a session while it is open, the JTAG port while its scope is unlocked. -/
def accUp (s : State) (acc : Nat) : Bool :=
  if acc < 4 then helmUp s && (sess s acc).opened
  else !down s && s.sys.rom && (if acc = accJtag then dbgOpen s 2 else true)

/-- LOW_WORD_READ_LATCH (R9): accessor `acc` reads the register at `off`. -/
def execLowWordReadLatch (acc off : Nat) (s : State) : Host.Outcome State Fault Refusal :=
  .next (if accUp s acc then (accRead acc off s).2 else s)
/-- REGISTER_WRITE (R10): accessor `acc` writes `val` to the register at `off`. -/
def execRegisterWrite (acc off val : Nat) (s : State) : Host.Outcome State Fault Refusal :=
  .next (if accUp s acc then accWrite acc off (val % 2 ^ 32) s else s)
/-- COUNTER_CLEAR (R14): 0 is written to the low word of the counter at `off`. -/
def execCounterClear (off : Nat) (s : State) : Host.Outcome State Fault Refusal := .next (if down s then s else ctrClear off s)
/-- CW_MBX_DB_RING (R460). -/
def execCwMbxDbRing (sess mask : Nat) (s : State) : Host.Outcome State Fault Refusal :=
  .next (if sess < 4 && accUp s sess then ringMask sess mask s else s)
/-- CW_MBX_DONE_CLEAR (R459). -/
def execCwMbxDoneClear (mask : Nat) (s : State) : Host.Outcome State Fault Refusal := .next (if helmUp s then clearDone mask s else s)

/-! ### REG_READ and REG_WRITE (R452, R466) -/

/-- The rows that both commands share. -/
def regRows (c : Call) (n top : Nat) (s : State) : List (Nat × Bool) :=
  let off := leAt c.p 0 4
  let k := leAt c.p 4 2
  [(2, c.p.length != n), (3, off % 4 != 0 || 2 ^ 24 ≤ off || leAt c.p 6 2 != 0),
   (4, k == 0 || top < k || (List.range k).any fun i => !mapped s (off + 4 * i))]
/-- REG_READ (0x0002). -/
def regReadCmd (c : Call) (s : State) : CmdRes :=
  let off := leAt c.p 0 4
  rows (regRows c 8 1020 s) s <|
    let r := (List.range (leAt c.p 4 2)).foldl (fun (a : Bytes × State) i =>
      let (v, s) := regRead (if c.relayed then 0x300 else c.sess) (off + 4 * i) a.2
      (a.1 ++ le 4 v, s)) ([], s)
    reply r.1 r.2
/-- REG_WRITE (0x0003). -/
def regWriteCmd (c : Call) (s : State) : CmdRes :=
  let off := leAt c.p 0 4
  let k := leAt c.p 4 2
  let hits := fun (a b : Nat) => decide (off ≤ b) && decide (a < off + 4 * k)
  rows (regRows c (8 + 4 * k) 1018 s ++ [(8, hits 0x080 0x088 && !dbgOpen s 1), (9, c.relayed && hits 0x100 0x100)]) s <|
    okay ((List.range k).foldl (fun s i => regWrite (if c.relayed then 0x300 else c.sess) (off + 4 * i) (leAt c.p (8 + 4 * i) 4) s) s)

/-- REG_READ. -/
def execRegRead (r : Req) (s : State) : Host.Outcome State Fault Refusal := .next (mbxRow 0x0002 regReadCmd r s)
/-- REG_WRITE. -/
def execRegWrite (r : Req) (s : State) : Host.Outcome State Fault Refusal := .next (mbxRow 0x0003 regWriteCmd r s)

/-! ### SMBus and JTAG (R503, R557, R558) -/

/-- A word of an SMBus answer. -/
def smbusWord (s : State) (code : Nat) : Option Nat :=
  match code with
  | 0x01 => some (cwStatus s % 65536)
  | 0x02 => some (tempWord (tjMax s))
  | 0x03 => some (tempWord (hbmMax s))
  | 0x04 => some (s.pw.avgMs % 65536)
  | 0x05 => some s.pw.work
  | 0x06 => some (alarmStat s % 65536)
  | 0x07 => some (650 + 5 * min 30 Config.vid)
  | 0x08 => some s.sys.rail
  | _ => none
/-- SMBUS_READ of command code `code` (R557). -/
def execSmbusRead (code : Nat) (s : State) : Host.Outcome State Fault Refusal :=
  .next <|
    if !s.sys.rom || down s then s
    else if code = 0x10 then emit (.smbus ([22] ++ (List.range 11).flatMap fun k => le 2 (mgetD s.pw.rails k 0))) s
    else match smbusWord s code with
      | some v => emit (.smbus (le 2 v)) s
      | none => s

/-- IDCODE (R558). -/
def idcode : Nat := 0x071604B5 + 2 ^ 28 * (Config.stepping.toNat % 16)
/-- The instruction is available now (R503). -/
def jtagMay (s : State) (op : JtagOp) : Bool :=
  match op with
  | .bypass | .idcode | .samplePreload | .ac => true
  | .extest | .extestPulse | .extestTrain => !s.inlineOk
  | .access _ _ | .vendor => dbgOpen s 2
/-- A boundary-scan instruction: the cells are shown, and take what is shifted in. -/
def scan (dr : Bytes) (s : State) : State :=
  let (k, s) := draw s
  emit (.jtag (Config.scanCells k)) { s with jtag := { s.jtag with cells := dr } }
/-- JTAG_INSTRUCTION with `dr` shifted in: an instruction that is not available has no effect. -/
def execJtagInstruction (op : JtagOp) (dr : Bytes) (s : State) : Host.Outcome State Fault Refusal :=
  if s.sys.level = 3 || s.ch.pwr = 2 || !jtagMay s op then .next s
  else
    let s := { s with jtag := { s.jtag with ir := op } }
    match op with
    | .bypass => .next (emit (.jtag dr) s)
    | .idcode => .next (emit (.jtag (le 4 idcode)) s)
    | .samplePreload | .ac | .extest | .extestPulse | .extestTrain => .next (scan dr s)
    | .access off none => .next (let r := accRead accJtag off s; emit (.jtag (le 4 r.1)) r.2)
    | .access off (some v) => .next (accWrite accJtag off (v % 2 ^ 32) s)
    | .vendor => .refused .vendorTest

end Sys2Proof.Machine
end

