-- ==== Sys2Proof/Machine/Brixvia.lean ====
section
/-! DEFINITION. Brixvia (R468 to R478): frames as they arrive, handshakes, sessions and their ports, bulk transfers, events and PTP
messages. -/

namespace Sys2Proof.Machine

open Sys2Proof

/-! ### Receiving (R471, R472) -/

/-- A port frame is discarded and counted (R470). -/
def discard (s : State) : State := errc 0x324 0x32C 5 1 s
/-- A frame of session `i` fails its tag or the window (R471). -/
def authFail (i : Nat) (s : State) : State :=
  let x := sess s i
  let n := if x.failSec = nowSec s then x.fails + 1 else 1
  raise1s { code := 0x0702, unit := helmUnit s, index := i, version := newestNum s, detail := min n 255 }
    (errc 0x31C 0x32C 3 1 (setSess i { x with fails := n, failSec := nowSec s } s))
/-- The packet number is new and within 1,024 of the highest accepted. -/
def pnOk (x : Sess) (pn : Nat) : Bool :=
  x.pnRx == 0 || (!x.pnSeen.contains pn && decide (pn + 1 ≤ x.pnRx + 1024) && decide (x.pnRx ≤ pn + 1025))
/-- FACK frees what it covers, and waiting frames leave. -/
def takeFack (i fack : Nat) (s : State) : State :=
  let x := sess s i
  let n := (x.unacked.takeWhile fun f => (fack + 2 ^ 32 - (f.fseq + 1)) % 2 ^ 32 < 2 ^ 31).length
  let s := if n = 0 then s else setSess i { x with unacked := x.unacked.drop n, ackT := now s } s
  pumpSess 4096 i s
/-- The helm receives frames on port `p`. -/
def portUp (s : State) (p : Nat) : Bool := p < 2 && helmUp s && (bxPort s p).txOn
/-- A protected frame is authenticated: the state with its packet number, port and acknowledgement taken, or none. -/
def authentic (f : BxFrame) (s : State) : Bool × State :=
  if !portUp s f.port then (false, s)
  else if 4 ≤ f.sess || !(sess s f.sess).opened then (false, errc 0x31C 0x32C 3 1 s)
  else
    let x := sess s f.sess
    if !f.tagOk || !pnOk x f.pn then (false, authFail f.sess s)
    else
      let hi := max x.pnRx (f.pn + 1)
      (true, takeFack f.sess f.fack (setSess f.sess { x with
        pnRx := hi, pnSeen := (f.pn :: x.pnSeen).filter fun n => decide (hi ≤ n + 1025), heard := mset x.heard f.port (now s) } s))
/-- A frame that is not sequenced. -/
def rxPlain (f : BxFrame) (s : State) : State := (authentic f s).2
/-- A sequenced frame: taken with effect `k` where its FSEQ is the one expected; a duplicate is acknowledged again. -/
def rxSeq (f : BxFrame) (k : State → State) (s : State) : State :=
  let (ok, s) := authentic f s
  let x := sess s f.sess
  if !ok || !x.opened then s
  else
    let due := some (x.ackDue.getD (now s))
    let d := (f.fseq + 2 ^ 32 - x.fseqRx) % 2 ^ 32
    if d = 0 then k (setSess f.sess { x with fseqRx := (x.fseqRx + 1) % 2 ^ 32, ackDue := due } s)
    else if 2 ^ 31 ≤ d then setSess f.sess { x with ackDue := due } s
    else discard s

/-! ### Mailbox frames (R459, R472) -/

/-- What an MBX_WRITE does to its mailbox. -/
def mbxWrite (i : Nat) (b : Bytes) (s : State) : State :=
  let m := u8 b 0
  let off := beAt b 4 2
  let d := b.drop 8
  let ring := bit (u8 b 1) 0
  if b.length < 8 || 31 < m || 2 ≤ u8 b 1 || !zeroAt b 2 2 || !zeroAt b 6 2 || 4096 ≤ off || 4096 < off + d.length then discard s
  else
    let x := mbx s m
    let a := Mem.store x.area off d
    let w := setMbx m { x with area := a } s
    if x.st = 1 || x.st = 2 then
      if ring then ringMbx m i (areaRq w m) s
      else errc 0x314 0x32C 1 1 { s with helm := { s.helm with collide := setBit s.helm.collide m } }
    else if ring then ringMbx m i (areaRq w m) w else w
/-- MBX_WRITE. -/
def execMbxWrite (f : BxFrame) (s : State) : Host.Outcome State Fault Refusal := .next (rxSeq f (mbxWrite f.sess f.body) s)

/-- What an MBX_READ is answered with. -/
def mbxRead (i : Nat) (b : Bytes) (s : State) : State :=
  let m := u8 b 0
  if b.length ≠ 8 || 31 < m || !zeroAt b 1 7 then discard s
  else sendResp m i 0 ((mbx s m).resp.getD { op := 0, seq := 0, status := 13 }) s
/-- MBX_READ. -/
def execMbxRead (f : BxFrame) (s : State) : Host.Outcome State Fault Refusal := .next (rxSeq f (mbxRead f.sess f.body) s)

/-! ### Bulk transfers (R476, R477) -/

/-- The transfer `xid` of session `i`, where it has one. -/
def bulkOf (s : State) (i xid : Nat) : Option Bulk := (sess s i).bulk.find? (·.xid == xid)
/-- A session may move bulk data now (R474, R493): none, or the status that ends the transfer. -/
def bulkBar (s : State) (i : Nat) : Option Nat :=
  if romMode s then some 9 else if !(sess s i).anchored then some 8 else if !s.mem.ready then some 9 else none
/-- What a BULK_WRITE does. -/
def bulkWrite (i : Nat) (last : Bool) (b : Bytes) (s : State) : State :=
  let xid := beAt b 0 4
  let a := beAt b 8 8
  let d := b.drop 16
  let old := bulkOf s i xid
  if (old.map (·.ended)).getD false then s
  else if b.length < 16 || 8192 < b.length || !zeroAt b 4 4 || a % 32 ≠ 0 || (!last && d.length % 32 ≠ 0) || (old.map (·.reading)).getD false then
    endBulk i xid 3 0 s
  else match bulkBar s i with
    | some st => endBulk i xid st 0 s
    | none =>
      if holding s then endBulk i xid 9 0 s
      else if !openHbm s a d.length then endBulk i xid 4 0 s
      else
        let s := hbmWrite a d s
        let x := sess s i
        let rest := x.bulk.filter (·.xid != xid)
        if last then sendSeq i 0x23 0 (be 4 xid ++ zeros 12) (setSess i { x with bulk := rest } s)
        else setSess i { x with bulk := rest ++ [{ xid := xid, reading := false }] } s
/-- BULK_WRITE. -/
def execBulkWrite (f : BxFrame) (s : State) : Host.Outcome State Fault Refusal :=
  .next (if hbmHeld s (beAt f.body 8 8) (f.body.length - 16) then s else rxSeq f (bulkWrite f.sess (bit f.flags 0) f.body) s)

/-- Table memory (R350). -/
def inTbl (a n : Nat) : Bool := decide (0x200000000000 ≤ a) && decide (a + n ≤ 0x200020000000)
/-- The next BULK_DATA frame of session `i` leaves, where one may: at most 8,160 bytes, LAST on the final one. -/
def bulkData (i : Nat) (s : State) : State :=
  let x := sess s i
  match x.bulk.find? fun b => b.reading && !b.ended with
  | none => s
  | some b =>
    let n := min 8160 b.left
    match firstPoison s b.addr n with
    | some a => endBulk i b.xid 12 (a / 64) (poisonRead a s)
    | none =>
      let d := devBytes s b.addr n
      let rest := x.bulk.filter (·.xid != b.xid)
      let last := decide (b.left = n)
      let s := (draw s).2
      txSeq i 0x22 (b2n last) (be 4 b.xid ++ zeros 4 ++ be 8 b.addr ++ d)
        (setSess i { x with bulk := if last then rest else rest ++ [{ b with addr := b.addr + n, left := b.left - n }] } s)
/-- BULK_DATA frames leave while the window has room, at most `fuel` of them. -/
def pumpBulk (fuel i : Nat) (s : State) : State :=
  match fuel with
  | 0 => s
  | fuel + 1 =>
    let x := sess s i
    let held := match x.bulk.find? fun b => b.reading && !b.ended with
      | some b => hbmHeld s b.addr (min 8160 b.left)
      | none => true
    if 4096 ≤ x.unacked.length || !x.waiting.isEmpty || held then s
    else pumpBulk fuel i (bulkData i s)
/-- What a BULK_READ does. -/
def bulkRead (i : Nat) (b : Bytes) (s : State) : State :=
  let xid := beAt b 0 4
  let a := beAt b 8 8
  let n := beAt b 16 8
  let old := bulkOf s i xid
  if (old.map (·.ended)).getD false then s
  else if b.length ≠ 24 || !zeroAt b 4 4 || a % 32 ≠ 0 || old.isSome then endBulk i xid 3 0 s
  else match bulkBar s i with
    | some st => endBulk i xid st 0 s
    | none =>
      if n = 0 || 2 ^ 32 < n || !(inMem s a n || inTbl a n) then endBulk i xid 4 0 s
      else
        let x := sess s i
        pumpBulk 4096 i (setSess i { x with bulk := x.bulk ++ [{ xid := xid, reading := true, addr := a, left := n }] } s)
/-- BULK_READ. -/
def execBulkRead (f : BxFrame) (s : State) : Host.Outcome State Fault Refusal := .next (rxSeq f (bulkRead f.sess f.body) s)

/-- ACK: FACK advances, and bulk reads go on. -/
def execBxAck (f : BxFrame) (s : State) : Host.Outcome State Fault Refusal := .next (pumpBulk 4096 f.sess (rxPlain f s))
/-- KEEPALIVE. -/
def execKeepalive (f : BxFrame) (s : State) : Host.Outcome State Fault Refusal := .next (pumpBulk 4096 f.sess (rxPlain f s))
/-- CLOSE: acknowledged, and the session closes (R475, R477). -/
def execClose (f : BxFrame) (s : State) : Host.Outcome State Fault Refusal :=
  .next (rxSeq f (fun s => closeSess f.sess (sendPlain f.sess 0x40 [] s)) s)

/-! ### Sessions in time (R472, R475) -/

/-- ACK leaves for what session `i` has taken. -/
def execBxAckSend (sess : Nat) (s : State) : Host.Outcome State Fault Refusal :=
  .next (if helmUp s && (Machine.sess s sess).ackDue.isSome then sendPlain sess 0x40 [] s else s)
/-- BX_RETX_TIMEOUT: FACK has not advanced for 250 µs. -/
def execBxRetxTimeout (sess : Nat) (s : State) : Host.Outcome State Fault Refusal :=
  .next (if helmUp s && (Machine.sess s sess).opened && (Machine.sess s sess).ackT + 250000 ≤ now s then resend sess s else s)
/-- KEEPALIVE of session `i` on port `p`. -/
def keepOn (i p : Nat) (s : State) : State :=
  let x := sess s i
  if !x.opened || !bit s.ch.light p then s
  else if 2 ^ 48 ≤ x.pnTx + 1 then sendClose i 1 s
  else setSess i { x with pnTx := x.pnTx + 1, ackDue := none } (emit (.bx p i 0x41 0 x.pnTx 0 x.fseqRx []) s)
/-- KEEPALIVE_SEND: once per ms and open session, on every port that has light. -/
def execKeepaliveSend (s : State) : Host.Outcome State Fault Refusal :=
  .next <|
    if !helmUp s then s
    else (List.range 4).foldl (fun s i =>
      let x := sess s i
      if !x.opened || now s + 1 < x.kept + 1000000 then s
      else keepOn i 1 (keepOn i 0 (setSess i { x with kept := now s + 1 } s))) s
/-- SESSION_IDLE_TIMEOUT: no authenticated frame on any port for 100 ms. -/
def execSessionIdleTimeout (sess : Nat) (s : State) : Host.Outcome State Fault Refusal :=
  .next <|
    let x := Machine.sess s sess
    if helmUp s && x.opened && x.heard.all (fun e => decide (e.2 + 100000000 ≤ now s)) then sendClose sess 2 s else s
/-- Port `p` may be the active port of a session: it has lock, and carried a frame of the session within 3 ms. -/
def portFit (s : State) (x : Sess) (p : Nat) : Bool :=
  (bxPort s p).lock && (match mget x.heard p with | some t => decide (now s ≤ t + 3000000) | none => false)
/-- ACTIVE_PORT_SWITCH (R475); a servo on PTP returns to ACQUIRING where its port changes (R379). -/
def execActivePortSwitch (sess : Nat) (s : State) : Host.Outcome State Fault Refusal :=
  .next <|
    let x := Machine.sess s sess
    if !helmUp s || !x.opened || portFit s x x.port || !portFit s x (1 - x.port) then s
    else
      let p := ptpPort s
      let s := setSess sess { x with port := 1 - x.port } s
      if ptpPort s ≠ p && s.ch.source = 2 && s.ch.st ≠ 0 then setCh { s.ch with st := 1, inLock := 0, masters := [] } s else s

/-! ### Events (R468, R469) -/

/-- EVENT_FRAME_SEND: the oldest event of session `sess` leaves, once fewer than 4,096 frames are unacknowledged. -/
def execEventFrameSend (sess : Nat) (s : State) : Host.Outcome State Fault Refusal :=
  .next <|
    let x := Machine.sess s sess
    match x.events with
    | [] => s
    | e :: r =>
      if !helmUp s || !x.opened || 4096 ≤ x.unacked.length || !x.waiting.isEmpty then s
      else
        let b := le 2 e.type ++ le 2 e.body.length ++ le 4 x.eseq ++ le 8 e.stamp ++ le 2 (chipId s) ++
          le 1 (b2n x.lostBefore + 2 * b2n s.chip.isSome) ++ zeros 5 ++ e.body
        perf 0x308 1 (txSeq sess 0x30 0 b (setSess sess { x with events := r, eseq := (x.eseq + 1) % 2 ^ 32, lostBefore := false } s))

/-! ### Handshakes (R473, R474) -/

/-- HS_FAIL with `status` leaves on port `p`. -/
def hsFail (p i status : Nat) (s : State) : State := emit (.bx p i 0x04 0 0 0 0 (be 2 status ++ zeros 2)) s
/-- The session index that a new handshake is given: one that is not open, and if possible one that no handshake holds. -/
def freeSess (s : State) : Option Nat :=
  let l := (List.range 4).filter fun i => !(sess s i).opened
  match l.find? fun i => !s.helm.hs.any (·.sess == i) with
  | some i => some i
  | none => l.head?
/-- HS_INIT on port `port`. -/
def execHsInit (port : Nat) (body : Bytes) (s : State) : Host.Outcome State Fault Refusal :=
  .next <|
    if !portUp s port then s
    else
      let x := bxPort s port
      let l := now s :: x.inits.filter fun t => now s < t + 1000000000
      let s := setBxPort port { x with inits := l } s
      if !s.sys.idOk then hsFail port 0xFF 8 s
      else if body.length ≠ 100 || !zeroAt body 97 3 then discard s
      else match freeSess s with
        | none => hsFail port 0xFF 5 s
        | some i =>
          if 16 < l.length then hsFail port 0xFF 6 s
          else
            let (k, s) := draw s
            let cert := Config.certificate.take 1024
            let head := padTo 97 (Config.entropy k) ++ le 1 i ++ be 2 cert.length
            let resp := head ++ padTo 64 (Config.signature idKey (sha256 (body ++ head)) k) ++ cert
            emit (.bx port i 0x02 0 0 0 0 resp) { s with helm := { s.helm with
              hs := (s.helm.hs.filter (·.sess != i)) ++ [{ port := port, start := now s, sess := i, init := body, resp := resp }] } }

/-- HS_FIN for session `sess`; `peer` is the first word of the SHA-256 of the peer's public key. -/
def execHsFin (port sess : Nat) (body : Bytes) (peer : Nat) (cr : Crypto) (s : State) : Host.Outcome State Fault Refusal :=
  .next <|
    if !portUp s port then s
    else match s.helm.hs.find? fun h => h.sess == sess && decide (now s < h.start + 100000000) with
      | none => discard s
      | some _ =>
        let n := beAt body 0 2
        let mine := (s.nv.anchors.map (·.1)).foldl (fun a k => if bit cr.chain k then setBit a k else a) 0
        let s := { s with helm := { s.helm with hs := s.helm.hs.filter (·.sess != sess) } }
        if body.length ≠ 68 + n || n = 0 || 1024 < n || !zeroAt body 2 2 || !cr.sigOk || (!s.nv.anchors.isEmpty && mine == 0) then
          hsFail port sess 8 (errc 0x31C 0x32C 3 1 s)
        else if (Machine.sess s sess).opened then hsFail port sess 5 s
        else
          let g := s.helm.gens + 1
          let s := { s with helm := { s.helm with gens := g }, latch := s.latch.filter fun e => e.1 / 2 ^ 24 != sess }
          sendPlain sess 0x40 [] (setSess sess { ({} : Sess) with
            opened := true, gen := g, port := port, peer := peer % 2 ^ 32, anchored := mine != 0, anchors := mine,
            heard := mset [] port (now s) } s)

/-- HANDSHAKE_TIMEOUT: the handshake for session `sess` was not finished within 100 ms. -/
def execHandshakeTimeout (sess : Nat) (s : State) : Host.Outcome State Fault Refusal :=
  .next { s with helm := { s.helm with hs := s.helm.hs.filter fun h => h.sess != sess || decide (now s < h.start + 100000000) } }

/-! ### PTP (R379, R475) -/

/-- The profile in force uses the message. -/
def ptpUses (s : State) (k : PtpKind) : Bool :=
  match k with
  | .announce | .sync | .followUp => true
  | .delayReq | .delayResp => s.ch.profile == 0
  | .pdelayReq | .pdelayResp | .pdelayRespFollowUp => s.ch.profile == 1
  | .other => false
/-- Numbers in order: the first difference decides. -/
def lexLt : List Nat → List Nat → Bool
  | a :: l, b :: r => decide (a < b) || (a == b && lexLt l r)
  | _, _ => false
/-- One master is better than another (R379, by IEEE 1588-2019: PRESUMED): of one grandmaster the nearer, else by the datasets' members. -/
def betterMaster (a b : Master) : Bool :=
  let near := fun (m : Master) => [m.ds.steps, m.src]
  let rank := fun (m : Master) => [m.ds.prio1, m.ds.clockClass, m.ds.accuracy, m.ds.variance, m.ds.prio2, m.ds.identity]
  if a.ds.identity = b.ds.identity then lexLt (near a) (near b) else lexLt (rank a) (rank b)
/-- The masters whose last Announce has not lapsed. -/
def mastersNow (s : State) : List Master := s.ch.masters.filter fun m => decide (now s ≤ m.till)
/-- The port identity of the master that the device follows. -/
def followed (s : State) : Option Nat :=
  ((mastersNow s).foldl (fun a m => match a with | none => some m | some x => if betterMaster m x then some m else a) none).map (·.src)
/-- PTP_MESSAGE on port `port`. A Sync of the master that is followed asks for the delay in turn. -/
def execPtpMessage (port : Nat) (m : PtpMsg) (s : State) : Host.Outcome State Fault Refusal :=
  .next <|
    if !portUp s port then s
    else if port ≠ ptpPort s || s.ch.source ≠ 2 || m.barred || !ptpUses s m.kind || m.domain ≠ s.ch.domain then discard s
    else match m.kind with
      | .pdelayReq => emit (.ptp port .pdelayRespFollowUp) (emit (.ptp port .pdelayResp) s)
      | .announce => match m.ds with
        | some d => setCh { s.ch with
            masters := (mastersNow s).filter (·.src != m.src) ++ [{ src := m.src, ds := d, till := now s + m.ttl }] } s
        | none => s
      | .sync | .followUp =>
        if followed s ≠ some m.src then s
        else
          let ask := if s.ch.profile = 1 then PtpKind.pdelayReq else .delayReq
          let s := if m.kind = .sync then emit (.ptp port ask) s else s
          match m.off with
          | some o => if servoUp s then refCompare o s else s
          | none => s
      | _ => s

end Sys2Proof.Machine
end

