-- ==== Sys2Proof/Machine/SealCompass.lean ====
section
/-! DEFINITION. CP_STAGE, CP_DELETE and CP_SEAL (R183 to R186): staging ensembles and checking them whole. -/

namespace Sys2Proof.Machine

open Sys2Proof

/-! ### Leaf entries cover each assignment once (R159, R186) -/

/-- A leaf entry: PATTERN, MASK and LEAF. -/
abbrev LeafEnt := Nat × Nat × Nat
/-- Two entries match a common assignment. -/
def overlap (a b : LeafEnt) : Bool := (a.1 ^^^ b.1) &&& (a.2.1 &&& b.2.1) == 0
/-- No assignment matches two entries that name different leaves. -/
def sameLeaf : List LeafEnt → Bool
  | [] => true
  | e :: r => (r.all fun f => e.2.2 == f.2.2 || !overlap e f) && sameLeaf r
/-- Entries, as PATTERN and MASK, match every assignment of the node bits below `n`: of an assignment's top bit, each value is
covered by the entries that allow it. -/
def covered : Nat → List (Nat × Nat) → Bool
  | 0, l => !l.isEmpty
  | n + 1, l =>
    l.any (fun e => e.2 % 2 ^ (n + 1) == 0) ||
    (!l.isEmpty && covered n (l.filter fun e => !bit e.2 n || !bit e.1 n) && covered n (l.filter fun e => !bit e.2 n || bit e.1 n))

/-! ### Failing fields (R165 to R170, R186) -/

/-- Byte of the lowest set bit. -/
def lowByte (x : Nat) : Nat := (((List.range 128).find? fun i => bit x i).getD 0) / 8

/-- Feature-map entry `f`; `ex` are the exact tables enabled on some port. -/
def featBad (m g : Mem) (ex f : Nat) : List Nat :=
  let o := 64 + 4 * f
  let e := Mem.leAt m o 4
  let src := e % 16
  let conv := bits e 7 4
  let n := slotBytes g (bits e 13 8)
  if ensFeatures m ≤ f then nz m o (o + 4)
  else if 4 < src then [o]
  else
    chk (3 < conv || (conv == 2 && src != 1) || (src == 2 && conv != 0)) o ++
    (match src with
    | 0 => chk (256 ≤ e) (o + 1)
    | 1 =>
      let w := bits e 20 18
      chk (n == 0 || (n < bits e 17 14 + w && w != 0 && w < 5)) (o + 1) ++ chk (w == 0 || 4 < w || bits e 31 21 != 0) (o + 2)
    | 2 => chk (!bit ex (bits e 10 8) || 11 < bits e 14 11 || bits e 31 15 != 0) (o + 1)
    | 3 => chk (14 < bits e 12 8 || bits e 31 13 != 0) (o + 1)
    | _ => chk (4 < bits e 12 8 || bits e 31 13 != 0) (o + 1))

/-- Node entry at `o` (R168). -/
def cnodeBad (m : Mem) (b o : Nat) : List Nat :=
  let w := Mem.leAt m o 4
  chk (if bit w 24 then blkSets m b ≤ w % 256 else w % 65536 == 0x8000) o ++ chk (bit w 24 && bits w 15 8 != 0) (o + 1) ++
  chk (ensFeatures m ≤ bits w 23 16) (o + 2) ++ chk (bits w 31 26 != 0) (o + 3)

/-- Leaf entry at `o` of a tree with `n` nodes and `leaves` leaves (R169). -/
def leafEntBad (m : Mem) (n leaves o : Nat) : List Nat :=
  let p := Mem.leAt m o 16
  let k := Mem.leAt m (o + 16) 16
  let live := 2 ^ min n 128 - 1
  let x := clrMask p (k &&& live)
  chk (x != 0) (o + lowByte x) ++ chk (clrMask k live != 0) (o + 16 + lowByte (clrMask k live)) ++
  chk (leaves ≤ Mem.leAt m (o + 32) 1) (o + 32) ++ nz m (o + 33) (o + 40)

/-- Tree `t` of the block at `b`. -/
def compTreeBad (m : Mem) (b t : Nat) : List Nat :=
  let d := b + 32 + 8 * t
  let n := dirF m b t 0
  let e := dirF m b t 1
  let l := dirF m b t 2
  let nAt := blkNodesAt m b + 4 * dirSum m b 0 t
  let eAt := blkEntriesAt m b + 40 * dirSum m b 1 t
  let vAt := blkValuesAt m b + 16 * dirSum m b 2 t
  let live := 2 ^ min n 128 - 1
  let ents : List LeafEnt := (List.range e).map fun i =>
    let k := Mem.leAt m (eAt + 40 * i + 16) 16 &&& live
    (Mem.leAt m (eAt + 40 * i) 16 &&& k, k, Mem.leAt m (eAt + 40 * i + 32) 1)
  chk (127 < n) d ++ chk (e == 0 || 128 < e) (d + 1) ++ chk (l == 0 || 128 < l) (d + 2) ++ nz m (d + 3) (d + 8) ++
  ((List.range n).flatMap fun i => cnodeBad m b (nAt + 4 * i)) ++
  ((List.range e).flatMap fun i => leafEntBad m n l (eAt + 40 * i)) ++
  chk (e != 0 && !(sameLeaf ents && covered (min n 128) (ents.map fun x => (x.1, x.2.1)))) eAt ++
  ((List.range l).flatMap fun i => nz m (vAt + 16 * i + 2 * ensK m) (vAt + 16 * i + 16) |>.map fun x => x / 2 * 2)

/-- Block `k`. -/
def blockBad (m : Mem) (k : Nat) : List Nat :=
  let b := blkAt m k
  let t := blkTrees m b
  chk (t == 0 || 64 < t) b ++ nz m (b + 1) (b + 2) ++ chk (256 < blkSets m b) (b + 2) ++ nz m (b + 4) (b + 32) ++
  ((List.range t).flatMap (compTreeBad m b)) ++ nz m (blkValuesAt m b + 16 * dirSum m b 2 t) (blkEnd m b)

/-- The offset of the first failing field of ensemble `n` (R186). -/
def ensCheck (m g : Mem) (ex n : Nat) : Option Nat :=
  let k := ensK m
  let link := ensLink m
  firstFail (chk (Mem.leAt m 0 2 != 1) 0 ++ chk (Mem.leAt m 2 1 != n) 2 ++
    chk (k == 0 || 8 < k || (if link = 2 then k == 1 else link < 4 && k != 1)) 3 ++ chk (3 < link) 4 ++
    chk (ensBlocks m == 0 || 16 < ensBlocks m) 5 ++ chk (ensFeatures m == 0 || 256 < ensFeatures m) 6 ++
    ((List.range 8).flatMap fun i => chk (k ≤ i && Mem.leAt m (8 + 2 * i) 2 != 0) (8 + 2 * i)) ++ nz m 24 64 ++
    ((List.range 256).flatMap (featBad m g ex)) ++ ((List.range (ensBlocks m)).flatMap (blockBad m)))

/-! ### Pools (R183) -/

/-- What an ensemble takes of the pools: block slots, nodes, sets, leaf entries and leaf values. -/
def ensUse (m : Mem) : List Nat :=
  let bs := (List.range (ensBlocks m)).map (blkAt m)
  let tot := fun f => (bs.map fun b => dirSum m b f (blkTrees m b)).sum
  [bs.length, tot 0, (bs.map (blkSets m)).sum, tot 1, tot 2]
def poolSizes : List Nat := [64, 32768, 4096, 32768, 32768]
/-- The blocks of the staged and the newest version exceed a pool together. -/
def poolsExceeded (r : Round) (s : State) : Bool :=
  let nums := (List.range 65).drop 1
  let old := s.ver.newest.objs
  let uses := (nums.filter fun n => hasObj r.objs (oidEns n)).map (fun n => ensUse (imgMem r.objs (oidEns n))) ++
    (nums.filter fun n => hasObj old (oidEns n) && ((mget r.written (oidEns n)).isSome || !hasObj r.objs (oidEns n))).map
      (fun n => ensUse (imgMem old (oidEns n)))
  (List.range 5).any fun i => poolSizes.getD i 0 < (uses.map fun u => u.getD i 0).sum

/-! ### The commands -/

/-- ENS lies outside 1 to 64. -/
def ensBad (n : Nat) : Bool := n == 0 || decide (64 < n)

/-- CP_STAGE (0x0501, R184). -/
def cpStage (c : Call) (s : State) : CmdRes :=
  rows (stageRows c 4 8388608 (ensBad (u8 c.p 0) || !zeroAt c.p 1 3 || !zeroAt c.p 12 4) ++ [(9, noRound s)]) s <|
    okay (onRound (stagePart (oidEns (u8 c.p 0)) 8388608 3 (leAt c.p 4 4) (c.p.drop 16)) s)

/-- CP_DELETE (0x0503, R185). -/
def cpDelete (c : Call) (s : State) : CmdRes :=
  rows [(2, c.p.length != 4), (3, ensBad (u8 c.p 0) || !zeroAt c.p 1 3), (9, noRound s)] s <|
    okay (onRound (stageDelete (oidEns (u8 c.p 0)) 3) s)

/-- An image staged in the round is written over its computed length, which is read from the image itself (R186). -/
def cpWritten (r : Round) : Bool :=
  (List.range 65).all fun n =>
    allWritten r (oidEns n) 1088 && allWritten r (oidEns n) (ensLen (imgMem r.objs (oidEns n)))
/-- Exact tables whose EX_EN bit is set on some port (R186). -/
def exEnabled (p : Mem) : Nat := (List.range 64).foldl (fun a q => a ||| planF p q 2) 0
/-- DETAIL of the first failing ensemble (R186). -/
def cpFirst (o : Objs) : Option Nat :=
  (((List.range 65).drop 1).findSome? fun n =>
    if hasObj o (oidEns n) then
      (ensCheck (imgMem o (oidEns n)) (imgMem o oidPg) (exEnabled (imgMem o oidPlan)) n).map fun x => n * 2 ^ 24 + x
    else none)

/-- CP_SEAL (0x0502, R186). -/
def cpSeal (c : Call) (s : State) : CmdRes :=
  rows [(2, c.p.length != 0), (9, noRound s)] s <|
    match s.ver.round with
    | none => rej 9 s
    | some r =>
      if r.unsealed 5 || !cpWritten r then rej 9 s
      else match cpFirst r.objs with
        | some d => rejAt 3 d s
        | none => if poolsExceeded r s then rej 5 s else okay (setRound (r.seal 3) s)

/-- CP_STAGE. -/
def execCpStage (r : Req) (s : State) : Host.Outcome State Fault Refusal := .next (mbxRow 0x0501 cpStage r s)
/-- CP_DELETE. -/
def execCpDelete (r : Req) (s : State) : Host.Outcome State Fault Refusal := .next (mbxRow 0x0503 cpDelete r s)
/-- CP_SEAL. -/
def execCpSeal (r : Req) (s : State) : Host.Outcome State Fault Refusal := .next (mbxRow 0x0502 cpSeal r s)

end Sys2Proof.Machine
end

