-- ==== Sys2Proof/Machine/SealStreams.lean ====
section
/-! DEFINITION. JOB_SUBMIT, MODEL_STAGE, MODEL_DELETE, SC_STAGE, SC_SEAL and SC_CTL (R310, R321 to R323). -/

namespace Sys2Proof.Machine

open Sys2Proof

/-! ### JOB_SUBMIT -/

/-- JOB_SUBMIT (0x0601). -/
def jobSubmit (c : Call) (s : State) : CmdRes :=
  let o := s.ver.newest.objs
  let inst := (pickInst s o (u8 c.p 0) (u8 c.p 1)).filter fun k => (inst? s k).isSome
  let stream := leAt c.p 2 2
  let budget := leAt c.p 8 4
  rows [
    (2, c.p.length != 64),
    (3, bit (u8 c.p 12) 7 || u8 c.p 13 != 0 || !zeroAt c.p 28 12 || !zeroAt c.p 56 8 || (stream != 0xFFFF && !scValid o stream)),
    (13, inst.isNone),
    (4, budget != 0 && budget < 1000),
    (6, match inst with | some k => decide (1024 ≤ queuedJobs s k) | none => true),
    (9, newestNum s == 0)] s <|
    match inst with
    | none => rej 13 s
    | some k =>
      let (wid, s) := newWorkId s
      let j : Job := {
        desc := c.p.take 4 ++ le 4 wid ++ c.p.drop 8, wid := wid, version := newestNum s,
        deadline := if budget = 0 then 0xFFFFFFFF else deadlineOf (now s + budget), origin := 2,
        sess := if c.relayed then 4 else c.sess, gen := c.gen }
      { detail := wid, s := queueJob k j s }

/-! ### Containers (R262, R307, R321) -/

/-- Failing fields of a program image at container offset `o`, whose bytes are `h` (R262). -/
def progBad (h : Bytes) (o : Nat) : List Nat :=
  let n := leAt h 2 2
  chk (leAt h 0 2 != 1) o ++ chk (n == 0 || 8192 < n) (o + 2) ++ chk (4096 < leAt h 4 2) (o + 4) ++ chk (n ≤ leAt h 6 2) (o + 6) ++
  chk (1 < leAt h 8 4) (o + 8) ++ chk (48 < u8 h 12) (o + 12) ++
  (((List.range 51).find? fun i => u8 h (13 + i) != 0).map fun i => o + 13 + i).toList ++
  ((List.range 48).flatMap fun k =>
    let x := leAt h (64 + 8 * k) 8
    chk (bits x 63 49 != 0 || (bit x 48 && u8 h 12 ≤ k)) (o + 64 + 8 * k))
/-- Bytes of the program image with header `h`. -/
def progLen (h : Bytes) : Nat := tplStart (leAt h 2 2) + 16 * leAt h 4 2

/-- Failing fields of the container of `n` bytes at `a` with header `h`; of a section beyond the container only its entry is
read. -/
def containerBad (s : State) (a n : Nat) (h : Bytes) : List Nat :=
  let f := leAt h 0 2
  let g := leAt h 2 2
  let k := leAt h 4 4
  let head := chk (g == 0 || 128 < g) 2 ++ chk (k == 0 || 65536 < k) 4 ++
    chk (if f = 2 then leAt h 8 4 != 0 else leAt h 8 4 % 32 != 0) 8
  if !head.isEmpty || n < 64 + 32 * k then head
  else (List.range k).flatMap fun i =>
    let x := sectAt s a i
    let o := 64 + 32 * i
    chk (x.kind == 0 || 3 < x.kind) o ++ chk (x.rank != 0xFFFF && (g ≤ x.rank || (f == 2 && x.kind == 1))) (o + 2) ++
    (if x.kind == 1 && 448 ≤ x.len && x.src + x.len ≤ n then progBad (devBytes s (a + x.src) 448) x.src else [])

/-- A section leaves the container or its memory, or reaches into the job area. -/
def sectOut (s : State) (a n : Nat) (x : Sect) : Bool :=
  n < x.src + x.len || (x.kind == 2 && (!localIn x.dst x.len || hitsJobArea x.dst x.len)) ||
  (x.kind == 1 && (x.len < 448 || x.len < progLen (devBytes s (a + x.src) 448)))

/-! ### Placement (R308) -/

/-- The resident regions of a model on logical core `l`: local address (R365), length and source. -/
def residents (s : State) (m : Model) (l : Nat) : List (Nat × Nat × Nat) :=
  if m.firstCore ≤ l && l < m.firstCore + m.instances * m.ranks then
    ((sectsOf s m.addr).filter fun x => x.kind == 2 && x.len != 0 && x.forRank ((l - m.firstCore) % m.ranks)).map
      fun x => (x.dst, x.len, m.addr + x.src)
  else []
/-- The bytes of the word at plain offset `o` that a region covers: from, and up to. -/
def wordSpan (a : Nat × Nat × Nat) (o : Nat) : Nat × Nat :=
  let c := plainCol (a.1 / 2 ^ 26) o
  (a.1 % 2 ^ 26 - c, min 32 (a.1 % 2 ^ 26 + a.2.1 - c))
/-- Two regions that are not the same one need the same bytes: in one view by their addresses, in two views word by word. -/
def clash (a b : Nat × Nat × Nat) : Bool :=
  a != b &&
    if a.1 / 2 ^ 26 = b.1 / 2 ^ 26 then a.1 < b.1 + b.2.1 && b.1 < a.1 + a.2.1
    else (List.range (a.2.1 / 32 + 2)).any fun i => match localOff (a.1 / 32 * 32 + 32 * i) with
      | none => false
      | some o => let x := wordSpan a o; let y := wordSpan b o; decide (max x.1 y.1 < min x.2 y.2)

/-- The placement does not fit beside the staged models and those of the newest version; with SWAP, the old version of the same
model is left out. -/
def placeFails (s : State) (r : Round) (k : Nat) (swap : Bool) (m : Model) : Bool :=
  let staged := r.objs.models.filter (·.1 != k)
  let old := s.ver.newest.objs.models.filter fun e => !(swap && e.1 == k)
  (List.range (m.instances * m.ranks)).any fun i =>
    let l := m.firstCore + i
    let mine := residents s m l
    let others := (staged ++ old).flatMap fun e => residents s e.2 l
    (mine.any fun a => others.any (clash a)) ||
      decide (4 ≤ (staged.filter fun e => e.2.firstCore ≤ l && l < e.2.firstCore + e.2.instances * e.2.ranks).length)

/-- Instance numbers of a staged model: those it has in the round, then the lowest that no model of the round or of a live
version holds. -/
def instNums (s : State) (r : Round) (k n : Nat) : List Nat :=
  let own := match mget r.objs.models k, mget s.ver.newest.objs.models k with
    | some m, _ => m.nums
    | none, some m => m.nums
    | none, none => []
  let live := r.objs.models ++ s.ver.newest.objs.models ++ (match s.ver.older with | some (l, _) => l.objs.models | none => [])
  let used := live.flatMap fun e => if e.1 == k then [] else e.2.nums
  (own.filter (fun i => !used.contains i) ++ (List.range 128).filter fun i => !used.contains i && !own.contains i).take n

/-- MODEL_STAGE (0x0610, R321). -/
def modelStage (c : Call) (s : State) : CmdRes :=
  let k := u8 c.p 0
  let n := u8 c.p 2
  let a := leAt c.p 8 8
  let len := leAt c.p 16 8
  let here := inHbm s a 64 && 64 ≤ len
  let whole := here && inHbm s a len
  let h := devBytes s a 64
  let g := leAt h 2 2
  rows [
    (2, c.p.length != 32),
    (7, here && leAt h 0 2 != 2 && leAt h 0 2 != 3),
    (3, k == 0 || 1 < u8 c.p 1 || !zeroAt c.p 4 4 || !zeroAt c.p 24 8 || a % 32 != 0)] s <|
    match if whole then firstFail (containerBad s a len h) else none with
    | some o => rejAt 3 o s
    | none => match if whole then firstPoison s a len else none with
      | some x => rejAt 12 (x / 64) (poisonRead x s)
      | none =>
        let m : Model := { addr := a, length := len, place := u8 c.p 1, instances := n, firstCore := u8 c.p 3, ranks := g,
                           kvBytes := leAt h 8 4, nums := [], digest := [] }
        let nums := match s.ver.round with | some r => instNums s r k n | none => []
        rows [
          (4, !whole || len < 64 + 32 * leAt h 4 4 || (sectsOf s a).any (sectOut s a len) || n == 0 || 128 < n ||
            s.nv.cores < u8 c.p 3 + n * g),
          (5, match s.ver.round with | some r => decide (nums.length < n) || placeFails s r k (bit (u8 c.p 1) 0) m | none => false),
          (9, noRound s)] s <|
          let m := { m with nums := nums, digest := sha256 (devBytes s a len) }
          okay (onRound (fun r => r.change 5 { r.objs with models := mset r.objs.models k m }) s)

/-- MODEL_DELETE (0x0611). -/
def modelDelete (c : Call) (s : State) : CmdRes :=
  rows [(2, c.p.length != 4), (3, u8 c.p 0 == 0 || !zeroAt c.p 1 3), (9, noRound s)] s <|
    okay (onRound (fun r => r.change 5 { r.objs with models := mdel r.objs.models (u8 c.p 0) }) s)

/-! ### Templates and the key map (R299, R301, R322, R323) -/

/-- SC_STAGE (0x0701, R322). -/
def scStage (c : Call) (s : State) : CmdRes :=
  let obj := u8 c.p 0
  let limit := if obj = 0 then 4194304 else 512
  let off := leAt c.p 4 4
  let put := fun (r : Round) =>
    let o := r.objs
    r.change 4 (if obj = 0 then { o with sc := Mem.store o.sc off (c.p.drop 16) }
      else { o with img := mset o.img oidKeyMap { len := 512, data := Mem.store (imgMem o oidKeyMap) off (c.p.drop 16) } })
  rows (stageRows c 4 limit (1 < obj || u8 c.p 1 != 0 || !zeroAt c.p 2 2 || !zeroAt c.p 12 4) ++ [(9, noRound s)]) s <|
    okay (onRound put s)

/-- `n` bytes from `a`, in steps of 32, lie in the core store of logical core `l` below its job area. -/
def ringInCs (s : State) (l a n : Nat) : Bool :=
  (List.range (n / 32)).all fun k => match locOf s (a + 32 * k) with
    | some (.cs p o) => p == physOf s l && o + 32 ≤ jobArea
    | _ => false

/-- Failing fields of the template of context `i` in the next version. -/
def tplBad (s : State) (o : Objs) (i : Nat) : List Nat :=
  let t := Mem.bytes o.sc (64 * i) 64
  let ctl := leAt t 0 2
  let m := mget o.models (tplModel t)
  let inst := tplInst t
  let pol := tplKvPolicy t
  let cs := tplKvCs t
  let kvb := (m.map (·.kvBytes)).getD 0
  let log := u8 t 14
  let ringLen := 2 ^ min log 20 * 32 * min (tplUnits t) 9
  let inCore := 0x100000000000 ≤ tplRing t && tplRing t < 0x200000000000
  let rsv := chk (bits ctl 11 10 != 0 || bit ctl 15) 0 ++ chk (16 ≤ u8 t 2) 2 ++ chk (2 ≤ u8 t 5) 5 ++ chk (64 ≤ u8 t 6) 6 ++
    chk (!zeroAt t 60 4) 60
  let live := if !bit ctl 0 then [] else
    chk (pol == 3 || (pol != 0 && cs && kvb == 0)) 0 ++ chk m.isNone 3 ++
    chk ((inst != 0xFF && !((m.map (·.nums)).getD []).contains inst) || (inst == 0xFF && inCore)) 4 ++
    chk (u8 t 7 == 0 || 16 < u8 t 7 || (pol != 0 && u8 t 7 != 1)) 7 ++ chk (leAt t 10 2 == 0 || 2 ^ log < leAt t 10 2) 10 ++
    chk (leAt t 12 2 == 0) 12 ++ chk (log < 4 || 20 < log) 14 ++ chk (tplUnits t == 0 || 9 < tplUnits t) 15 ++
    chk (leAt t 16 4 < 1000 || 4000000000 < leAt t 16 4) 16 ++ chk (leAt t 16 4 ≤ leAt t 20 4) 20 ++
    chk (leAt t 24 4 != 0 && (leAt t 24 4 < 1000 || 4000000000 < leAt t 24 4)) 24 ++
    chk (leAt t 28 4 % 32 != 0 || (pol == 0) != (leAt t 28 4 == 0)) 28 ++
    chk (tplRing t % 32 != 0 || (if inCore then inst != 0xFF && !ringInCs s (placeOf o inst).1 (tplRing t) ringLen
      else !inHbm s (tplRing t) ringLen)) 32 ++
    chk (leAt t 40 8 % 32 != 0 || (pol != 0 && (if cs then decide (jobArea < leAt t 40 8 + kvb)
      else !inHbm s (leAt t 40 8) (max 1 (kvb * (m.map (·.ranks)).getD 1))))) 40
  (rsv ++ live).map (64 * i + ·)
/-- Failing fields of the entry of map `k` in the key map. -/
def keyBad (m : Mem) (k : Nat) : List Nat :=
  let o := 8 * k
  let b := Mem.leAt m o 1
  let n := Mem.leAt m (o + 4) 4
  (chk (b % 4 == 3 || 32 ≤ b) o ++ nz m (o + 1) (o + 2) ++ chk (b % 4 == 1 && (n == 0 || 65536 < n)) (o + 4)).map (0x400000 + ·)
/-- DETAIL of SC_SEAL's first failing field. -/
def scFirst (s : State) (o : Objs) : Option Nat :=
  let ids := (o.sc.map fun c => c.1 / 64).foldl sadd []
  match firstFail (ids.flatMap (tplBad s o)) with
  | some x => some x
  | none => firstFail ((List.range 64).flatMap (keyBad (imgMem o oidKeyMap)))

/-- SC_SEAL (0x0702, R323). -/
def scSeal (c : Call) (s : State) : CmdRes :=
  rows [(2, c.p.length != 0), (9, noRound s)] s <|
    match s.ver.round with
    | none => rej 9 s
    | some r =>
      if r.unsealed 4 then rej 9 s
      else match scFirst s r.objs with
        | some d => rejAt 3 d s
        | none => okay (setRound (r.seal 4) s)

/-- SC_CTL (0x0703). -/
def scCtl (c : Call) (s : State) : CmdRes :=
  let i := leAt c.p 0 2
  let op := u8 c.p 2
  let st := ctxState s i
  let x := ctxOf s i
  rows [
    (2, c.p.length != 8),
    (3, 4 < op || !zeroAt c.p 3 5),
    (9, (op == 1 || op == 2) && (st == 0 || st == 3)),
    (6, op == 3 && x.inflight != 0)] s <|
    match op with
    | 0 => reply (scTpl s.ver.newest.objs i ++ ctxBytes s i) s
    | 1 => okay (setCtx i { x with st := 1 } s)
    | 2 => okay (setCtx i { x with st := 2 } s)
    | 3 => okay (setCtx i { st := x.st, tick := x.tick, evt := x.evt, tickEvt := x.tickEvt, fresh := x.fresh } s)
    | _ => okay (setCtx i { x with jobs := 0, late := 0, dropped := 0, skipped := 0, failed := 0, ovf := 0 } s)

/-- JOB_SUBMIT. -/
def execJobSubmit (r : Req) (s : State) : Host.Outcome State Fault Refusal := .next (mbxRow 0x0601 jobSubmit r s)
/-- MODEL_STAGE. -/
def execModelStage (r : Req) (s : State) : Host.Outcome State Fault Refusal := .next (mbxRow 0x0610 modelStage r s)
/-- MODEL_DELETE. -/
def execModelDelete (r : Req) (s : State) : Host.Outcome State Fault Refusal := .next (mbxRow 0x0611 modelDelete r s)
/-- SC_STAGE. -/
def execScStage (r : Req) (s : State) : Host.Outcome State Fault Refusal := .next (mbxRow 0x0701 scStage r s)
/-- SC_SEAL. -/
def execScSeal (r : Req) (s : State) : Host.Outcome State Fault Refusal := .next (mbxRow 0x0702 scSeal r s)
/-- SC_CTL. -/
def execScCtl (r : Req) (s : State) : Host.Outcome State Fault Refusal := .next (mbxRow 0x0703 scCtl r s)

end Sys2Proof.Machine
end

