-- ==== Sys2Proof/Machine/Service.lean ====
section
/-! DEFINITION. Commands on cores, sync objects, pseudo-channels and the fault ring: CORE_BRK_SET, CORE_CONT, CORE_STATE_READ (R296),
SYNC_READ, SYNC_TREE (R345, R346), MEM_PCH_RETIRE (R371) and FLT_RING_READ (R506), and the end of a rate-limit period (R507). -/

namespace Sys2Proof.Machine

open Sys2Proof

/-! ### Cores -/

/-- CORE_BRK_SET (0x0620). -/
def coreBrkSet (c : Call) (s : State) : CmdRes :=
  let l := u8 c.p 0
  let kind := u8 c.p 2
  let v := leAt c.p 4 4
  let b : Brk := { kind := kind, flags := u8 c.p 3, value := v, count := leAt c.p 8 4 }
  rows [
    (2, c.p.length != 16),
    (3, 5 < kind || 7 < u8 c.p 1 || 4 ≤ u8 c.p 3 || !zeroAt c.p 12 4),
    (4, (l != 0xFF && s.nv.cores ≤ l) || (kind == 1 && 8191 < v) || (kind == 3 && 4095 < v) || (kind == 5 && 47 < v)),
    (8, !dbgOpen s 0)] s <|
    let ls := if l = 0xFF then List.range s.nv.cores else [l]
    okay (ls.foldl (fun s l =>
      let p := physOf s l
      setCore p { core s p with brks := msetD (core s p).brks (u8 c.p 1) b {} } s) s)

/-- CORE_CONT (0x0621): the core decodes on; the word whose breakpoint halted it is decoded without another hit. A job
that was to end ends now. -/
def coreCont (c : Call) (s : State) : CmdRes :=
  let p := physOf s (u8 c.p 0)
  let x := core s p
  rows [
    (2, c.p.length != 4),
    (3, 1 < u8 c.p 1 || !zeroAt c.p 2 2),
    (4, s.nv.cores ≤ u8 c.p 0),
    (9, x.st != 2),
    (8, !dbgOpen s 0)] s <|
    okay (settle p (setCore p { x with
      st := 1, single := u8 c.p 1 == 1, brkHit := 0xFF } s))

/-- CORE_STATE_READ (0x0622). -/
def coreStateRead (c : Call) (s : State) : CmdRes :=
  rows [(2, c.p.length != 4), (3, !zeroAt c.p 1 3), (4, s.nv.cores ≤ u8 c.p 0), (8, !dbgOpen s 0)] s
    (reply (coreRecord s (physOf s (u8 c.p 0))) s)

/-! ### Sync objects -/

/-- The record of an object (R346). -/
def syncRecord (s : State) (r : ORef) : Bytes :=
  let x := obj s r
  let bitmap := x.waiters.foldl (fun a w => if w.remote then a else setBit a w.unit) 0
  le 4 x.value ++ le 4 x.flags ++ le 2 x.cur ++ le 2 x.next ++ le 2 x.leaving ++ le 1 (if r.hub then x.owner else r.p) ++
  le 1 (min 255 (x.waiters.filter (·.remote)).length) ++ le 2 x.sigChip ++ le 1 x.sigUnit ++ le 1 x.sigOp ++ zeros 4 ++
  le 8 x.sigNs ++ le 17 bitmap ++ le 1 (if x.parent = 0 then 0xFF else x.parent - 1) ++ le 1 x.children ++ zeros 13

/-- SYNC_READ (0x0801). -/
def syncRead (c : Call) (s : State) : CmdRes :=
  let hub := u8 c.p 0 == 1
  let l := u8 c.p 1
  let f := u8 c.p 2
  let n := u8 c.p 3
  rows [
    (2, c.p.length != 8),
    (3, 1 < u8 c.p 0 || n == 0 || 16 < n || (hub && l != 0) || !zeroAt c.p 4 4),
    (4, (!hub && s.nv.cores ≤ l) || (if hub then 256 else 48) < f + n)] s <|
    reply ((List.range n).flatMap fun i => syncRecord s ⟨hub, if hub then 0 else physOf s l, f + i⟩) s

/-- SYNC_TREE (0x0802). -/
def syncTree (c : Call) (s : State) : CmdRes :=
  let r : ORef := ⟨true, 0, u8 c.p 0⟩
  let x := obj s r
  let op := u8 c.p 1
  let par := u8 c.p 2
  let ch := u8 c.p 3
  let parties := leAt c.p 4 2 + popcount ch 8
  rows [
    (2, c.p.length != 8),
    (3, 1 < op || leAt c.p 6 2 != 0 ||
      (if op = 0 then (7 < par && par != 0xFF) || (par < 8 && bit ch par) || parties == 0 || 65535 < parties
       else !zeroAt c.p 2 4)),
    (9, if op = 0 then x.owner != 0xFF && x.owner != 0xF0 else x.owner != 0xF0),
    (6, !x.waiters.isEmpty || x.cur != 0 || x.next != 0 || x.leaving != 0),
    (11, op == 0 && ((par < 8 && bit s.nv.linkRetired par) || ch &&& s.nv.linkRetired != 0))] s <|
    if op = 0 then
      okay (setObj r { initObj x (2 ^ 31 + parties) 0xF0 with parent := if par = 0xFF then 0 else par + 1, children := ch } s)
    else okay (setObj r {} s)

/-! ### Pseudo-channels and faults -/

/-- MEM_PCH_RETIRE (0x0901). -/
def memPchRetire (c : Call) (s : State) : CmdRes :=
  let p := leAt c.p 0 2
  let h := halfOf p
  rows [
    (2, c.p.length != 4),
    (3, leAt c.p 2 2 != 0),
    (4, 383 < p),
    (11, bit s.nv.pchRetired p),
    (6, (mget s.mem.migrate h).isSome || s.mem.queued.any fun q => halfOf q == h),
    (9, activeN s h < 97)] s (okay (retirePch p s))

/-- FLT_RING_READ (0x0E02). -/
def fltRingRead (c : Call) (s : State) : CmdRes :=
  let f := leAt c.p 0 2
  let n := u8 c.p 2
  rows [(2, c.p.length != 4), (3, 2 ≤ u8 c.p 3), (4, 4095 < f || n == 0 || 127 < n)] s <|
    let out := (List.range n).flatMap fun i => match mget s.flt.ring ((f + i) % 4096) with
      | some r => fltBytes r
      | none => zeros 32
    reply out (if bit (u8 c.p 3) 0 then { s with flt := { s.flt with rd := (f + n) % 4096 } } else s)

/-- CORE_BRK_SET. -/
def execCoreBrkSet (r : Req) (s : State) : Host.Outcome State Fault Refusal := .next (mbxRow 0x0620 coreBrkSet r s)
/-- CORE_CONT. -/
def execCoreCont (r : Req) (s : State) : Host.Outcome State Fault Refusal := .next (mbxRow 0x0621 coreCont r s)
/-- CORE_STATE_READ. -/
def execCoreStateRead (r : Req) (s : State) : Host.Outcome State Fault Refusal := .next (mbxRow 0x0622 coreStateRead r s)
/-- SYNC_READ. -/
def execSyncRead (r : Req) (s : State) : Host.Outcome State Fault Refusal := .next (mbxRow 0x0801 syncRead r s)
/-- SYNC_TREE. -/
def execSyncTree (r : Req) (s : State) : Host.Outcome State Fault Refusal := .next (mbxRow 0x0802 syncTree r s)
/-- MEM_PCH_RETIRE. -/
def execMemPchRetire (r : Req) (s : State) : Host.Outcome State Fault Refusal := .next (mbxRow 0x0901 memPchRetire r s)
/-- FLT_RING_READ. -/
def execFltRingRead (r : Req) (s : State) : Host.Outcome State Fault Refusal := .next (mbxRow 0x0E02 fltRingRead r s)

/-- FAULT_PERIOD_END (R507): the period of a code and channel has run its length. -/
def execFaultPeriodEnd (code chan : Nat) (s : State) : Host.Outcome State Fault Refusal :=
  .next (if s.flt.periods.any fun p => p.code == code && p.chan == chan && decide (p.ends ≤ now s) then endPeriod code chan s else s)

end Sys2Proof.Machine
end

