-- ==== Sys2Proof/Machine/Commands.lean ====
section
/-! DEFINITION. HELLO and EVT_CTL (R465, R466, R469), the handler of each opcode (R467), and commands started by the helm or relayed
along the chain (R421, R461). -/

namespace Sys2Proof.Machine

open Sys2Proof

/-- HELLO (0x0001). -/
def hello (c : Call) (s : State) : CmdRes :=
  let lo := u8 c.p 0
  let hi := u8 c.p 1
  let v := min hi 0x14
  rows [
    (2, c.p.length != 8),
    (3, !zeroAt c.p 2 6),
    (7, hi < lo || lo / 16 != 1 || hi / 16 != 1 || v < lo),
    (6, s.helm.mbx.any fun e => e.1 != c.who && (e.2.st == 1 || e.2.st == 2) && e.2.sess == c.sess && e.2.gen == c.gen),
    (9, c.relayed)] s <|
    let y := sess s c.sess
    let live := y.opened && y.gen == c.gen
    let s := if live then setSess c.sess { y with ifv := v } s else s
    reply (le 1 v ++ le 1 c.sess ++ le 2 (chipId s) ++ le 4 s.sys.fwVer ++ [32] ++ le 1 s.nv.cores ++ le 2 4080 ++ le 2 (newestNum s) ++
      le 1 (b2n s.chip.isSome + 2 * b2n (s.ver.newest.num != 0) + 4 * b2n (unlocked s) + 8 * b2n s.helm.standby +
        16 * b2n (!s.nv.anchors.isEmpty) + 32 * s.helm.active) ++ [0]) s
/-- EVT_CTL (0x0004). -/
def evtCtl (c : Call) (s : State) : CmdRes :=
  let t := leAt c.p 0 2
  rows [(2, c.p.length != 8), (3, bit t 0 || 256 ≤ t || !zeroAt c.p 3 5), (9, c.relayed)] s <|
    let y := sess s c.sess
    okay (if y.opened && y.gen == c.gen then setSess c.sess { y with types := t, classes := u8 c.p 2 } s else s)

/-- HELLO. -/
def execHello (r : Req) (s : State) : Host.Outcome State Fault Refusal := .next (mbxRow 0x0001 hello r s)
/-- EVT_CTL. -/
def execEvtCtl (r : Req) (s : State) : Host.Outcome State Fault Refusal := .next (mbxRow 0x0004 evtCtl r s)

/-- The handler of an opcode (R467). The checks of R463 have refused every opcode that is not in the catalogue. -/
def handlerOf (op : Nat) : Call → State → CmdRes :=
  match op with
  | 0x0001 => hello | 0x0002 => regReadCmd | 0x0003 => regWriteCmd | 0x0004 => evtCtl
  | 0x0102 => dlcStage | 0x0201 => pgStage | 0x0202 => pgSeal
  | 0x0301 => rcStage | 0x0302 => rcSeal | 0x0303 => rcDelete
  | 0x0401 => tbPlanStage | 0x0402 => tbSeal
  | 0x0501 => cpStage | 0x0502 => cpSeal | 0x0503 => cpDelete
  | 0x0601 => jobSubmit | 0x0610 => modelStage | 0x0611 => modelDelete
  | 0x0620 => coreBrkSet | 0x0621 => coreCont | 0x0622 => coreStateRead
  | 0x0701 => scStage | 0x0702 => scSeal | 0x0703 => scCtl
  | 0x0801 => syncRead | 0x0802 => syncTree | 0x0901 => memPchRetire
  | 0x0A01 => chSource | 0x0A02 => chSet | 0x0A10 => pwrState
  | 0x0B01 => clChipId | 0x0B02 => clRouteSet | 0x0B03 => clUnretire | 0x0B10 => clRelay
  | 0x0C01 => verOpen | 0x0C02 => verAbort | 0x0C03 => commitAt | 0x0C04 => verStatus | 0x0C05 => verCtl
  | 0x0D01 => rst | 0x0D02 => blkCtl | 0x0D03 => quiesceSet | 0x0D04 => rstRemote
  | 0x0D10 => taAdd | 0x0D11 => taRemove | 0x0D20 => attest | 0x0D21 => certRead
  | 0x0D30 => dbgChallenge | 0x0D31 => dbgUnlock | 0x0D40 => fwLoad | 0x0D41 => fwInstall | 0x0D42 => fwConfirm
  | 0x0E01 => fltThreshStage | 0x0E02 => fltRingRead
  | 0x0F01 => obsCoreRead | 0x0F02 => logCtl | 0x0F10 => dumpArm | 0x0F20 => hvArm | 0x0F21 => hvRead
  | 0x1001 => pwrCap | 0x1002 => pwrRead
  | _ => fun _ s => rej 1 s

/-- MBX_START of mailbox `m` (R461). -/
def execMbxStart (m : Nat) (cr : Crypto) (s : State) : Host.Outcome State Fault Refusal :=
  .next (match (mbx s m).rq with
    | some q => if m < 32 then startMbx (handlerOf q.op) m cr s else s
    | none => s)

/-! ### Relayed commands (R421) -/

/-- The request inside a control frame. -/
def innerRq (b : Bytes) : Rq :=
  let p := (b.drop 16).take (leAt b 2 2)
  { op := leAt b 0 2, len := leAt b 2 2, seq := leAt b 4 4, ifv := u8 b 8, flags := u8 b 9, rsvd := leAt b 10 6, payload := p }
/-- The relayed request of frame `t` is executed, and answered at once or when it ends. -/
def runInner (t : InTag) (cr : Crypto) (s : State) : State :=
  let q := innerRq (t.body.drop 8)
  let g := tagOf t.tag
  let id := s.cl.inner.foldl (fun a e => max a (e.id + 1)) 0
  let who := 65536 + id
  let s := { s with cl := { s.cl with inner := s.cl.inner ++
    [{ id := id, path := t.path, chip := g.chip, link := t.link, wid := g.workId, seq := q.seq }] } }
  let anchored := bit (u8 t.body 1) 0
  let ver := if 0x10 ≤ q.ifv && q.ifv ≤ 0x14 then q.ifv else 0x14
  match reqChecks s ver anchored q with
  | some st => endWait who st 0 [] s
  | none =>
    let r := handlerOf q.op { who := who, sess := 4, gen := 0, ifv := ver, anchored := anchored, relayed := true, seq := q.seq,
                              p := q.payload, cr := cr } s
    if r.waits then r.s
    else
      let s := endWait who r.status r.detail r.out r.s
      if r.status = 0 then afterCmd q.op q.payload s else s
/-- The response inside frame `t` ends the CL_RELAY that waits for it, the oldest first. -/
def relayAnswer (t : InTag) (s : State) : State :=
  let g := tagOf t.tag
  let chip := if pathLen t.path = 0 then g.chip else 65536
  match s.cl.relays.find? fun r => r.wid == g.workId && r.chip == chip with
  | none => s
  | some r => endWait r.mbx 0 0 (t.body.drop 8) { s with cl := { s.cl with relays := s.cl.relays.erase r } }

/-- CONTROL_FRAME: inbox entry `i` is a relayed request or a response to one. A command that needs a stopped island waits. -/
def execControlFrame (i : Nat) (cr : Crypto) (s : State) : Host.Outcome State Fault Refusal :=
  .next <|
    if !helmUp s then s
    else match takeIn i (fun t => ctlWhat t == 1 || ctlWhat t == 2) s with
      | none => s
      | some (t, s') =>
        if ctlWhat t = 2 then relayAnswer t s'
        else if holding s && islandOps.contains (innerRq (t.body.drop 8)).op then s
        else runInner t cr s'

end Sys2Proof.Machine
end

