-- ==== Sys2Proof/Machine/Control.lean ====
section
/-! DEFINITION. The control core (R264 to R272, R286 to R296): its instructions, release and completion of engine instructions,
retry regions and breakpoints. -/

namespace Sys2Proof.Machine

open Sys2Proof

/-! ### Register and branch instructions (R264) -/

/-- NOP. -/
def execNop (p : Nat) (s : State) : Host.Outcome State Fault Refusal := .next (ctlPure p 0x00 (fun _ c => c) s)
/-- SETK. -/
def execSetk (p : Nat) (s : State) : Host.Outcome State Fault Refusal :=
  .next (ctlPure p 0x02 (fun w c => setK (bits w 55 52) (sext64 48 (bits w 47 0)) c) s)
/-- ADDK. -/
def execAddk (p : Nat) (s : State) : Host.Outcome State Fault Refusal :=
  .next (ctlPure p 0x03 (fun w c => setK (bits w 55 52) (kreg c (bits w 51 48) + sext64 32 (bits w 31 0)) c) s)
/-- ALU. -/
def execAlu (p : Nat) (s : State) : Host.Outcome State Fault Refusal :=
  .next (ctlPure p 0x04 (fun w c =>
    setK (bits w 55 52) (alu64 (bits w 43 40) (kreg c (bits w 51 48)) (kreg c (bits w 47 44))) c) s)
/-- BR. -/
def execBr (p : Nat) (s : State) : Host.Outcome State Fault Refusal :=
  .next (ctlStep p 0x08 (fun w s =>
    let c := core s p
    some (setCore p (if brCond (bits w 47 45) (kreg c (bits w 55 52)) (kreg c (bits w 51 48)) then { c with pc := bits w 12 0 }
      else nextPc c) s)) s)
/-- LOOP. -/
def execLoopK (p : Nat) (s : State) : Host.Outcome State Fault Refusal :=
  .next (ctlStep p 0x09 (fun w s =>
    let c := core s p
    let v := (kreg c (bits w 55 52) + 2 ^ 64 - 1) % 2 ^ 64
    let c' := setK (bits w 55 52) v c
    some (setCore p (if v = 0 then nextPc c' else { c' with pc := bits w 12 0 }) s)) s)
/-- STEPI; breakpoints on STEP watch the new value. -/
def execStepi (p : Nat) (s : State) : Host.Outcome State Fault Refusal :=
  .next (ctlStep p 0x13 (fun _ s =>
    let c := core s p
    let v := (c.step + 1) % 2 ^ 32
    some (brkMatch p 2 v (setCore p (nextPc { c with step := v }) s))) s)
/-- The job field SEL of GETJ (R264). -/
def jobField (s : State) (p sel : Nat) : Nat :=
  let j := jobOf s p
  match sel with
  | 0 => 0x3FF0000
  | 1 => (j.map (·.wid)).getD 0
  | 2 => (j.map (·.deadline)).getD 0xFFFFFFFF
  | 3 => (j.map (·.version)).getD 0
  | 4 => (j.map fun j => if j.origin = 2 then 0xFFFF else leAt j.desc 2 2).getD 0xFFFF
  | 5 => chipId s
  | 6 => lcore s p
  | 7 => p
  | 8 => now s
  | _ => (core s p).step
/-- GETJ. -/
def execGetj (p : Nat) (s : State) : Host.Outcome State Fault Refusal :=
  .next (ctlStep p 0x15 (fun w s =>
    some (setCore p (nextPc (setK (bits w 55 52) (jobField s p (bits w 7 0)) (core s p))) s)) s)
/-- WAITQ waits until every instruction decoded earlier into the queues named has completed. -/
def execWaitq (p : Nat) (s : State) : Host.Outcome State Fault Refusal :=
  .next (ctlStep p 0x14 (fun w s =>
    let c := core s p
    if earlierLive c (bits w 14 0) c.ord then none else some (setCore p (nextPc c) s)) s)

/-! ### Regions, pre-emption points, the end (R286, R292, R293) -/

/-- Every slot's chain counts as begun before the region (R217). -/
def ageSlots (c : Core) : Core := { c with slots := c.slots.map fun x => (x.1, { x.2 with old := true }) }

/-- RBEGIN: the snapshot is taken and the region opens; with NOPRE 0 it is first a pre-emption point. A region that opens inside
an open one is an illegal instruction. -/
def execRbegin (p : Nat) (s : State) : Host.Outcome State Fault Refusal :=
  .next (ctlStep p 0x10 (fun w s =>
    let c := core s p
    if c.open_ then some (illegal p c.pc 0 w 0 s)
    else if c.preempt && !bit w 6 then some (setCore p { c with st := 3 } s)
    else
      let c := nextPc c
      some (coreLog p 3 (le 1 (bits w 5 0) ++ zeros 3) (setCore p { ageSlots c with
        open_ := true, rid := bits w 5 0, att := 0, rstart := c.pc, snap := some { k := c.k, step := c.step, s := c.s } } s))) s)
/-- REND: the region closes, and decode stops until it passes. Without its own open region it is an illegal instruction. -/
def execRend (p : Nat) (s : State) : Host.Outcome State Fault Refusal :=
  .next (ctlStep p 0x11 (fun w s =>
    let c := core s p
    if !c.open_ || c.rid != bits w 5 0 then some (illegal p c.pc 0 w 0 s)
    else some (setCore p (nextPc { c with closing := true }) s)) s)
/-- PSAFE. -/
def execPsafe (p : Nat) (s : State) : Host.Outcome State Fault Refusal :=
  .next (ctlStep p 0x12 (fun _ s =>
    let c := nextPc (core s p)
    some (setCore p (if c.preempt && !c.open_ then { c with st := 3 } else c) s)) s)
/-- END: it waits until every instruction decoded before it has completed, and is illegal inside a region (R288). -/
def execEndJob (p : Nat) (s : State) : Host.Outcome State Fault Refusal :=
  .next (ctlStep p 0x18 (fun w s =>
    let c := core s p
    if c.open_ then some (illegal p c.pc 0 w 0 s)
    else if !allEmpty c then none
    else some (endRank p (if bit w 0 then 12 else 0) s)) s)
/-- BRK acts as a breakpoint hit. -/
def execBrk (p : Nat) (s : State) : Host.Outcome State Fault Refusal :=
  .next (ctlStep p 0x19 (fun _ s =>
    let c := nextPc (core s p)
    some (setCore p { c with halting := true, brkHit := 0xFF, single := false } s)) s)

/-! ### ISSUE (R268, R269) -/

/-- The K register that an engine instruction will write (R265), 0 for none. -/
def kTarget (w : Nat) : Nat :=
  match eiClass w, eiOp w with
  | 2, 11 => bits w 75 72
  | 3, 6 => bits w 95 92
  | 5, _ => bits w 47 44
  | 6, _ => bits w 90 87
  | _, _ => 0

/-- The K registers that the instructions of `c` not yet released will write. -/
def kWriters (c : Core) : List Nat := (c.queues.flatMap fun q => q.2.map fun e => kTarget e.w).filter (· != 0)

/-- A scoreboard read by name `n`: the count needed, and the readers decoded. -/
def sbRead (n : Nat) (sb : Map SbEnt) : Nat × Map SbEnt :=
  if bit n 6 then
    let x := mgetD sb (n % 64) {}
    (x.dw, mset sb (n % 64) { x with dr := (x.dr + 1) % 65536 })
  else (0, sb)

/-- The decoded instruction `w` takes its tickets and its place at the tail of its queue. -/
def takeTickets (cw w : Nat) (tpl : Nat) (c : Core) : Core :=
  let (ra, rb, wr) := (bits cw 29 23, bits cw 22 16, bits cw 15 9)
  let (na, sb) := sbRead ra c.sb
  let (nb, sb) := sbRead rb sb
  let x := mgetD sb (wr % 64) {}
  let (nw, nr, sb) := if bit wr 6 then (x.dw, x.dr, mset sb (wr % 64) { x with dw := (x.dw + 1) % 65536 }) else (0, 0, sb)
  let q := eiQueue w
  let e : EI := {
    w := w, tpl := tpl, pc := c.pc, ord := c.ord, rdA := ra, rdB := rb, wr := wr, needA := na, needB := nb, needW := nw, needR := nr,
    kval := if eiClass w = 3 && eiOp w = 7 then kreg c (bits w 95 92) else 0, region := c.open_ }
  let k := kTarget w
  setQueue q (queueAt c q ++ [e]) { c with sb := sb, ord := c.ord + 1, kpend := if k = 0 then c.kpend else c.kpend ++ [k] }

/-- ISSUE. -/
def execIssue (p : Nat) (s : State) : Host.Outcome State Fault Refusal :=
  .next (ctlStep p 0x01 (fun w s =>
    let c := core s p
    let t := bits w 55 44
    match c.prog.bind fun g => g.tpl[t]? with
    | none => some (illegal p c.pc t w 0 s)
    | some e0 =>
      match (patch e0 (bits w 43 37) (kreg c)).bind fun e1 => patch e1 (bits w 36 30) (kreg c) with
      | none => some (illegal p c.pc t w e0 s)
      | some e =>
        if !legalEi (bit c.mode 0) c.open_ e then some (illegal p c.pc t w e s)
        else if queueDepth (eiQueue e) ≤ (queueAt c (eiQueue e)).length then none
        else some (setCore p (nextPc (takeTickets w e t c)) s)) s)

/-! ### Release and completion (R269 to R272) -/

/-- `x` is not behind `need` (R269). -/
def caughtUp (x need : Nat) : Bool := decide ((x + 65536 - need) % 65536 < 32768)
/-- The scoreboard lets `e` go (R269). -/
def sbReady (c : Core) (e : EI) : Bool :=
  let rd := fun n need => !bit n 6 || caughtUp (mgetD c.sb (n % 64) {}).cw need
  rd e.rdA e.needA && rd e.rdB e.needB && rd e.wr e.needW
    && (!bit e.wr 6 || caughtUp (mgetD c.sb (e.wr % 64) {}).crd e.needR)

/-- Bank slots that an instruction reserves (R272). -/
def slotsOf (s : State) (p : Nat) (e : EI) : Nat :=
  let w := e.w
  match eiClass w, eiOp w with
  | 0, 1 => 16
  | 0, 2 =>
    let arr := armed4 (bits w 111 108)
    let d := amDesc s p w (arr.headD 0)
    let b := fmtWidth d.fmt
    let st := if b = 4 && fmtWidth (halfAt s p (bits w 105 105)).fmt = 4 then 2 else 1
    let n := amN w * [1, 2, 4, 1].getD (amMode w) 1
    min 64 ((arr.length * n * st * (4 * b + b2n d.scaled) + 1023) / 1024)
  | 0, 3 =>
    let arr := armed4 (bits w 111 108)
    let slot := fun a => slotAt s p (slotKey s p a (bits w 107 106))
    let d := drainDesc s p (bits w 105 85 * 32)
    let f := (drainFmt s p d (arr.flatMap fun a => drainEntries (slot a) a)).getD 0
    let n := fun a => match (slot a).chain with
      | none => 0
      | some c => if c.mode = 3 then min c.n 64 else c.n * [1, 2, 4].getD c.mode 1
    min 64 (((arr.map n).foldl (· + ·) 0 * fmtWidth f + 255) / 256)
  | 1, 1 => min 64 (bits w 78 67 + 1)
  | _, _ => 0
/-- Bank slots in use by released instructions. -/
def slotsUsed (s : State) (p : Nat) : Nat :=
  ((core s p).run.flatMap fun q => (q.2.filter fun e => e.ph != 3).map (slotsOf s p)).foldl (· + ·) 0

/-- The staging half that an instruction fills or reads, with whether it fills it. -/
def halfUse (w : Nat) : Option (Nat × Bool) :=
  match eiClass w, eiOp w with
  | 0, 1 => some (bits w 111 111, true)
  | 0, 2 => some (bits w 105 105, false)
  | 1, 1 => some (bits w 111 111, false)
  | _, _ => none
/-- The slot that an AMUL or ADRAIN uses: arrays, slot, and whether it drains. -/
def slotUse (w : Nat) : Option (Nat × Nat × Bool) :=
  if eiClass w = 0 && eiOp w = 2 then some (bits w 111 108, bits w 107 106, false)
  else if eiClass w = 0 && eiOp w = 3 then some (bits w 111 108, bits w 107 106, true)
  else none
/-- `e` must wait for the earlier `f` to finish: R193 for the halves, R215 for the slots. -/
def engineOrder (e f : EI) : Bool :=
  f.ord < e.ord && ((match halfUse e.w, halfUse f.w with
    | some (h, a), some (g, b) => h == g && a != b
    | _, _ => false) || (match slotUse e.w, slotUse f.w with
    | some (m, i, a), some (n, j, b) => i == j && a != b && (m &&& n) != 0
    | _, _ => false))

/-- The die on which the CJOB `e` of core `p` asks to run: the one its descriptor names, or the one with fewer samples queued (R179). -/
def cjobDie (s : State) (p : Nat) (e : EI) : Nat :=
  let d := (localByte s p (bits e.w 111 91 * 32 + 1)).toNat
  if d = 0xFF then (if samplesQueued s 1 < samplesQueued s 0 then 1 else 0) else d % 2
/-- CJOBs released to die `d` that its queue does not hold yet. -/
def cjobsComing (s : State) (d : Nat) : Nat :=
  (s.cores.map fun c => ((runAt c.2 14).filter fun e => e.ph == 1 && eiClass e.w == 6 && e.chip == d).length).foldl (· + ·) 0

/-- A BARRIER or a WAIT that waits holds the sync queue (R282). -/
def syncHeld (c : Core) (q : Nat) : Bool := q == 13 && (runAt c 13).any fun x => x.ph != 3 && (eiOp x.w == 2 || eiOp x.w == 4)
/-- A full hold of the power controller keeps AMUL and MVMUL in their queues (R552). -/
def powerHeld (s : State) (q : Nat) (e : EI) : Bool :=
  (q == 0 && eiClass e.w == 0 && eiOp e.w == 2 || q == 1 && eiClass e.w == 1 && eiOp e.w == 1) && decide (fullHold ≤ s.pw.hold)
/-- What the class of `e` asks beyond the scoreboard: room in the queue of the die of a CJOB (R283), the completions that a QWAIT waits
for (R284). -/
def classReady (s : State) (p : Nat) (e : EI) : Bool :=
  match eiClass e.w, eiOp e.w with
  | 6, _ => let d := cjobDie s p e; decide ((cjobsOf s d).length + cjobsComing s d < 64)
  | 7, 1 => !earlierLive (core s p) (bits e.w 107 93) e.ord
  | _, _ => true
/-- The head `e` of queue `q` passes its release test (R269, R272, R283, R284). -/
def passes (s : State) (p q : Nat) (e : EI) : Bool :=
  let c := core s p
  !powerHeld s q e && sbReady c e && !(queueAt c 0 ++ queueAt c 1 ++ runAt c 0 ++ runAt c 1).any (engineOrder e) && !syncHeld c q
    && classReady s p e && decide (slotsUsed s p + slotsOf s p e ≤ 64)
/-- The queues of core `p` that have released their head in the present cycle, at most four and each once; a further release of queue
`q` begins another cycle (R271). -/
def relCycle (c : Core) (q : Nat) : List Nat := if c.relQ.contains q || 4 ≤ c.relQ.length then [] else c.relQ
/-- An older head of a queue that has not released one in this cycle passes its test, so it goes before `e` (R271). -/
def olderPasses (s : State) (p q : Nat) (e : EI) : Bool :=
  let c := core s p
  (List.range 15).any fun i => i != q && !(relCycle c q).contains i &&
    match queueAt c i with
    | [] => false
    | f :: _ => decide (f.ord < e.ord) && passes s p i f
/-- The core releases instructions. -/
def mayRelease (s : State) (p : Nat) : Bool :=
  let c := core s p
  coreOn s p && (c.st == 1 || c.st == 3 || (c.st == 2 && c.preempt)) && !c.halting && !c.failed && c.stop.isNone

/-- INSTR_RELEASE: the head of queue `q` of core `p` passes its test and goes to its engine. -/
def execInstrRelease (p q : Nat) (s : State) : Host.Outcome State Fault Refusal :=
  .next <|
    let c := core s p
    match queueAt c q with
    | [] => s
    | e :: r =>
      if !mayRelease s p || !passes s p q e || olderPasses s p q e then s
      else
        let e' := { e with ph := 1, rel := c.rels, chip := if eiClass e.w = 6 then cjobDie s p e else e.chip }
        let s := setCore p (setRun q (runAt c q ++ [e']) (setQueue q r { c with rels := c.rels + 1, relQ := relCycle c q ++ [q] })) s
        brkMatch p 3 e.tpl (perf (baseCc p + 8) 1 s)

/-- The counts of a completed instruction advance (R269). -/
def completeSb (e : EI) (sb : Map SbEnt) : Map SbEnt :=
  let rd := fun (sb : Map SbEnt) n => if bit n 6 then mupd sb (n % 64) {} fun x => { x with crd := (x.crd + 1) % 65536 } else sb
  let sb := rd (rd sb e.rdA) e.rdB
  if bit e.wr 6 then mupd sb (e.wr % 64) {} fun x => { x with cw := (x.cw + 1) % 65536 } else sb

/-- What a completed instruction adds to its core's utilisation counters (R525). -/
def utilDone (p : Nat) (e : EI) (s : State) : State :=
  let w := e.w
  let lanes := 64 * vCnt w
  let el := if vBf w then 2 * lanes else lanes
  match eiClass w, eiOp w with
  | 2, 3 => util p (if vBf w then 0x200 else 0x1F8) el s
  | 2, 4 => util p (if vBf w then 0x200 else 0x1F8) el s
  | 2, 6 => util p (if vBf w then 0x200 else 0x1F8) el s
  | 2, 7 => util p 0x208 el s
  | 2, 8 => util p 0x210 (vqH w) s
  | 2, 9 => util p 0x218 (vqH w) s
  | 3, _ => util p 0x220 1 s
  | _, _ => s

/-- INSTR_COMPLETE: the first instruction of queue `q` that has done its work completes. -/
def execInstrComplete (p q : Nat) (s : State) : Host.Outcome State Fault Refusal :=
  .next <|
    let c := core s p
    match (runAt c q).find? (·.ph == 3) with
    | none => s
    | some e =>
      if !coreOn s p then s
      else settle p (utilDone p e (setCore p (setRun q ((runAt c q).filter fun x => x.ord != e.ord) { c with sb := completeSb e c.sb }) s))

/-! ### Failure and breakpoints (R287, R296) -/

/-- REGION_RETRY: after a failure, once every released instruction has finished, the snapshot is restored and the region runs
again, or after a fourth failure the job ends FAULTED. What earlier instructions that wait in their queues will write stays pending. -/
def execRegionRetry (p : Nat) (s : State) : Host.Outcome State Fault Refusal :=
  .next <|
    let c := core s p
    if !coreOn s p || !c.failed || !runEmpty c || c.stop.isSome then s
    else
      let c := { c with
        defer := [], closing := false, failed := false, pass := false, att := c.att + 1,
        kpend := kWriters c }
      let c := match c.snap with
        | some x => { c with k := x.k, step := x.step, s := x.s }
        | none => c
      if 3 < c.att then settle p (setCore p { c with hw := true, stop := some 12, queues := [] } s)
      else ccErr p 0 (setCore p (ageSlots { c with pc := c.rstart }) s)

/-- BREAKPOINT_HIT: the engines have finished every released instruction and the core enters the halted state; an event reports
it, and with STOP_CHIP every other core halts the same way. -/
def execBreakpointHit (p : Nat) (s : State) : Host.Outcome State Fault Refusal :=
  .next <|
    let c := core s p
    if !coreOn s p || !c.halting || c.failed || c.st != 1 || !runEmpty c then s
    else
      let b := mgetD c.brks c.brkHit {}
      let quiet := c.single && c.brkHit == 0xFF
      let c' := { c with
        st := 2, halting := false, single := false,
        brks := if bit b.flags 1 && c.brkHit != 0xFF then mset c.brks c.brkHit { b with kind := 0 } else c.brks }
      let s := setCore p c' s
      let s := if quiet then s else coreLog p 6 (le 1 c.brkHit ++ [0] ++ le 2 c.pc ++ le 4 c.step) s
      if quiet then s
      else
        let s := sendEvent 6 0 (le 1 (lcore s p) ++ le 1 p ++ le 1 c.brkHit ++ [0] ++ le 2 c.pc ++ zeros 2 ++ le 4 c.step) (ccErr p 4 s)
        if c.brkHit != 0xFF && bit b.flags 0 then
          (List.range s.nv.cores).foldl (fun s l =>
            let q := physOf s l
            let d := core s q
            if q != p && d.st == 1 && !d.halting then setCore q { d with halting := true, single := true, brkHit := 0xFF } s else s) s
        else s

end Sys2Proof.Machine
end

