-- ==== Sys2Proof/Machine/Vector.lean ====
section
/-! DEFINITION. The vector class (R273 to R279): loads, stores, lane arithmetic, reductions, special functions, and the block
quantiser's instructions. -/

namespace Sys2Proof.Machine

open Sys2Proof

/-! ### Lanes and predicates -/

/-- Lane `l` of register `r` of engine `e`. -/
def lane (c : Core) (e r l : Nat) : Nat := mgetD c.v (4096 * e + 64 * r + l) 0
def setLane (e r l x : Nat) (c : Core) : Core := { c with v := msetD c.v (4096 * e + 64 * r + l) (x % 2 ^ 32) 0 }
def pred (c : Core) (e i : Nat) : Nat := mgetD c.p (8 * e + i) 0
/-- Lane `l` may be written (R273). -/
def laneOn (c : Core) (w l : Nat) : Bool := !bit w 113 || bit (pred c (bits w 111 109) (bits w 84 82)) l
/-- Group `g` of VD receives `f lane` in every lane that may be written. -/
def writeGroup (w g : Nat) (f : Nat → Nat) (c : Core) : Core :=
  (List.range 64).foldl (fun c' l => if laneOn c w l then setLane (bits w 111 109) (bits w 108 103 + g) l (f l) c' else c') c
/-- The first `k` groups of VD receive `f group lane`. -/
def writeGroups (w k : Nat) (f : Nat → Nat → Nat) (c : Core) : Core :=
  (List.range k).foldl (fun c' g => (List.range 64).foldl (fun c' l =>
    if laneOn c w l then setLane (bits w 111 109) (bits w 108 103 + g) l (f g l) c' else c') c') c

/-- A lane operation on FP32 codes, or on each BF16 half widened and rounded to nearest-even (R273, R275). -/
def halves (bf : Bool) (f : Nat → Nat → Nat → Nat → Nat) (a b d : Nat) : Nat :=
  if bf then
    f 5 (a % 65536 * 65536) (b % 65536 * 65536) (d % 65536 * 65536)
      + 65536 * f 5 (a / 65536 * 65536) (b / 65536 * 65536) (d / 65536 * 65536)
  else f 7 a b d

/-! ### Residue checks and retirement (R278, R279) -/

/-- A vector engine is retired; a second one retires its core (R512). -/
def retireVec (p e : Nat) (s : State) : State :=
  let m := setBit (vecMask s p) e
  let s := { s with nv := { s.nv with vecRetired := mset s.nv.vecRetired p m } }
  let s := coreFault p 0x0303 2 6 (8 * p + e) e s
  if 2 ≤ popcount m 8 then retireCore p s else s
/-- VEC_RESIDUE: counted and recorded on the engine that ran the instruction; the region fails or the job ends. -/
def vecResidue (p q : Nat) (e : EI) (s : State) : State :=
  let g := vecHost s p (bits e.w 111 109)
  let (ret, s) := channelEvent 6 (8 * p + g) 0 (ccErr p 2 s)
  let s := coreFault p 0x0203 (if ret then 2 else 0) 6 (8 * p + g) g s
  let s := if ret then retireVec p g s else s
  failCheck p e 0x0203 (doneEi p q e s)

/-- The queue of the vector engine that an instruction of row `eng` names. -/
def vq (eng : Nat) : Nat := 2 + eng % 8
/-- A vector instruction that only changes its core, with a residue check: from group `r` on, nothing is written. -/
def vecStep (p eng op : Nat) (r : Option Nat) (f : EI → Nat → Core → Core) (s : State) : State :=
  engStep p (vq eng) 2 op (fun e s =>
    let n := match r with | some g => min g (vCnt e.w) | none => vCnt e.w
    let s := setCore p (f e n (core s p)) s
    if r.isSome then vecResidue p (vq eng) e s else doneEi p (vq eng) e s) s

/-! ### Loads and stores (R274) -/

/-- A code of format `f` as FP32: exact, but for INT32 (R274). -/
def toFp32 (f x : Nat) (n : Nar) : Nat × Nar :=
  if f = 7 then (x % 2 ^ 32, n) else if f = 9 then narrow 7 (fmtVal 9 x) n else (roundNe 7 (fmtVal f x), n)
/-- An FP32 code as format `f` (R249, R250). -/
def fromFp32 (f x : Nat) (n : Nar) : Nat × Nar := if f = 7 then (x, n) else narrow f (fmtVal 7 x) n

/-- VLD. -/
def execVld (p eng : Nat) (s : State) : Host.Outcome State Fault Refusal :=
  .next <| engStep p (vq eng) 2 1 (fun e s =>
    let w := e.w
    let f := bits w 38 35
    let at_ := fun g => bits w 75 55 * 32 + g * (bits w 54 39 * 32)
    if (List.range (vCnt w)).any fun g => localPoison s p (at_ g) (vGroupBytes w) then refuseEi p (vq eng) e s
    else
      let (c, n) := (List.range (vCnt w)).foldl (fun (acc : Core × Nar) g =>
        let (xs, n) := (List.range 64).foldl (fun (t : List Nat × Nar) l =>
          if vBf w then (t.1 ++ [localLe s p (at_ g + 4 * l) 4], t.2)
          else
            let (x, n) := toFp32 f (codeAt (fmtWidth f) (fun j => localByte s p (at_ g + j)) l) t.2
            (t.1 ++ [x], n)) ([], acc.2)
        (writeGroup w g (fun l => xs.getD l 0) acc.1, n)) (core s p, { free := s.free })
      doneEi p (vq eng) e (useNar p n (setCore p c s))) s

/-- VST. -/
def execVst (p eng : Nat) (s : State) : Host.Outcome State Fault Refusal :=
  .next <| engStep p (vq eng) 2 2 (fun e s =>
    let w := e.w
    let c := core s p
    let f := bits w 38 35
    let bw := if vBf w then 32 else fmtWidth f
    let at_ := fun g => bits w 75 55 * 32 + g * (bits w 54 39 * 32)
    let (s, n) := (List.range (vCnt w)).foldl (fun (acc : State × Nar) g =>
      let (xs, n) := (List.range 64).foldl (fun (t : List Nat × Nar) l =>
        let old := codeAt bw (fun j => localByte acc.1 p (at_ g + j)) l
        let x := lane c (bits w 111 109) (bits w 102 97 + g) l
        if !laneOn c w l then (t.1 ++ [old], t.2)
        else if vBf w then (t.1 ++ [x], t.2)
        else let (y, n) := fromFp32 f x t.2; (t.1 ++ [y], n)) ([], acc.2)
      if (List.range 64).any (laneOn c w) then (localWrite p (at_ g) (packCodes bw xs) acc.1, n) else (acc.1, n))
      (s, { free := s.free })
    doneEi p (vq eng) e (useNar p n s)) s

/-! ### Lane operations -/

/-- VARITH. `r`: the group whose residue check fails. -/
def execVarith (p eng : Nat) (r : Option Nat) (s : State) : Host.Outcome State Fault Refusal :=
  .next <| vecStep p eng 3 r (fun e n c =>
    let w := e.w
    let g := bits w 111 109
    writeGroups w n (fun i l => halves (vBf w) (fun f a b d => fpArith f (bits w 75 72) a b d)
      (lane c g (bits w 102 97 + i) l) (lane c g (bits w 96 91 + i) l) (lane c g (bits w 90 85 + i) l)) c) s

/-- VCMP. -/
def execVcmp (p eng : Nat) (s : State) : Host.Outcome State Fault Refusal :=
  .next <| vecStep p eng 4 none (fun e _ c =>
    let w := e.w
    let g := bits w 111 109
    let r := (List.range 64).foldl (fun t l =>
      let a := fmtVal 7 (lane c g (bits w 102 97) l)
      let b := fmtVal 7 (lane c g (bits w 96 91) l)
      let x := match bits w 75 73 with
        | 0 => fpLt a b
        | 1 => fpLt a b || fpEq a b
        | 2 => fpEq a b
        | _ => !fpEq a b
      if !laneOn c w l then t else if x then setBit t l else clrBit t l) (pred c g (bits w 72 70))
    { c with p := msetD c.p (8 * g + bits w 72 70) r 0 }) s

/-- VSEL. -/
def execVsel (p eng : Nat) (s : State) : Host.Outcome State Fault Refusal :=
  .next <| vecStep p eng 5 none (fun e n c =>
    let w := e.w
    let g := bits w 111 109
    writeGroups w n (fun i l => if bit (pred c g (bits w 84 82)) l then lane c g (bits w 102 97 + i) l
      else lane c g (bits w 96 91 + i) l) c) s

/-- VBC. -/
def execVbc (p eng : Nat) (s : State) : Host.Outcome State Fault Refusal :=
  .next <| vecStep p eng 10 none (fun e n c => writeGroups e.w n (fun _ _ => bits e.w 75 44) c) s

/-- VKX. -/
def execVkx (p eng : Nat) (s : State) : Host.Outcome State Fault Refusal :=
  .next <| vecStep p eng 11 none (fun e _ c => writeK (bits e.w 75 72) (lane c (bits e.w 111 109) (bits e.w 102 97) 0) c) s

/-- VSFN. `r`: the group whose residue check fails. -/
def execVsfn (p eng : Nat) (r : Option Nat) (s : State) : Host.Outcome State Fault Refusal :=
  .next <| vecStep p eng 7 r (fun e n c =>
    let w := e.w
    writeGroups w n (fun i l => halves (vBf w)
      (fun f a _ _ => let y := sfn (bits w 75 73) a; if f = 5 then roundNe 5 (fmtVal 7 y) else y)
      (lane c (bits w 111 109) (bits w 102 97 + i) l) 0 0) c) s

/-! ### Reductions (R274, R275) -/

/-- One level of the fixed tree: neighbours combined. -/
def pairUp (f : Nat → Nat → Nat) (l : List Nat) : List Nat :=
  match l with
  | a :: b :: r => f a b :: pairUp f r
  | o => o
/-- The fixed tree over at most 2^`n` values. -/
def tree (f : Nat → Nat → Nat) (n : Nat) (l : List Nat) : List Nat :=
  match n with
  | 0 => l
  | n + 1 => tree f n (pairUp f l)
/-- The elements of a group as FP32 codes, in element order. -/
def groupElems (bf : Bool) (c : Core) (g r : Nat) : List Nat :=
  (List.range 64).flatMap fun l =>
    let x := lane c g r l
    if bf then [x % 65536 * 65536, x / 65536 * 65536] else [x]
/-- Index of the maximum: the lowest on a tie, NaNs passed over, −1 where all are NaN. -/
def argMax (l : List Nat) : Int :=
  ((l.zipIdx).foldl (fun (t : Int × FV) x =>
    let v := fmtVal 7 x.1
    if fpNan v then t else if t.1 < 0 || fpLt t.2 v then ((x.2 : Int), v) else t) (-1, .nan)).1
/-- The result of VRED over `n` groups, as an FP32 code. -/
def vred (w n : Nat) (c : Core) : Nat :=
  let bf := vBf w
  let f := if bf then 5 else 7
  let es := (List.range n).map fun i => groupElems bf c (bits w 111 109) (bits w 102 97 + i)
  let op := bits w 75 74
  if op = 3 then roundNe 7 (.ofInt (argMax es.flatten))
  else
    let step := fun a b =>
      let r := fpArith f (if op = 0 then 1 else if op = 1 then 5 else 4) a b 0
      if bf then r * 65536 else r
    match es.map fun g => (tree step 7 g).headD 0 with
    | [] => 0
    | a :: r => r.foldl step a

/-- VRED. `r`: the group whose residue check fails; nothing is written then. -/
def execVred (p eng : Nat) (r : Option Nat) (s : State) : Host.Outcome State Fault Refusal :=
  .next <| vecStep p eng 6 r (fun e n c =>
    if r.isSome then c else writeGroup e.w 0 (fun l => if l = 0 then vred e.w n c else 0) c) s

/-! ### Quantise and dequantise (R277) -/

/-- The memory of a row: its data address, scale address and reference address, and the descriptor. -/
structure QDesc where
  data : Nat
  scale : Nat
  ref : Nat
  check : Nat
  tile : Nat
  ok : Bool
deriving DecidableEq, Repr

def qDesc (s : State) (p w : Nat) : QDesc :=
  let b := localBytes s p (bits w 65 45 * 32) 32
  let row := bits w 44 34
  { data := leAt b 0 4 + row * leAt b 16 2, scale := leAt b 4 4 + row * leAt b 18 2, ref := leAt b 8 4 + row,
    check := leAt b 12 4, tile := leAt b 20 4, ok := zeroAt b 24 8 }
/-- The row's memory lies in the core store. -/
def qRanges (d : QDesc) (w : Nat) : Bool :=
  let h := vqH w
  d.ok && localIn d.data ((h * fmtWidth (bits w 68 66) + 7) / 8) && localIn d.scale (h / 32) && localIn d.ref 1
    && (!(bit w 33 || bit w 32) || localIn d.check (4 * h))
/-- Element `i` of the row in the groups of register `r0`, as an FP32 code. -/
def rowElem (bf : Bool) (c : Core) (g r0 i : Nat) : Nat :=
  if bf then
    let x := lane c g (r0 + i / 64) (i % 64 / 2)
    if i % 2 = 0 then x % 65536 * 65536 else x / 65536 * 65536
  else lane c g (r0 + i / 64) (i % 64)
/-- Edge integers of the row stored at `d` with its own reference (R195, R259). -/
def storedEdges (s : State) (p w : Nat) (d : QDesc) (n : Nar) : List Int × Nar :=
  let f := bits w 68 66
  let (xs, _, n) := edgeLine f true (signed8 (localByte s p d.ref).toNat)
    (fun t => codeAt (fmtWidth f) (fun j => localByte s p (d.data + j)) t) (fun b => (localByte s p (d.scale + b)).toNat) 0 (vqH w) n
  (xs, n)
/-- The check vector changed by `sign` times the edge integers `xs`. -/
def addCheck (p : Nat) (d : QDesc) (sign : Int) (xs : List Int) (s : State) : State :=
  (xs.zipIdx).foldl (fun s x =>
    let a := d.check + 4 * x.2
    localWrite p a (le 4 (ofSigned 32 (toSigned 32 (localLe s p a 4) + sign * x.1))) s) s

/-- VQUANT. `r`: the group whose residue check fails; nothing is written then. -/
def execVquant (p eng : Nat) (r : Option Nat) (s : State) : Host.Outcome State Fault Refusal :=
  .next <| engStep p (vq eng) 2 8 (fun e s =>
    let w := e.w
    let d := qDesc s p w
    let h := vqH w
    let f := bits w 68 66
    if localPoison s p (bits w 65 45 * 32) 32 then refuseEi p (vq eng) e s
    else if !qRanges d w then illegalEi p (vq eng) e s
    else if (bit w 32 && (localPoison s p d.data ((h * fmtWidth f + 7) / 8) || localPoison s p d.scale (h / 32) || localPoison s p d.ref 1))
        || ((bit w 32 || bit w 33) && localPoison s p d.check (4 * h)) then refuseEi p (vq eng) e s
    else if r.isSome then vecResidue p (vq eng) e s
    else
      let n : Nar := { free := s.free }
      let (s, n) := if bit w 32 then
          let (xs, n) := storedEdges s p w d n
          (addCheck p d (-1) xs s, { n with konst := 0 })
        else (s, n)
      let c := core s p
      let (row, n) := quantise f ((List.range h).map (rowElem (vBf w) c (bits w 111 109) (bits w 102 97))) n
      let s := localWrite p d.data (packCodes (fmtWidth f) row.codes) s
      let s := localWrite p d.scale (row.scales.flatMap (le 1)) s
      let s := localWrite p d.ref (le 1 (ofSigned 8 row.ref)) s
      let (s, n) := if bit w 33 then
          let (xs, n') := storedEdges s p w d n
          (addCheck p d 1 xs s, { n' with konst := n.konst })
        else (s, n)
      doneEi p (vq eng) e (useNar p n s)) s

/-- Element `i` of the row at `d` dequantised: element, block scale and tile scale multiplied exactly, as an FP32 code. -/
def deqElem (s : State) (p f : Nat) (d : QDesc) (i : Nat) : Nat :=
  let bw := fmtWidth f
  let sc := (localByte s p (d.scale + i / 32)).toNat
  let tile := if d.tile = 0xFFFFFFFF then FV.fin false { num := 1 } else fmtVal 7 (localLe s p (d.tile + 4 * (i / 2048)) 4)
  let b0 := i / 32 * (4 * bw)
  let v := if sc = 0 then fmtVal 5 (localLe s p (d.data + b0) 2)
    else fpMul (fmtVal f (codeAt bw (fun j => localByte s p (d.data + j)) i)) (.fin false (ueVal sc))
  roundNe 7 (fpMul v tile)

/-- VDEQ. `r`: the group whose residue check fails. -/
def execVdeq (p eng : Nat) (r : Option Nat) (s : State) : Host.Outcome State Fault Refusal :=
  .next <| engStep p (vq eng) 2 9 (fun e s =>
    let w := e.w
    let d := qDesc s p w
    let h := vqH w
    let f := bits w 68 66
    let tiles := 4 * ((h + 2047) / 2048)
    if localPoison s p (bits w 65 45 * 32) 32 then refuseEi p (vq eng) e s
    else if !qRanges d w || !(d.tile == 0xFFFFFFFF || localIn d.tile tiles) then illegalEi p (vq eng) e s
    else if localPoison s p d.data ((h * fmtWidth f + 7) / 8) || localPoison s p d.scale (h / 32)
        || (d.tile != 0xFFFFFFFF && localPoison s p d.tile tiles) then refuseEi p (vq eng) e s
    else
      let x := fun i => if i < h then deqElem s p f d i else 0
      let n := match r with | some g => min g (vCnt w) | none => vCnt w
      let c := core s p
      let old := fun g l => lane c (bits w 111 109) (bits w 108 103 + g) l
      let s := setCore p (writeGroups w n (fun g l =>
        if vBf w then
          (if l < 32 && 64 * g + 2 * l < h then
            roundNe 5 (fmtVal 7 (x (64 * g + 2 * l))) + 65536 * roundNe 5 (fmtVal 7 (x (64 * g + 2 * l + 1)))
          else old g l)
        else if 64 * g + l < h then x (64 * g + l) else old g l) c) s
      if r.isSome then vecResidue p (vq eng) e s else doneEi p (vq eng) e s) s

end Sys2Proof.Machine
end

