-- ==== Sys2Proof/Machine/Versions.lean ====
section
/-! DEFINITION. The commit and the retirement of versions (R439 to R443). -/

namespace Sys2Proof.Machine

open Sys2Proof

/-- Error counter `k` places after OBS_VER_MISSED (R448). -/
def verErr' (k : Nat) (s : State) : State := errc (baseObs + 0x10408 + 4 * k) (baseObs + 0x10418) k 1 s

/-- What round `r` wrote anew. -/
def Round.wrote (r : Round) : Wrote := { imgs := r.written.map (·.1), exact := r.exactW, pfx := r.touched }
/-- A failed entry whose storage the new version `v` shares with `old` is marked in both (R153, R440). -/
def BadEnt.shared (w : Wrote) (old v : Nat) (e : BadEnt) : BadEnt :=
  if e.vers.contains old && !rewroteRef w e.ref then { e with vers := e.vers ++ [v] } else e
/-- A failed entry after version `v` has retired: storage of no live version is gone. -/
def BadEnt.without (v : Nat) (e : BadEnt) : Option BadEnt :=
  let l := e.vers.filter (· != v)
  if versioned e.ref && l.isEmpty then none else some { e with vers := l }

/-- Stream contexts at a commit from `old` to `new`: newly VALID ones start ARMED, those no longer VALID become OFF
(R300); a ring that the commit changes will start afresh (R303). -/
def commitCtx (old new : Objs) (s : State) : State :=
  let a := scIds old
  let b := scIds new
  let s := (b.filter fun i => !a.contains i).foldl (fun s i => setCtx i { st := 1 } s) s
  let s := (a.filter fun i => !b.contains i).foldl (fun s i => setCtx i { ctxOf s i with st := 0 } s) s
  (a.filter fun i => b.contains i).foldl (fun s i => ringChange old new (newestNum s) i s) s

/-- Instances at a commit: those that are new are loaded; one whose model is new to it is loaded at once, or with SWAP once the
old version's jobs are done (R308). -/
def commitInsts (old new : Objs) (num : Nat) (s : State) : State :=
  new.models.foldl (fun s e =>
    let k := e.1
    let m := e.2
    if mget old.models k = some m then s
    else m.nums.foldl (fun s i =>
      let first := m.firstCore + m.nums.idxOf i * m.ranks
      let fresh : Inst := { model := k, first := first, ranks := m.ranks, addr := m.addr }
      match inst? s i with
      | none => loadInst new i (setInst i fresh s)
      | some x =>
        let x := { x with out := x.out && decide (s.nv.cores < first + m.ranks) }
        if bit m.place 0 then setInst i { x with swap := num } s else loadInst new i (setInst i x s)) s) s

/-- Enabled ports begin to train once the first version is live (R67). -/
def trainPorts (s : State) : State :=
  (List.range 64).foldl (fun s q => if (port s q).en && (port s q).st == 0 then startTraining q s else s) s

/-- The staged version takes effect at instant `t` (R439). -/
def commitRound (r : Round) (t : Nat) (s : State) : State :=
  let old := s.ver.newest
  let s := { s with
    ver := { s.ver with
      newest := { num := r.num, objs := r.objs, since := t, bearing := bearingOf r.objs },
      older := if old.num = 0 then none else some (old, t), wrote := r.wrote, round := none, missed := false },
    failed := s.failed.map (BadEnt.shared r.wrote old.num r.num) }
  let s := commitInsts old.objs r.objs r.num (commitCtx old.objs r.objs (perf (baseObs + 0x10400) 1 s))
  inlineRise (if old.num = 0 then trainPorts s else s)

/-- COMMIT_INSTANT (R439): the armed instant has come. During a heave-to the round is judged as it stood at the stop (R443). -/
def execCommitInstant (s : State) : Host.Outcome State Fault Refusal :=
  .next <| match s.ver.round with
    | none => s
    | some r => match r.armed with
      | none => s
      | some t =>
        if now s < t || 2 ≤ s.sys.level then s
        else
          let j := if holding s then s.hv.round else some r
          match j.filter (fun x => x.num == r.num && x.complete s) with
          | some j => commitRound j t s
          | none =>
            let x := j.getD r
            let s := verErr' 0 { s with ver := { s.ver with round := some { r with armed := none }, missed := true } }
            raiseF { code := 0x0601, unit := helmUnit s, version := newestNum s, detail := r.num + 65536 * pendingByte s x } s

/-- VERSION_RETIRE (R442): the older version has no work in flight, and RETAIN_MS has passed since the commit. -/
def execVersionRetire (s : State) : Host.Outcome State Fault Refusal :=
  .next <| match s.ver.older with
    | none => s
    | some (l, t) =>
      if inFlight s l.num != 0 || now s < t + s.ver.retainMs * 1000000 then s
      else
        let o := s.ver.newest.objs
        let live := o.models.flatMap fun m => m.2.nums
        let keeps := fun (g : Region) => match mget o.models g.model with
          | some m => decide (m.addr ≤ g.src) && decide (g.src < m.addr + m.length)
          | none => false
        let s := ringRetire l.num s
        { s with
          failed := s.failed.filterMap (BadEnt.without l.num), ver := { s.ver with older := none }, insts := s.insts.filter fun e => live.contains e.1,
          cores := s.cores.map fun c => (c.1, { c.2 with regions := c.2.regions.filter keeps }) }

end Sys2Proof.Machine
end

