-- ==== Sys2Proof/Machine/Dispatch.lean ====
section
/-! DEFINITION. One arm per command: each calls the meaning of its row. -/

namespace Sys2Proof.Machine

open Sys2Proof

/-- The effect of a command on everything but the queue of waiting commands. -/
def exec (i : Instr) (s : State) : Host.Outcome State Fault Refusal :=
  match i with
  | .hello r => Sys2Proof.Machine.execHello r s
  | .regRead r => Sys2Proof.Machine.execRegRead r s
  | .regWrite r => Sys2Proof.Machine.execRegWrite r s
  | .evtCtl r => Sys2Proof.Machine.execEvtCtl r s
  | .dlcStage r => Sys2Proof.Machine.execDlcStage r s
  | .pgStage r => Sys2Proof.Machine.execPgStage r s
  | .pgSeal r => Sys2Proof.Machine.execPgSeal r s
  | .rcStage r => Sys2Proof.Machine.execRcStage r s
  | .rcDelete r => Sys2Proof.Machine.execRcDelete r s
  | .rcSeal r => Sys2Proof.Machine.execRcSeal r s
  | .tbPlanStage r => Sys2Proof.Machine.execTbPlanStage r s
  | .tbSeal r => Sys2Proof.Machine.execTbSeal r s
  | .cpStage r => Sys2Proof.Machine.execCpStage r s
  | .cpDelete r => Sys2Proof.Machine.execCpDelete r s
  | .cpSeal r => Sys2Proof.Machine.execCpSeal r s
  | .jobSubmit r => Sys2Proof.Machine.execJobSubmit r s
  | .modelStage r => Sys2Proof.Machine.execModelStage r s
  | .modelDelete r => Sys2Proof.Machine.execModelDelete r s
  | .coreBrkSet r => Sys2Proof.Machine.execCoreBrkSet r s
  | .coreCont r => Sys2Proof.Machine.execCoreCont r s
  | .coreStateRead r => Sys2Proof.Machine.execCoreStateRead r s
  | .scStage r => Sys2Proof.Machine.execScStage r s
  | .scSeal r => Sys2Proof.Machine.execScSeal r s
  | .scCtl r => Sys2Proof.Machine.execScCtl r s
  | .syncRead r => Sys2Proof.Machine.execSyncRead r s
  | .syncTree r => Sys2Proof.Machine.execSyncTree r s
  | .memPchRetire r => Sys2Proof.Machine.execMemPchRetire r s
  | .chSource r => Sys2Proof.Machine.execChSource r s
  | .chSet r => Sys2Proof.Machine.execChSet r s
  | .pwrState r => Sys2Proof.Machine.execPwrState r s
  | .clChipId r => Sys2Proof.Machine.execClChipId r s
  | .clRouteSet r => Sys2Proof.Machine.execClRouteSet r s
  | .clUnretire r => Sys2Proof.Machine.execClUnretire r s
  | .clRelay r => Sys2Proof.Machine.execClRelay r s
  | .verOpen r => Sys2Proof.Machine.execVerOpen r s
  | .verAbort r => Sys2Proof.Machine.execVerAbort r s
  | .commitAt r => Sys2Proof.Machine.execCommitAt r s
  | .verStatus r => Sys2Proof.Machine.execVerStatus r s
  | .verCtl r => Sys2Proof.Machine.execVerCtl r s
  | .rst r => Sys2Proof.Machine.execRst r s
  | .blkCtl r => Sys2Proof.Machine.execBlkCtl r s
  | .quiesceSet r => Sys2Proof.Machine.execQuiesceSet r s
  | .rstRemote r => Sys2Proof.Machine.execRstRemote r s
  | .taAdd r => Sys2Proof.Machine.execTaAdd r s
  | .taRemove r => Sys2Proof.Machine.execTaRemove r s
  | .attest r => Sys2Proof.Machine.execAttest r s
  | .certRead r => Sys2Proof.Machine.execCertRead r s
  | .dbgChallenge r => Sys2Proof.Machine.execDbgChallenge r s
  | .dbgUnlock r => Sys2Proof.Machine.execDbgUnlock r s
  | .fwLoad r => Sys2Proof.Machine.execFwLoad r s
  | .fwInstall r => Sys2Proof.Machine.execFwInstall r s
  | .fwConfirm r => Sys2Proof.Machine.execFwConfirm r s
  | .fltThreshStage r => Sys2Proof.Machine.execFltThreshStage r s
  | .fltRingRead r => Sys2Proof.Machine.execFltRingRead r s
  | .obsCoreRead r => Sys2Proof.Machine.execObsCoreRead r s
  | .logCtl r => Sys2Proof.Machine.execLogCtl r s
  | .dumpArm r => Sys2Proof.Machine.execDumpArm r s
  | .hvArm r => Sys2Proof.Machine.execHvArm r s
  | .hvRead r => Sys2Proof.Machine.execHvRead r s
  | .pwrCap r => Sys2Proof.Machine.execPwrCap r s
  | .pwrRead r => Sys2Proof.Machine.execPwrRead r s
  | .tblRead u v => Sys2Proof.Machine.execTblRead u v s
  | .tblWrite u v => Sys2Proof.Machine.execTblWrite u v s
  | .tblInsert u v => Sys2Proof.Machine.execTblInsert u v s
  | .tblDelete u v => Sys2Proof.Machine.execTblDelete u v s
  | .tblSearch u v => Sys2Proof.Machine.execTblSearch u v s
  | .tblAgeScan u v => Sys2Proof.Machine.execTblAgeScan u v s
  | .tblCmdComplete u => Sys2Proof.Machine.execTblCmdComplete u s
  | .tblRegCollide u off v => Sys2Proof.Machine.execTblRegCollide u off v s
  | .cwMbxDbRing sess mask => Sys2Proof.Machine.execCwMbxDbRing sess mask s
  | .cwMbxDoneClear mask => Sys2Proof.Machine.execCwMbxDoneClear mask s
  | .heaveCtlArm => Sys2Proof.Machine.execHeaveCtlArm s
  | .heaveCtlResume => Sys2Proof.Machine.execHeaveCtlResume s
  | .heaveCtlCancel => Sys2Proof.Machine.execHeaveCtlCancel s
  | .cwDbgLock => Sys2Proof.Machine.execCwDbgLock s
  | .spPortEnable q => Sys2Proof.Machine.execSpPortEnable q s
  | .spPortDisable q => Sys2Proof.Machine.execSpPortDisable q s
  | .spPortWidthSet q two => Sys2Proof.Machine.execSpPortWidthSet q two s
  | .clLinkEnable n => Sys2Proof.Machine.execClLinkEnable n s
  | .clLinkDisable n => Sys2Proof.Machine.execClLinkDisable n s
  | .counterClear off => Sys2Proof.Machine.execCounterClear off s
  | .lowWordReadLatch acc off => Sys2Proof.Machine.execLowWordReadLatch acc off s
  | .registerWrite acc off val => Sys2Proof.Machine.execRegisterWrite acc off val s
  | .mbxStart m cr => Sys2Proof.Machine.execMbxStart m cr s
  | .mbxComplete m => Sys2Proof.Machine.execMbxComplete m s
  | .hsInit port body => Sys2Proof.Machine.execHsInit port body s
  | .hsFin port sess body peer cr => Sys2Proof.Machine.execHsFin port sess body peer cr s
  | .mbxWrite f => Sys2Proof.Machine.execMbxWrite f s
  | .mbxRead f => Sys2Proof.Machine.execMbxRead f s
  | .bulkWrite f => Sys2Proof.Machine.execBulkWrite f s
  | .bulkRead f => Sys2Proof.Machine.execBulkRead f s
  | .bxAck f => Sys2Proof.Machine.execBxAck f s
  | .keepalive f => Sys2Proof.Machine.execKeepalive f s
  | .close f => Sys2Proof.Machine.execClose f s
  | .ptpMessage port m => Sys2Proof.Machine.execPtpMessage port m s
  | .bxRetxTimeout sess => Sys2Proof.Machine.execBxRetxTimeout sess s
  | .bxAckSend sess => Sys2Proof.Machine.execBxAckSend sess s
  | .keepaliveSend => Sys2Proof.Machine.execKeepaliveSend s
  | .sessionIdleTimeout sess => Sys2Proof.Machine.execSessionIdleTimeout sess s
  | .handshakeTimeout sess => Sys2Proof.Machine.execHandshakeTimeout sess s
  | .activePortSwitch sess => Sys2Proof.Machine.execActivePortSwitch sess s
  | .eventFrameSend sess => Sys2Proof.Machine.execEventFrameSend sess s
  | .helmTakeover => Sys2Proof.Machine.execHelmTakeover s
  | .helmLockstepStop idx => Sys2Proof.Machine.execHelmLockstepStop idx s
  | .sliceArrival q words => Sys2Proof.Machine.execSliceArrival q words s
  | .resync q word => Sys2Proof.Machine.execResync q word s
  | .spCredit q word => Sys2Proof.Machine.execSpCredit q word s
  | .spTrain q word => Sys2Proof.Machine.execSpTrain q word s
  | .spTrainTimeout q => Sys2Proof.Machine.execSpTrainTimeout q s
  | .spTrainRetry q => Sys2Proof.Machine.execSpTrainRetry q s
  | .spLockLoss q => Sys2Proof.Machine.execSpLockLoss q s
  | .spTimeSend => Sys2Proof.Machine.execSpTimeSend s
  | .parseWalk pipe parity => Sys2Proof.Machine.execParseWalk pipe parity s
  | .sliceLookup q seq pf => Sys2Proof.Machine.execSliceLookup q seq pf s
  | .learnEventForward d => Sys2Proof.Machine.execLearnEventForward d s
  | .learnAgeSweep d => Sys2Proof.Machine.execLearnAgeSweep d s
  | .flowFetchReturn die bucket tag poison => Sys2Proof.Machine.execFlowFetchReturn die bucket tag poison s
  | .tableRepair place ref ok => Sys2Proof.Machine.execTableRepair place ref ok s
  | .compassBlockEval u wk pf bad => Sys2Proof.Machine.execCompassBlockEval u wk pf bad s
  | .verdictCompose q seq pf => Sys2Proof.Machine.execVerdictCompose q seq pf s
  | .fallbackInstant q => Sys2Proof.Machine.execFallbackInstant q s
  | .verdictWordSend q => Sys2Proof.Machine.execVerdictWordSend q s
  | .resultFrameSend q => Sys2Proof.Machine.execResultFrameSend q s
  | .recordAppend d => Sys2Proof.Machine.execRecordAppend d s
  | .cadenceTick idx => Sys2Proof.Machine.execCadenceTick idx s
  | .jobArrive idx => Sys2Proof.Machine.execJobArrive idx s
  | .jobStart idx => Sys2Proof.Machine.execJobStart idx s
  | .contextSave w => Sys2Proof.Machine.execContextSave w s
  | .jobResume idx wid => Sys2Proof.Machine.execJobResume idx wid s
  | .jobComplete idx => Sys2Proof.Machine.execJobComplete idx s
  | .resultRoute d => Sys2Proof.Machine.execResultRoute d s
  | .returnArrive idx => Sys2Proof.Machine.execReturnArrive idx s
  | .nop p => Sys2Proof.Machine.execNop p s
  | .issue p => Sys2Proof.Machine.execIssue p s
  | .setk p => Sys2Proof.Machine.execSetk p s
  | .addk p => Sys2Proof.Machine.execAddk p s
  | .alu p => Sys2Proof.Machine.execAlu p s
  | .br p => Sys2Proof.Machine.execBr p s
  | .loopK p => Sys2Proof.Machine.execLoopK p s
  | .rbegin p => Sys2Proof.Machine.execRbegin p s
  | .rend p => Sys2Proof.Machine.execRend p s
  | .psafe p => Sys2Proof.Machine.execPsafe p s
  | .stepi p => Sys2Proof.Machine.execStepi p s
  | .waitq p => Sys2Proof.Machine.execWaitq p s
  | .getj p => Sys2Proof.Machine.execGetj p s
  | .endJob p => Sys2Proof.Machine.execEndJob p s
  | .brk p => Sys2Proof.Machine.execBrk p s
  | .instrRelease p q => Sys2Proof.Machine.execInstrRelease p q s
  | .instrComplete p q => Sys2Proof.Machine.execInstrComplete p q s
  | .regionPass p => Sys2Proof.Machine.execRegionPass p s
  | .regionRetry p => Sys2Proof.Machine.execRegionRetry p s
  | .breakpointHit p => Sys2Proof.Machine.execBreakpointHit p s
  | .aload p skew => Sys2Proof.Machine.execAload p skew s
  | .amul p skew => Sys2Proof.Machine.execAmul p skew s
  | .adrain p flips => Sys2Proof.Machine.execAdrain p flips s
  | .mvmul p skew flips => Sys2Proof.Machine.execMvmul p skew flips s
  | .vld p eng => Sys2Proof.Machine.execVld p eng s
  | .vst p eng => Sys2Proof.Machine.execVst p eng s
  | .varith p eng r => Sys2Proof.Machine.execVarith p eng r s
  | .vcmp p eng => Sys2Proof.Machine.execVcmp p eng s
  | .vsel p eng => Sys2Proof.Machine.execVsel p eng s
  | .vred p eng r => Sys2Proof.Machine.execVred p eng r s
  | .vsfn p eng r => Sys2Proof.Machine.execVsfn p eng r s
  | .vquant p eng r => Sys2Proof.Machine.execVquant p eng r s
  | .vdeq p eng r => Sys2Proof.Machine.execVdeq p eng r s
  | .vbc p eng => Sys2Proof.Machine.execVbc p eng s
  | .vkx p eng => Sys2Proof.Machine.execVkx p eng s
  | .salu p eng => Sys2Proof.Machine.execSalu p eng s
  | .sli p eng => Sys2Proof.Machine.execSli p eng s
  | .saddi p eng => Sys2Proof.Machine.execSaddi p eng s
  | .sld p eng => Sys2Proof.Machine.execSld p eng s
  | .sst p eng => Sys2Proof.Machine.execSst p eng s
  | .smovk p eng => Sys2Proof.Machine.execSmovk p eng s
  | .sgetk p eng => Sys2Proof.Machine.execSgetk p eng s
  | .dcopy p => Sys2Proof.Machine.execDcopy p s
  | .djob d => Sys2Proof.Machine.execDjob d s
  | .signal p => Sys2Proof.Machine.execSignal p s
  | .waitSync p => Sys2Proof.Machine.execWaitSync p s
  | .decrement p => Sys2Proof.Machine.execDecrement p s
  | .barrier p => Sys2Proof.Machine.execBarrier p s
  | .initSync p => Sys2Proof.Machine.execInitSync p s
  | .cjob p => Sys2Proof.Machine.execCjob p s
  | .qwait p q => Sys2Proof.Machine.execQwait p q s
  | .tmark p q => Sys2Proof.Machine.execTmark p q s
  | .dump p q => Sys2Proof.Machine.execDump p q s
  | .dumpCopy p => Sys2Proof.Machine.execDumpCopy p s
  | .compassJobComplete d => Sys2Proof.Machine.execCompassJobComplete d s
  | .syncRemoteRequest idx => Sys2Proof.Machine.execSyncRemoteRequest idx s
  | .syncReply idx => Sys2Proof.Machine.execSyncReply idx s
  | .syncRelease idx => Sys2Proof.Machine.execSyncRelease idx s
  | .releaseAck idx => Sys2Proof.Machine.execReleaseAck idx s
  | .treeArrive idx => Sys2Proof.Machine.execTreeArrive idx s
  | .treeRelease idx => Sys2Proof.Machine.execTreeRelease idx s
  | .orphan idx => Sys2Proof.Machine.execOrphan idx s
  | .withdraw idx => Sys2Proof.Machine.execWithdraw idx s
  | .syncTimeout p => Sys2Proof.Machine.execSyncTimeout p s
  | .hbmReread a row e => Sys2Proof.Machine.execHbmReread a row e s
  | .hbmRowRepair pch row lost spare => Sys2Proof.Machine.execHbmRowRepair pch row lost spare s
  | .migrationComplete h lost => Sys2Proof.Machine.execMigrationComplete h lost s
  | .hbmTempRead temps odecc rfm => Sys2Proof.Machine.execHbmTempRead temps odecc rfm s
  | .patrolScrub p off outcome => Sys2Proof.Machine.execPatrolScrub p off outcome s
  | .bankSpared p lost => Sys2Proof.Machine.execBankSpared p lost s
  | .chRefCompare off => Sys2Proof.Machine.execChRefCompare off s
  | .timeHoldover => Sys2Proof.Machine.execTimeHoldover s
  | .chSetPpsEdge => Sys2Proof.Machine.execChSetPpsEdge s
  | .chSetTimeout => Sys2Proof.Machine.execChSetTimeout s
  | .alarmFire n => Sys2Proof.Machine.execAlarmFire n s
  | .wakeComparatorFire n mv => Sys2Proof.Machine.execWakeComparatorFire n mv s
  | .lightDetect p on lock => Sys2Proof.Machine.execLightDetect p on lock s
  | .countOnlyEntry => Sys2Proof.Machine.execCountOnlyEntry s
  | .bankedEntry => Sys2Proof.Machine.execBankedEntry s
  | .clTrain n flit => Sys2Proof.Machine.execClTrain n flit s
  | .clTrainRetry n => Sys2Proof.Machine.execClTrainRetry n s
  | .clLockLoss x => Sys2Proof.Machine.execClLockLoss x s
  | .clDataFlit n f => Sys2Proof.Machine.execClDataFlit n f s
  | .nack n flit => Sys2Proof.Machine.execNack n flit s
  | .credit n flit => Sys2Proof.Machine.execCredit n flit s
  | .clCreditSend n => Sys2Proof.Machine.execClCreditSend n s
  | .clReplayTimeout n => Sys2Proof.Machine.execClReplayTimeout n s
  | .laneReq n flit => Sys2Proof.Machine.execLaneReq n flit s
  | .laneAck n flit => Sys2Proof.Machine.execLaneAck n flit s
  | .laneAckTimeout n => Sys2Proof.Machine.execLaneAckTimeout n s
  | .down n flit => Sys2Proof.Machine.execDown n flit s
  | .timeReq n flit => Sys2Proof.Machine.execTimeReq n flit s
  | .timeResp n flit => Sys2Proof.Machine.execTimeResp n flit s
  | .timeReqSend => Sys2Proof.Machine.execTimeReqSend s
  | .bearingExchangeSend n => Sys2Proof.Machine.execBearingExchangeSend n s
  | .bearingExchange idx => Sys2Proof.Machine.execBearingExchange idx s
  | .aggReportSend => Sys2Proof.Machine.execAggReportSend s
  | .aggChildReport idx => Sys2Proof.Machine.execAggChildReport idx s
  | .unreach idx => Sys2Proof.Machine.execUnreach idx s
  | .controlFrame idx cr => Sys2Proof.Machine.execControlFrame idx cr s
  | .clRelayTimeout who => Sys2Proof.Machine.execClRelayTimeout who s
  | .dcopyConfirm idx => Sys2Proof.Machine.execDcopyConfirm idx s
  | .dcopyConfirmTimeout => Sys2Proof.Machine.execDcopyConfirmTimeout s
  | .remoteResetRequest idx => Sys2Proof.Machine.execRemoteResetRequest idx s
  | .heaveToMarker n => Sys2Proof.Machine.execHeaveToMarker n s
  | .commitInstant => Sys2Proof.Machine.execCommitInstant s
  | .versionRetire => Sys2Proof.Machine.execVersionRetire s
  | .faultPeriodEnd code chan => Sys2Proof.Machine.execFaultPeriodEnd code chan s
  | .quiesceAck u idx => Sys2Proof.Machine.execQuiesceAck u idx s
  | .quiesceTimeout u idx reads lines => Sys2Proof.Machine.execQuiesceTimeout u idx reads lines s
  | .powerOnReset => Sys2Proof.Machine.execPowerOnReset s
  | .sysRstN => Sys2Proof.Machine.execSysRstN s
  | .coreRstN => Sys2Proof.Machine.execCoreRstN s
  | .supplyTrip rail => Sys2Proof.Machine.execSupplyTrip rail s
  | .refclkLoss => Sys2Proof.Machine.execRefclkLoss s
  | .thermalTrip => Sys2Proof.Machine.execThermalTrip s
  | .thermalWarning sensor temp => Sys2Proof.Machine.execThermalWarning sensor temp s
  | .watchdogExpiry => Sys2Proof.Machine.execWatchdogExpiry s
  | .resetRelease k => Sys2Proof.Machine.execResetRelease k s
  | .bootRomStart samples idOk torn => Sys2Proof.Machine.execBootRomStart samples idOk torn s
  | .firmwareStart sig => Sys2Proof.Machine.execFirmwareStart sig s
  | .standbySelfTest pass => Sys2Proof.Machine.execStandbySelfTest pass s
  | .hbmInitComplete => Sys2Proof.Machine.execHbmInitComplete s
  | .damperMeasure rails mw busy => Sys2Proof.Machine.execDamperMeasure rails mw busy s
  | .workingCapStep tj => Sys2Proof.Machine.execWorkingCapStep tj s
  | .logbookDrain k => Sys2Proof.Machine.execLogbookDrain k s
  | .heaveToStop => Sys2Proof.Machine.execHeaveToStop s
  | .heaveToResume => Sys2Proof.Machine.execHeaveToResume s
  | .smbusRead code => Sys2Proof.Machine.execSmbusRead code s
  | .jtagInstruction op dr => Sys2Proof.Machine.execJtagInstruction op dr s
  | .spLaneLock q fast codeword => Sys2Proof.Machine.execSpLaneLock q fast codeword s
  | .clLaneLock n fast codeword bad => Sys2Proof.Machine.execClLaneLock n fast codeword bad s
  | .uncorrectableCodeword chain idx c => Sys2Proof.Machine.execUncorrectableCodeword chain idx c s
  | .ref10mLoss => Sys2Proof.Machine.execRef10mLoss s
  | .ref10mReturn => Sys2Proof.Machine.execRef10mReturn s
  | .vbkLoss => Sys2Proof.Machine.execVbkLoss s
  | .vbkApplied => Sys2Proof.Machine.execVbkApplied s
  | .thermalWarningClear tj => Sys2Proof.Machine.execThermalWarningClear tj s
  | .placementReloadComplete idx => Sys2Proof.Machine.execPlacementReloadComplete idx s
  | .blockResetDone u idx => Sys2Proof.Machine.execBlockResetDone u idx s
  | .coreStoreRewrite p off => Sys2Proof.Machine.execCoreStoreRewrite p off s
  | .stagedBearingReady => Sys2Proof.Machine.execStagedBearingReady s
  | .debugExpiry => Sys2Proof.Machine.execDebugExpiry s
  | .mbxSysAssert => Sys2Proof.Machine.execMbxSysAssert s

end Sys2Proof.Machine
end

