-- ==== Sys2Proof/Machine/Tick.lean ====
section
/-! DEFINITION. What one cycle of the time clock does to the part when no command waits: the chronometer advances (R376, R377) and
the counters of cycles and of ns count (R86, R384, R523 to R525, R530, R554, and OBS_CMP_IDLE). -/

namespace Sys2Proof.Machine

open Sys2Proof

/-! ### The chronometer (R376, R377) -/

/-- What one tick adds to the count, in units of 2^-32 ns: a rate word, 100 ns of the 10 MHz pin (nothing in the 1 µs in which its edges
are missed), or 10^9 / 32,768 ns of the crystal, to 1/256 ns. -/
def tickStep (s : State) : Nat :=
  if coarse s then (if s.ch.crystal then (30517 * 256 + 148) * 2 ^ 24 else if s.ch.ref10 then 100 * 2 ^ 32 else 0)
  else ((2 ^ 32 : Nat) + s.ch.adj : Int).toNat
/-- The chronometer advances while VBK is applied. -/
def tickTime (s : State) : State :=
  if s.ch.vbk then { s with ch := { s.ch with cnt := (s.ch.cnt + tickStep s) % 2 ^ 96 } } else s

/-! ### Island counters (R381, R384) -/

/-- Cycles of a clock of `a / b` GHz between ns `t` and ns `u`. -/
def cyclesOf (a b t u : Nat) : Nat := a * u / b - a * t / b
/-- The period of core island `p` in ps: 1.25 GHz, divided by the damper. -/
def corePeriod (s : State) (p : Nat) : Nat := 800 * 2 ^ divOf s p
/-- Cycles that core island `p` ends in `ps` picoseconds from the edge that began the one now running, of which `at_` had passed when
tick `n` began: the cycles, those of them that were stretched, and the picoseconds of the next. Each is stretched by at most 1/8 period. -/
def runCycles (period n p at_ : Nat) : Nat → Nat → Nat → Nat × Nat × Nat
  | 0, _, ps => (0, 0, ps)
  | fuel + 1, k, ps =>
    let x := max (if k = 0 then at_ - period else 0) (min (Config.droop n p k) (period / 8))
    if ps < period + x then (0, 0, ps)
    else
      let r := runCycles period n p at_ fuel (k + 1) (ps - (period + x))
      (r.1 + 1, r.2.1 + b2n (x != 0), r.2.2)
/-- What core island `p` does in the `n`-th tick, from ns `t` to ns `u`. -/
def coreCycles (s : State) (n p t u : Nat) : Nat × Nat × Nat :=
  let at_ := mgetD s.ch.phase p 0
  let ps := at_ + 1000 * (u - t)
  runCycles (corePeriod s p) n p at_ (ps / corePeriod s p) 0 ps
/-- Cycles of island `i`, not a core's, between ns `t` and ns `u` while it runs. -/
def islCycles (i t u : Nat) : Nat :=
  if i < 136 then cyclesOf 3 2 t u
  else if i < 138 then cyclesOf 5 4 t u
  else if i < 140 then cyclesOf 1 1 t u
  else cyclesOf 11 8 t u
/-- Island `i` stands still: of itself, or held by a heave-to (R536). -/
def islStill (s : State) (i : Nat) : Bool := islandStopped s i || (holding s && decide (i < 138))
/-- The counters of island `i`, not a core's, between ns `t` and ns `u`. -/
def tickIsland (t u i : Nat) (s : State) : State :=
  if islStill s i then perf (islCtr i + 0x18) (u - t) s else perf (islCtr i) (islCycles i t u) s

/-! ### Utilisation counters (R523 to R525) -/

/-- What an engine does in a cycle: 0 busy, 1 idle, 2 + r stalled for reason r. -/
abbrev EngState := Nat

/-- Why a released instruction makes no progress: a held WAIT or BARRIER, or a reply that has not come. -/
def runReason (e : EI) : Nat := if e.held then 1 else 7
/-- Why the head `e` of queue `q` of core `p` is not released: the lowest reason that applies. -/
def headReason (s : State) (p q : Nat) (e : EI) : Nat :=
  let c := core s p
  if !sbReady c e then 0
  else if syncHeld c q then 1
  else if (queueAt c 0 ++ queueAt c 1 ++ runAt c 0 ++ runAt c 1).any (engineOrder e) then 2
  else if 64 < slotsUsed s p + slotsOf s p e then 3
  else if powerHeld s q e then 4
  else if c.failed || c.closing then 5
  else if eiClass e.w == 6 && !classReady s p e then 7
  else 0
/-- The state of engine `q` of core `p`. -/
def engState (s : State) (p q : Nat) : EngState :=
  let c := core s p
  let r := runAt c q
  if r.any fun e => e.ph == 1 || e.ph == 3 then 0
  else match r, queueAt c q with
    | e :: _, _ => 2 + runReason e
    | [], e :: _ => 2 + headReason s p q e
    | [], [] => 1
/-- The queue on which the ISSUE at the PC waits because it is full (R268, R523). -/
def fullQueue (s : State) (p : Nat) : Option Nat :=
  let c := core s p
  match c.prog.bind fun g => g.ctl[c.pc]? with
  | none => none
  | some w =>
    if bits w 63 56 ≠ 0x01 then none
    else match c.prog.bind fun g => g.tpl[bits w 55 44]? with
      | none => none
      | some e => if queueDepth (eiQueue e) ≤ (queueAt c (eiQueue e)).length then some (eiQueue e) else none
/-- The state of the control core of core `p`. -/
def ctlState (s : State) (p : Nat) : EngState :=
  let c := core s p
  if c.st == 0 || c.st == 2 then 1
  else if c.closing || c.failed then 7
  else if c.st != 1 || c.halting || c.stop.isSome then 2
  else match c.prog.bind fun g => g.ctl[c.pc]? with
    | none => 0
    | some w =>
      if (ctlRegs w).any c.kpend.contains then 2
      else match fullQueue s p with
        | some q => engState s p q
        | none => 0
/-- `n` cycles of engine `e` of core `p` spent in a state. -/
def tickEngine (p n e : Nat) (st : EngState) (s : State) : State :=
  match st with
  | 0 => util p (24 * e) n s
  | 1 => util p (24 * e + 0x10) n s
  | r + 2 => util p (0x180 + 8 * r) n (util p (24 * e + 8) n s)
/-- The island and utilisation counters of physical core `p` over tick `k`. -/
def tickCore (k t u p : Nat) (s : State) : State :=
  if islStill s p then perf (islCtr p + 0x18) (u - t) s
  else
    let (n, str, ps) := coreCycles s k p t u
    let s := perf (islCtr p + 8) str (perf (islCtr p) n { s with ch := { s.ch with phase := msetD s.ch.phase p ps 0 } })
    let s := if 0 < divOf s p then perf (islCtr p + 0x10) (u - t) s else s
    let c := core s p
    let s := if n = 0 || c.relQ.isEmpty then s else setCore p { c with relQ := [] } s
    (List.range 16).foldl (fun r e => tickEngine p n e (if e = 15 then ctlState s p else engState s p e) r) s

/-! ### Other counters of time -/

/-- OBS_CMP_IDLE: cycles of a unit in which no evaluation entered (chapter 06). -/
def tickUnit (t u k : Nat) (s : State) : State :=
  if islStill s (136 + k / 16) then s
  else
    let n := cyclesOf 5 4 t u
    let e := mgetD s.evals k 0
    perf (cmpUnit k + 0x10) (n - e) { s with evals := msetD s.evals k (e - n) 0 }
/-- SP_VCREDIT_STALL: cycles in which a verdict was ready and no credit was held (R66, R86). -/
def tickPort (t u q : Nat) (s : State) : State :=
  let p := port s q
  if trained p && p.vcred == 0 && p.pend.any (fun e => e.ready.isSome) && !islStill s (136 + q / 32) then
    spPerf q 0x20 (cyclesOf 5 4 t u) s
  else s
/-- The cap of R530 holds an observation write back. -/
def obsHeld (s : State) : Bool :=
  s.logs.any (fun e => drainDue s e.1 && !e.2.buf.isEmpty && drainRoom s e.2 == 0) ||
  s.cores.any fun e => match e.2.dumping with
    | [] => false
    | d :: _ => (e.2.dumpCyc != 0 && decide (ctr s (islCtr e.1) < e.2.dumpCyc + 1023)) ||
        obsRoom s ((d.addr + d.pos) / 0x3600000000) < 32
/-- Whole-part counters of ns: the damper's (R554) and OBS_CAP_NS. -/
def tickWhole (d : Nat) (s : State) : State :=
  let s := if (if holding s then s.hv.divs else s.pw.div).any (fun e => e.2 != 0) then perf basePwr d s else s
  let s := if s.pw.hold != 0 then perf (basePwr + 8) d s else s
  if obsHeld s && !holding s then perf (baseObs + 0x10508) d s else s
/-- No standby pair has come up 50 ms after the reset's release (R493, R513). -/
def tickStandby (t u : Nat) (s : State) : State :=
  let e := s.sys.t0 + 50000000
  if t < e && e ≤ u && s.sys.rom && !s.helm.standby then { s with flt := { s.flt with noStandby := true } } else s

/-- One cycle of the time clock. WAITs are judged as it ends (R332). -/
def tick (s : State) : State :=
  let t := now s
  let s := tickTime s
  let u := now s
  if down s then s
  else
    let (k, s) := draw s
    let s := (List.range 132).foldl (fun s p => tickCore k t u p s) s
    let s := (List.range 20).foldl (fun s i => tickIsland t u (132 + i) s) s
    let s := (List.range 32).foldl (fun s k => tickUnit t u k s) s
    let s := (List.range 64).foldl (fun s q => tickPort t u q s) s
    let e := u / 2 ^ 30 * 2 ^ 30 + 1000000
    let s := if t < e && e ≤ u then countSelf s else s
    sleepGate (inlineRise (tickStandby t u (tickWhole (u - t) (endCycle s))))

end Sys2Proof.Machine
end

