-- ==== Sys2Proof/Machine/Step.lean ====
section
/-! DEFINITION. One step of the block: the command at the front of the queue, or one cycle of the time clock on an empty queue. -/

namespace Sys2Proof.Machine

open Sys2Proof

/-- `s` with the queue `l`. -/
def State.withPending (s : State) (l : List Instr) : State := { s with pending := l }

/-- One step: the front command runs on the state with the queue's rest; an empty queue lets one time-clock cycle pass. -/
def step (s : State) : Host.Outcome State Fault Refusal :=
  match s.pending with
  | [] => .next (tick s)
  | c :: r => exec c (s.withPending r)

/-- `s` with the command that a word spells put at the front of its queue; unchanged where the word spells none. -/
def State.withFetchWord (s : State) (nbits w : Nat) : State :=
  match decodeTableWord nbits w with
  | some c => s.withPending (c :: s.pending)
  | none => s

end Sys2Proof.Machine
end

