-- ==== Sys2Proof/Safety.lean ====
section
/-! DEFINITION. What a safe run of the block is, and the terms in which the statements are written. -/

namespace Sys2Proof.Machine

open Sys2Proof

/-! ### Runs -/

/-- The memories are in their canonical form (no listed byte is zero, addresses rise): HBM and core store. -/
def memForm (s : State) : Prop := Mem.wf s.mem.hbm = true ∧ Mem.wf s.mem.cs = true

/-- The only command that may be refused: a JTAG instruction for the vendor's test logic (R558). -/
def refusable (c : Instr) : Bool :=
  match c with
  | .jtagInstruction .vendor _ => true
  | _ => false

/-! ### Mailbox commands (R458 to R463) -/

/-- The mailbox of `r` is open to its ring (R459), and the ring repeats no command whose response it keeps (R462). -/
def takesRing (op : Nat) (r : Req) (s : State) : Bool :=
  let x := mbx s r.mbx
  helmUp s && (decide (r.mbx < 32) && decide (r.sess < 4)) && (x.st != 1 && x.st != 2) && (sess s r.sess).opened &&
  (match x.resp with
    | some a => !(a.op == op && a.seq == r.seq)
    | none => true)
/-- `r` meets no check of R463 on its header: interface version, reserved bits, length, boot ROM mode and anchor. -/
def passesChecks (op since : Nat) (r : Req) (s : State) : Bool :=
  let y := sess s r.sess
  (op == 1 || (y.ifv == r.ifv && decide (since ≤ r.ifv))) && (decide (r.flags < 2) && r.rsvd == 0) && decide (r.payload.length ≤ 4080) &&
  (if s.sys.boot == 2 then y.anchored || openOps.contains op else romOps.contains op)
/-- No fence holds `r` back: no other mailbox has work where `r` or that work is FENCE (R461). -/
def fencesOpen (r : Req) (s : State) : Bool :=
  s.helm.mbx.all fun e => e.1 == r.mbx || !(e.2.st == 1 || e.2.st == 2) ||
    (!bit r.flags 0 && (match e.2.rq with
      | some q => !bit q.flags 0
      | none => true))
/-- Command `op` of version `since`, rung by its session, is taken and run at once: no check refuses it, no fence holds it back, and
no heave-to has stopped its islands (R478). -/
def accepted (op since : Nat) (r : Req) (s : State) : Bool :=
  takesRing op r s && passesChecks op since r s && fencesOpen r s && !(holding s && islandOps.contains op)

/-- `s` with the command taken: its mailbox is BUSY with the request, and the ring has its turn (R459, R461). -/
def busy (op : Nat) (r : Req) (s : State) : State :=
  setMbx r.mbx { mbx s r.mbx with
    st := 2, sess := r.sess, gen := (sess s r.sess).gen, rq := some (rqOf op r), ticket := s.helm.ticket + 1, ready := none,
    seq := r.seq, last := r.sess, stalled := false } { s with helm := { s.helm with ticket := s.helm.ticket + 1 } }

/-- `t` with the command's OK response ready in its mailbox, under the opcode and SEQ of the request (R458). -/
def answered (op : Nat) (r : Req) (detail : Nat) (out : Bytes) (t : State) : State :=
  setMbx r.mbx { mbx t r.mbx with ready := some { op := op, seq := r.seq, status := 0, detail := detail, payload := out } } t

/-- The command completes with OK, payload `out` and effect `f`, and nothing else changes. -/
def okNext (op : Nat) (r : Req) (out : Bytes) (f : State → State) (s : State) : Host.Outcome State Fault Refusal :=
  .next (answered op r 0 out (f (busy op r s)))

/-- `k` words from register offset `off`, read in ascending order by accessor `acc` (R452). -/
def readRegs (acc off : Nat) : Nat → State → Bytes × State
  | 0, s => ([], s)
  | k + 1, s =>
    let a := regRead acc off s
    let b := readRegs acc (off + 4) k a.2
    (le 4 a.1 ++ b.1, b.2)
/-- The words of `b` written from register offset `off` in ascending order by accessor `acc` (R452). -/
def writeRegs (acc off : Nat) (b : Bytes) : Nat → State → State
  | 0, s => s
  | k + 1, s => writeRegs acc (off + 4) (b.drop 4) k (regWrite acc off (leAt b 0 4) s)
/-- `k` registers from `off` are mapped. -/
def allMapped (s : State) (off k : Nat) : Bool := (List.range k).all fun i => mapped s (off + 4 * i)

/-! ### Operands of mailbox commands -/

/-- The request stages a part of an image: OFFSET and LENGTH at `o`, both multiples of 32, 1 to 4,064 bytes within `limit` (R105). -/
def partOk (r : Req) (o limit : Nat) : Bool :=
  r.payload.length == leAt r.payload (o + 4) 4 + 16 && leAt r.payload o 4 % 32 == 0 && leAt r.payload (o + 4) 4 % 32 == 0 &&
  decide (1 ≤ leAt r.payload (o + 4) 4) && decide (leAt r.payload (o + 4) 4 ≤ 4064) &&
  decide (leAt r.payload o 4 + leAt r.payload (o + 4) 4 ≤ limit)
/-- The round's prefix tables fit both prefix pools (R155). -/
def poolsFit (s : State) (x : Round) : Bool :=
  [0, 1].all fun f => decide (poolUse s f (famPfx x.objs f) x.touched ≤ poolLimit f)
/-- The model that a MODEL_STAGE request describes, with its instances' numbers and its container's SHA-256 (R321). -/
def modelOf (r : Req) (s : State) (nums : List Nat) (digest : Bytes) : Model :=
  let h := devBytes s (leAt r.payload 8 8) 64
  { addr := leAt r.payload 8 8, length := leAt r.payload 16 8, place := u8 r.payload 1, instances := u8 r.payload 2,
    firstCore := u8 r.payload 3, ranks := leAt h 2 2, kvBytes := leAt h 8 4, nums := nums, digest := digest }
/-- Hub object `k` has no waiters and no counts of a phase. -/
def freeObj (s : State) (k : Nat) : Bool :=
  let x := obj s ⟨true, 0, k⟩
  x.waiters.isEmpty && x.cur == 0 && x.next == 0 && x.leaving == 0
/-- The core (u = 0) or compass unit (u = 1) is retired (R487). -/
def unitRetired (s : State) (u i : Nat) : Bool := if u = 0 then bit s.nv.coreRetired i else bit s.nv.cmpRetired i
/-- `s` with the inner command of CL_RELAY sent by `send` and its response awaited (R421). -/
def relaySent (r : Req) (send : Tag → Bytes → State → State) (chip : Nat) (s : State) : State :=
  let inner := r.payload.drop 16
  let t := busy 0x0B10 r s
  let x := newTag (helmUnit t) 5 (leAt r.payload 0 2) (leAt inner 4 4) (newestNum t) 0xFFFFFFFF 7 0 false false t
  send x.1 (ctlPrefix 1 (sess s r.sess).anchored ++ inner) { x.2 with cl := { x.2.cl with relays := x.2.cl.relays ++
    [{ mbx := r.mbx, wid := leAt inner 4 4, ends := now s + leAt r.payload 10 2 * 1000000, chip := chip }] } }

/-! ### Table commands (R148, R149) -/

/-- The operation that a write of `v` to the control register of table unit `u` starts. -/
def tblOpOf (u v : Nat) (s : State) : TblOp :=
  let x := tunit s u
  { u := u, op := v % 16, view := bit v 4, die := b2n (bit v 5), table := bits v 11 8, arg := x.arg, key := x.key, data := x.data }
/-- `s` with that operation done and the unit BUSY until its results are published. -/
def tblTaken (u v : Nat) (s : State) : State :=
  let r := tblRun (tblOpOf u v s) s
  setTunit u { tunit s u with ctl := v &&& 0xF3F, busy := true, run := some r.1 } r.2

/-! ### Brixvia frames (R471, R472) -/

/-- The frame is authentic: its port is on, its session open, its tag checks and its packet number is new and in the window. -/
def frameOk (f : BxFrame) (s : State) : Bool :=
  portUp s f.port && decide (f.sess < 4) && (sess s f.sess).opened && f.tagOk && pnOk (sess s f.sess) f.pn
/-- `s` with an authentic frame's packet number, port and acknowledgement taken. -/
def heardFrame (f : BxFrame) (s : State) : State :=
  let x := sess s f.sess
  let hi := max x.pnRx (f.pn + 1)
  takeFack f.sess f.fack (setSess f.sess { x with
    pnRx := hi, pnSeen := (f.pn :: x.pnSeen).filter fun n => decide (hi ≤ n + 1025), heard := mset x.heard f.port (now s) } s)
/-- The frame is authentic and the one expected next of its session, which stays open. -/
def inSequence (f : BxFrame) (s : State) : Bool :=
  let x := sess (heardFrame f s) f.sess
  frameOk f s && x.opened && (f.fseq + 2 ^ 32 - x.fseqRx) % 2 ^ 32 == 0
/-- `s` with a frame in sequence taken, and its acknowledgement due. -/
def sequenced (f : BxFrame) (s : State) : State :=
  let t := heardFrame f s
  let x := sess t f.sess
  setSess f.sess { x with fseqRx := (x.fseqRx + 1) % 2 ^ 32, ackDue := some (x.ackDue.getD (now t)) } t

/-! ### Core instructions (R264 to R271) -/

/-- Physical core `p` stands at the legal control word `w`: it may decode, no breakpoint watches its PC or STEP, the K registers of the
word are ready and no single step runs. -/
def atWord (s : State) (p w : Nat) : Bool :=
  let c := core s p
  canDecode s p && (c.prog.bind fun g => g.ctl[c.pc]?) == some w && legalCtl w &&
  c.brks.all (fun b => b.2.kind != 1 && b.2.kind != 2) && !(ctlRegs w).any c.kpend.contains && !c.single
/-- `s` once core `p` has compared the PC of its word with the breakpoints. -/
def looked (p : Nat) (s : State) : State := if (core s p).pass then s else setCore p { core s p with pass := true } s
/-- Core `p` holds `c`, has decoded one word more, and nothing else changes. -/
def decodedTo (p : Nat) (c : Core) (s : State) : State := perf (baseCc p) 1 (setCore p { c with pass := false } s)

/-- The engine of queue `q` of core `p` runs and takes the released instruction `e`, of the class and opcode given. -/
def atEngine (s : State) (p q cls op : Nat) (e : EI) : Bool :=
  coreOn s p && (core s p).st != 0 && nextRun s p q == some e && eiClass e.w == cls && eiOp e.w == op && firstOnHost s p q e
/-- The released instruction `e` of queue `q` has done its work, and core `p` is otherwise `c`. -/
def engineDone (p q : Nat) (e : EI) (c : Core) (s : State) : State := doneEi p q e (setCore p c s)
/-- In `t`, the released instruction `e` of queue `q` of core `p` has done its work, and only waits to complete. -/
def hasDone (p q : Nat) (e : EI) (t : State) : Prop := ∃ x ∈ runAt (core t p) q, x.ord = e.ord ∧ x.ph = 3

end Sys2Proof.Machine
end

