-- ==== Sys2Proof/Certificates/Slice0/Obligations.lean ====
section
/-! DEFINITION. The statements for the provers. -/

open Sys2Proof Sys2Proof.Machine

/-- A step runs the command at the front of the queue. For every command c and state s, a step of s with c in front of its
queue is exec c on s with the queue's rest. -/
def Obligations.StepRunsTheFrontCommand : Prop :=
  ∀ (c : Instr) (s : State) (l : List Instr), s.pending = l → step (s.withPending (c :: l)) = exec c s

/-- With no command waiting, a step is one cycle of the time clock. On an empty queue a step answers a next state whose
queue is empty and whose count is greater by one rate word (R376), modulo 2^96, where VBK is applied and the main
rails are on. That the idle step is a tick is the model's choice (log entry 2). -/
def Obligations.IdleStepAdvancesTime : Prop :=
  ∀ s : State, s.pending = [] → ∃ t, step s = .next t ∧ t.pending = [] ∧
    (s.ch.vbk = true → s.ch.pwr ≠ 2 → s.sys.level ≠ 3 →
      t.ch.cnt = (s.ch.cnt + ((2 ^ 32 : Nat) + s.ch.adj : Int).toNat) % 2 ^ 96)

/-- Where the always-on domain keeps the count, a tick adds 100 ns of the 10 MHz pin, or one step of the crystal. In
SLEEP, and with the main rails off or their reset in force, with no command waiting and VBK applied, a step adds
exactly 100 ns to the count while a 10 MHz signal is present, and 30,517 ns and 148/256 ns once it has been missing
for 1 us; it leaves everything else as it was (R377). That the idle step is a tick, and that the count stands still in
the microsecond in which the edges are missed, are the model's choices (log entries 2 and 3). -/
def Obligations.SleepTickCountsCoarsely : Prop :=
  ∀ s : State, s.pending = [] → s.ch.vbk = true → (s.ch.pwr = 2 ∨ s.sys.level = 3) →
    step s = .next { s with
    ch := { s.ch with
    cnt := (s.ch.cnt +
      (if s.ch.crystal then (30517 * 256 + 148) * 2 ^ 24 else if s.ch.ref10 then 100 * 2 ^ 32 else 0)) % 2 ^ 96 } }

/-- What reset leaves. After reset the queue is empty, the chronometer reads 0, no chip id is assigned, no version is live
and no round open, HBM and core stores list nothing, the power cap is 1,850 W, RETAIN_MS is 10, the quiesce timeout is
100 us, 128 cores are active, both helm pairs' mailboxes are idle, no session is open, no heave-to runs and the alarm
control reads 0xC024. -/
def Obligations.ResetHoldsItsValues : Prop :=
  State.reset.pending = [] ∧ now State.reset = 0 ∧ State.reset.chip = none ∧ newestNum State.reset = 0 ∧ State.reset.ver.round = none ∧
  State.reset.mem.hbm = [] ∧ State.reset.mem.cs = [] ∧ State.reset.pw.cap = 1850 ∧ State.reset.pw.work = 1850 ∧
  State.reset.ver.retainMs = 10 ∧ State.reset.sys.quiesceUs = 100 ∧ State.reset.nv.cores = 128 ∧
  (∀ m, (mbx State.reset m).st = 0) ∧ (∀ i, (sess State.reset i).opened = false) ∧ State.reset.hv.st = 0 ∧
  State.reset.flt.alarmCtl = 0xC024 ∧ State.reset.inlineOk = false

/-- Reset's memories have the canonical form. HBM and core stores are in their canonical form at reset. -/
def Obligations.ResetMemoryForm : Prop :=
  memForm State.reset

/-- Every step keeps the memories in their canonical form. For every state whose HBM and core stores list rising addresses
and no zero byte, whatever command stands in front of the queue, or none, the next state's memories are in that form
too. -/
def Obligations.EveryStepKeepsMemoryForm : Prop :=
  ∀ s t : State, memForm s → step s = .next t → memForm t

/-- No command changes the queue of waiting commands. For every command and state, where exec answers a next state, its
queue is the queue it was given. -/
def Obligations.ExecLeavesTheQueue : Prop :=
  ∀ (c : Instr) (s t : State), exec c s = .next t → t.pending = s.pending

/-- Every command has an effect, but for the vendor's test logic. No command ends in a fault, and the only one that may be
refused is a JTAG instruction for the vendor's test logic, whose effect the spec does not give (R558); every other one
answers a next state in every state. -/
def Obligations.OnlyVendorTestLogicIsRefused : Prop :=
  ∀ (c : Instr) (s : State), (∀ f, exec c s ≠ .fault f) ∧ (∀ e, exec c s = .refused e → refusable c = true ∧ e = .vendorTest) ∧
    (refusable c = false → ∃ t, exec c s = .next t)

/-- HELLO, EVT_CTL, REG_READ and REG_WRITE complete. An accepted HELLO with a well-formed range sets the session's
interface version to the highest of both sides and answers the record of R466; EVT_CTL sets the session's types and
classes (R469); REG_READ answers COUNT words read in ascending order with their latches (R9, R452); REG_WRITE writes
COUNT words in ascending order (R452). Nothing else changes. -/
def Obligations.HelmCommandsRun : Prop :=
  (∀ r s, accepted 0x0001 0x10 r s = true → r.payload.length = 8 → zeroAt r.payload 2 6 = true →
    u8 r.payload 0 ≤ u8 r.payload 1 → u8 r.payload 0 / 16 = 1 → u8 r.payload 1 / 16 = 1 → u8 r.payload 0 ≤ 0x14 →
    (∀ e ∈ s.helm.mbx, e.1 ≠ r.mbx → e.2.sess = r.sess → e.2.gen = (sess s r.sess).gen → e.2.st ≠ 1 ∧ e.2.st ≠ 2) →
    exec (.hello r) s = okNext 0x0001 r
      (le 1 (min (u8 r.payload 1) 0x14) ++ le 1 r.sess ++ le 2 (chipId s) ++ le 4 s.sys.fwVer ++ [32] ++ le 1 s.nv.cores ++ le 2 4080 ++
        le 2 (newestNum s) ++ le 1 (b2n s.chip.isSome + 2 * b2n (newestNum s != 0) + 4 * b2n (unlocked s) + 8 * b2n s.helm.standby +
          16 * b2n (!s.nv.anchors.isEmpty) + 32 * s.helm.active) ++ [0])
      (fun t => setSess r.sess { sess t r.sess with ifv := min (u8 r.payload 1) 0x14 } t) s) ∧
  (∀ r s, accepted 0x0004 0x11 r s = true → r.payload.length = 8 → bit (leAt r.payload 0 2) 0 = false → leAt r.payload 0 2 < 256 →
    zeroAt r.payload 3 5 = true →
    exec (.evtCtl r) s = okNext 0x0004 r []
      (fun t => setSess r.sess { sess t r.sess with types := leAt r.payload 0 2, classes := u8 r.payload 2 } t) s) ∧
  (∀ r s, accepted 0x0002 0x10 r s = true → r.payload.length = 8 → leAt r.payload 0 4 % 4 = 0 → leAt r.payload 0 4 < 2 ^ 24 →
    leAt r.payload 6 2 = 0 → 1 ≤ leAt r.payload 4 2 → leAt r.payload 4 2 ≤ 1020 →
    allMapped s (leAt r.payload 0 4) (leAt r.payload 4 2) = true →
    exec (.regRead r) s = okNext 0x0002 r (readRegs r.sess (leAt r.payload 0 4) (leAt r.payload 4 2) (busy 0x0002 r s)).1
      (fun t => (readRegs r.sess (leAt r.payload 0 4) (leAt r.payload 4 2) t).2) s) ∧
  (∀ r s, accepted 0x0003 0x10 r s = true → r.payload.length = 8 + 4 * leAt r.payload 4 2 → leAt r.payload 0 4 % 4 = 0 →
    leAt r.payload 0 4 < 2 ^ 24 → leAt r.payload 6 2 = 0 → 1 ≤ leAt r.payload 4 2 → leAt r.payload 4 2 ≤ 1018 →
    allMapped s (leAt r.payload 0 4) (leAt r.payload 4 2) = true →
    (dbgOpen s 1 = true ∨ 0x088 < leAt r.payload 0 4 ∨ leAt r.payload 0 4 + 4 * leAt r.payload 4 2 ≤ 0x080) →
    exec (.regWrite r) s = okNext 0x0003 r []
      (fun t => writeRegs r.sess (leAt r.payload 0 4) (r.payload.drop 8) (leAt r.payload 4 2) t) s)

/-- Commands that stage objects change the open round and nothing else. With a round open, DLC_STAGE and FLT_THRESH_STAGE
put their checked object into it (R73, R514); PG_STAGE, RC_STAGE, TB_PLAN_STAGE and CP_STAGE write their part of an
image (R105, R127, R154, R184); SC_STAGE writes templates or the key map (R322); RC_DELETE, CP_DELETE and MODEL_DELETE
stage a removal (R128, R185, R308). -/
def Obligations.StagingCommandsWriteTheRound : Prop :=
  (∀ r s x, accepted 0x0102 0x10 r s = true → s.ver.round = some x → r.payload.length = 16 → u8 r.payload 0 ≤ 7 →
    zeroAt r.payload 1 3 = true → zeroAt r.payload 12 4 = true → 150 ≤ leAt r.payload 4 4 → leAt r.payload 4 4 ≤ 10000000 →
    exec (.dlcStage r) s = okNext 0x0102 r [] (setRound (stageWhole (oidDlc (u8 r.payload 0)) r.payload x)) s) ∧
  (∀ r s x, accepted 0x0E01 0x10 r s = true → s.ver.round = some x → r.payload.length = 80 →
    (∀ k < 10, zeroAt r.payload (8 * k + 1) 3 = true ∧ u8 r.payload (8 * k) ≠ 0 ∧ leAt r.payload (8 * k + 4) 4 ≠ 0 ∧
      leAt r.payload (8 * k + 4) 4 ≤ 604800000) →
    exec (.fltThreshStage r) s = okNext 0x0E01 r [] (setRound (stageWhole oidThresh r.payload x)) s) ∧
  (∀ r s x, accepted 0x0201 0x10 r s = true → s.ver.round = some x → partOk r 0 37632 = true → zeroAt r.payload 8 8 = true →
    exec (.pgStage r) s = okNext 0x0201 r [] (setRound (stagePart oidPg 37632 0 (leAt r.payload 0 4) (r.payload.drop 16) x)) s) ∧
  (∀ r s x, accepted 0x0301 0x10 r s = true → s.ver.round = some x → u8 r.payload 0 ≤ 2 →
    rcNumBad (u8 r.payload 0) (u8 r.payload 1) = false → partOk r 4 (rcLimit (u8 r.payload 0)) = true →
    zeroAt r.payload 2 2 = true → zeroAt r.payload 12 4 = true →
    exec (.rcStage r) s = okNext 0x0301 r [] (setRound (stagePart (rcOid (u8 r.payload 0) (u8 r.payload 1)) (rcLimit (u8 r.payload 0)) 1
      (leAt r.payload 4 4) (r.payload.drop 16) x)) s) ∧
  (∀ r s x, accepted 0x0303 0x10 r s = true → s.ver.round = some x → r.payload.length = 4 → (u8 r.payload 0 = 0 ∨ u8 r.payload 0 = 2) →
    rcNumBad (u8 r.payload 0) (u8 r.payload 1) = false → zeroAt r.payload 2 2 = true →
    exec (.rcDelete r) s = okNext 0x0303 r [] (setRound (stageDelete (rcOid (u8 r.payload 0) (u8 r.payload 1)) 1 x)) s) ∧
  (∀ r s x, accepted 0x0401 0x10 r s = true → s.ver.round = some x → partOk r 0 2112 = true → zeroAt r.payload 8 8 = true →
    exec (.tbPlanStage r) s = okNext 0x0401 r [] (setRound (stagePart oidPlan 2112 2 (leAt r.payload 0 4) (r.payload.drop 16) x)) s) ∧
  (∀ r s x, accepted 0x0501 0x10 r s = true → s.ver.round = some x → 1 ≤ u8 r.payload 0 → u8 r.payload 0 ≤ 64 →
    partOk r 4 8388608 = true → zeroAt r.payload 1 3 = true → zeroAt r.payload 12 4 = true →
    exec (.cpStage r) s = okNext 0x0501 r [] (setRound (stagePart (oidEns (u8 r.payload 0)) 8388608 3
      (leAt r.payload 4 4) (r.payload.drop 16) x)) s) ∧
  (∀ r s x, accepted 0x0503 0x10 r s = true → s.ver.round = some x → r.payload.length = 4 → 1 ≤ u8 r.payload 0 → u8 r.payload 0 ≤ 64 →
    zeroAt r.payload 1 3 = true →
    exec (.cpDelete r) s = okNext 0x0503 r [] (setRound (stageDelete (oidEns (u8 r.payload 0)) 3 x)) s) ∧
  (∀ r s x, accepted 0x0701 0x10 r s = true → s.ver.round = some x → u8 r.payload 0 ≤ 1 → zeroAt r.payload 1 3 = true →
    zeroAt r.payload 12 4 = true → partOk r 4 (if u8 r.payload 0 = 0 then 4194304 else 512) = true →
    exec (.scStage r) s = okNext 0x0701 r [] (setRound (x.change 4 (if u8 r.payload 0 = 0 then
        { x.objs with sc := Mem.store x.objs.sc (leAt r.payload 4 4) (r.payload.drop 16) }
      else { x.objs with
    img := mset x.objs.img oidKeyMap
        { len := 512, data := Mem.store (imgMem x.objs oidKeyMap) (leAt r.payload 4 4) (r.payload.drop 16) } }))) s) ∧
  (∀ r s x, accepted 0x0611 0x10 r s = true → s.ver.round = some x → r.payload.length = 4 → u8 r.payload 0 ≠ 0 →
    zeroAt r.payload 1 3 = true →
    exec (.modelDelete r) s = okNext 0x0611 r []
      (setRound (x.change 5 { x.objs with models := mdel x.objs.models (u8 r.payload 0) })) s)

/-- A seal that finds no fault seals its group. With a round open and an empty payload, PG_SEAL, RC_SEAL, TB_SEAL, CP_SEAL
and SC_SEAL find every needed byte written, no failing field and room in the pools, and seal groups 0 to 4 (R106,
R129, R155, R186, R323, R438). -/
def Obligations.SealsMarkTheirGroup : Prop :=
  (∀ r s x, accepted 0x0202 0x10 r s = true → s.ver.round = some x → r.payload = [] → (mget x.written oidPg).isSome = true →
    allWritten x oidPg 37632 = true → pgCheck (imgMem x.objs oidPg) = none →
    exec (.pgSeal r) s = okNext 0x0202 r [] (setRound (x.seal 0)) s) ∧
  (∀ r s x, accepted 0x0302 0x10 r s = true → s.ver.round = some x → r.payload = [] → x.unsealed 1 = false → rcWritten x = true →
    rcFirst x.objs (imgMem x.objs oidPg) = none → rcBytes x s ≤ 100663296 →
    exec (.rcSeal r) s = okNext 0x0302 r [] (setRound (x.seal 1)) s) ∧
  (∀ r s x, accepted 0x0402 0x10 r s = true → s.ver.round = some x → r.payload = [] → x.unsealed 1 = false →
    allWritten x oidPlan 2112 = true → planCheck (imgMem x.objs oidPlan) (imgMem x.objs oidPg) = none → poolsFit s x = true →
    exec (.tbSeal r) s = okNext 0x0402 r [] (setRound (x.seal 2)) s) ∧
  (∀ r s x, accepted 0x0502 0x10 r s = true → s.ver.round = some x → r.payload = [] → x.unsealed 5 = false → cpWritten x = true →
    cpFirst x.objs = none → poolsExceeded x s = false →
    exec (.cpSeal r) s = okNext 0x0502 r [] (setRound (x.seal 3)) s) ∧
  (∀ r s x, accepted 0x0702 0x10 r s = true → s.ver.round = some x → r.payload = [] → x.unsealed 4 = false → scFirst s x.objs = none →
    exec (.scSeal r) s = okNext 0x0702 r [] (setRound (x.seal 4)) s)

/-- JOB_SUBMIT, MODEL_STAGE and SC_CTL complete. JOB_SUBMIT of a valid descriptor queues the job on the instance that
MODEL and INSTANCE name, numbered by the next WORK_ID, which DETAIL returns (R31, R310); MODEL_STAGE of a container
that passes the checks of R321 and whose placement fits stages the model with its instances and the container's
SHA-256; SC_CTL reads, arms, pauses, resets and clears a context (R300). -/
def Obligations.JobAndModelCommandsComplete : Prop :=
  (∀ r s k x, accepted 0x0601 0x10 r s = true → r.payload.length = 64 → newestNum s ≠ 0 →
    pickInst s s.ver.newest.objs (u8 r.payload 0) (u8 r.payload 1) = some k → inst? s k = some x → queuedJobs s k < 1024 →
    bit (u8 r.payload 12) 7 = false → u8 r.payload 13 = 0 → zeroAt r.payload 28 12 = true → zeroAt r.payload 56 8 = true →
    (leAt r.payload 2 2 = 0xFFFF ∨ scValid s.ver.newest.objs (leAt r.payload 2 2) = true) →
    (leAt r.payload 8 4 = 0 ∨ 1000 ≤ leAt r.payload 8 4) →
    exec (.jobSubmit r) s = .next (answered 0x0601 r s.workId [] (queueJob k
      {
    desc := r.payload.take 4 ++ le 4 s.workId ++ r.payload.drop 8, wid := s.workId, version := newestNum s,
        deadline := if leAt r.payload 8 4 = 0 then 0xFFFFFFFF else deadlineOf (now s + leAt r.payload 8 4), origin := 2,
        sess := r.sess, gen := (sess s r.sess).gen } { busy 0x0601 r s with workId := (s.workId + 1) % 2 ^ 32 }))) ∧
  (∀ r s x, accepted 0x0610 0x10 r s = true → s.ver.round = some x → r.payload.length = 32 → u8 r.payload 0 ≠ 0 → u8 r.payload 1 ≤ 1 →
    zeroAt r.payload 4 4 = true → zeroAt r.payload 24 8 = true → leAt r.payload 8 8 % 32 = 0 →
    inHbm s (leAt r.payload 8 8) 64 = true → 64 ≤ leAt r.payload 16 8 → inHbm s (leAt r.payload 8 8) (leAt r.payload 16 8) = true →
    (leAt (devBytes s (leAt r.payload 8 8) 64) 0 2 = 2 ∨ leAt (devBytes s (leAt r.payload 8 8) 64) 0 2 = 3) →
    containerBad s (leAt r.payload 8 8) (leAt r.payload 16 8) (devBytes s (leAt r.payload 8 8) 64) = [] →
    firstPoison s (leAt r.payload 8 8) (leAt r.payload 16 8) = none →
    64 + 32 * leAt (devBytes s (leAt r.payload 8 8) 64) 4 4 ≤ leAt r.payload 16 8 →
    (sectsOf s (leAt r.payload 8 8)).any (sectOut s (leAt r.payload 8 8) (leAt r.payload 16 8)) = false →
    1 ≤ u8 r.payload 2 → u8 r.payload 2 ≤ 128 →
    u8 r.payload 3 + u8 r.payload 2 * leAt (devBytes s (leAt r.payload 8 8) 64) 2 2 ≤ s.nv.cores →
    u8 r.payload 2 ≤ (instNums s x (u8 r.payload 0) (u8 r.payload 2)).length →
    placeFails s x (u8 r.payload 0) (bit (u8 r.payload 1) 0) (modelOf r s [] []) = false →
    exec (.modelStage r) s = okNext 0x0610 r [] (setRound (x.change 5 { x.objs with
    models := mset x.objs.models (u8 r.payload 0)
      (modelOf r s (instNums s x (u8 r.payload 0) (u8 r.payload 2)) (sha256 (devBytes s (leAt r.payload 8 8) (leAt r.payload 16 8)))) })) s) ∧
  (∀ r s, accepted 0x0703 0x10 r s = true → r.payload.length = 8 → u8 r.payload 2 ≤ 4 → zeroAt r.payload 3 5 = true →
    (u8 r.payload 2 = 1 ∨ u8 r.payload 2 = 2 → ctxState s (leAt r.payload 0 2) ≠ 0 ∧ ctxState s (leAt r.payload 0 2) ≠ 3) →
    (u8 r.payload 2 = 3 → (ctxOf s (leAt r.payload 0 2)).inflight = 0) →
    exec (.scCtl r) s = (let i := leAt r.payload 0 2
      let x := ctxOf s i
      okNext 0x0703 r (if u8 r.payload 2 = 0 then scTpl s.ver.newest.objs i ++ ctxBytes s i else [])
        (match u8 r.payload 2 with
          | 0 => id
          | 1 => setCtx i { x with st := 1 }
          | 2 => setCtx i { x with st := 2 }
          | 3 => setCtx i { st := x.st, tick := x.tick, evt := x.evt, tickEvt := x.tickEvt, fresh := x.fresh }
          | _ => setCtx i { x with jobs := 0, late := 0, dropped := 0, skipped := 0, failed := 0, ovf := 0 }) s))

/-- The commands on cores and sync objects complete. With debug scope 0 unlocked, CORE_BRK_SET sets a breakpoint of one
core or of all, CORE_CONT lets a halted core decode on, or end the job that was to end, CORE_STATE_READ answers the
record (R296); SYNC_READ answers up to 16 records (R346); SYNC_TREE makes a hub object a tree node or frees it (R345). -/
def Obligations.CoreAndSyncCommandsComplete : Prop :=
  (∀ r s, accepted 0x0620 0x10 r s = true → r.payload.length = 16 → dbgOpen s 0 = true → u8 r.payload 2 ≤ 5 → u8 r.payload 1 ≤ 7 →
    u8 r.payload 3 < 4 → zeroAt r.payload 12 4 = true → (u8 r.payload 0 = 0xFF ∨ u8 r.payload 0 < s.nv.cores) →
    (u8 r.payload 2 = 1 → leAt r.payload 4 4 ≤ 8191) → (u8 r.payload 2 = 3 → leAt r.payload 4 4 ≤ 4095) →
    (u8 r.payload 2 = 5 → leAt r.payload 4 4 ≤ 47) →
    exec (.coreBrkSet r) s = okNext 0x0620 r [] (fun t =>
      (if u8 r.payload 0 = 0xFF then List.range s.nv.cores else [u8 r.payload 0]).foldl (fun t l =>
        setCore (physOf t l) { core t (physOf t l) with
    brks := msetD (core t (physOf t l)).brks (u8 r.payload 1)
          { kind := u8 r.payload 2, flags := u8 r.payload 3, value := leAt r.payload 4 4, count := leAt r.payload 8 4 } {} } t) t) s) ∧
  (∀ r s, accepted 0x0621 0x10 r s = true → r.payload.length = 4 → dbgOpen s 0 = true → u8 r.payload 1 ≤ 1 → zeroAt r.payload 2 2 = true →
    u8 r.payload 0 < s.nv.cores → (core s (physOf s (u8 r.payload 0))).st = 2 →
    exec (.coreCont r) s = okNext 0x0621 r [] (fun t => settle (physOf s (u8 r.payload 0)) (setCore (physOf s (u8 r.payload 0))
      { core s (physOf s (u8 r.payload 0)) with st := 1, single := u8 r.payload 1 == 1, brkHit := 0xFF } t)) s) ∧
  (∀ r s, accepted 0x0622 0x10 r s = true → r.payload.length = 4 → dbgOpen s 0 = true → zeroAt r.payload 1 3 = true →
    u8 r.payload 0 < s.nv.cores →
    exec (.coreStateRead r) s = okNext 0x0622 r (coreRecord s (physOf s (u8 r.payload 0))) id s) ∧
  (∀ r s, accepted 0x0801 0x10 r s = true → r.payload.length = 8 → u8 r.payload 0 ≤ 1 → 1 ≤ u8 r.payload 3 → u8 r.payload 3 ≤ 16 →
    zeroAt r.payload 4 4 = true → (u8 r.payload 0 = 1 → u8 r.payload 1 = 0 ∧ u8 r.payload 2 + u8 r.payload 3 ≤ 256) →
    (u8 r.payload 0 = 0 → u8 r.payload 1 < s.nv.cores ∧ u8 r.payload 2 + u8 r.payload 3 ≤ 48) →
    exec (.syncRead r) s = okNext 0x0801 r ((List.range (u8 r.payload 3)).flatMap fun i => syncRecord s
      ⟨u8 r.payload 0 == 1, if u8 r.payload 0 = 1 then 0 else physOf s (u8 r.payload 1), u8 r.payload 2 + i⟩) id s) ∧
  (∀ r s, accepted 0x0802 0x12 r s = true → r.payload.length = 8 → leAt r.payload 6 2 = 0 → u8 r.payload 1 = 0 →
    (u8 r.payload 2 = 0xFF ∨ (u8 r.payload 2 ≤ 7 ∧ bit (u8 r.payload 3) (u8 r.payload 2) = false ∧ bit s.nv.linkRetired (u8 r.payload 2) = false)) →
    u8 r.payload 3 &&& s.nv.linkRetired = 0 →
    1 ≤ leAt r.payload 4 2 + popcount (u8 r.payload 3) 8 → leAt r.payload 4 2 + popcount (u8 r.payload 3) 8 ≤ 65535 →
    freeObj s (u8 r.payload 0) = true →
    ((obj s ⟨true, 0, u8 r.payload 0⟩).owner = 0xFF ∨ (obj s ⟨true, 0, u8 r.payload 0⟩).owner = 0xF0) →
    exec (.syncTree r) s = okNext 0x0802 r [] (setObj ⟨true, 0, u8 r.payload 0⟩
      { initObj (obj s ⟨true, 0, u8 r.payload 0⟩) (2 ^ 31 + (leAt r.payload 4 2 + popcount (u8 r.payload 3) 8)) 0xF0 with
        parent := if u8 r.payload 2 = 0xFF then 0 else u8 r.payload 2 + 1, children := u8 r.payload 3 }) s) ∧
  (∀ r s, accepted 0x0802 0x12 r s = true → r.payload.length = 8 → leAt r.payload 6 2 = 0 → u8 r.payload 1 = 1 →
    zeroAt r.payload 2 4 = true → freeObj s (u8 r.payload 0) = true → (obj s ⟨true, 0, u8 r.payload 0⟩).owner = 0xF0 →
    exec (.syncTree r) s = okNext 0x0802 r [] (setObj ⟨true, 0, u8 r.payload 0⟩ {}) s)

/-- MEM_PCH_RETIRE, CH_SOURCE, CH_SET, PWR_STATE, PWR_CAP and PWR_READ complete. MEM_PCH_RETIRE of a pseudo-channel that
is not retired, in a half that has 97 left and no migration, retires it (R359, R371). CH_SOURCE selects the source,
forgets the PTP masters and returns the servo to ACQUIRING, or to FREE at the nominal rate (R378, R380: the nominal
rate is the model's choice, log entry 61). With no version live, CH_SET OP 1 steps the count and OP 0 waits for the
next 1PPS edge (R394). PWR_STATE wakes the cores at once, quiesces the running cores on the way to BANKED, or notes
the wake mask of SLEEP, whose entry follows the response (R386, R387). PWR_CAP sets the cap, the working cap keeping
its distance (R550, R552: the distance is the model's choice, log entry 62); PWR_READ answers the record of R553. -/
def Obligations.ClockPowerAndMemoryCommandsComplete : Prop :=
  (∀ r s, accepted 0x0901 0x10 r s = true → r.payload.length = 4 → leAt r.payload 2 2 = 0 → leAt r.payload 0 2 ≤ 383 →
    bit s.nv.pchRetired (leAt r.payload 0 2) = false → mget s.mem.migrate (halfOf (leAt r.payload 0 2)) = none →
    (∀ q ∈ s.mem.queued, halfOf q ≠ halfOf (leAt r.payload 0 2)) → 97 ≤ activeN s (halfOf (leAt r.payload 0 2)) →
    exec (.memPchRetire r) s = okNext 0x0901 r [] (retirePch (leAt r.payload 0 2)) s) ∧
  (∀ p s, bit s.nv.pchRetired p = false → (retirePch p s).nv = { s.nv with pchRetired := setBit s.nv.pchRetired p }) ∧
  (∀ r s, accepted 0x0A01 0x10 r s = true → r.payload.length = 16 → zeroAt r.payload 8 8 = true → u8 r.payload 0 ≤ 3 →
    u8 r.payload 1 ≤ 7 → u8 r.payload 3 ≤ 1 → (u8 r.payload 0 ≠ 3 → u8 r.payload 1 = 0) →
    (u8 r.payload 0 ≠ 2 → u8 r.payload 2 = 0 ∧ u8 r.payload 3 = 0) → (u8 r.payload 0 = 0 → toSigned 32 (leAt r.payload 4 4) = 0) →
    -10000000 ≤ toSigned 32 (leAt r.payload 4 4) → toSigned 32 (leAt r.payload 4 4) ≤ 10000000 →
    (u8 r.payload 0 = 3 → bit s.nv.linkRetired (u8 r.payload 1) = false) →
    exec (.chSource r) s = okNext 0x0A01 r [] (fun t => { t with
    ch := { s.ch with
      source := u8 r.payload 0, link := u8 r.payload 1, domain := u8 r.payload 2, profile := u8 r.payload 3,
      delayPs := toSigned 32 (leAt r.payload 4 4), st := if u8 r.payload 0 = 0 then 0 else 1, first := true, inLock := 0,
      lastCmp := now s, masters := [], adj := if u8 r.payload 0 = 0 then 0 else s.ch.adj } }) s) ∧
  (∀ r s c, accepted 0x0A02 0x10 r s = true → r.payload.length = 16 → zeroAt r.payload 1 7 = true → u8 r.payload 0 = 1 →
    verLive s = false → s.ch.setWait = none → stepped s (toSigned 64 (leAt r.payload 8 8)) = some c →
    exec (.chSet r) s = okNext 0x0A02 r [] (fun t => setCh { (stepTo c t).ch with valid := true } (stepTo c t)) s) ∧
  (∀ c s, (stepTo c s).ch.cnt = c ∧ stepTo c s = { s with ch := (stepTo c s).ch }) ∧
  (∀ r s, accepted 0x0A02 0x10 r s = true → r.payload.length = 16 → zeroAt r.payload 1 7 = true → u8 r.payload 0 = 0 →
    verLive s = false → s.ch.source = 1 → s.ch.setWait = none → leAt r.payload 8 8 * 1000000000 < 2 ^ 64 →
    exec (.chSet r) s = .next { busy 0x0A02 r s with
    ch := { s.ch with
      setWait := some { who := r.mbx, value := leAt r.payload 8 8, limit := now s + 1100000000 } } }) ∧
  (∀ r s, accepted 0x0A10 0x10 r s = true → r.payload.length = 4 → leAt r.payload 2 2 = 0 → holding s = false → s.ch.toSleep = false →
    (u8 r.payload 0 = 0 → u8 r.payload 1 = 0 → s.ch.pwr = 1 →
      exec (.pwrState r) s = okNext 0x0A10 r [] (fun t => { t with ch := { s.ch with pwr := 0 } }) s) ∧
    (u8 r.payload 0 = 1 → u8 r.payload 1 = 0 → s.ch.pwr = 0 →
      exec (.pwrState r) s = okNext 0x0A10 r [] (fun t =>
        let u := s.cores.foldl (fun u e => if e.2.st != 0 && (blk u 0 e.1).st == 0 then startQuiesce 0 e.1 none none u else u) t
        { u with ch := { u.ch with pwr := 3, toSleep := false } }) s) ∧
    (u8 r.payload 0 = 2 → u8 r.payload 1 ≠ 0 → (s.ch.pwr = 0 ∨ s.ch.pwr = 1) →
      exec (.pwrState r) s = okNext 0x0A10 r [] (fun t => { t with
        ch := { s.ch with toSleep := true, wakeMask := u8 r.payload 1, wakeCause := 0 } }) s)) ∧
  (∀ r s, accepted 0x1001 0x10 r s = true → r.payload.length = 4 → leAt r.payload 2 2 = 0 → 900 ≤ leAt r.payload 0 2 →
    leAt r.payload 0 2 ≤ 1850 →
    exec (.pwrCap r) s = okNext 0x1001 r [] (fun t => { t with
    pw := { s.pw with
      cap := leAt r.payload 0 2, work := max 900 (leAt r.payload 0 2 - (s.pw.cap - s.pw.work)) } }) s) ∧
  (∀ r s, accepted 0x1002 0x10 r s = true → r.payload = [] →
    exec (.pwrRead r) s = okNext 0x1002 r (le 4 s.pw.avg ++ le 2 s.pw.cap ++ le 2 s.pw.work ++ le 2 (tempWord (tjMax s)) ++
      le 1 ((tjMax s).elim 0 (·.1)) ++
      le 1 (b2n (!s.pw.steps.isEmpty) + 2 * b2n s.pw.floor + 4 * b2n s.flt.hot + 8 * b2n (hbmHot s)) ++ le 2 (tempWord (hbmMax s)) ++
      le 1 ((hbmMax s).elim 0 (·.1)) ++ [0] ++ ((List.range 11).flatMap fun k => le 2 (mgetD s.pw.rails k 0)) ++ zeros 2 ++
      le 8 (s.pw.energy / 1000000)) id s)

/-- CL_CHIP_ID, CL_ROUTE_SET, CL_UNRETIRE and CL_RELAY complete. CL_CHIP_ID assigns the chip id (R420); CL_ROUTE_SET
writes routing entries (R414), after which what has lost its route ends; CL_UNRETIRE takes lanes and their link from
the retired list and trains the link again (R412); CL_RELAY sends the inner command in a kind 5 frame and waits for
its response (R421). -/
def Obligations.ChainCommandsComplete : Prop :=
  (∀ r s, accepted 0x0B01 0x10 r s = true → r.payload.length = 4 → leAt r.payload 2 2 = 0 → zeroAt r.payload 2 2 = true →
    (s.chip = none ∨ s.chip = some (leAt r.payload 0 2)) →
    exec (.clChipId r) s = okNext 0x0B01 r [] (fun t => { t with chip := some (leAt r.payload 0 2) }) s) ∧
  (∀ r s, accepted 0x0B02 0x10 r s = true → r.payload.length = 8 + leAt r.payload 2 2 → zeroAt r.payload 4 4 = true →
    (∀ e ∈ r.payload.drop 8, routeOk e = true) → 1 ≤ leAt r.payload 2 2 → leAt r.payload 2 2 ≤ 4072 →
    leAt r.payload 0 2 + leAt r.payload 2 2 ≤ 65536 → s.chip.isSome = true →
    exec (.clRouteSet r) s = okNext 0x0B02 r [] (fun t => endLost { t with
    cl := { s.cl with
      route := ((r.payload.drop 8).zipIdx).foldl (fun m e => msetD m (leAt r.payload 0 2 + e.2) e.1.toNat 0xFF) s.cl.route } }) s) ∧
  (∀ r s, accepted 0x0B03 0x10 r s = true → r.payload.length = 4 → u8 r.payload 0 ≤ 7 → u8 r.payload 1 ≠ 0 → zeroAt r.payload 2 2 = true →
    mgetD s.nv.laneRetired (u8 r.payload 0) 0 &&& u8 r.payload 1 ≠ 0 →
    exec (.clUnretire r) s = okNext 0x0B03 r [] (fun t => retrainLink (u8 r.payload 0) { t with
    nv := { s.nv with
      laneRetired := msetD s.nv.laneRetired (u8 r.payload 0) (clrMask (mgetD s.nv.laneRetired (u8 r.payload 0) 0) (u8 r.payload 1)) 0,
      linkRetired := clrBit s.nv.linkRetired (u8 r.payload 0) } }) s) ∧
  (∀ r s, accepted 0x0B10 0x13 r s = true → 32 ≤ r.payload.length → r.payload.length = 32 + leAt r.payload 18 2 → u8 r.payload 2 = 0 →
    u8 r.payload 3 = 0 → leAt r.payload 4 6 = 0 → 1 ≤ leAt r.payload 10 2 → leAt r.payload 10 2 ≤ 10000 → zeroAt r.payload 12 4 = true →
    s.chip.isSome = true → leAt r.payload 0 2 ≠ chipId s → routeLost s (leAt r.payload 0 2) = false →
    exec (.clRelay r) s = .next (relaySent r (fun tag body t => sendTag (leAt r.payload 0 2) tag body t) (leAt r.payload 0 2) s)) ∧
  (∀ r s, accepted 0x0B10 0x13 r s = true → 32 ≤ r.payload.length → r.payload.length = 32 + leAt r.payload 18 2 → u8 r.payload 2 = 1 →
    1 ≤ u8 r.payload 3 → u8 r.payload 3 ≤ 15 → 1 ≤ leAt r.payload 10 2 → leAt r.payload 10 2 ≤ 10000 → zeroAt r.payload 12 4 = true →
    s.chip.isSome = true → bit s.nv.linkRetired (leAt r.payload 4 6 % 8) = false →
    exec (.clRelay r) s = .next (relaySent r (fun tag body t => sendPath (pathFrame
      (be 2 (leAt r.payload 0 2) ++ le 1 (u8 r.payload 3) ++ [0] ++ be 6 (leAt r.payload 4 6)) (tagBytes tag) body) t) 65536 s))

/-- VER_OPEN, VER_ABORT, COMMIT_AT, VER_STATUS and VER_CTL complete. VER_OPEN opens a round with the newest version's
objects and the number after the newest's, or the number given (R436); VER_ABORT discards it (R443); COMMIT_AT arms it
for an instant between 10 us and 600 s ahead (R439); VER_STATUS answers the summary, or the object records of the
newest version, of the older one, or of a round whose bearing is ready (R442); VER_CTL sets the policy, the tree and
RETAIN_MS (R445, R447). -/
def Obligations.VersionCommandsComplete : Prop :=
  (∀ r s, accepted 0x0C01 0x10 r s = true → r.payload.length = 4 → leAt r.payload 2 2 = 0 → s.ver.round = none → s.mem.ready = true →
    s.ver.older = none → (leAt r.payload 0 2 = 0 ∨ liveObjs s (leAt r.payload 0 2) = none) →
    exec (.verOpen r) s = okNext 0x0C01 r [] (fun t => { t with
    ver := { s.ver with
    round := some
      {
    num := if leAt r.payload 0 2 = 0 then (if newestNum s = 0xFFFF then 1 else newestNum s + 1) else leAt r.payload 0 2,
        objs := s.ver.newest.objs } } }) s) ∧
  (∀ r s, accepted 0x0C02 0x10 r s = true → r.payload = [] → s.ver.round.isSome = true →
    exec (.verAbort r) s = okNext 0x0C02 r [] (fun t => { t with ver := { s.ver with round := none } }) s) ∧
  (∀ r s x, accepted 0x0C03 0x10 r s = true → r.payload.length = 8 → s.ver.round = some x → now s + 10000 ≤ leAt r.payload 0 8 →
    leAt r.payload 0 8 ≤ now s + 600000000000 →
    exec (.commitAt r) s = okNext 0x0C03 r [] (setRound { x with armed := some (leAt r.payload 0 8) }) s) ∧
  (∀ r s, accepted 0x0C04 0x10 r s = true → r.payload.length = 8 → zeroAt r.payload 1 3 = true →
    (u8 r.payload 0 = 0 → exec (.verStatus r) s = okNext 0x0C04 r (verSummary s) id s) ∧
    (∀ o, ((u8 r.payload 0 = 1 ∧ o = if newestNum s = 0 then none else some s.ver.newest.objs) ∨
        (u8 r.payload 0 = 2 ∧ ∃ l, s.ver.older = some l ∧ o = some l.1.objs) ∨
        (u8 r.payload 0 = 3 ∧ ∃ x, s.ver.round = some x ∧ x.bearingReady = true ∧ o = some x.objs)) →
      ((o.elim [] objIds).length = 0 ∨ leAt r.payload 4 4 < (o.elim [] objIds).length) →
      exec (.verStatus r) s = okNext 0x0C04 r (verRecords o (leAt r.payload 4 4)) id s)) ∧
  (∀ r s, accepted 0x0C05 0x14 r s = true → r.payload.length = 8 → u8 r.payload 0 ≤ 2 → leAt r.payload 6 2 = 0 →
    (u8 r.payload 1 = 0xFF ∨ (u8 r.payload 1 ≤ 7 ∧ bit (u8 r.payload 2) (u8 r.payload 1) = false ∧ bit s.nv.linkRetired (u8 r.payload 1) = false)) →
    1 ≤ leAt r.payload 4 2 → leAt r.payload 4 2 ≤ 1000 → u8 r.payload 2 &&& s.nv.linkRetired = 0 →
    exec (.verCtl r) s = okNext 0x0C05 r [] (fun t => { t with
    ver := { s.ver with
      policy := u8 r.payload 0, parent := u8 r.payload 1, children := u8 r.payload 2, height := u8 r.payload 3, retainMs := leAt r.payload 4 2 } }) s)

/-- RST, BLK_CTL, QUIESCE_SET and RST_REMOTE complete or begin their wait. RST LEVEL 1 answers OK, LEVEL 2 asserts the
mailbox's core-reset source and waits for the cores (R481). BLK_CTL OP 0 and OP 1 begin the quiesce handshake of a
unit that is on, a trained port going to QUIESCE and an up link to its drain; OP 0 of the active helm pair first hands
over to the standby pair; on a unit that is off, OP 0 clears it and OP 1 answers at once; OP 2 brings a unit back that
is off (R486, R487). QUIESCE_SET sets the timeout (R486); RST_REMOTE sends a reset request over an up link and waits. -/
def Obligations.ResetCommandsComplete : Prop :=
  (∀ r s, accepted 0x0D01 0x10 r s = true → r.payload.length = 4 → u8 r.payload 0 = 1 → zeroAt r.payload 1 3 = true →
    exec (.rst r) s = okNext 0x0D01 r [] id s) ∧
  (∀ r s, accepted 0x0D01 0x10 r s = true → r.payload.length = 4 → u8 r.payload 0 = 2 → zeroAt r.payload 1 3 = true →
    exec (.rst r) s = .next (assertSrc 5 { busy 0x0D01 r s with sys := { s.sys with rstWait := s.sys.rstWait ++ [r.mbx] } })) ∧
  (∀ r s u i, accepted 0x0D02 0x10 r s = true → r.payload.length = 8 → zeroAt r.payload 4 4 = true → u = u8 r.payload 0 → u ≤ 5 →
    i = (if u = 0 then physOf s (leAt r.payload 2 2) else leAt r.payload 2 2) → leAt r.payload 2 2 < blkCount s u →
    (u = 0 → bit s.nv.coreRetired i = false) → (u = 1 → bit s.nv.cmpRetired i = false) → (u = 3 → bit s.nv.linkRetired i = false) →
    (blk s u i).op = none → (blk s u i).st ≠ 4 →
    (u8 r.payload 1 = 0 → u = 5 → i = s.helm.active → s.helm.standby = true → exec (.blkCtl r) s = .next (
      let t := takeover (busy 0x0D02 r s)
      setBlk 5 i { blk t 5 i with who := some r.mbx } t)) ∧
    (u8 r.payload 1 = 0 → ¬(u = 5 ∧ i = s.helm.active) → blkOff s u i = true →
      exec (.blkCtl r) s = okNext 0x0D02 r [] (clearUnit u i) s) ∧
    (u8 r.payload 1 = 0 → ¬(u = 5 ∧ i = s.helm.active) → blkOff s u i = false →
      exec (.blkCtl r) s = .next (startQuiesce u i (some 0) (some r.mbx) (
        if u = 2 ∧ trained (port s i) = true then setPort i { port s i with st := 7, since := now s } (busy 0x0D02 r s)
        else if u = 3 ∧ (link s i).st = 5 then quiesceLink i (busy 0x0D02 r s) else busy 0x0D02 r s))) ∧
    (u8 r.payload 1 = 1 → u < 4 → (u = 0 → placedOn s (leAt r.payload 2 2) = false) → blkOff s u i = true →
      exec (.blkCtl r) s = okNext 0x0D02 r [] id s) ∧
    (u8 r.payload 1 = 1 → u < 4 → (u = 0 → placedOn s (leAt r.payload 2 2) = false) → blkOff s u i = false →
      exec (.blkCtl r) s = .next (startQuiesce u i (some 1) (some r.mbx) (
        if u = 2 then clrPortEn i (busy 0x0D02 r s) else if u = 3 then clrLinkEn i (busy 0x0D02 r s) else busy 0x0D02 r s))) ∧
    (u8 r.payload 1 = 2 → u < 4 → blkOff s u i = true →
      exec (.blkCtl r) s = okNext 0x0D02 r [] (fun t =>
        if u = 2 then setPortEn i (setBlk 2 i {} t) else if u = 3 then setLinkEn i (setBlk 3 i {} t) else setBlk u i {} t) s)) ∧
  (∀ r s, accepted 0x0D03 0x10 r s = true → r.payload.length = 4 → 1 ≤ leAt r.payload 0 4 → leAt r.payload 0 4 ≤ 10000 →
    exec (.quiesceSet r) s = okNext 0x0D03 r [] (fun t => { t with sys := { s.sys with quiesceUs := leAt r.payload 0 4 } }) s) ∧
  (∀ r s c l v, accepted 0x0D04 0x10 r s = true → r.payload.length = 4 → u8 r.payload 0 ≤ 7 → zeroAt r.payload 1 3 = true →
    bit s.nv.linkRetired (u8 r.payload 0) = false → linkUp s (u8 r.payload 0) = true → s.chip.isSome = true →
    (link s (u8 r.payload 0)).partner = some (c, l, v) →
    exec (.rstRemote r) s = .next (
      let x := newTag (helmUnit s) 5 c r.seq (newestNum s) 0xFFFFFFFF 7 0 false false (busy 0x0D04 r s)
      let f := pathFrame (be 2 c ++ [1, 0] ++ be 6 (u8 r.payload 0)) (tagBytes x.1) (ctlPrefix 3 (sess s r.sess).anchored)
      enqueue (u8 r.payload 0) f { x.2 with
    cl := { x.2.cl with
        rstReqs := x.2.cl.rstReqs ++ [{ who := r.mbx, link := u8 r.payload 0, frame := f }] } }))

/-- TA_ADD, TA_REMOVE, ATTEST, CERT_READ, DBG_CHALLENGE and DBG_UNLOCK complete. TA_ADD installs a certificate in a free
slot: open sessions whose chain it ends are anchored by it, and where it is the first, the others are to close (R474,
R501). TA_REMOVE takes one away; sessions that it alone anchored are to close (R474). ATTEST answers the report with
its nonce, signed (R500), CERT_READ the certificate (R499), DBG_CHALLENGE a fresh challenge with the identity's
digest; DBG_UNLOCK of a token that meets R504 unlocks its scopes until it expires, and without a token, where the
strap allows it, all of them (R502, R504). What the cryptography answers is an operand, and signatures, challenges and
certificates are open values. -/
def Obligations.TrustCommandsComplete : Prop :=
  (∀ r s k, accepted 0x0D10 0x10 r s = true → k = u8 r.payload 0 → r.payload.length = 8 + leAt r.payload 4 2 → k ≤ 7 → 1 ≤ leAt r.payload 4 2 →
    leAt r.payload 4 2 ≤ 1024 → r.cr.sigOk = true → u8 r.payload 1 < 2 → leAt r.payload 2 2 = 0 → leAt r.payload 6 2 = 0 →
    mget s.nv.anchors k = none → (s.nv.anchors = [] ∨ (sess s r.sess).anchored = true) →
    ∃ u, exec (.taAdd r) s = okNext 0x0D10 r [] (fun t => { u with nv := { t.nv with anchors := mset s.nv.anchors k (u8 r.payload 1, r.payload.drop 8) } }) s ∧
      u = { busy 0x0D10 r s with helm := { (busy 0x0D10 r s).helm with sess := u.helm.sess } } ∧
      ∀ i, sess u i = if i < 4 ∧ (sess s i).opened = true then
          (if bit r.cr.chain i then { sess s i with anchors := setBit (sess s i).anchors k, anchored := true }
           else if s.nv.anchors = [] then { sess s i with doomed := true } else sess s i)
        else sess s i) ∧
  (∀ r s k, accepted 0x0D11 0x10 r s = true → k = u8 r.payload 0 → r.payload.length = 4 → k ≤ 7 → zeroAt r.payload 1 3 = true →
    (mget s.nv.anchors k).isSome = true →
    ∃ u, exec (.taRemove r) s = okNext 0x0D11 r [] (fun t => { u with nv := { t.nv with anchors := mdel s.nv.anchors k } }) s ∧
      u = { busy 0x0D11 r s with helm := { (busy 0x0D11 r s).helm with sess := u.helm.sess } } ∧
      ∀ i, sess u i = if i < 4 ∧ (sess s i).opened = true ∧ bit (sess s i).anchors k = true then
          { sess s i with anchors := clrBit (sess s i).anchors k, doomed := (sess s i).doomed || clrBit (sess s i).anchors k == 0 }
        else sess s i) ∧
  (∀ r s b, accepted 0x0D20 0x10 r s = true → r.payload.length = 40 → zeroAt r.payload 34 6 = true →
    (modelEntries s = [] ∨ leAt r.payload 32 2 < (modelEntries s).length) → b = attestBody s (r.payload.take 32) (leAt r.payload 32 2) →
    exec (.attest r) s = okNext 0x0D20 r (b ++ padTo 64 (Config.signature (Config.attestKey s.sys.fwDigest) b s.free))
      (fun t => { t with free := s.free + 1 }) s ∧
    sub b 16 32 = r.payload.take 32 ∧ leAt b 8 8 = now s % 2 ^ 64) ∧
  (∀ r s, accepted 0x0D21 0x10 r s = true → r.payload = [] →
    exec (.certRead r) s = okNext 0x0D21 r (Config.certificate.take 1024) id s) ∧
  (∀ r s, accepted 0x0D30 0x10 r s = true → r.payload = [] →
    exec (.dbgChallenge r) s = okNext 0x0D30 r (padTo 32 (Config.entropy s.free) ++ idHash) (fun t => { t with
      free := s.free + 1, sys := { s.sys with challenge := some (padTo 32 (Config.entropy s.free), now s) } }) s) ∧
  (∀ r s i, accepted 0x0D31 0x10 r s = true → 116 ≤ r.payload.length → r.payload.length = 116 + leAt r.payload 48 2 →
    1 ≤ leAt r.payload 48 2 → leAt r.payload 48 2 ≤ 1024 → 1 ≤ leAt r.payload 40 4 → leAt r.payload 40 4 ≤ 7 → zeroAt r.payload 44 4 = true →
    leAt r.payload 50 2 = 0 → s.sys.challenge = some (r.payload.take 32, i) → now s ≤ i + 60000000000 → now s < leAt r.payload 32 8 →
    r.cr.sigOk = true → debugRoot s r.cr.chain = true → (sess s r.sess).anchored = true →
    exec (.dbgUnlock r) s = okNext 0x0D31 r [] (fun t => unlockDebug (leAt r.payload 40 4) (some (leAt r.payload 32 8)) false
      { t with sys := { s.sys with challenge := none } }) s) ∧
  (∀ r s, accepted 0x0D31 0x10 r s = true → r.payload = [] → dbgFree s = true → (sess s r.sess).anchored = true →
    exec (.dbgUnlock r) s = okNext 0x0D31 r [] (unlockDebug 7 none true) s)

/-- The firmware, fault-ring and observation commands complete. FW_LOAD writes the load buffer; FW_INSTALL OP 0 of a
verified image writes the slot that is not ACTIVE and marks it PENDING, OP 1 in boot ROM mode starts it; FW_CONFIRM
marks the running slot, if any, ACTIVE and raises the rollback counter (R496 to R498). FLT_RING_READ answers records
and may set RD (R506); OBS_CORE_READ answers the record and may clear it (R525); LOG_CTL drains a logbook and gives it
its types and destination, or flushes or stops it (R526); DUMP_ARM arms or clears a slot (R532); HV_ARM arms, cancels
or resumes a heave-to, HV_READ reads the capture (R536, R540). -/
def Obligations.FirmwareAndObservationCommandsComplete : Prop :=
  (∀ r s, accepted 0x0D40 0x10 r s = true → partOk r 0 4194304 = true → zeroAt r.payload 8 8 = true → leAt r.payload 0 4 ≠ 0 →
    exec (.fwLoad r) s = okNext 0x0D40 r [] (fun t => { t with
    sys := { s.sys with
      load := Mem.store s.sys.load (leAt r.payload 0 4) (r.payload.drop 16),
      loaded := (List.range ((r.payload.drop 16).length / 32)).foldl (fun m k => setBit m (leAt r.payload 0 4 / 32 + k)) s.sys.loaded } }) s) ∧
  (∀ r s, accepted 0x0D40 0x10 r s = true → partOk r 0 4194304 = true → zeroAt r.payload 8 8 = true → leAt r.payload 0 4 = 0 →
    exec (.fwLoad r) s = okNext 0x0D40 r [] (fun t => { t with
    sys := { s.sys with
      load := Mem.store [] 0 (r.payload.drop 16),
      loaded := (List.range ((r.payload.drop 16).length / 32)).foldl (fun m k => setBit m k) 0 } }) s) ∧
  (∀ r s, accepted 0x0D41 0x10 r s = true → r.payload.length = 4 → zeroAt r.payload 1 3 = true → imageFault s.sys.load = none →
    loadedAll s (128 + Mem.leAt s.sys.load 16 4) = true → r.cr.sigOk = true → s.nv.rollback ≤ Mem.leAt s.sys.load 12 4 →
    (u8 r.payload 0 = 0 → (s.sys.boot = 2 ∨ s.sys.boot = 3 ∨ s.sys.boot = 4) →
      exec (.fwInstall r) s = okNext 0x0D41 r [] (fun t => { t with
    nv := { s.nv with
        slots := mset s.nv.slots (if s.nv.active = some 0 then 1 else 0) {
    len := 128 + Mem.leAt s.sys.load 16 4,
          data := s.sys.load.filter fun e => e.1 < 128 + Mem.leAt s.sys.load 16 4 },
        pending := some (if s.nv.active = some 0 then 1 else 0) } }) s) ∧
    (u8 r.payload 0 = 1 → s.sys.boot ≠ 2 →
      exec (.fwInstall r) s = okNext 0x0D41 r [] (startFw s.sys.load none) s)) ∧
  (∀ r s, accepted 0x0D42 0x10 r s = true → r.payload = [] → ((∃ k, s.sys.fwSlot = some k ∧ s.nv.active ≠ some k) ∨ s.nv.rollback < s.sys.svn) →
    exec (.fwConfirm r) s = okNext 0x0D42 r [] (fun t => { t with
    nv := { s.nv with
      active := if s.sys.fwSlot = none then s.nv.active else s.sys.fwSlot, rollback := max s.nv.rollback s.sys.svn } }) s) ∧
  (∀ r s, accepted 0x0E02 0x10 r s = true → r.payload.length = 4 → u8 r.payload 3 < 2 → leAt r.payload 0 2 ≤ 4095 → 1 ≤ u8 r.payload 2 →
    u8 r.payload 2 ≤ 127 →
    exec (.fltRingRead r) s = okNext 0x0E02 r ((List.range (u8 r.payload 2)).flatMap fun i =>
        match mget s.flt.ring ((leAt r.payload 0 2 + i) % 4096) with
        | some f => fltBytes f
        | none => zeros 32)
      (fun t => if u8 r.payload 3 = 1 then { t with flt := { s.flt with rd := (leAt r.payload 0 2 + u8 r.payload 2) % 4096 } } else t) s) ∧
  (∀ r s, accepted 0x0F01 0x10 r s = true → r.payload.length = 4 → u8 r.payload 1 < 2 → leAt r.payload 2 2 = 0 → zeroAt r.payload 2 2 = true →
    u8 r.payload 0 < s.nv.cores →
    exec (.obsCoreRead r) s = okNext 0x0F01 r (utilRecord s (physOf s (u8 r.payload 0)))
      (fun t => if u8 r.payload 1 = 1 then utilClear (physOf s (u8 r.payload 0)) t else t) s) ∧
  (∀ r s k, accepted 0x0F02 0x10 r s = true → r.payload.length = 24 → k = u8 r.payload 0 → k ≤ 0x81 → (0x80 ≤ k ∨ k < s.nv.cores) → u8 r.payload 17 = 0 →
    ((u8 r.payload 1 = 1 ∨ u8 r.payload 1 = 2) → zeroAt r.payload 2 22 = true →
      exec (.logCtl r) s = okNext 0x0F02 r [] (setLog k { logbook s k with
        flush := true, types := if u8 r.payload 1 = 2 then 0 else (logbook s k).types }) s) ∧
    (u8 r.payload 1 = 0 → u8 r.payload 6 ≤ 1 → logTypesBad k (leAt r.payload 2 2) = false → u8 r.payload 4 ≤ 20 → u8 r.payload 5 ≤ 24 →
      (k < 0x80 → u8 r.payload 4 = 0 ∧ u8 r.payload 5 = 0) →
      (u8 r.payload 6 = 0 → u8 r.payload 7 = 0 ∧ zeroAt r.payload 20 4 = true ∧ leAt r.payload 8 8 % 32 = 0 ∧ 16 ≤ u8 r.payload 16 ∧
        u8 r.payload 16 ≤ 32 ∧ (leAt r.payload 18 2 = chipId s → openHbm s (leAt r.payload 8 8) (2 ^ u8 r.payload 16) = true)) →
      (u8 r.payload 6 = 1 → zeroAt r.payload 8 12 = true ∧ u8 r.payload 7 ≤ 3 ∧ (sess s (u8 r.payload 7)).opened = true) →
      exec (.logCtl r) s = okNext 0x0F02 r [] (fun t =>
        let u := drainLog k t
        setLog k { logbook u k with
          types := leAt r.payload 2 2, sample := u8 r.payload 4, mark := u8 r.payload 5, brixvia := u8 r.payload 6 == 1, sess := u8 r.payload 7,
          gen := (sess u (u8 r.payload 7)).gen, addr := leAt r.payload 8 8, size := u8 r.payload 16, chip := leAt r.payload 18 2,
          xid := leAt r.payload 20 4, wr := 0, flush := false } u) s)) ∧
  (∀ r s, accepted 0x0F10 0x10 r s = true → r.payload.length = 32 → u8 r.payload 2 = 0 → u8 r.payload 1 ≤ 3 → u8 r.payload 3 = 0 →
    leAt r.payload 14 2 = 0 → leAt r.payload 28 4 = 0 → leAt r.payload 16 8 % 32 = 0 → leAt r.payload 24 4 % 32 = 0 →
    u8 r.payload 0 < s.nv.cores → leAt r.payload 12 2 ≠ 0 → 64 ≤ leAt r.payload 24 4 → leAt r.payload 24 4 ≤ 2097184 →
    openHbm s (leAt r.payload 16 8) (leAt r.payload 12 2 * leAt r.payload 24 4) = true → dbgOpen s 0 = true →
    mget (core s (physOf s (u8 r.payload 0))).dumps (u8 r.payload 1) = none →
    exec (.dumpArm r) s = okNext 0x0F10 r [] (setCore (physOf s (u8 r.payload 0)) { core s (physOf s (u8 r.payload 0)) with
      dumps := mset (core s (physOf s (u8 r.payload 0))).dumps (u8 r.payload 1) {
    symbol := leAt r.payload 4 4, step := leAt r.payload 8 4,
        count := leAt r.payload 12 2, addr := leAt r.payload 16 8, bytes := leAt r.payload 24 4 } }) s) ∧
  (∀ r s p, accepted 0x0F10 0x10 r s = true → r.payload.length = 32 → u8 r.payload 2 = 1 → u8 r.payload 1 ≤ 3 → zeroAt r.payload 3 29 = true →
    u8 r.payload 0 < s.nv.cores → dbgOpen s 0 = true → p = physOf s (u8 r.payload 0) → (mget (core s p).dumps (u8 r.payload 1)).isSome = true →
    exec (.dumpArm r) s = okNext 0x0F10 r [] (setCore p { core s p with dumps := mdel (core s p).dumps (u8 r.payload 1) }) s) ∧
  (∀ r s, accepted 0x0F20 0x10 r s = true → r.payload.length = 16 → zeroAt r.payload 1 3 = true → dbgOpen s 1 = true →
    (u8 r.payload 0 = 0 → s.hv.st = 0 → s.ch.pwr ≠ 1 → now s + 10000 ≤ leAt r.payload 8 8 → leAt r.payload 8 8 ≤ now s + 600000000000 →
      exec (.hvArm r) s = okNext 0x0F20 r [] (fun t => { t with
    hv := { s.hv with
        st := 1, t := leAt r.payload 8 8, armNum := leAt r.payload 4 4 } }) s) ∧
    (u8 r.payload 0 = 1 → leAt r.payload 4 4 = 0 → leAt r.payload 8 8 = 0 → s.hv.st = 1 →
      exec (.hvArm r) s = okNext 0x0F20 r [] (fun t => { t with hv := { s.hv with st := 0 } }) s) ∧
    (u8 r.payload 0 = 2 → leAt r.payload 4 4 = 0 → s.hv.st = 2 → now s + 10000 ≤ leAt r.payload 8 8 →
      leAt r.payload 8 8 ≤ now s + 600000000000 →
      exec (.hvArm r) s = okNext 0x0F20 r [] (fun t => { t with hv := { s.hv with st := 3, r := leAt r.payload 8 8 } }) s)) ∧
  (∀ r s b, accepted 0x0F21 0x10 r s = true → r.payload.length = 12 → u8 r.payload 0 ≤ 4 → u8 r.payload 1 = 0 → dbgOpen s 1 = true →
    holding s = true → hvRecord s (u8 r.payload 0) (leAt r.payload 2 2) = some b → leAt r.payload 4 4 < b.length →
    1 ≤ leAt r.payload 8 4 → leAt r.payload 8 4 ≤ 4064 →
    exec (.hvRead r) s = okNext 0x0F21 r (sub b (leAt r.payload 4 4) (leAt r.payload 8 4)) id s)

/-- A table command starts its unit, runs and publishes its results at completion. A write of GO to an idle unit's control
register takes ARG, KEY and DATA as they stand, makes the unit BUSY and runs READ, WRITE, INSERT, DELETE, SEARCH or
AGE_SCAN; TBL_CMD_COMPLETE publishes STATUS, DETAIL and results and sets DONE; a write to a BUSY unit is discarded and
sets COLLIDE, but for the status register's own clear bits (R149). -/
def Obligations.TableCommandsStart : Prop :=
  (∀ u v s, u < 4 → bit v 31 = true → (tunit s u).busy = false →
    (v % 16 = 1 → exec (.tblRead u v) s = .next (tblTaken u v s)) ∧ (v % 16 = 2 → exec (.tblWrite u v) s = .next (tblTaken u v s)) ∧
    (v % 16 = 3 → exec (.tblInsert u v) s = .next (tblTaken u v s)) ∧ (v % 16 = 4 → exec (.tblDelete u v) s = .next (tblTaken u v s)) ∧
    (v % 16 = 5 → exec (.tblSearch u v) s = .next (tblTaken u v s)) ∧ (v % 16 = 6 → exec (.tblAgeScan u v) s = .next (tblTaken u v s))) ∧
  (∀ u s r, frozen s = false → (tunit s u).busy = true → (tunit s u).run = some r →
    exec (.tblCmdComplete u) s = .next (setTunit u { tunit s u with
    busy := false, done := true, status := r.status,
      detail := r.detail % 2 ^ 32, data := r.data.getD (tunit s u).data, run := none } s)) ∧
  (∀ u off v s, u < 4 → (tunit s u).busy = true → exec (.tblRegCollide u off v) s = .next (setTunit u (if off = 4
    then { tunit s u with done := (tunit s u).done && !bit v 1, collide := (tunit s u).collide && !bit v 2 }
    else { tunit s u with collide := true }) s))

/-- What a table operation reads, writes and leaves alone. READ and SEARCH change nothing; WRITE and DELETE of a live
prefix or exact table are refused with STATE and change nothing (R150); an operation that the unit does not have is
refused with BAD_FIELD (R149); READ of a learning or flow entry answers its bytes; WRITE of a VALID exact entry and
DELETE of one change the open round only (R46, R437). Every table operation leaves everything but the open round, the
learning table, the dies' flow records, failure marks, counters and their flags as it was. -/
def Obligations.TableOperationsKeepTheirKind : Prop :=
  (∀ c s, c.op = 1 ∨ c.op = 5 → (tblRun c s).2 = s) ∧
  (∀ c s, c.u < 2 → c.view = false → opRejected c.u c.op = false → c.table ≤ 1 → tblReserved c = false → (c.op = 2 ∨ c.op = 3 ∨ c.op = 4) →
    tblRun c s = ({ status := 9 }, s)) ∧
  (∀ c s, opRejected c.u c.op = true → tblRun c s = ({ status := 3 }, s)) ∧
  (∀ c s, c.u = 2 → c.op = 1 → c.table = 0 → c.view = false → c.arg < 2 ^ 20 →
    tblRun c s = ({ status := 0, data := tblData c (lentBytes (learnEnt s (c.arg / 4) (c.arg % 4))) }, s)) ∧
  (∀ c s, c.u = 3 → c.op = 1 → c.table = 0 → c.view = false → c.arg < 2 ^ 27 →
    tblRun c s = ({ status := 0, data := tblData c (frecBytes (flowRec (die s c.die) c.arg)) }, s)) ∧
  (∀ c s r, c.u = 1 → c.op = 2 → c.table ≤ 7 → c.view = true → s.ver.round = some r → c.arg ≤ 65535 → tblReserved c = false →
    tblRun c s = ({ status := 0 }, setRound { r.change 2 { r.objs with
    exact :=
        if bit c.data 0 then mset r.objs.exact (65536 * c.table + c.arg) (le 32 c.data) else mdel r.objs.exact (65536 * c.table + c.arg) } with
      exactW := sadd r.exactW (65536 * c.table + c.arg) } s)) ∧
  (∀ c s r, c.u = 1 → c.op = 4 → c.table ≤ 7 → c.view = true → s.ver.round = some r → c.arg ≤ 65535 →
    tblRun c s = ({ status := 0 }, setRound { r.change 2 { r.objs with exact := mdel r.objs.exact (65536 * c.table + c.arg) } with
      exactW := sadd r.exactW (65536 * c.table + c.arg) } s)) ∧
  (∀ c s, ∃ r l d f k o, (tblRun c s).2 = { s with ver := { s.ver with round := r }, learn := l, dies := d, failed := f, ctrs := k, ovf := o })

/-- Doorbells, DONE bits, heave-to control and the debug lock. A doorbell of an open session rings the mailboxes of its
mask in ascending order with the requests in their areas, and one ring of an idle mailbox queues its request behind
the earlier ones (R459, R460, R461); a DONE bit written 1 makes its mailbox IDLE; ARM, RESUME and CANCEL of
CW_HEAVE_CTL act with debug scope 1 (R455, R536); LOCK of CW_DBG ends the unlock (R504). -/
def Obligations.WindowCommandsComplete : Prop :=
  (∀ i mask s, i < 4 → helmUp s = true → (sess s i).opened = true → exec (.cwMbxDbRing i mask) s = .next (ringMask i mask s)) ∧
  (∀ i m s, i < 4 → m < 32 → helmUp s = true → (sess s i).opened = true → (mbx s m).st ≠ 1 → (mbx s m).st ≠ 2 → (mbx s m).resp = none →
    exec (.cwMbxDbRing i (2 ^ m)) s = .next (setMbx m { mbx s m with
      st := 1, sess := i, gen := (sess s i).gen, rq := some (areaRq s m), ticket := s.helm.ticket + 1, ready := none,
      seq := (areaRq s m).seq, last := i, stalled := false } { s with helm := { s.helm with ticket := s.helm.ticket + 1 } })) ∧
  (∀ mask s, helmUp s = true → ∃ t, exec (.cwMbxDoneClear mask) s = .next t ∧ t = { s with helm := { s.helm with mbx := t.helm.mbx } } ∧
    ∀ m, mbx t m = (if (mbx s m).st = 3 ∧ bit mask m = true then { mbx s m with st := 0 } else mbx s m)) ∧
  (∀ s, helmUp s = true → dbgOpen s 1 = true →
    (s.hv.st = 0 → s.ch.pwr ≠ 1 → exec .heaveCtlArm s = .next { s with
    hv := { s.hv with
      st := 1, t := s.hv.tReg, armNum := (s.hv.num + 1) % 2 ^ 32 } }) ∧
    (s.hv.st = 2 → exec .heaveCtlResume s = .next { s with hv := { s.hv with st := 3, r := now s } }) ∧
    (s.hv.st = 1 → exec .heaveCtlCancel s = .next { s with hv := { s.hv with st := 0 } })) ∧
  (∀ s, helmUp s = true → exec .cwDbgLock s = .next { s with sys := { s.sys with dbg := 0, dbgExp := none } })

/-- Enabling and disabling slice ports and chain links. EN of a slice port that is not the unused half of a two-lane group
is set, and the port trains where a version is live; cleared, a trained port quiesces and any other is IDLE at once
and INLINE_OK may rise (R80, R82); the width of a group changes while both its ports are off, and the odd port takes
its reset values (R83). EN of a chain link is set, and an idle link trains unless it is retired; cleared, a link that
is up quiesces and one in training is IDLE at once (R430, R404). -/
def Obligations.PortAndLinkControls : Prop :=
  (∀ q s, q < 64 → down s = false → unusedPort s q = false → (port s q).en = false →
    exec (.spPortEnable q) s = .next (if (port s q).st = 0 ∧ newestNum s ≠ 0
      then setPort q { port s q with en := true, st := 1, ver := 0, since := now s, retryAt := none, offer := none } s
      else setPort q { port s q with en := true } s)) ∧
  (∀ q s, q < 64 → down s = false → (port s q).en = true →
    exec (.spPortDisable q) s = .next (if 5 ≤ (port s q).st
      then startQuiesce 2 q (blk s 2 q).op (blk s 2 q).who (setPort q { port s q with en := false, st := 7, since := now s } s)
      else inlineRise (setPort q { port s q with en := false, st := 0, ver := 0, offer := none, retryAt := none } s))) ∧
  (∀ q two s, q < 64 → down s = false → q % 2 = 0 → (port s q).en = false → (port s (q + 1)).en = false → (port s q).width ≠ two →
    exec (.spPortWidthSet q two) s = .next (clearPortCtrs (q + 1) (setPort (q + 1) {} (setPort q { port s q with width := two } s)))) ∧
  (∀ n s, n < 8 → helmUp s = true → (link s n).en = false → (link s n).st = 0 →
    exec (.clLinkEnable n) s = .next (setLink n { link s n with
      en := true, st := if bit s.nv.linkRetired n then 7 else if fwUp s then 1 else 0, ver := 0, fast := false, since := now s,
      retryAt := none, offer := none } s)) ∧
  (∀ n s, n < 8 → helmUp s = true → (link s n).en = true → 1 ≤ (link s n).st → (link s n).st ≤ 4 →
    exec (.clLinkDisable n) s = .next (setLink n { link s n with en := false, st := 0, ver := 0, offer := none, retryAt := none } s)) ∧
  (∀ n s, n < 8 → helmUp s = true → (link s n).en = true → (link s n).st = 5 →
    exec (.clLinkDisable n) s = .next (quiesceLink n (setLink n { link s n with en := false } s)))

/-- Register reads, writes and counter clears. A read of a 64-bit register's low word latches the other half and the
fraction for its accessor, and any other read changes nothing (R9); a write of a mapped register by an open session
has that register's effect (R10), as CW_APERTURE, the fault ring's read index and the alarm's pending bits show; a
unit of the chip and the JTAG port reach the registers through the window and its aperture (R452, R454); writing 0 to
a counter clears it and its overflow flag (R14). -/
def Obligations.RegisterAccessesComplete : Prop :=
  (∀ acc off s v f, acc < 4 → helmUp s = true → (sess s acc).opened = true → mapped s off = true → wide s off = some (v, f) →
    exec (.lowWordReadLatch acc off) s = .next { s with latch := mset s.latch (latchKey acc off) (v / 2 ^ 32, f) }) ∧
  (∀ acc off s, acc < 4 → helmUp s = true → (sess s acc).opened = true → (mapped s off = false ∨ wide s off = none) →
    exec (.lowWordReadLatch acc off) s = .next s) ∧
  (∀ acc off v s, acc < 4 → helmUp s = true → (sess s acc).opened = true → mapped s off = true →
    exec (.registerWrite acc off v) s = .next (regWrite acc off (v % 2 ^ 32) s)) ∧
  (∀ acc v s, acc < 4 → helmUp s = true → (sess s acc).opened = true →
    exec (.registerWrite acc 0x30 v) s = .next { s with helm := { s.helm with page := v % 512 } } ∧
    exec (.registerWrite acc 0x4C v) s = .next { s with flt := { s.flt with rd := v % 4096 } } ∧
    exec (.registerWrite acc (baseFlt + 4) v) s = .next { s with flt := { s.flt with pend := clrMask s.flt.pend (v % 256) } }) ∧
  (∀ acc off v s, 4 ≤ acc → accUp s acc = true →
    (∀ o w f, windowOff s off = some o → mapped s o = true → wide s o = some (w, f) →
      exec (.lowWordReadLatch acc off) s = .next { s with latch := mset s.latch (latchKey acc o) (w / 2 ^ 32, f) }) ∧
    (∀ o, windowOff s off = some o → mapped s o = true → exec (.registerWrite acc off v) s = .next (regWrite acc o (v % 2 ^ 32) s)) ∧
    (windowOff s off = none → exec (.lowWordReadLatch acc off) s = .next s ∧ exec (.registerWrite acc off v) s = .next s)) ∧
  (∀ off o s, down s = false → ctrAt off = some (.lo o) →
    exec (.counterClear off) s = .next { s with ctrs := if pinCtr o then msetD s.ctrs o (now s) 0 else mdel s.ctrs o }) ∧
  (∀ off o r b s, down s = false → ctrAt off = some (.err o (some (r, b))) →
    exec (.counterClear off) s = .next { s with ctrs := mdel s.ctrs o, ovf := msetD s.ovf r (clrBit (mgetD s.ovf r 0) b) 0 })

/-- A queued request starts when its turn comes, and its response is kept and sent. A QUEUED request whose fences are
open, in a mailbox whose session is the one that rang, runs its command once the checks of R463 pass; one that a check
refuses answers that status and has no effect. A BUSY mailbox whose response is ready becomes DONE and counts the
command; the response goes to the session that rang while it is open (R459); a session without it gets nothing. A
mailbox with no response ready is left as it was. -/
def Obligations.MailboxesStartAndComplete : Prop :=
  (∀ m cr s q, m < 32 → helmUp s = true → (mbx s m).st = 1 → fenceOpen s m = true → (mbx s m).rq = some q →
    (sess s (mbx s m).sess).opened = true → (sess s (mbx s m).sess).gen = (mbx s m).gen →
    (holding s = false ∨ islandOps.contains q.op = false) →
    (reqChecks s (sess s (mbx s m).sess).ifv (sess s (mbx s m).sess).anchored q = none →
      exec (.mbxStart m cr) s = .next (
        let t := setMbx m { mbx s m with st := 2, ready := none, stalled := false } s
        let x := handlerOf q.op {
    who := m, sess := (mbx s m).sess, gen := (mbx s m).gen, ifv := (sess s (mbx s m).sess).ifv,
                                  anchored := (sess s (mbx s m).sess).anchored, seq := q.seq, p := q.payload, cr := cr } t
        if x.waits then x.s
        else setMbx m { mbx x.s m with
          ready := some { op := q.op, seq := q.seq, status := x.status, detail := x.detail, payload := x.out } } x.s)) ∧
    (∀ n, reqChecks s (sess s (mbx s m).sess).ifv (sess s (mbx s m).sess).anchored q = some n →
      exec (.mbxStart m cr) s = .next (setMbx m { mbx s m with
        st := 2, ready := some { op := q.op, seq := q.seq, status := n }, stalled := false } s))) ∧
  (∀ m s a, helmUp s = true → (mbx s m).st = 2 → (mbx s m).ready = some a → (mbx s m).rq = none →
    exec (.mbxComplete m) s = .next (
      let t := countCmd a.status (setMbx m { mbx s m with st := 3, resp := some a, ready := none } s)
      if (sess s (mbx s m).sess).opened && (sess s (mbx s m).sess).gen == (mbx s m).gen then sendResp m (mbx s m).sess 0 a t else t)) ∧
  (∀ m s a q, helmUp s = true → (mbx s m).st = 2 → (mbx s m).ready = some a → (mbx s m).rq = some q → a.status ≠ 0 →
    exec (.mbxComplete m) s = .next (
      let t := countCmd a.status (setMbx m { mbx s m with st := 3, resp := some a, ready := none } s)
      if (sess s (mbx s m).sess).opened && (sess s (mbx s m).sess).gen == (mbx s m).gen then sendResp m (mbx s m).sess 0 a t else t)) ∧
  (∀ m s a q, helmUp s = true → (mbx s m).st = 2 → (mbx s m).ready = some a → (mbx s m).rq = some q → a.status = 0 →
    exec (.mbxComplete m) s = .next (
      let t := countCmd a.status (setMbx m { mbx s m with st := 3, resp := some a, ready := none } s)
      afterCmd q.op q.payload (if (sess s (mbx s m).sess).opened && (sess s (mbx s m).sess).gen == (mbx s m).gen
        then sendResp m (mbx s m).sess 0 a t else t))) ∧
  (∀ m s, helmUp s = true → (mbx s m).ready = none → exec (.mbxComplete m) s = .next s)

/-- What the frames of an open session do. An authentic frame has its packet number, port and acknowledgement taken (R471,
R472); MBX_WRITE in sequence writes its mailbox's area and rings with bit 0, and meets a busy mailbox as a collision
(R459), MBX_READ answers the stored response or EMPTY, BULK_WRITE stores its bytes in HBM and answers BULK_STATUS on
the last frame, BULK_READ opens a transfer whose data leaves while the window has room (R476), CLOSE is acknowledged
and closes the session (R475, R477). ACK and KEEPALIVE only acknowledge, after which bulk reads go on. A duplicate
sequenced frame is acknowledged again and has no other effect; a frame on a port that is off does nothing. -/
def Obligations.BrixviaFramesComplete : Prop :=
  (∀ f s, inSequence f s = true → 8 ≤ f.body.length → u8 f.body 0 ≤ 31 → u8 f.body 1 ≤ 1 → zeroAt f.body 2 2 = true → zeroAt f.body 6 2 = true →
    beAt f.body 4 2 + (f.body.drop 8).length ≤ 4096 → beAt f.body 4 2 < 4096 →
    exec (.mbxWrite f) s = .next (
      let t := sequenced f s
      let m := u8 f.body 0
      let w := setMbx m { mbx t m with area := Mem.store (mbx t m).area (beAt f.body 4 2) (f.body.drop 8) } t
      if (mbx t m).st = 1 ∨ (mbx t m).st = 2 then
        if u8 f.body 1 = 1 then ringMbx m f.sess (areaRq w m) t
        else errc 0x314 0x32C 1 1 { t with helm := { t.helm with collide := setBit t.helm.collide m } }
      else if u8 f.body 1 = 1 then ringMbx m f.sess (areaRq w m) w else w)) ∧
  (∀ f s, inSequence f s = true → f.body.length = 8 → u8 f.body 0 ≤ 31 → zeroAt f.body 1 7 = true →
    exec (.mbxRead f) s = .next (sendResp (u8 f.body 0) f.sess 0
      ((mbx (sequenced f s) (u8 f.body 0)).resp.getD { op := 0, seq := 0, status := 13 }) (sequenced f s))) ∧
  (∀ f s, inSequence f s = true → 16 ≤ f.body.length → f.body.length ≤ 8192 → zeroAt f.body 4 4 = true → beAt f.body 8 8 % 32 = 0 →
    ((f.body.drop 16).length % 32 = 0 ∨ bit f.flags 0 = true) →
    (∀ b, bulkOf (sequenced f s) f.sess (beAt f.body 0 4) = some b → b.ended = false ∧ b.reading = false) →
    bulkBar (sequenced f s) f.sess = none →
    holding (sequenced f s) = false → hbmHeld s (beAt f.body 8 8) (f.body.length - 16) = false →
    openHbm (sequenced f s) (beAt f.body 8 8) (f.body.drop 16).length = true →
    exec (.bulkWrite f) s = .next (
      let t := hbmWrite (beAt f.body 8 8) (f.body.drop 16) (sequenced f s)
      let x := sess t f.sess
      let rest := x.bulk.filter (·.xid != beAt f.body 0 4)
      if bit f.flags 0 then sendSeq f.sess 0x23 0 (be 4 (beAt f.body 0 4) ++ zeros 12) (setSess f.sess { x with bulk := rest } t)
      else setSess f.sess { x with bulk := rest ++ [{ xid := beAt f.body 0 4, reading := false }] } t)) ∧
  (∀ f s, inSequence f s = true → f.body.length = 24 → zeroAt f.body 4 4 = true → beAt f.body 8 8 % 32 = 0 →
    bulkOf (sequenced f s) f.sess (beAt f.body 0 4) = none → bulkBar (sequenced f s) f.sess = none →
    1 ≤ beAt f.body 16 8 → beAt f.body 16 8 ≤ 2 ^ 32 →
    (inMem (sequenced f s) (beAt f.body 8 8) (beAt f.body 16 8) || inTbl (beAt f.body 8 8) (beAt f.body 16 8)) = true →
    exec (.bulkRead f) s = .next (
      let t := sequenced f s
      let x := sess t f.sess
      pumpBulk 4096 f.sess (setSess f.sess { x with
        bulk := x.bulk ++ [{ xid := beAt f.body 0 4, reading := true, addr := beAt f.body 8 8, left := beAt f.body 16 8 }] } t))) ∧
  (∀ f s, frameOk f s = true → exec (.bxAck f) s = .next (pumpBulk 4096 f.sess (heardFrame f s)) ∧
    exec (.keepalive f) s = .next (pumpBulk 4096 f.sess (heardFrame f s))) ∧
  (∀ f s, inSequence f s = true → exec (.close f) s = .next (closeSess f.sess (sendPlain f.sess 0x40 [] (sequenced f s)))) ∧
  (∀ f s, frameOk f s = true → (sess (heardFrame f s) f.sess).opened = true → hbmHeld s (beAt f.body 8 8) (f.body.length - 16) = false →
    2 ^ 31 ≤ (f.fseq + 2 ^ 32 - (sess (heardFrame f s) f.sess).fseqRx) % 2 ^ 32 →
    ∀ c ∈ [Instr.mbxWrite f, .mbxRead f, .bulkWrite f, .bulkRead f, .close f], exec c s = .next (setSess f.sess
      { sess (heardFrame f s) f.sess with ackDue := some ((sess (heardFrame f s) f.sess).ackDue.getD (now (heardFrame f s))) }
      (heardFrame f s))) ∧
  (∀ f s, portUp s f.port = false → ∀ c ∈ [Instr.mbxWrite f, .mbxRead f, .bulkWrite f, .bulkRead f, .close f], exec c s = .next s)

/-- What sessions do in time. After 250 us without an advance of FACK the unacknowledged frames leave again, counted
(R472); the acknowledgement that is due leaves; KEEPALIVE leaves once a millisecond on every port that has light; a
session without a frame for 100 ms closes (R475); an unfinished handshake is dropped after 100 ms (R473); the active
port switches to one that is fit (R475), and a servo on PTP whose port it changes is ACQUIRING again (R379); the
oldest event leaves, numbered (R468). -/
def Obligations.SessionTimersComplete : Prop :=
  (∀ i s, helmUp s = true → (sess s i).opened = true → (sess s i).ackT + 250000 ≤ now s → (sess s i).unacked ≠ [] →
    exec (.bxRetxTimeout i) s = .next (errc 0x320 0x32C 4 (sess s i).unacked.length ((sess s i).unacked.foldl
      (fun s f => frameOut i f.type f.flags f.fseq f.body s) (setSess i { sess s i with ackT := now s } s)))) ∧
  (∀ i s, helmUp s = true → (sess s i).opened = true → (sess s i).ackDue.isSome = true → (sess s i).pnTx + 1 < 2 ^ 48 →
    exec (.bxAckSend i) s = .next (setSess i { sess s i with pnTx := (sess s i).pnTx + 1, ackDue := none }
      (emit (.bx (sess s i).port i 0x40 0 (sess s i).pnTx 0 (sess s i).fseqRx []) s))) ∧
  (∀ s, helmUp s = true → exec .keepaliveSend s = .next ((List.range 4).foldl (fun s i =>
    if (sess s i).opened = true ∧ (sess s i).kept + 1000000 ≤ now s + 1
    then keepOn i 1 (keepOn i 0 (setSess i { sess s i with kept := now s + 1 } s)) else s) s)) ∧
  (∀ i s, helmUp s = true → (sess s i).opened = true → (∀ e ∈ (sess s i).heard, e.2 + 100000000 ≤ now s) →
    exec (.sessionIdleTimeout i) s = .next (sendClose i 2 s)) ∧
  (∀ i s, exec (.handshakeTimeout i) s = .next { s with
    helm := { s.helm with
    hs := s.helm.hs.filter fun h => h.sess != i || decide (now s < h.start + 100000000) } }) ∧
  (∀ i s, helmUp s = true → (sess s i).opened = true → portFit s (sess s i) (sess s i).port = false →
    portFit s (sess s i) (1 - (sess s i).port) = true →
    exec (.activePortSwitch i) s = .next (
      let t := setSess i { sess s i with port := 1 - (sess s i).port } s
      if ptpPort t ≠ ptpPort s ∧ s.ch.source = 2 ∧ s.ch.st ≠ 0 then setCh { s.ch with st := 1, inLock := 0, masters := [] } t else t)) ∧
  (∀ i s e l, helmUp s = true → (sess s i).opened = true → (sess s i).events = e :: l → (sess s i).unacked.length < 4096 →
    (sess s i).waiting = [] →
    exec (.eventFrameSend i) s = .next (perf 0x308 1 (txSeq i 0x30 0
      (le 2 e.type ++ le 2 e.body.length ++ le 4 (sess s i).eseq ++ le 8 e.stamp ++ le 2 (chipId s) ++
        le 1 (b2n (sess s i).lostBefore + 2 * b2n s.chip.isSome) ++ zeros 5 ++ e.body)
      (setSess i { sess s i with events := l, eseq := ((sess s i).eseq + 1) % 2 ^ 32, lostBefore := false } s))))

/-- Handshakes and PTP messages. HS_INIT on a port that is on, with the identity proved and a free session index, answers
HS_RESP and keeps the handshake (R473); HS_FIN of a chain that the anchors accept, or of any where none is installed,
opens the session, with the latches of its index gone, and acknowledges (R473, R474); HS_FIN without a handshake of
the last 100 ms is discarded and counted. Of the PTP messages of the selected domain and profile a peer-delay request
is answered, an Announce is remembered with its dataset, a Sync of the master that is followed asks for the delay and
steps the servo where it completes a comparison, and one of another master or with no comparison does nothing (R379). -/
def Obligations.HandshakesAndTimeComplete : Prop :=
  (∀ port body s i, portUp s port = true → s.sys.idOk = true → body.length = 100 → zeroAt body 97 3 = true →
    freeSess s = some i → ((bxPort s port).inits.filter fun t => now s < t + 1000000000).length < 16 →
    exec (.hsInit port body) s = .next (
      let head := padTo 97 (Config.entropy s.free) ++ le 1 i ++ be 2 (Config.certificate.take 1024).length
      let resp := head ++ padTo 64 (Config.signature idKey (sha256 (body ++ head)) s.free) ++ Config.certificate.take 1024
      let t := setBxPort port { bxPort s port with
        inits := now s :: (bxPort s port).inits.filter fun t => now s < t + 1000000000 } s
      emit (.bx port i 0x02 0 0 0 0 resp) { t with
        free := s.free + 1
        helm := { t.helm with
    hs := (s.helm.hs.filter (·.sess != i)) ++
          [{ port := port, start := now s, sess := i, init := body, resp := resp }] } })) ∧
  (∀ port i body peer cr s mine, portUp s port = true →
    (s.helm.hs.any fun h => h.sess == i && decide (now s < h.start + 100000000)) = true → body.length = 68 + beAt body 0 2 →
    1 ≤ beAt body 0 2 → beAt body 0 2 ≤ 1024 → zeroAt body 2 2 = true → cr.sigOk = true →
    mine = (s.nv.anchors.map (·.1)).foldl (fun a k => if bit cr.chain k then setBit a k else a) 0 →
    (s.nv.anchors = [] ∨ mine ≠ 0) → (sess s i).opened = false →
    exec (.hsFin port i body peer cr) s = .next (sendPlain i 0x40 [] (setSess i
      {
    opened := true, gen := s.helm.gens + 1, port := port, peer := peer % 2 ^ 32, anchored := mine != 0, anchors := mine,
        heard := [(port, now s)] }
      { s with
        helm := { s.helm with hs := s.helm.hs.filter (·.sess != i), gens := s.helm.gens + 1 }
        latch := s.latch.filter fun e => e.1 / 2 ^ 24 != i }))) ∧
  (∀ port i body peer cr s, portUp s port = true → (∀ h ∈ s.helm.hs, h.sess = i → h.start + 100000000 ≤ now s) →
    exec (.hsFin port i body peer cr) s = .next (errc 0x324 0x32C 5 1 s)) ∧
  (∀ port m s, portUp s port = true → port = ptpPort s → s.ch.source = 2 → m.barred = false → m.domain = s.ch.domain →
    (m.kind = .pdelayReq → s.ch.profile = 1 →
      exec (.ptpMessage port m) s = .next (emit (.ptp port .pdelayRespFollowUp) (emit (.ptp port .pdelayResp) s))) ∧
    (∀ d, m.kind = .announce → m.ds = some d → exec (.ptpMessage port m) s = .next (setCh { s.ch with
      masters := (mastersNow s).filter (·.src != m.src) ++ [{ src := m.src, ds := d, till := now s + m.ttl }] } s)) ∧
    ((m.kind = .sync ∨ m.kind = .followUp) → followed s ≠ some m.src → exec (.ptpMessage port m) s = .next s) ∧
    (m.kind = .sync → followed s = some m.src → m.off = none →
      exec (.ptpMessage port m) s = .next (emit (.ptp port (if s.ch.profile = 1 then .pdelayReq else .delayReq)) s)) ∧
    (∀ o, m.kind = .sync → followed s = some m.src → m.off = some o → servoUp s = true → exec (.ptpMessage port m) s =
      .next (refCompare o (emit (.ptp port (if s.ch.profile = 1 then .pdelayReq else .delayReq)) s))) ∧
    (∀ o, m.kind = .followUp → followed s = some m.src → m.off = some o → servoUp s = true →
      exec (.ptpMessage port m) s = .next (refCompare o s)) ∧
    (m.kind = .delayResp → s.ch.profile = 0 → exec (.ptpMessage port m) s = .next s) ∧
    ((m.kind = .pdelayResp ∨ m.kind = .pdelayRespFollowUp) → s.ch.profile = 1 → exec (.ptpMessage port m) s = .next s)) ∧
  (∀ port m s, portUp s port = true → (port ≠ ptpPort s ∨ s.ch.source ≠ 2 ∨ m.barred = true ∨ m.domain ≠ s.ch.domain ∨ m.kind = .other) →
    exec (.ptpMessage port m) s = .next (errc 0x324 0x32C 5 1 s))

/-- The helm pairs: lockstep stops, takeover, watchdog and self-test. A stop of the active pair with a standby stops the
helm until HELM_TAKEOVER, which makes the other pair active; without a standby it is a watchdog expiry, which asserts
its reset source (R449, R450, R481); a stop of the standby pair leaves no standby. WATCHDOG_EXPIRY stops the active
pair. STANDBY_SELF_TEST sets whether a standby is there. -/
def Obligations.HelmPairsComplete : Prop :=
  (∀ i s, i < 2 → s.sys.rom = true → s.sys.level < 2 → s.ch.pwr ≠ 2 →
    (i = s.helm.active → s.helm.standby = true →
      exec (.helmLockstepStop i) s = .next { s with helm := { s.helm with stopped := true } }) ∧
    (i = s.helm.active → s.helm.standby = false → exec (.helmLockstepStop i) s = .next (assertSrc 6 s)) ∧
    (i ≠ s.helm.active → exec (.helmLockstepStop i) s = .next { s with helm := { s.helm with standby := false } })) ∧
  (∀ s, fwUp s = true → s.ch.pwr ≠ 2 →
    (s.helm.standby = true → exec .watchdogExpiry s = .next { s with helm := { s.helm with stopped := true } }) ∧
    (s.helm.standby = false → exec .watchdogExpiry s = .next (assertSrc 6 s))) ∧
  (∀ s, s.helm.stopped = true → s.helm.standby = true → s.sys.level < 2 → exec .helmTakeover s = .next (takeover s)) ∧
  (∀ pass s, fwUp s = true → s.helm.heldPair = none → (blk s 5 (1 - s.helm.active)).st = 0 →
    exec (.standbySelfTest pass) s = .next { s with
      helm := { s.helm with standby := pass }
      flt := { s.flt with noStandby := !pass } })

/-- Words that arrive on a slice port. Words act one after another (R52), and wait for the resume while a heave-to holds
the packet side (R383, R537); a CREDIT word adds verdict and result credits to a trained port (R64), RESYNC ends a
loss of framing (R55), a slice-data word without a credit is discarded, counted, and framing is lost (R65), and one
after the loss of framing is discarded, its words kept for their credits (R55, R64); a reserved type is counted and
has no other effect; an IDLE word has none. In offer and accept TRAIN counts (R67), data and what has no meaning are
counted, and no word has an effect before. -/
def Obligations.SlicePortWordsComplete : Prop :=
  (∀ q ws s, holding s = true →
    exec (.sliceArrival q ws) s = .next (setPort q { port s q with held := (port s q).held ++ ws } s)) ∧
  (∀ q s, holding s = false → exec (.sliceArrival q []) s = .next s) ∧
  (∀ q w ws s, holding s = false → exec (.sliceArrival q (w :: ws)) s = .next (ws.foldl (rxWord q) (rxWord q s w))) ∧
  (∀ q w s, holding s = false → trained (port s q) = true → w.ty = 0 → u8 w.data 0 = 0 → exec (.sliceArrival q [w]) s = .next s) ∧
  (∀ q w s, holding s = false → trained (port s q) = true → (w.ty = 2 ∨ w.ty = 3) →
    exec (.sliceArrival q [w]) s = .next (spErr q 1 1 s)) ∧
  (∀ q w s, holding s = false → trained (port s q) = true → w.ty = 1 → (port s q).dcred = 0 →
    exec (.sliceArrival q [w]) s = .next (loseFraming q (spErr q 2 1 s))) ∧
  (∀ q w s, holding s = false → trained (port s q) = true → w.ty = 1 → 0 < (port s q).dcred →
    ((port s q).st ≠ 6 → (port s q).lost = false →
      exec (.sliceArrival q [w]) s = .next (cutSlices q 66 (setPort q { port s q with
        dcred := (port s q).dcred - 1, rxWords := (port s q).rxWords + 1, buf := (port s q).buf ++ padTo 64 w.data,
        bufT := if (port s q).buf = [] then now256 s else (port s q).bufT } s))) ∧
    ((port s q).st = 6 ∨ (port s q).lost = true →
      exec (.sliceArrival q [w]) s = .next (holdWords q ((port s q).rxWords + 1) (setPort q { port s q with
        dcred := (port s q).dcred - 1, rxWords := (port s q).rxWords + 1 } s)))) ∧
  (∀ q w s, holding s = false → (port s q).st < 3 → exec (.sliceArrival q [w]) s = .next s) ∧
  (∀ q w s, holding s = false → ((port s q).st = 3 ∨ (port s q).st = 4) →
    (w.ty = 1 → exec (.sliceArrival q [w]) s = .next (spErr q 2 1 s)) ∧
    ((w.ty = 2 ∨ w.ty = 3 ∨ w.ty = 0 ∧ 5 < u8 w.data 0) → exec (.sliceArrival q [w]) s = .next (spErr q 1 1 s)) ∧
    (w.ty = 0 → u8 w.data 0 = 2 → exec (.sliceArrival q [w]) s = .next (rxTrain q w.data s)) ∧
    (w.ty = 0 → u8 w.data 0 ≤ 5 → u8 w.data 0 ≠ 2 → exec (.sliceArrival q [w]) s = .next s)) ∧
  (∀ q w s, holding s = false → trained (port s q) = true → u8 w 0 = 5 →
    exec (.resync q w) s = .next (setPort q { port s q with st := if (port s q).st = 6 then 5 else (port s q).st, lost := false, buf := [] } s)) ∧
  (∀ q w s, holding s = false → trained (port s q) = true → u8 w 0 = 1 →
    exec (.spCredit q w) s = .next (setPort q { port s q with
      vcred := (port s q).vcred + beAt w 2 2, rcred := (port s q).rcred + beAt w 4 2 } s))

/-- The steps of slice-port training. Lane lock moves a port from step 1 to 2, codeword lock to 3 with the port's offer
(R67); the switch's offer answers step 4 with the agreed version, and its agreement makes the port trained, with its
credits; another version or lane count fails the attempt. A step past its limit fails, and after 100 ms training
starts again; a port that loses lock gives up what it holds and trains again while it is enabled (R68). TIME leaves
each trained port once in each period (R63). A port that a heave-to holds does none of it (R383). -/
def Obligations.SlicePortTrainingCompletes : Prop :=
  (∀ q fast s, frozen s = false → (port s q).retryAt = none → (port s q).st = 1 →
    exec (.spLaneLock q fast false) s = .next (setPort q { port s q with st := 2, fast := fast, since := now s } s)) ∧
  (∀ q fast s, frozen s = false → (port s q).retryAt = none → (port s q).st = 2 →
    exec (.spLaneLock q fast true) s = .next (sendTrain q 1 (port s q).maxVer (setPort q { port s q with st := 3, since := now s } s))) ∧
  (∀ q w s, holding s = false → (port s q).retryAt = none → (port s q).st = 3 → u8 w 0 = 2 → u8 w 1 = 1 →
    exec (.spTrain q w) s = .next (if u8 w 3 = lanes s q ∧ negotiate (port s q) (u8 w 2) ≠ 0
      then sendTrain q 2 (negotiate (port s q) (u8 w 2)) (setPort q { port s q with
        st := 4, offer := some (u8 w 2, beAt w 4 2, beAt w 6 2), swStamps := bit (u8 w 8) 0, since := now s } s)
      else trainFail q s)) ∧
  (∀ q w s o v r, holding s = false → (port s q).retryAt = none → (port s q).st = 4 → u8 w 0 = 2 → u8 w 1 = 2 → (port s q).offer = some (o, v, r) →
    exec (.spTrain q w) s = .next (if u8 w 2 = negotiate (port s q) o
      then inlineRise (setPort q { port s q with
        st := 5, ver := u8 w 2, buf := [], rxWords := 0, freed := 0, dcred := dataGrant s q, vcred := v, rcred := r,
        retryAt := none, timeSent := 0 } s)
      else trainFail q s)) ∧
  (∀ q s, frozen s = false → 1 ≤ (port s q).st → (port s q).st ≤ 4 → (port s q).retryAt = none →
    (port s q).since + (if (port s q).st = 1 then 40000000 else 1000000) < now s →
    exec (.spTrainTimeout q) s = .next (trainFail q s)) ∧
  (∀ q s t, frozen s = false → (port s q).retryAt = some t → t ≤ now s →
    exec (.spTrainRetry q) s = .next (setPort q { port s q with st := 1, ver := 0, since := now s, retryAt := none, offer := none } s)) ∧
  (∀ q s, frozen s = false → trained (port s q) = true → exec (.spLockLoss q) s = .next (portDown q (if (port s q).en then 1 else 0) s)) ∧
  (∀ s, frozen s = false → exec .spTimeSend s = .next ((List.range 64).foldl (fun s q => sendTime q s) s)) ∧
  (∀ q s, trained (port s q) = true → (port s q).timeSent < now s / 2 ^ 20 + 1 →
    sendTime q s = ctlWord q ([0x03] ++ zeros 7 ++ be 8 (now s) ++ be 1 (now256 s % 256))
      (setPort q { port s q with timeSent := now s / 2 ^ 20 + 1 } s)) ∧
  (∀ q fast codeword s, frozen s = true → exec (.spLaneLock q fast codeword) s = .next s ∧ exec (.spTrainTimeout q) s = .next s ∧
    exec (.spTrainRetry q) s = .next s ∧ exec (.spLockLoss q) s = .next s ∧ exec .spTimeSend s = .next s)

/-- The steps of a slice: parsed, looked up, evaluated, composed. A pipeline takes its oldest slice and leaves it parsed
(R87, R96); a slice whose parity fails in its pipeline receives its fallback and goes no further (R511). The lookup
leaves the slice with its results, to be scored or composed, its identity kept (R134); the compass unit evaluates one
block, the first as the later ones, and, after the last, scores it (R177); the composer places the verdict and drops
the slice (R122). -/
def Obligations.SlicesPassThePacketSide : Prop :=
  (∀ n s q seq x l, frozen s = false → (pipe s n).queue = (q, seq) :: l → slice? s q seq = some x → x.q = q → x.seq = seq →
    ∃ t, exec (.parseWalk n false) s = .next t ∧ slice? t q seq = some (walkSlice s x).1) ∧
  (∀ n parity s, frozen s = false → (pipe s n).queue = [] → exec (.parseWalk n parity) s = .next s) ∧
  (∀ n s q seq x l, frozen s = false → mwf s.slices = true → (pipe s n).queue = (q, seq) :: l → slice? s q seq = some x → x.q = q →
    x.seq = seq → ∃ t, exec (.parseWalk n true) s = .next t ∧ slice? t q seq = none) ∧
  (∀ q seq pf s x, frozen s = false → slice? s q seq = some x → x.stage = 1 → x.q = q → x.seq = seq →
    ∃ t y, exec (.sliceLookup q seq pf) s = .next t ∧ slice? t q seq = some y ∧ (y.stage = 3 ∨ y.stage = 4) ∧
      y.version = x.version ∧ y.sliceId = x.sliceId ∧ y.dl = x.dl ∧ y.data = x.data ∧ y.kv = x.kv ∧ y.err = x.err) ∧
  (∀ u q seq s x, frozen s = false → slice? s q seq = some x → x.stage = 3 → x.q = q → x.seq = seq → x.blk = 0 → u / 16 = q / 32 →
    cmpRuns s u = true → reentryDue s u = false →
    ∀ pf bad, ∃ t y, exec (.compassBlockEval u (.slice q seq) pf bad) s = .next t ∧ slice? t q seq = some y ∧ y.blk = 1 ∧ y.unit = u ∧
      y.codes = sliceCodes (imgMem (objsOf s x.version) oidPg) (imgMem (objsOf s x.version) (oidEns x.lk.ens)) x ∧
      (y.blk = ensBlocks (imgMem (objsOf s x.version) (oidEns x.lk.ens)) →
        y.stage = 4 ∧ y.score = some (linkScore (ensLink (imgMem (objsOf s x.version) (oidEns x.lk.ens))) y.sums))) ∧
  (∀ u q seq pf bad s x, frozen s = false → slice? s q seq = some x → x.stage = 3 → x.q = q → x.seq = seq → x.blk ≠ 0 → u / 16 = q / 32 →
    cmpTakes s u x.unit = true →
    ∃ t y, exec (.compassBlockEval u (.slice q seq) pf bad) s = .next t ∧ slice? t q seq = some y ∧ y.blk = x.blk + 1 ∧ y.unit = u ∧
      y.codes = x.codes ∧ (y.blk = ensBlocks (imgMem (objsOf s x.version) (oidEns x.lk.ens)) →
        y.stage = 4 ∧ y.score = some (linkScore (ensLink (imgMem (objsOf s x.version) (oidEns x.lk.ens))) y.sums))) ∧
  (∀ q seq pf s x, frozen s = false → mwf s.slices = true → slice? s q seq = some x → x.stage = 4 → x.q = q → x.seq = seq →
    ∃ t, exec (.verdictCompose q seq pf) s = .next t ∧ slice? t q seq = none ∧
      (x.fb = false → (port t q).pend = (port s q).pend.map fun e =>
        if e.seq == seq && e.ready.isNone then { e with ready := some (composeVerdict s x pf).1 } else e))

/-- Fallbacks, verdict words and result frames. No fallback is taken before a slice's instant (R74); at the instant of the
oldest pending slice without a verdict it receives its class's fallback, with DEADLINE_MISS. Up to four leading ready
verdicts leave in one word for one credit, in slice order, and leave the port's list (R65, R70, R71); a slice without
its verdict holds back those behind it. The words of the oldest result frame leave as far as their credits go, stamped
as it begins, and the rest of it follows (R60, R64). A stopped port sends nothing. -/
def Obligations.VerdictsLeaveInOrder : Prop :=
  (∀ q s, frozen s = false → (∀ e ∈ (port s q).pend, 10 * now256 s < e.fInst) →
    exec (.fallbackInstant q) s = .next (setPort q (port s q) s)) ∧
  (∀ q s e l, frozen s = false → (port s q).pend = e :: l → e.ready = none → e.fInst ≤ 10 * now256 s →
    (∀ x ∈ l, 10 * now256 s < x.fInst) →
    ∃ t, exec (.fallbackInstant q) s = .next t ∧ (port t q).pend = { e with ready := some (fallbackBytes s q e) } :: l) ∧
  (∀ q s, frozen s = false → s.inlineOk = true → trained (port s q) = true → 1 ≤ (port s q).vcred → leadingReady 4 (port s q).pend ≠ [] →
    ∃ t, exec (.verdictWordSend q) s = .next t ∧
      .word q 2 (padTo 64 (leadingReady 4 (port s q).pend).flatten) ∈ t.out ∧
      (port t q).vcred = (port s q).vcred - 1 ∧ (port t q).pend = (port s q).pend.drop (leadingReady 4 (port s q).pend).length) ∧
  (∀ q s, (frozen s = true ∨ leadingReady 4 (port s q).pend = [] ∨ (port s q).vcred = 0) → exec (.verdictWordSend q) s = .next s) ∧
  (∀ q s f l b n, frozen s = false → s.inlineOk = true → trained (port s q) = true → 0 < (port s q).rcred →
    ((port s q).resTx = [] ∧ (port s q).results = f :: l ∧ b = f.take 16 ++ be 8 (now s) ++ f.drop 24 ∨
      (port s q).resTx ≠ [] ∧ (port s q).results = l ∧ b = (port s q).resTx) → n = min (wordsOf b.length) (port s q).rcred →
    exec (.resultFrameSend q) s = .next ((wordList n b).foldl (fun s w => emit (.word q 1 w) s)
      (setPort q { port s q with results := l, resTx := b.drop (64 * n), rcred := (port s q).rcred - n } s))) ∧
  (∀ q s, (frozen s = true ∨ s.inlineOk = false ∨ (port s q).rcred = 0) → exec (.resultFrameSend q) s = .next s)

/-- Learning events, aging, flow fetches and repairs. A forwarded learning event is judged by the bucket's owner (R141): a
known station on its port has its second refreshed, one that moved is relearned unless it is static, counted, and a
new one takes a free way. The aging sweep runs once a second per die and invalidates what is older than AGE_S (R142).
A bucket read from HBM updates the record that holds the tag, or a new one in the way that a new record takes (R146).
A repaired entry loses its failure mark, a compass entry in every unit (R174), and a failed repair is counted; a
flow-cache line has no shadow to be repaired from (R153). -/
def Obligations.LearningAndFlowsComplete : Prop :=
  (∀ d s e l, frozen s = false → (die s d).learnQ = e :: l →
    exec (.learnEventForward d) s = .next (ownerLearn d e (setDie d { die s d with learnQ := l } s))) ∧
  (∀ d e s w, findWay s d (learnBucket e.mac e.vlan) e.mac e.vlan [] = some w →
    (learnEnt s (learnBucket e.mac e.vlan) w).port = e.port →
    ownerLearn d e s = setLearn (learnBucket e.mac e.vlan) w { learnEnt s (learnBucket e.mac e.vlan) w with
      lastSec := laterSec (learnEnt s (learnBucket e.mac e.vlan) w).lastSec e.sec } s) ∧
  (∀ d e s w, findWay s d (learnBucket e.mac e.vlan) e.mac e.vlan [] = some w →
    (learnEnt s (learnBucket e.mac e.vlan) w).port ≠ e.port → (learnEnt s (learnBucket e.mac e.vlan) w).static = true →
    ownerLearn d e s = tblErr d 0 1 s) ∧
  (∀ d s, frozen s = false → (die s d).swept ≤ nowSec s → ageS s ≠ 0 →
    exec (.learnAgeSweep d) s = .next (
      let t := setDie d { die s d with swept := nowSec s + 1 } s
      let r := ageLearn (fun b => b % 2 == d) (ageS s) t
      perf (tblCtr d + 0x20) r.1.length r.2)) ∧
  (∀ d s, frozen s = false → (die s d).swept ≤ nowSec s → ageS s = 0 →
    exec (.learnAgeSweep d) s = .next (setDie d { die s d with swept := nowSec s + 1 } s)) ∧
  (∀ d s, frozen s = false → nowSec s < (die s d).swept → exec (.learnAgeSweep d) s = .next s) ∧
  (∀ d b g s m i, frozen s = false → (die s d).misses.find? (fun m => m.bucket == b && m.tag == g) = some m →
    ((List.range 4).map fun w => 4 * b + w).find? (fun i => (flowRec (die s d) i).tag == g && !flowFree (flowRec (die s d) i)) = some i →
    ∃ t, exec (.flowFetchReturn d b g 0) s = .next t ∧
      (die t d).misses = (die s d).misses.filter (fun m => !(m.bucket == b && m.tag == g)) ∧
      die t d = putLine i (m.upd.foldl (fun r u => flowUpdate u r) (flowRec (die s d) i)) false
        { die s d with misses := (die s d).misses.filter fun m => !(m.bucket == b && m.tag == g) }) ∧
  (∀ d b g s m i e y, frozen s = false → (die s d).misses.find? (fun m => m.bucket == b && m.tag == g) = some m →
    y = { die s d with misses := (die s d).misses.filter fun m => !(m.bucket == b && m.tag == g) } →
    ((List.range 4).map fun w => 4 * b + w).find? (fun i => (flowRec y i).tag == g && !flowFree (flowRec y i)) = none →
    newWay y b (fun _ => false) = some (i, e) →
    ∃ t, exec (.flowFetchReturn d b g 0) s = .next t ∧
      die t d = putLine i (m.upd.foldl (fun r u => flowUpdate u r)
        { tag := g, srefV := (m.upd.head?.bind (·.sref)).isSome, sref := (m.upd.head?.bind (·.sref)).getD 0 }) false
        (if e then { y with cache := mdel y.cache i, flows := mdel y.flows i } else y)) ∧
  (∀ d b g poison s, frozen s = false → (die s d).misses.find? (fun m => m.bucket == b && m.tag == g) = none →
    exec (.flowFetchReturn d b g poison) s = .next s) ∧
  (∀ place r s, frozen s = false → (s.failed.any fun e => e.place == place && e.ref == r) = true →
    (∀ e o, r = .comp e o → exec (.tableRepair place r true) s = .next { s with failed := s.failed.filter fun e => e.ref != r }) ∧
    ((∀ e o, r ≠ .comp e o) → (∀ i, r ≠ .flow i) → exec (.tableRepair place r true) s = .next { s with
      failed := s.failed.filter fun e => !(e.place == place && e.ref == r) }) ∧
    ((∀ i, r ≠ .flow i) → exec (.tableRepair place r false) s = .next (tblErr (if place < 2 then place else (place - 2) / 16) 6 1 s)) ∧
    (∀ i ok, r = .flow i → exec (.tableRepair place r ok) s = .next s)) ∧
  (∀ place r ok s, (s.failed.any fun e => e.place == place && e.ref == r) = false → exec (.tableRepair place r ok) s = .next s)

/-- The words of the control core. At a legal word with its registers ready, NOP, SETK, ADDK, ALU, BR, LOOP, STEPI and
GETJ do what R264 says, PSAFE asks for the saved context where pre-emption is requested (R293), BRK halts the core
(R296), WAITQ goes on once the queues that it names hold nothing earlier, ISSUE places its instruction at the tail of
its queue (R268, R269); each decodes one word more and changes nothing outside its core. An ISSUE of a full queue
waits, and one of an illegal instruction is reported (R268, R291). A word that needs a pending register waits (R265);
an illegal word, or none, is reported and ends the job (R291). -/
def Obligations.ControlWordsComplete : Prop :=
  (∀ p w s, atWord s p w = true → bits w 63 56 = 0x00 → exec (.nop p) s = .next (decodedTo p (nextPc (core s p)) s)) ∧
  (∀ p w s, atWord s p w = true → bits w 63 56 = 0x02 →
    exec (.setk p) s = .next (decodedTo p (nextPc (setK (bits w 55 52) (sext64 48 (bits w 47 0)) (core s p))) s)) ∧
  (∀ p w s, atWord s p w = true → bits w 63 56 = 0x03 →
    exec (.addk p) s = .next (decodedTo p (nextPc (setK (bits w 55 52)
      (kreg (core s p) (bits w 51 48) + sext64 32 (bits w 31 0)) (core s p))) s)) ∧
  (∀ p w s, atWord s p w = true → bits w 63 56 = 0x04 →
    exec (.alu p) s = .next (decodedTo p (nextPc (setK (bits w 55 52)
      (alu64 (bits w 43 40) (kreg (core s p) (bits w 51 48)) (kreg (core s p) (bits w 47 44))) (core s p))) s)) ∧
  (∀ p w s, atWord s p w = true → bits w 63 56 = 0x08 →
    exec (.br p) s = .next (decodedTo p { core s p with
      pc := if brCond (bits w 47 45) (kreg (core s p) (bits w 55 52)) (kreg (core s p) (bits w 51 48)) then bits w 12 0
        else ((core s p).pc + 1) % 8192 } s)) ∧
  (∀ p w s, atWord s p w = true → bits w 63 56 = 0x09 →
    exec (.loopK p) s = .next (decodedTo p (
      let v := (kreg (core s p) (bits w 55 52) + 2 ^ 64 - 1) % 2 ^ 64
      let c := setK (bits w 55 52) v (core s p)
      if v = 0 then nextPc c else { c with pc := bits w 12 0 }) s)) ∧
  (∀ p w s, atWord s p w = true → bits w 63 56 = 0x13 →
    exec (.stepi p) s = .next (decodedTo p (nextPc { core s p with step := ((core s p).step + 1) % 2 ^ 32 }) s)) ∧
  (∀ p w s, atWord s p w = true → bits w 63 56 = 0x15 →
    exec (.getj p) s = .next (decodedTo p (nextPc (setK (bits w 55 52) (jobField s p (bits w 7 0)) (core s p))) s)) ∧
  (∀ p w s, atWord s p w = true → bits w 63 56 = 0x12 →
    exec (.psafe p) s = .next (decodedTo p (if (core s p).preempt ∧ (core s p).open_ = false then { nextPc (core s p) with st := 3 }
      else nextPc (core s p)) s)) ∧
  (∀ p w s, atWord s p w = true → bits w 63 56 = 0x19 →
    exec (.brk p) s = .next (decodedTo p { nextPc (core s p) with halting := true, brkHit := 0xFF } s)) ∧
  (∀ p w s, atWord s p w = true → bits w 63 56 = 0x14 → earlierLive (core s p) (bits w 14 0) (core s p).ord = false →
    exec (.waitq p) s = .next (decodedTo p (nextPc (core s p)) s)) ∧
  (∀ p w s, atWord s p w = true → bits w 63 56 = 0x14 → earlierLive (core s p) (bits w 14 0) (core s p).ord = true →
    exec (.waitq p) s = .next (looked p s)) ∧
  (∀ p w s g a b e, atWord s p w = true → bits w 63 56 = 0x01 → (core s p).prog = some g → g.tpl[bits w 55 44]? = some a →
    patch a (bits w 43 37) (kreg (core s p)) = some b → patch b (bits w 36 30) (kreg (core s p)) = some e →
    legalEi (bit (core s p).mode 0) (core s p).open_ e = true → (queueAt (core s p) (eiQueue e)).length < queueDepth (eiQueue e) →
    exec (.issue p) s = .next (decodedTo p (nextPc (takeTickets w e (bits w 55 44) (core s p))) s)) ∧
  (∀ p w s g a b e, atWord s p w = true → bits w 63 56 = 0x01 → (core s p).prog = some g → g.tpl[bits w 55 44]? = some a →
    patch a (bits w 43 37) (kreg (core s p)) = some b → patch b (bits w 36 30) (kreg (core s p)) = some e →
    (legalEi (bit (core s p).mode 0) (core s p).open_ e = false →
      exec (.issue p) s = .next (decoded p (illegal p (core s p).pc (bits w 55 44) w e (looked p s)))) ∧
    (legalEi (bit (core s p).mode 0) (core s p).open_ e = true → queueDepth (eiQueue e) ≤ (queueAt (core s p) (eiQueue e)).length →
      exec (.issue p) s = .next (looked p s))) ∧
  (∀ p s, canDecode s p = true → (∀ b ∈ (core s p).brks, b.2.kind ≠ 1) →
    (∀ w c, (c, bits w 63 56) ∈ [(Instr.issue p, 0x01), (.setk p, 0x02), (.addk p, 0x03), (.alu p, 0x04), (.br p, 0x08), (.loopK p, 0x09),
      (.getj p, 0x15)] → ((core s p).prog.bind fun g => g.ctl[(core s p).pc]?) = some w → legalCtl w = true →
      (∃ r ∈ ctlRegs w, r ∈ (core s p).kpend) → exec c s = .next (looked p s)) ∧
    (((core s p).prog.bind fun g => g.ctl[(core s p).pc]?) = none →
      exec (.nop p) s = .next (illegal p (core s p).pc 0 0 0 (looked p s))) ∧
    (∀ w, ((core s p).prog.bind fun g => g.ctl[(core s p).pc]?) = some w → legalCtl w = false →
      ∀ c ∈ [Instr.nop p, .issue p, .setk p, .addk p, .alu p, .br p, .loopK p, .rbegin p, .rend p, .psafe p, .stepi p, .waitq p, .getj p,
        .endJob p, .brk p], exec c s = .next (illegal p (core s p).pc 0 w 0 (looked p s))))

/-- Retry regions, pre-emption points and the end of a rank. RBEGIN is first a pre-emption point unless NOPRE is set, and
otherwise takes the snapshot and opens its region (R286, R293); REND closes it; an RBEGIN inside a region and a REND
without its own are illegal (R286, R291); END waits for every instruction before it and then ends the rank (R292), and
is illegal inside a region (R288). A closed region whose instructions have completed passes, and its deferred sync
operations start (R286); one that failed is restored from its snapshot and runs again, and after a fourth failure the
rank ends FAULTED (R287). -/
def Obligations.RegionsAndJobEnds : Prop :=
  (∀ p w s, atWord s p w = true → bits w 63 56 = 0x10 → (core s p).open_ = false → (core s p).preempt = true → bit w 6 = false →
    exec (.rbegin p) s = .next (decodedTo p { core s p with st := 3 } s)) ∧
  (∀ p w s, atWord s p w = true → bits w 63 56 = 0x10 → (core s p).open_ = false → ((core s p).preempt = false ∨ bit w 6 = true) →
    ∃ t, exec (.rbegin p) s = .next t ∧ core t p = { ageSlots (nextPc (core s p)) with
      open_ := true, rid := bits w 5 0, att := 0, rstart := ((core s p).pc + 1) % 8192, pass := false,
      snap := some { k := (core s p).k, step := (core s p).step, s := (core s p).s } }) ∧
  (∀ p w s, atWord s p w = true → bits w 63 56 = 0x11 → (core s p).open_ = true → (core s p).rid = bits w 5 0 →
    exec (.rend p) s = .next (decodedTo p { nextPc (core s p) with closing := true } s)) ∧
  (∀ p w s, atWord s p w = true → bits w 63 56 = 0x18 → (core s p).open_ = false → allEmpty (core s p) = false →
    exec (.endJob p) s = .next (looked p s)) ∧
  (∀ p w s i x, atWord s p w = true → bits w 63 56 = 0x18 → (core s p).open_ = false → allEmpty (core s p) = true →
    (core s p).hw = false → (core s p).inst = some i → inst? s i = some x → ∃ t, exec (.endJob p) s = .next t ∧ (core t p).st = 0 ∧
    (∀ j, x.running = some j → j.saved = [] → ∃ y k, inst? t i = some y ∧ y.running = some k ∧
      mget k.ended (lcore s p - x.first) = some (if bit w 0 then 12 else 0))) ∧
  (∀ p w s, atWord s p w = true → bits w 63 56 = 0x18 → (core s p).open_ = true →
    exec (.endJob p) s = .next (decoded p (illegal p (core s p).pc 0 w 0 (looked p s)))) ∧
  (∀ p w s, atWord s p w = true → bits w 63 56 = 0x10 → (core s p).open_ = true →
    exec (.rbegin p) s = .next (decoded p (illegal p (core s p).pc 0 w 0 (looked p s)))) ∧
  (∀ p w s, atWord s p w = true → bits w 63 56 = 0x11 → ((core s p).open_ = false ∨ (core s p).rid ≠ bits w 5 0) →
    exec (.rend p) s = .next (decoded p (illegal p (core s p).pc 0 w 0 (looked p s)))) ∧
  (∀ p s, coreOn s p = true → (core s p).closing = true → (core s p).open_ = true → (core s p).failed = false → (core s p).stop = none →
    (∀ q ∈ (core s p).queues, ∀ e ∈ q.2, e.region = false) → (∀ q ∈ (core s p).run, ∀ e ∈ q.2, e.region = false) →
    exec (.regionPass p) s = .next ((core s p).defer.foldl (fun s e => (startSync p e true s).2)
      (coreLog p 3 (le 1 (core s p).rid ++ le 1 (core s p).att ++ [1, 0])
        (setCore p { core s p with closing := false, open_ := false, defer := [], snap := none, att := 0 } s)))) ∧
  (∀ p x s, coreOn s p = true → (core s p).failed = true → runEmpty (core s p) = true → (core s p).stop = none →
    (core s p).snap = some x → (core s p).att < 3 → exec (.regionRetry p) s = .next (ccErr p 0 (setCore p (ageSlots { core s p with
      defer := [], closing := false, failed := false, pass := false, att := (core s p).att + 1, kpend := kWriters (core s p),
      pc := (core s p).rstart, k := x.k, step := x.step, s := x.s }) s))) ∧
  (∀ p x s, coreOn s p = true → (core s p).failed = true → runEmpty (core s p) = true → (core s p).stop = none →
    (core s p).snap = some x → 3 ≤ (core s p).att → (core s p).halting = false → (core s p).st ≠ 2 →
    exec (.regionRetry p) s = .next (endRank p 12 (setCore p { core s p with
      defer := [], closing := false, failed := false, pass := false, att := (core s p).att + 1, kpend := kWriters (core s p),
      k := x.k, step := x.step, s := x.s, hw := true, stop := some 12, queues := [] } s)))

/-- Release, completion and breakpoints of a core. The head of a queue is released when the scoreboard, the bank slots,
the halves, the slots and the power hold let it go and no older head of another queue does (R269, R271, R272); an
instruction whose work is done completes, and its counts advance (R269, R271); a core that is to halt does so when the
released instructions have finished, and says where (R296). -/
def Obligations.InstructionsFlow : Prop :=
  (∀ p q e r s, mayRelease s p = true → queueAt (core s p) q = e :: r → passes s p q e = true → olderPasses s p q e = false →
    (∀ b ∈ (core s p).brks, b.2.kind ≠ 3) →
    exec (.instrRelease p q) s = .next (perf (baseCc p + 8) 1 (setCore p (setRun q
      (runAt (core s p) q ++ [{ e with ph := 1, rel := (core s p).rels, chip := if eiClass e.w = 6 then cjobDie s p e else e.chip }])
      (setQueue q r { core s p with rels := (core s p).rels + 1, relQ := relCycle (core s p) q ++ [q] })) s))) ∧
  (∀ p q e r s, queueAt (core s p) q = e :: r → (mayRelease s p = false ∨ passes s p q e = false ∨ olderPasses s p q e = true) →
    exec (.instrRelease p q) s = .next s) ∧
  (∀ p q e s, coreOn s p = true → (runAt (core s p) q).find? (fun x => x.ph == 3) = some e → (core s p).stop = none →
    exec (.instrComplete p q) s = .next (utilDone p e (setCore p
      (setRun q ((runAt (core s p) q).filter fun x => x.ord != e.ord) { core s p with sb := completeSb e (core s p).sb }) s))) ∧
  (∀ p q e s st, coreOn s p = true → (runAt (core s p) q).find? (fun x => x.ph == 3) = some e → (core s p).stop = some st →
    runEmpty (setRun q ((runAt (core s p) q).filter fun x => x.ord != e.ord) (core s p)) = true → (core s p).halting = false →
    (core s p).st ≠ 2 →
    exec (.instrComplete p q) s = .next (endRank p st (utilDone p e (setCore p
      (setRun q ((runAt (core s p) q).filter fun x => x.ord != e.ord) { core s p with sb := completeSb e (core s p).sb }) s)))) ∧
  (∀ p q s, (runAt (core s p) q).find? (fun x => x.ph == 3) = none → exec (.instrComplete p q) s = .next s) ∧
  (∀ p s, coreOn s p = true → (core s p).halting = true → (core s p).failed = false → (core s p).st = 1 → runEmpty (core s p) = true →
    (core s p).brkHit = 0xFF → exec (.breakpointHit p) s = .next (
      let t := setCore p { core s p with st := 2, halting := false, single := false } s
      if (core s p).single then t
      else
        let u := coreLog p 6 ([0xFF, 0] ++ le 2 (core s p).pc ++ le 4 (core s p).step) t
        sendEvent 6 0 (le 1 (lcore u p) ++ le 1 p ++ [0xFF, 0] ++ le 2 (core s p).pc ++ zeros 2 ++ le 4 (core s p).step) (ccErr p 4 u))) ∧
  (∀ p b s, coreOn s p = true → (core s p).halting = true → (core s p).failed = false → (core s p).st = 1 → runEmpty (core s p) = true →
    mget (core s p).brks (core s p).brkHit = some b → ∃ t, exec (.breakpointHit p) s = .next t ∧ (core t p).st = 2 ∧ (core t p).halting = false)

/-- The scalar class. SALU, SLI, SADDI, SMOVK and SGETK write the one register that they name and nothing else; SLD loads
8 bytes from an aligned address in core store, and SST stores 8 bytes and no others, outside core store both are
illegal (R280, R291). S0 reads 0 and a write to it is ignored (R261). -/
def Obligations.ScalarInstructionsComplete : Prop :=
  (∀ p g e s, atEngine s p (10 + g % 2) 3 1 e = true → exec (.salu p g) s = .next (engineDone p (10 + g % 2) e
    (setS (g % 2) (bits e.w 110 106) (alu64 (bits e.w 95 92) (sreg (core s p) (g % 2) (bits e.w 105 101))
      (sreg (core s p) (g % 2) (bits e.w 100 96))) (core s p)) s)) ∧
  (∀ p g e s, atEngine s p (10 + g % 2) 3 2 e = true → exec (.sli p g) s = .next (engineDone p (10 + g % 2) e
    (setS (g % 2) (bits e.w 110 106) (bits e.w 95 32) (core s p)) s)) ∧
  (∀ p g e s, atEngine s p (10 + g % 2) 3 3 e = true → exec (.saddi p g) s = .next (engineDone p (10 + g % 2) e
    (setS (g % 2) (bits e.w 110 106) (sreg (core s p) (g % 2) (bits e.w 105 101) + sext64 32 (bits e.w 95 64)) (core s p)) s)) ∧
  (∀ p g e s, atEngine s p (10 + g % 2) 3 6 e = true → exec (.smovk p g) s = .next (engineDone p (10 + g % 2) e
    (writeK (bits e.w 95 92) (sreg (core s p) (g % 2) (bits e.w 105 101)) (core s p)) s)) ∧
  (∀ p g e s, atEngine s p (10 + g % 2) 3 7 e = true → exec (.sgetk p g) s = .next (engineDone p (10 + g % 2) e
    (setS (g % 2) (bits e.w 110 106) e.kval (core s p)) s)) ∧
  (∀ p g e s a, atEngine s p (10 + g % 2) 3 4 e = true → a = (sreg (core s p) (g % 2) (bits e.w 105 101) + sext64 32 (bits e.w 95 64)) % 2 ^ 64 →
    a % 8 = 0 → localIn a 8 = true → localPoison s p a 8 = false → exec (.sld p g) s = .next (engineDone p (10 + g % 2) e
    (setS (g % 2) (bits e.w 110 106) (localLe s p a 8) (core s p)) s)) ∧
  (∀ p g e s a, atEngine s p (10 + g % 2) 3 5 e = true → a = (sreg (core s p) (g % 2) (bits e.w 105 101) + sext64 32 (bits e.w 95 64)) % 2 ^ 64 →
    localIn a 8 = true → exec (.sst p g) s = .next (doneEi p (10 + g % 2) e
      (localWrite p a (le 8 (sreg (core s p) (g % 2) (bits e.w 100 96))) s))) ∧
  (∀ p g e s a, atEngine s p (10 + g % 2) 3 4 e = true → a = (sreg (core s p) (g % 2) (bits e.w 105 101) + sext64 32 (bits e.w 95 64)) % 2 ^ 64 →
    ((a % 8 ≠ 0 ∨ localIn a 8 = false) → exec (.sld p g) s = .next (illegalEi p (10 + g % 2) e s)) ∧
    (a % 8 = 0 → localIn a 8 = true → localPoison s p a 8 = true → exec (.sld p g) s = .next (refuseEi p (10 + g % 2) e s))) ∧
  (∀ p g e s a, atEngine s p (10 + g % 2) 3 5 e = true → a = (sreg (core s p) (g % 2) (bits e.w 105 101) + sext64 32 (bits e.w 95 64)) % 2 ^ 64 →
    localIn a 8 = false → exec (.sst p g) s = .next (illegalEi p (10 + g % 2) e s)) ∧
  (∀ c g i v, sreg c g 0 = 0 ∧ setS g 0 v c = c ∧ (i ≠ 0 → sreg (setS g i v c) g i = v % 2 ^ 64)) ∧
  (∀ c g i j v, i < 32 → j < 32 → i ≠ j → sreg (setS g i v c) g j = sreg c g j)

/-- The vector class. Every lane operation writes its destination groups, or its predicate or K register, in the lanes
that may be written, from registers as they stood (R273 to R276); VLD loads lanes as they lie in core store and VST
stores them there (R274); VQUANT writes codes, scales and reference of a row, and VDEQ writes the row's values (R277).
A residue mismatch fails the instruction from its group on (R278); poison refuses it (R355), and a row outside core
store is illegal (R291). -/
def Obligations.VectorInstructionsComplete : Prop :=
  (∀ p g e s, atEngine s p (vq g) 2 3 e = true → exec (.varith p g none) s = .next (engineDone p (vq g) e
    (writeGroups e.w (vCnt e.w) (fun i l => halves (vBf e.w) (fun f a b d => fpArith f (bits e.w 75 72) a b d)
      (lane (core s p) (bits e.w 111 109) (bits e.w 102 97 + i) l) (lane (core s p) (bits e.w 111 109) (bits e.w 96 91 + i) l)
      (lane (core s p) (bits e.w 111 109) (bits e.w 90 85 + i) l)) (core s p)) s)) ∧
  (∀ p g e s k, atEngine s p (vq g) 2 3 e = true → exec (.varith p g (some k)) s = .next (vecResidue p (vq g) e (setCore p
    (writeGroups e.w (min k (vCnt e.w)) (fun i l => halves (vBf e.w) (fun f a b d => fpArith f (bits e.w 75 72) a b d)
      (lane (core s p) (bits e.w 111 109) (bits e.w 102 97 + i) l) (lane (core s p) (bits e.w 111 109) (bits e.w 96 91 + i) l)
      (lane (core s p) (bits e.w 111 109) (bits e.w 90 85 + i) l)) (core s p)) s))) ∧
  (∀ p g e s, atEngine s p (vq g) 2 5 e = true → exec (.vsel p g) s = .next (engineDone p (vq g) e
    (writeGroups e.w (vCnt e.w) (fun i l => if bit (pred (core s p) (bits e.w 111 109) (bits e.w 84 82)) l
      then lane (core s p) (bits e.w 111 109) (bits e.w 102 97 + i) l
      else lane (core s p) (bits e.w 111 109) (bits e.w 96 91 + i) l) (core s p)) s)) ∧
  (∀ p g e s, atEngine s p (vq g) 2 7 e = true → exec (.vsfn p g none) s = .next (engineDone p (vq g) e
    (writeGroups e.w (vCnt e.w) (fun i l => halves (vBf e.w)
      (fun f a _ _ => let y := sfn (bits e.w 75 73) a; if f = 5 then roundNe 5 (fmtVal 7 y) else y)
      (lane (core s p) (bits e.w 111 109) (bits e.w 102 97 + i) l) 0 0) (core s p)) s)) ∧
  (∀ p g e s k, atEngine s p (vq g) 2 7 e = true → exec (.vsfn p g (some k)) s = .next (vecResidue p (vq g) e (setCore p
    (writeGroups e.w (min k (vCnt e.w)) (fun i l => halves (vBf e.w)
      (fun f a _ _ => let y := sfn (bits e.w 75 73) a; if f = 5 then roundNe 5 (fmtVal 7 y) else y)
      (lane (core s p) (bits e.w 111 109) (bits e.w 102 97 + i) l) 0 0) (core s p)) s))) ∧
  (∀ p g e s, atEngine s p (vq g) 2 10 e = true → exec (.vbc p g) s = .next (engineDone p (vq g) e
    (writeGroups e.w (vCnt e.w) (fun _ _ => bits e.w 75 44) (core s p)) s)) ∧
  (∀ p g e s, atEngine s p (vq g) 2 11 e = true → exec (.vkx p g) s = .next (engineDone p (vq g) e
    (writeK (bits e.w 75 72) (lane (core s p) (bits e.w 111 109) (bits e.w 102 97) 0) (core s p)) s)) ∧
  (∀ p g e s, atEngine s p (vq g) 2 6 e = true → exec (.vred p g none) s = .next (engineDone p (vq g) e
    (writeGroup e.w 0 (fun l => if l = 0 then vred e.w (vCnt e.w) (core s p) else 0) (core s p)) s)) ∧
  (∀ p g e s k, atEngine s p (vq g) 2 6 e = true →
    exec (.vred p g (some k)) s = .next (vecResidue p (vq g) e (setCore p (core s p) s))) ∧
  (∀ p g e s, atEngine s p (vq g) 2 4 e = true → ∃ r, exec (.vcmp p g) s = .next (engineDone p (vq g) e
    { core s p with p := msetD (core s p).p (8 * bits e.w 111 109 + bits e.w 72 70) r 0 } s) ∧
    ∀ l, l < 64 → bit r l = if laneOn (core s p) e.w l then (let a := fmtVal 7 (lane (core s p) (bits e.w 111 109) (bits e.w 102 97) l)
      let b := fmtVal 7 (lane (core s p) (bits e.w 111 109) (bits e.w 96 91) l)
      match bits e.w 75 73 with
      | 0 => fpLt a b
      | 1 => fpLt a b || fpEq a b
      | 2 => fpEq a b
      | _ => !fpEq a b) else bit (pred (core s p) (bits e.w 111 109) (bits e.w 72 70)) l) ∧
  (∀ p g e s, atEngine s p (vq g) 2 1 e = true →
    ((∀ i, i < vCnt e.w → localPoison s p (bits e.w 75 55 * 32 + i * (bits e.w 54 39 * 32)) (vGroupBytes e.w) = false) →
      ∃ t, exec (.vld p g) s = .next t ∧ hasDone p (vq g) e t ∧ t.mem = s.mem ∧
        (vBf e.w = true → ∀ i l, i < vCnt e.w → l < 64 → lane (core t p) (bits e.w 111 109) (bits e.w 108 103 + i) l =
          if laneOn (core s p) e.w l then localLe s p (bits e.w 75 55 * 32 + i * (bits e.w 54 39 * 32) + 4 * l) 4
          else lane (core s p) (bits e.w 111 109) (bits e.w 108 103 + i) l)) ∧
    (∀ i, i < vCnt e.w → localPoison s p (bits e.w 75 55 * 32 + i * (bits e.w 54 39 * 32)) (vGroupBytes e.w) = true →
      exec (.vld p g) s = .next (refuseEi p (vq g) e s))) ∧
  (∀ p g e s, atEngine s p (vq g) 2 2 e = true → ∃ t, exec (.vst p g) s = .next t ∧ hasDone p (vq g) e t ∧
    (core t p).v = (core s p).v ∧ (core t p).p = (core s p).p ∧ t.mem.hbm = s.mem.hbm) ∧
  (∀ p g e s, atEngine s p (vq g) 2 2 e = true → vBf e.w = true → bit e.w 113 = false → vCnt e.w = 1 →
    exec (.vst p g) s = .next (doneEi p (vq g) e (useNar p { free := s.free } (localWrite p (bits e.w 75 55 * 32)
      (packCodes 32 ((List.range 64).map fun l => lane (core s p) (bits e.w 111 109) (bits e.w 102 97) l)) s)))) ∧
  (∀ p g e s d, atEngine s p (vq g) 2 8 e = true → d = qDesc s p e.w → localPoison s p (bits e.w 65 45 * 32) 32 = false →
    (qRanges d e.w = false → ∀ r, exec (.vquant p g r) s = .next (illegalEi p (vq g) e s)) ∧
    (qRanges d e.w = true →
      (bit e.w 32 = true → localPoison s p d.data ((vqH e.w * fmtWidth (bits e.w 68 66) + 7) / 8) = false ∧
        localPoison s p d.scale (vqH e.w / 32) = false ∧ localPoison s p d.ref 1 = false) →
      (bit e.w 32 = true ∨ bit e.w 33 = true → localPoison s p d.check (4 * vqH e.w) = false) →
      (∀ k, exec (.vquant p g (some k)) s = .next (vecResidue p (vq g) e s)) ∧
      exec (.vquant p g none) s = .next (
        let a : State × Nar := if bit e.w 32 then
          (let y := storedEdges s p e.w d { free := s.free }
           (addCheck p d (-1) y.1 s, { y.2 with konst := 0 })) else (s, { free := s.free })
        let r := quantise (bits e.w 68 66) ((List.range (vqH e.w)).map (rowElem (vBf e.w) (core a.1 p) (bits e.w 111 109) (bits e.w 102 97))) a.2
        let t := localWrite p d.ref (le 1 (ofSigned 8 r.1.ref))
          (localWrite p d.scale (r.1.scales.flatMap (le 1)) (localWrite p d.data (packCodes (fmtWidth (bits e.w 68 66)) r.1.codes) a.1))
        let b : State × Nar := if bit e.w 33 then
          (let y := storedEdges t p e.w d r.2
           (addCheck p d 1 y.1 t, { y.2 with konst := r.2.konst })) else (t, r.2)
        doneEi p (vq g) e (useNar p b.2 b.1)))) ∧
  (∀ p g e s d tl, atEngine s p (vq g) 2 9 e = true → d = qDesc s p e.w → tl = 4 * ((vqH e.w + 2047) / 2048) →
    localPoison s p (bits e.w 65 45 * 32) 32 = false →
    ((qRanges d e.w = false ∨ d.tile ≠ 0xFFFFFFFF ∧ localIn d.tile tl = false) →
      ∀ r, exec (.vdeq p g r) s = .next (illegalEi p (vq g) e s)) ∧
    (qRanges d e.w = true → (d.tile = 0xFFFFFFFF ∨ localIn d.tile tl = true ∧ localPoison s p d.tile tl = false) →
      localPoison s p d.data ((vqH e.w * fmtWidth (bits e.w 68 66) + 7) / 8) = false → localPoison s p d.scale (vqH e.w / 32) = false →
      ∀ put : Nat → Core, (∀ k, put k = writeGroups e.w k (fun i l =>
        if vBf e.w then
          (if l < 32 ∧ 64 * i + 2 * l < vqH e.w then roundNe 5 (fmtVal 7 (deqElem s p (bits e.w 68 66) d (64 * i + 2 * l))) +
            65536 * roundNe 5 (fmtVal 7 (if 64 * i + 2 * l + 1 < vqH e.w then deqElem s p (bits e.w 68 66) d (64 * i + 2 * l + 1) else 0))
          else lane (core s p) (bits e.w 111 109) (bits e.w 108 103 + i) l)
        else if 64 * i + l < vqH e.w then deqElem s p (bits e.w 68 66) d (64 * i + l)
        else lane (core s p) (bits e.w 111 109) (bits e.w 108 103 + i) l) (core s p)) →
      exec (.vdeq p g none) s = .next (engineDone p (vq g) e (put (vCnt e.w)) s) ∧
      ∀ k, exec (.vdeq p g (some k)) s = .next (vecResidue p (vq g) e (setCore p (put (min k (vCnt e.w))) s)))) ∧
  (∀ p g e s, (atEngine s p (vq g) 2 8 e = true → localPoison s p (bits e.w 65 45 * 32) 32 = true →
      ∀ r, exec (.vquant p g r) s = .next (refuseEi p (vq g) e s)) ∧
    (atEngine s p (vq g) 2 9 e = true → localPoison s p (bits e.w 65 45 * 32) 32 = true →
      ∀ r, exec (.vdeq p g r) s = .next (refuseEi p (vq g) e s)))

/-- The outer-product arrays and the matrix-vector path. ALOAD fills its half (R192); an AMUL with no steps clears or does
nothing, and one with steps accumulates into the slots of the arrays that it names and writes no memory (R199 to
R209); an ADRAIN of slots whose checksums hold writes their rows and status records, and a mismatch is reported and
fails (R210 to R214, R216); an MVMUL whose check holds writes its row and its status record, and a mismatch is
reported and fails (R225 to R228). Poison refuses the instruction (R355), and one that is not legal is never executed
(R230). A sequence that differs is a SCALE_SKEW (R242, R243). -/
def Obligations.ArrayInstructionsComplete : Prop :=
  (∀ p e s h skew, atEngine s p 0 0 1 e = true → (∀ i, i < alLines e.w →
      localPoison s p (bits e.w 79 59 * 32 + i * lineBytes (alK e.w) (fmtWidth (alFmt e.w))) ((alK e.w * fmtWidth (alFmt e.w) + 7) / 8) = false) →
    (alScaled e.w = true → localPoison s p (bits e.w 37 17 * 32) (alLines e.w) = false ∧
      ∀ i, i < alLines e.w → localPoison s p (bits e.w 58 38 * 32 + i * ((alK e.w + 1023) / 1024 * 32)) (alK e.w / 32) = false) →
    h = {
      loaded := true, fmt := alFmt e.w, scaled := alScaled e.w, lines := alLines e.w, k := alK e.w,
      elems := memOf ((List.range (alLines e.w)).flatMap fun i => (List.range (alK e.w)).map fun t => BitVec.ofNat 8 (codeAt (fmtWidth (alFmt e.w))
        (fun j => localByte s p (bits e.w 79 59 * 32 + i * lineBytes (alK e.w) (fmtWidth (alFmt e.w)) + j)) t))
      scales := if alScaled e.w then memOf ((List.range (alLines e.w)).flatMap fun i =>
        localBytes s p (bits e.w 58 38 * 32 + i * ((alK e.w + 1023) / 1024 * 32)) (alK e.w / 32)) else []
      refs := if alScaled e.w then memOf (localBytes s p (bits e.w 37 17 * 32) (alLines e.w)) else [] } →
    ((∀ i f, skew = some (i, f) → alScaled e.w = true → i < alK e.w / 32 → i % 65536 = f % 65536) →
      exec (.aload p skew) s = .next (engineDone p 0 e { core s p with halves := mset (core s p).halves (bits e.w 111 111) h } s)) ∧
    (∀ i f, alScaled e.w = true → i < alK e.w / 32 → i % 65536 ≠ f % 65536 → exec (.aload p (some (i, f))) s = .next (
      let t := channelEvent 7 p 0 (engineDone p 0 e { core s p with
        halves := mset (core s p).halves (bits e.w 111 111) { h with invalid := true } } s)
      if t.1 then retireCore p (skewFault p e 2 7 p i f t.2) else skewFault p e 0 7 p i f t.2))) ∧
  (∀ p k e s, atEngine s p 0 0 2 e = true → amK e.w = 0 →
    ((∀ a ∈ armed4 (bits e.w 111 108), amSame s p e.w a = true) → exec (.amul p k) s = .next (doneEi p 0 e (amCount p e.w
      (if bit e.w 112 then eachSlot p e.w (amChained s p e) s else s)))) ∧
    (∀ a ∈ armed4 (bits e.w 111 108), amSame s p e.w a = false → exec (.amul p k) s = .next (illegalEi p 0 e s))) ∧
  (∀ p k e s t, atEngine s p 0 0 2 e = true → amK e.w ≠ 0 → (∀ a ∈ armed4 (bits e.w 111 108), amLegal s p e.w a = true) →
    (∀ a ∈ armed4 (bits e.w 111 108), amPoison s p e.w a = false) → (halfAt s p (bits e.w 105 105)).invalid = false →
    t = eachSlot p e.w (amChained s p e) s →
    (∀ a ∈ armed4 (bits e.w 111 108), (amDesc s p e.w a).scaled = true →
      (slotAt t p (slotKey t p a (bits e.w 107 106))).seq = (amDesc s p e.w a).seq0) →
    (∀ a i f, k = some (a, i, f) → a ∈ armed4 (bits e.w 111 108) → (amDesc s p e.w a).scaled = true → i < amK e.w / 32 →
      ((amDesc s p e.w a).seq0 + i) % 65536 = f % 65536) →
    exec (.amul p k) s = .next (doneEi p 0 e (amFeed s p e.w (amK e.w) t)) ∧ (amFeed s p e.w (amK e.w) t).mem = s.mem) ∧
  (∀ p k e s a, atEngine s p 0 0 2 e = true → amK e.w ≠ 0 → a ∈ armed4 (bits e.w 111 108) → amLegal s p e.w a = false →
    exec (.amul p k) s = .next (illegalEi p 0 e s)) ∧
  (∀ p k e s a, atEngine s p 0 0 2 e = true → amK e.w ≠ 0 → (∀ a ∈ armed4 (bits e.w 111 108), amLegal s p e.w a = true) →
    a ∈ armed4 (bits e.w 111 108) → amPoison s p e.w a = true → exec (.amul p k) s = .next (refuseEi p 0 e s)) ∧
  (∀ p e s, atEngine s p 0 0 3 e = true → localPoison s p (bits e.w 105 85 * 32) 64 = false → drainLegal s p e = true →
    (∀ a ∈ drainLive s p e.w, drainPoison s p (drainDesc s p (bits e.w 105 85 * 32)) (drainSlot s p e.w a) a = false) →
    (∀ a ∈ armed4 (bits e.w 111 108), bit (arrMask s p) a = false) →
    (drainBad s p e.w = [] → exec (.adrain p []) s = .next (doneEi p 0 e (drainOut p e.w s))) ∧
    (drainBad s p e.w ≠ [] → exec (.adrain p []) s = .next (failCheck p e 0x0201 (doneEi p 0 e ((drainBad s p e.w).foldl (fun t a =>
      arrayFail p (slotKey s p a (bits e.w 107 106) / 3) (slotKey s p a (bits e.w 107 106) % 3) (drainSlot s p e.w a)
        (checkSlot (drainSlot s p e.w a)).1 (checkSlot (drainSlot s p e.w a)).2.1 t) s))))) ∧
  (∀ p f e s, atEngine s p 0 0 3 e = true → exec (.adrain p f) s = .next (drainStep p e (flipSlots p e.w f s))) ∧
  (∀ p e s, atEngine s p 0 0 3 e = true →
    (localPoison s p (bits e.w 105 85 * 32) 64 = true → exec (.adrain p []) s = .next (refuseEi p 0 e s)) ∧
    (localPoison s p (bits e.w 105 85 * 32) 64 = false → drainLegal s p e = false → exec (.adrain p []) s = .next (illegalEi p 0 e s))) ∧
  (∀ p k e s, atEngine s p 1 1 1 e = true → mvPoison s p e.w = false → mvLegal s p e.w = true →
    ((halfAt s p (bits e.w 111 111)).invalid = false ∨ mvK e.w = 0) →
    (∀ i f, k = some (i, f) → (mvDesc s p e.w).scaled = true → i < mvK e.w / 32 → ((mvDesc s p e.w).seq0 + i) % 65536 = f % 65536) →
    (∀ f, gemvBad s p e.w (mvEdges s p e.w).1 (mvEdges s p e.w).2.1 f = false →
      mvFails s p (mvHeld s p (mvEdges s p e.w).1 (mvEdges s p e.w).2.1 f) = [] →
      exec (.mvmul p k f) s = .next (doneEi p 1 e (mvOut p e.w f s))) ∧
    (∀ f, gemvBad s p e.w (mvEdges s p e.w).1 (mvEdges s p e.w).2.1 f = true →
      mvFails s p (mvHeld s p (mvEdges s p e.w).1 (mvEdges s p e.w).2.1 f) = [] →
      exec (.mvmul p k f) s = .next (failCheck p e 0x0202 (doneEi p 1 e (gemvFail p (mvCount p e.w (mvDesc s p e.w)
        (useNar p (mvEdges s p e.w).2.2.2 s))))))) ∧
  (∀ p k f e s, atEngine s p 1 1 1 e = true → mvPoison s p e.w = true → exec (.mvmul p k f) s = .next (refuseEi p 1 e s)) ∧
  (∀ p k f e s, atEngine s p 1 1 1 e = true → mvPoison s p e.w = false → mvLegal s p e.w = false →
    exec (.mvmul p k f) s = .next (illegalEi p 1 e s))

/-- DMA, compass jobs, markers and dumps. A DCOPY on its own chip reads every row and then writes them all (R281), and a
remote one sends its frames and waits for the confirmation (R403); DJOB sends its descriptor as a job of the current
version and waits for its acceptance (R281, R310); CJOB joins its die's queue, its samples are evaluated block by
block, and its completion returns status and records (R177, R181, R283); QWAIT is released once what was decoded
before it has completed, TMARK writes a mark (R284); DUMP fires an armed slot, and its copy moves on within the caps
(R530, R532, R533). Poison refuses the instruction (R355). -/
def Obligations.TransfersAndMarkersComplete : Prop :=
  (∀ p e s d, atEngine s p 12 4 1 e = true → d = localBytes s p (bits e.w 111 91 * 32) 32 → (bit e.w 112 = false ∨ leAt d 22 2 = chipId s) →
    localPoison s p (bits e.w 111 91 * 32) 32 = false → copyOk s e.w false d = true →
    (∀ x ∈ copyPieces e.w d, hbmHeld s x.1 x.2.1 = false ∧ hbmHeld s x.2.2 x.2.1 = false) →
    (∀ x ∈ copyPieces e.w d, firstPoison s x.1 x.2.1 = none) →
    exec (.dcopy p) s = .next (util p 0x228 (((copyPieces e.w d).map (·.2.1)).foldl (· + ·) 0) (doneEi p 12 e
      (((copyPieces e.w d).map fun x => (x.2.2, devBytes s x.1 x.2.1)).foldl (fun s x => devWrite x.1 x.2 s) s)))) ∧
  (∀ p e s d, atEngine s p 12 4 1 e = true → d = localBytes s p (bits e.w 111 91 * 32) 32 → bit e.w 112 = true → leAt d 22 2 ≠ chipId s →
    localPoison s p (bits e.w 111 91 * 32) 32 = false → copyOk s e.w true d = true → (∀ x ∈ copyPieces e.w d, hbmHeld s x.1 x.2.1 = false) →
    (∀ x ∈ copyPieces e.w d, firstPoison s x.1 x.2.1 = none) →
    (s.chip.isSome = true → routeLost s (leAt d 22 2) = false → ∀ f, f = { e with
        ph := 2, sent := now s, chip := leAt d 22 2, wid := ((jobOf s p).map (·.wid)).getD 0, ver := newestNum s } →
      exec (.dcopy p) s = .next (util p 0x228 (((copyPieces e.w d).map (·.2.1)).foldl (· + ·) 0) (putRun p 12 f
        (sendCopy p f (jobOf s p) d s)))) ∧
    ((s.chip.isNone = true ∨ routeLost s (leAt d 22 2) = true) → exec (.dcopy p) s = .next (refuseEi p 12 e s))) ∧
  (∀ p e s d b, atEngine s p 12 4 1 e = true → d = localBytes s p (bits e.w 111 91 * 32) 32 →
    b = (bit e.w 112 && leAt d 22 2 != chipId s) →
    (localPoison s p (bits e.w 111 91 * 32) 32 = true → exec (.dcopy p) s = .next (refuseEi p 12 e s)) ∧
    (localPoison s p (bits e.w 111 91 * 32) 32 = false → copyOk s e.w b d = false → exec (.dcopy p) s = .next (illegalEi p 12 e s)) ∧
    (∀ a, localPoison s p (bits e.w 111 91 * 32) 32 = false → copyOk s e.w b d = true →
      (∀ x ∈ copyPieces e.w d, hbmHeld s x.1 x.2.1 = false ∧ (b = false → hbmHeld s x.2.2 x.2.1 = false)) →
      (copyPieces e.w d).findSome? (fun x => firstPoison s x.1 x.2.1) = some a →
      exec (.dcopy p) s = .next (refuseEi p 12 e (poisonRead a s)))) ∧
  (∀ p e s d dest, atEngine s p 12 4 2 e = true → d = localBytes s p (bits e.w 111 91 * 32) 64 →
    dest = (if bit (u8 d 13) 0 then leAt d 14 2 else chipId s) → localPoison s p (bits e.w 111 91 * 32) 64 = false → djobOk d = true →
    exec (.djob ⟨p, none⟩) s = .next (
      let x := newTag p 2 dest (leAt d 4 4) (newestNum s) (if leAt d 8 4 = 0 then 0xFFFFFFFF else deadlineOf (now s + leAt d 8 4))
        (bits (u8 d 12) 2 0) (bits (u8 d 12) 5 3) (bit (u8 d 12) 6) e.region s
      let t := if dest = chipId s ∨ leAt d 30 2 = 0 then x.2 else { x.2 with away := s.away ++ [(leAt d 4 4, dest, newestNum s)] }
      putRun p 12 { e with ph := 2, chip := dest, wid := leAt d 4 4, ver := newestNum s } (sendTag dest x.1 d t))) ∧
  (∀ p e s d, atEngine s p 12 4 2 e = true → d = localBytes s p (bits e.w 111 91 * 32) 64 →
    (localPoison s p (bits e.w 111 91 * 32) 64 = true → exec (.djob ⟨p, none⟩) s = .next (refuseEi p 12 e s)) ∧
    (localPoison s p (bits e.w 111 91 * 32) 64 = false → djobOk d = false → exec (.djob ⟨p, none⟩) s = .next (illegalEi p 12 e s))) ∧
  (∀ p e s st, coreOn s p = true → acceptStatus st = true → (waitingDjobs s p).find? (fun x => x.chip != chipId s) = some e →
    exec (.djob ⟨p, some st⟩) s = .next (acceptDjob p e st (if st = 0 then s else dropAway e.chip e.wid s))) ∧
  (∀ p e s b, atEngine s p 14 6 1 e = true → b = localBytes s p (bits e.w 111 91 * 32) 32 →
    (localPoison s p (bits e.w 111 91 * 32) 32 = true → exec (.cjob p) s = .next (refuseEi p 14 e s)) ∧
    (localPoison s p (bits e.w 111 91 * 32) 32 = false → ∃ t j, exec (.cjob p) s = .next t ∧
      j ∈ cjobsOf t e.chip ∧ j.id = e.ord ∧ j.core = p ∧ j.status = cjobStatus s b (jobVersion s p) ∧ j.version = jobVersion s p ∧
      j.samples = leAt b 4 4 ∧ t.mem = s.mem)) ∧
  (∀ d s j e, frozen s = false → (cjobsOf s d).find? (·.finished) = some j →
    (runAt (core s j.core) 14).find? (fun e => e.ord == j.id && e.ph == 2) = some e → exec (.compassJobComplete d) s = .next (
      let t := setCjobs d ((cjobsOf s d).filter fun i => !(i.id == j.id && i.core == j.core)) s
      let t := if j.status = 0 then perf (cmpDie d) 1 t else t
      util j.core 0x238 j.sample (doneEi j.core 14 e (setCore j.core (if bits e.w 90 87 = 0 then core s j.core
        else writeK (bits e.w 90 87) (j.status + 65536 * j.sample) (core s j.core)) t)))) ∧
  (∀ u s j a pf bad, frozen s = false → servedCjob s (u / 16) = some j → cmpRuns s u = true → reentryDue s u = false →
    sliceWaits s (u / 16) = false → j.blk = 0 →
    hbmHeld s (j.inAddr + j.sample * j.stride) (2 * ensFeatures (imgMem (objsOf s j.version) (oidEns j.ens))) = false →
    hbmHeld s (j.outAddr + j.sample * recSize j) (recSize j) = false →
    firstPoison s (j.inAddr + j.sample * j.stride) (2 * ensFeatures (imgMem (objsOf s j.version) (oidEns j.ens))) = some a →
    exec (.compassBlockEval u .job pf bad) s = .next (setCjobs (u / 16) ((cjobsOf (poisonRead a s) (u / 16)).map fun i =>
      if i.id = j.id ∧ i.core = j.core then { j with status := 12, finished := true } else i) (poisonRead a s))) ∧
  (∀ u s j pf bad, frozen s = false → servedCjob s (u / 16) = some j → cmpRuns s u = true → reentryDue s u = false →
    sliceWaits s (u / 16) = false →
    (j.blk = 0 → hbmHeld s (j.inAddr + j.sample * j.stride) (2 * ensFeatures (imgMem (objsOf s j.version) (oidEns j.ens))) = false ∧
      firstPoison s (j.inAddr + j.sample * j.stride) (2 * ensFeatures (imgMem (objsOf s j.version) (oidEns j.ens))) = none) →
    hbmHeld s (j.outAddr + j.sample * recSize j) (recSize j) = false →
    ∃ t y, exec (.compassBlockEval u .job pf bad) s = .next t ∧ y ∈ cjobsOf t (u / 16) ∧ y.id = j.id ∧ y.core = j.core ∧
      (j.blk + 1 < ensBlocks (imgMem (objsOf s j.version) (oidEns j.ens)) → y.blk = j.blk + 1 ∧ y.sample = j.sample) ∧
      (ensBlocks (imgMem (objsOf s j.version) (oidEns j.ens)) ≤ j.blk + 1 → y.blk = 0 ∧ y.sample = j.sample + 1 ∧
        (y.finished = true ↔ j.sample + 1 = j.samples))) ∧
  (∀ u s pf bad, (reentryDue s u = true ∨ sliceWaits s (u / 16) = true) → exec (.compassBlockEval u .job pf bad) s = .next s) ∧
  (∀ p q e s, atEngine s p q 7 1 e = true → exec (.qwait p q) s = .next (doneEi p q e s)) ∧
  (∀ p q e s, passes s p q e = true → eiClass e.w = 7 → eiOp e.w = 1 → earlierLive (core s p) (bits e.w 107 93) e.ord = false) ∧
  (∀ p q e s, atEngine s p q 7 2 e = true → exec (.tmark p q) s = .next (doneEi p q e
    (coreLog p 1 (le 4 (bits e.w 107 76) ++ le 4 (core s p).step ++ le 2 e.pc) s))) ∧
  (∀ p q e s, atEngine s p q 7 3 e = true → dumpSlot (core s p) (bits e.w 107 76) = none → exec (.dump p q) s = .next (doneEi p q e s)) ∧
  (∀ p q e s i d, atEngine s p q 7 3 e = true → dumpSlot (core s p) (bits e.w 107 76) = some (i, d) →
    ((core s p).dumping ≠ [] → exec (.dump p q) s = .next s) ∧
    ((core s p).dumping = [] → localIn (bits e.w 75 55 * 32) (bits e.w 54 39 * 32) = false → exec (.dump p q) s = .next (illegalEi p q e s)) ∧
    ((core s p).dumping = [] → localIn (bits e.w 75 55 * 32) (bits e.w 54 39 * 32) = true →
      localPoison s p (bits e.w 75 55 * 32) (min (bits e.w 54 39 * 32) (d.bytes - 32)) = false →
      exec (.dump p q) s = .next (doneEi p q e (fireDump p e i d s)))) ∧
  (∀ p s d r n, coreOn s p = true → (core s p).dumping = d :: r →
    ((core s p).dumpCyc = 0 ∨ (core s p).dumpCyc + 1023 ≤ ctr s (islCtr p)) →
    n = min (min (d.entry.length - d.pos) 41920) (obsRoom s ((d.addr + d.pos) / 0x3600000000) / 32 * 32) → n ≠ 0 →
    hbmHeld s (d.addr + d.pos) n = false →
    (d.pos + n < d.entry.length → exec (.dumpCopy p) s = .next (setCore p { core s p with
      dumping := { d with pos := d.pos + n } :: r, dumpCyc := ctr s (islCtr p) + 1 } (obsWrite (d.addr + d.pos) (sub d.entry d.pos n) s))) ∧
    (d.pos + n = d.entry.length → d.trunc = false → exec (.dumpCopy p) s = .next (errc (baseObs + 0x10514) (baseObs + 0x10520) 1 1
      (setCore p { core s p with dumping := r, dumpCyc := ctr s (islCtr p) + 1 } (obsWrite (d.addr + d.pos) (sub d.entry d.pos n) s)))))

/-- The sync class. On a core's own object SIGNAL adds and saturates, DECREMENT subtracts and clamps at 0, WAIT is held
and ends at the end of a cycle in which VALUE has reached its argument, BARRIER arrives and is held, and the last
arrival releases every participant with VALUE one higher; INIT sets the object up (R329, R330, R332, R334, R335). An
operation that the object rejects leaves it unchanged and completes (R331), and a SIGNAL inside an open region is
deferred (R288). An operation on another object leaves as a tag (R330, R339). No memory changes. -/
def Obligations.SyncInstructionsComplete : Prop :=
  (∀ p e s x r, atEngine s p 13 5 1 e = true → (e.region = false ∨ (core s p).open_ = false) → (∀ b ∈ (core s p).brks, b.2.kind ≠ 5) →
    isRemote s e.w = false → r = (⟨false, p, bits e.w 111 104⟩ : ORef) → targetOf s p e.w = some r → x = obj s r → x.used = true →
    x.orphaned = false → x.barrier = false →
    x.value < 2 ^ 32 → ∃ t, exec (.signal p) s = .next t ∧ hasDone p 13 e t ∧ (obj t r).value = min (x.value + bits e.w 79 48) 0xFFFFFFFF ∧
      (obj t r).waiters = x.waiters ∧ t.mem = s.mem) ∧
  (∀ p e s, atEngine s p 13 5 1 e = true → e.region = true → (core s p).open_ = true →
    ((core s p).defer.length < 16 → ∃ t, exec (.signal p) s = .next t ∧ hasDone p 13 e t ∧ (core t p).defer = (core s p).defer ++ [e] ∧
      (∀ r, obj t r = obj s r) ∧ t.mem = s.mem) ∧
    (16 ≤ (core s p).defer.length → exec (.signal p) s = .next (illegalEi p 13 e s))) ∧
  (∀ p e s x r, atEngine s p 13 5 3 e = true → (∀ b ∈ (core s p).brks, b.2.kind ≠ 5) → isRemote s e.w = false →
    r = (⟨false, p, bits e.w 111 104⟩ : ORef) → targetOf s p e.w = some r → x = obj s r → x.used = true → x.orphaned = false → x.barrier = false →
    ∃ t, exec (.decrement p) s = .next t ∧ hasDone p 13 e t ∧ (obj t r).value = x.value - 1 ∧ (obj t r).waiters = x.waiters ∧ t.mem = s.mem) ∧
  (∀ p e s x r, atEngine s p 13 5 2 e = true → (∀ b ∈ (core s p).brks, b.2.kind ≠ 5) → isRemote s e.w = false →
    r = (⟨false, p, bits e.w 111 104⟩ : ORef) → targetOf s p e.w = some r → x = obj s r → x.used = true → x.orphaned = false →
    ∃ t w, exec (.waitSync p) s = .next t ∧ obj t r = { x with waiters := x.waiters ++ [w] } ∧
      w.v = bits e.w 79 48 ∧ w.bar = false ∧ w.fresh = true ∧ w.unit = p ∧ t.mem = s.mem ∧ ∃ y ∈ runAt (core t p) 13, y.ord = e.ord ∧ y.ph = 2) ∧
  (∀ r w s, w.v ≤ (obj s r).value → w.fresh = true → judgeWait r w s = answerHeld r w 0 (obj s r).value
    (perf (syncCtr r) 1 (setObj r { obj s r with waiters := (obj s r).waiters.erase w } s))) ∧
  (∀ p e s x r, atEngine s p 13 5 4 e = true → (∀ b ∈ (core s p).brks, b.2.kind ≠ 5) → isRemote s e.w = false →
    r = (⟨false, p, bits e.w 111 104⟩ : ORef) → targetOf s p e.w = some r → x = obj s r → x.used = true → x.orphaned = false → x.barrier = true →
    (bits e.w 79 48 = 0 ∨ bits e.w 79 48 = x.parties) →
    (x.phase = 0 → x.cur + 1 ≠ x.parties → ∃ t w, exec (.barrier p) s = .next t ∧ w.bar = true ∧ w.unit = p ∧ (obj t r).cur = x.cur + 1 ∧
      (obj t r).waiters = x.waiters ++ [w] ∧ (obj t r).value = x.value ∧ ∃ y ∈ runAt (core t p) 13, y.ord = e.ord ∧ y.ph = 2) ∧
    (x.phase = 0 → x.cur + 1 = x.parties → ∃ t, exec (.barrier p) s = .next t ∧ (obj t r).value = min (x.value + 1) 0xFFFFFFFF ∧
      (∀ w ∈ (obj t r).waiters, w.bar = false) ∧ t.mem = s.mem) ∧
    (x.phase = 1 → x.next + 1 ≤ x.parties - x.leaving → ∃ t w, exec (.barrier p) s = .next t ∧ w.bar = true ∧ w.unit = p ∧
      (obj t r).next = x.next + 1 ∧ (obj t r).cur = x.cur ∧ (obj t r).waiters = x.waiters ++ [w] ∧ (obj t r).value = x.value ∧
      ∃ y ∈ runAt (core t p) 13, y.ord = e.ord ∧ y.ph = 2) ∧
    ((2 ≤ x.phase ∨ x.phase = 1 ∧ x.parties - x.leaving < x.next + 1) → ∃ t, exec (.barrier p) s = .next t ∧ hasDone p 13 e t ∧
      (obj t r).waiters = x.waiters ∧ (obj t r).value = x.value ∧ (obj t r).cur = x.cur ∧ (obj t r).next = x.next ∧ bit (obj t r).flags 3 = true)) ∧
  (∀ p e s x r, atEngine s p 13 5 5 e = true → (∀ b ∈ (core s p).brks, b.2.kind ≠ 5) → isRemote s e.w = false →
    r = (⟨false, p, bits e.w 111 104⟩ : ORef) → targetOf s p e.w = some r → x = obj s r → (x.used = true ∨ x.orphaned = true) →
    x.waiters = [] → x.cur = 0 → x.next = 0 → x.leaving = 0 →
    (bit (bits e.w 79 48) 31 = false ∨ (bits e.w 79 48 % 65536 ≠ 0 ∧ bits (bits e.w 79 48) 30 16 = 0)) →
    ∃ t, exec (.initSync p) s = .next t ∧ hasDone p 13 e t ∧ (obj t r).value = (initObj x (bits e.w 79 48) p).value ∧
      (obj t r).flags = (initObj x (bits e.w 79 48) p).flags ∧ (obj t r).cur = 0 ∧ t.mem = s.mem) ∧
  (∀ p e s x r op c, (c, op) ∈ [(Instr.signal p, 1), (.waitSync p, 2), (.decrement p, 3), (.barrier p, 4)] → atEngine s p 13 5 op e = true →
    (e.region = false ∨ (core s p).open_ = false) → (∀ b ∈ (core s p).brks, b.2.kind ≠ 5) → isRemote s e.w = false →
    r = (⟨false, p, bits e.w 111 104⟩ : ORef) → targetOf s p e.w = some r → x = obj s r →
    (x.orphaned = true ∨ x.used = false ∨ op ≠ 2 ∧ x.barrier = (op != 4)) →
    ∃ t, exec c s = .next t ∧ hasDone p 13 e t ∧ obj t r = x ∧ t.mem = s.mem) ∧
  (∀ p e s op c dest r b f, (c, op) ∈ [(Instr.signal p, 1), (.waitSync p, 2), (.decrement p, 3), (.barrier p, 4), (.initSync p, 5)] →
    atEngine s p 13 5 op e = true → (e.region = false ∨ (core s p).open_ = false) →
    (isRemote s e.w = true ∧ s.chip.isSome = true ∧ routeLost s (bits e.w 95 80) = false ∧ dest = bits e.w 95 80 ∨
      isRemote s e.w = false ∧ targetOf s p e.w = some r ∧ (r.hub = true ∨ r.p ≠ p) ∧ dest = chipId s) →
    b = ((op == 1 || op == 3) && bits e.w 47 44 == 0) → f = { e with ph := 2, sent := now s, chip := dest, wid := reqWid s p e.w b } →
    exec c s = .next (
      let t := sendSync p dest (reqWid s p e.w b) (jobVersion s p) (syncPay (bits e.w 79 48) 0 0) (putRun p 13 f s)
      if b then finishSync p f (resultWord 0 false false 0) t else t))

/-- Tags between sync blocks. A request is applied and answered, unless it is posted (R332, R339), and one that is held is
told so first; a reply completes its instruction or marks it registered; a RELEASE is acknowledged and ends the
instruction that waits (R334); an acknowledgement lets its participant leave (R335); TREE_ARRIVE counts as an arrival
and TREE_RELEASE completes the round (R335, R342); ORPHAN spreads (R344), WITHDRAW takes back what a reset core held
(R338), and a request without a reply for 100 µs ends with TIMEOUT (R340). -/
def Obligations.SyncMessagesComplete : Prop :=
  (∀ i s t u r w z, frozen s = false → takeSync i (fun op => decide (1 ≤ op) && decide (op ≤ 5)) s = some (t, u) →
    tagObj u (tagOf t.tag).workId = some r → w = {
    unit := (tagOf t.tag).unit,
      chip := (tagOf t.tag).chip, remote := t.link != 8, wid := (tagOf t.tag).workId, version := (tagOf t.tag).version } →
    (∀ st sat ovr v, syncOp r (tagOp t) (beAt t.body 0 4) w u = (some (st, sat, ovr, v), z) →
      exec (.syncRemoteRequest i) s = .next (if bit (tagOf t.tag).workId 28 then z else sendSync (objUnit r) (tagOf t.tag).chip
        ((tagOf t.tag).workId % 65536 + 65536 * 6 + bits (tagOf t.tag).workId 27 20 * 2 ^ 20) (tagOf t.tag).version
        (syncPay (if st = 0 then v else 0) st (b2n sat + 2 * b2n ovr)) z)) ∧
    (syncOp r (tagOp t) (beAt t.body 0 4) w u = (none, z) → tagOp t = 2 → exec (.syncRemoteRequest i) s = .next z) ∧
    (syncOp r (tagOp t) (beAt t.body 0 4) w u = (none, z) → tagOp t ≠ 2 → bit (tagOf t.tag).workId 28 = false →
      exec (.syncRemoteRequest i) s = .next (syncOp r (tagOp t) (beAt t.body 0 4) w (sendSync (objUnit r) (tagOf t.tag).chip
        ((tagOf t.tag).workId % 65536 + 65536 * 6 + bits (tagOf t.tag).workId 27 20 * 2 ^ 20) (tagOf t.tag).version (syncPay 0 0 4) u)).2)) ∧
  (∀ i s t u, frozen s = false → takeSync i (fun op => decide (1 ≤ op) && decide (op ≤ 5)) s = some (t, u) →
    tagObj u (tagOf t.tag).workId = none → bit (tagOf t.tag).workId 28 = false →
    exec (.syncRemoteRequest i) s = .next (sendSync 0xE6 (tagOf t.tag).chip
      ((tagOf t.tag).workId % 65536 + 65536 * 6 + bits (tagOf t.tag).workId 27 20 * 2 ^ 20) (tagOf t.tag).version (syncPay 0 13 0)
      (syncErrAt (syncCtr ⟨true, 0, 0⟩) 4 u))) ∧
  (∀ i s t u e, frozen s = false → takeSync i (fun op => op == 6) s = some (t, u) →
    waitingSync u (bits (tagOf t.tag).workId 27 20) (tagOf t.tag).chip (tagOf t.tag).workId = some e →
    exec (.syncReply i) s = .next (if bit (u8 t.body 6) 2 then putRun (bits (tagOf t.tag).workId 27 20) 13 { e with held := true } u
      else finishSync (bits (tagOf t.tag).workId 27 20) e
        (resultWord (beAt t.body 4 2) (bit (u8 t.body 6) 0) (bit (u8 t.body 6) 1) (beAt t.body 0 4)) u)) ∧
  (∀ i s t u p k, frozen s = false → takeSync i (fun op => op == 7) s = some (t, u) → p = bits (tagOf t.tag).workId 27 20 →
    k = sendSync p (tagOf t.tag).chip ((tagOf t.tag).workId % 65536 + 65536 * 8 + 2 ^ 20 * p) (tagOf t.tag).version (syncPay 0 0 0) u →
    exec (.syncRelease i) s = .next (match waitingSync k p (tagOf t.tag).chip (tagOf t.tag).workId with
      | none => k
      | some e => finishSync p e (resultWord (beAt t.body 4 2) false false (beAt t.body 0 4)) k)) ∧
  (∀ i s t u r k, frozen s = false → takeSync i (fun op => op == 8) s = some (t, u) → tagObj u (tagOf t.tag).workId = some r →
    k = (if (tagOf t.tag).unit = 0xE6 ∧ t.link ≠ 8 then (65536 + t.link, 0xE6) else ((tagOf t.tag).chip, (tagOf t.tag).unit)) →
    (k ∈ (obj u r).due → exec (.releaseAck i) s = .next (left_ r
      { unit := (tagOf t.tag).unit, chip := (tagOf t.tag).chip, remote := t.link != 8 }
      (setObj r { obj u r with due := (obj u r).due.erase k } u))) ∧
    (k ∉ (obj u r).due → exec (.releaseAck i) s = .next u)) ∧
  (∀ i s t u r x w a, frozen s = false → takeSync i (fun op => op == 9) s = some (t, u) → r = (⟨true, 0, (tagOf t.tag).workId % 256⟩ : ORef) →
    x = obj u r → x.used = true → x.barrier = true → x.orphaned = false → bit x.children t.link = true →
    w = ({ unit := (tagOf t.tag).unit, chip := (tagOf t.tag).chip, remote := true } : Waiter) →
    a = arrive r (perf (syncCtr r) 1 (setObj r (signed_ w 9 u { x with version := (tagOf t.tag).version }) u)) →
    exec (.treeArrive i) s = .next (if a.1 then a.2 else overrun r w 9 u)) ∧
  (∀ i s t u r x, frozen s = false → takeSync i (fun op => op == 10) s = some (t, u) → r = (⟨true, 0, (tagOf t.tag).workId % 256⟩ : ORef) →
    x = obj u r → x.used = true → x.orphaned = false → x.phase = 2 → x.parent = t.link + 1 →
    exec (.treeRelease i) s = .next (releaseRound r (sendTree t.link r.k 8 (tagOf t.tag).version (setObj r
      (signed_ { unit := (tagOf t.tag).unit, chip := (tagOf t.tag).chip, remote := true } 10 u x) u)))) ∧
  (∀ i s t u x r, frozen s = false → takeSync i (fun op => op == 11) s = some (t, u) → r = (⟨true, 0, (tagOf t.tag).workId % 256⟩ : ORef) →
    x = obj u r → (bit x.children t.link = true ∨ x.parent = t.link + 1) → x.used = true → x.orphaned = false →
    exec (.orphan i) s = .next (
      let m := orphanNode r.k t.link (setObj r (signed_ { unit := (tagOf t.tag).unit, chip := (tagOf t.tag).chip, remote := true } 11 u x) u)
      nodesOrphaned m.1.1 m.1.2 m.2)) ∧
  (∀ i s t u r, frozen s = false → takeSync i (fun op => op == 12) s = some (t, u) → tagObj u (tagOf t.tag).workId = some r →
    ∃ v, exec (.withdraw i) s = .next v ∧ (∀ w ∈ (obj v r).waiters, w.unit = (tagOf t.tag).unit → w.remote = true) ∧
    (obj v r).waiters = (obj u r).waiters.filter (fun w => !(w.unit == (tagOf t.tag).unit && !w.remote)) ∧
    (obj v r).cur = (obj u r).cur) ∧
  (∀ p s e, frozen s = false → (runAt (core s p) 13).find? (fun e => e.ph == 2 && !e.held && e.chip != chipId s && decide (e.sent + 100000 ≤ now s)) = some e →
    exec (.syncTimeout p) s = .next (finishSync p e (resultWord 10 false false 0) (syncErrAt (syncCtr ⟨false, p, 0⟩) 3 s)))

/-- Records reach their rings, and cadences send jobs. The record of a die that came first at the pins is appended to its
context's ring, padded to an entry, and WR_IDX and the counts rise; one without a context, or that does not fit its
entry or ring, is dropped and counted; a record whose turn has not come waits (R302). N records since the last cadence
event make one (R304), but not in the cycle of a tick's (R305). A tick within 50 ns of its instant is a cadence event
once (R304), after a record that can be appended (R305), skipped while a heave-to holds the tags (R536), and none with
mode 3 and no new record; a cadence event sends a job of the newest version with the next WORK_ID where its instance
has room and the context's limit allows it, and is otherwise a counted skip (R306). The order of records over both
dies, and a tick's wait for a record, are the model's (log 47). -/
def Obligations.RecordsAndCadencesComplete : Prop :=
  (∀ d s, frozen s = true ∨ mgetD s.records d [] = [] → exec (.recordAppend d) s = .next s) ∧
  (∀ d s a r l, frozen s = false → mgetD s.records d [] = (a, r) :: l →
    (recordHeld s r = true ∨ recordReady s a = false ∨ ∃ e ∈ s.records, ∃ y ∈ e.2, y.1 < a) → exec (.recordAppend d) s = .next s) ∧
  (∀ d s a r l u i t x, frozen s = false → mgetD s.records d [] = (a, r) :: l → recordHeld s r = false → recordReady s a = true →
    (∀ e ∈ s.records, ∀ y ∈ e.2, a ≤ y.1) → u = { s with records := msetD s.records d l [] } →
    resolve u r = some i → recordRow u (some i) r = 4 → t = scTpl (objsOf u (leAt r 18 2)) i → x = freshRing u (leAt r 18 2) (ctxOf u i) →
    exec (.recordAppend d) s = .next (recordCadence i t (perf (scCtr (tplHome t)) 1
      (devWrite (tplRing t + x.wr % 2 ^ u8 t 14 * (32 * tplUnits t)) (padTo (32 * tplUnits t) r)
        (setCtx i { x with wr := (x.wr + 1) % 2 ^ 32, since := min (x.since + 1) 0xFFFFFFFF, count := x.count + 1 } u))))) ∧
  (∀ i t s, recordCadence i t s = if (tplCadMode t = 1 ∨ tplCadMode t = 3) ∧ leAt t 12 2 ≤ (ctxOf s i).since ∧ (ctxOf s i).tickEvt ≠ now s + 1
    then setCtx i { ctxOf (cadence i t s) i with evt := now (cadence i t s) + 1 } (cadence i t s) else s) ∧
  (∀ d s a r l u, frozen s = false → mgetD s.records d [] = (a, r) :: l → recordHeld s r = false → recordReady s a = true →
    (∀ e ∈ s.records, ∀ y ∈ e.2, a ≤ y.1) → u = { s with records := msetD s.records d l [] } →
    (resolve u r = none ∨ recordRow u (resolve u r) r = 0) → exec (.recordAppend d) s = .next (scErr d 0 u)) ∧
  (∀ d s a r l u i, frozen s = false → mgetD s.records d [] = (a, r) :: l → recordHeld s r = false → recordReady s a = true →
    (∀ e ∈ s.records, ∀ y ∈ e.2, a ≤ y.1) → u = { s with records := msetD s.records d l [] } →
    resolve u r = some i → (recordRow u (some i) r = 1 ∨ recordRow u (some i) r = 2) →
    exec (.recordAppend d) s = .next (scErr d 1 (ctxCount i 2 u))) ∧
  (∀ i s t k, i < 65536 → scValid s.ver.newest.objs i = true → (ctxOf s i).st ≠ 0 → t = scTpl s.ver.newest.objs i →
    (tplCadMode t = 2 ∨ tplCadMode t = 3 ∧ (ctxOf s i).since ≠ 0) → lastTick t (now s) = some k → now s ≤ k + 50 → (ctxOf s i).tick ≤ k →
    (ctxOf s i).evt ≠ now s + 1 → (holding s = true ∨ recordWaits s (tplHome t) i = false) →
    ∃ u, u = setCtx i { ctxOf s i with tick := k + 1, tickEvt := now s + 1 } s ∧
    exec (.cadenceTick i) s = .next (if holding s then scErr (tplHome t) 2 (ctxCount i 3 u) else cadence i t u)) ∧
  (∀ i s t k, i < 65536 → scValid s.ver.newest.objs i = true → (ctxOf s i).st ≠ 0 → t = scTpl s.ver.newest.objs i →
    (tplCadMode t = 3 ∧ (ctxOf s i).since = 0 ∨ (tplCadMode t = 2 ∨ tplCadMode t = 3) ∧ (ctxOf s i).evt = now s + 1) → lastTick t (now s) = some k → now s ≤ k + 50 →
    (ctxOf s i).tick ≤ k → (holding s = true ∨ recordWaits s (tplHome t) i = false) →
    exec (.cadenceTick i) s = .next (setCtx i { ctxOf s i with tick := k + 1 } s)) ∧
  (∀ i s t, t = scTpl s.ver.newest.objs i → (65536 ≤ i ∨ scValid s.ver.newest.objs i = false ∨ (ctxOf s i).st = 0 ∨ tplCadMode t < 2 ∨
    lastTick t (now s) = none ∨ (∃ k, lastTick t (now s) = some k ∧ (50 < now s - k ∨ k < (ctxOf s i).tick ∨
      holding s = false ∧ recordWaits s (tplHome t) i = true))) → exec (.cadenceTick i) s = .next s) ∧
  (∀ i t s, pickInst s s.ver.newest.objs (tplModel t) (tplInst t) = none → cadence i t s = scErr (tplHome t) 2 (ctxCount i 3 s)) ∧
  (∀ i t s k, pickInst s s.ver.newest.objs (tplModel t) (tplInst t) = some k →
    ((inst? s k).isSome = false ∨ 1024 ≤ queuedJobs s k ∨ ctxState s i ≠ 1 ∨ u8 t 7 ≤ (ctxOf s i).inflight) →
    cadence i t s = scErr (tplHome t) 2 (ctxCount i 3 s)) ∧
  (∀ i t s k, pickInst s s.ver.newest.objs (tplModel t) (tplInst t) = some k → (inst? s k).isSome = true → queuedJobs s k < 1024 → ctxState s i = 1 →
    (ctxOf s i).inflight < u8 t 7 → ∃ j u, cadence i t s = queueJob k j u ∧ j.version = newestNum s ∧ j.wid = s.workId ∧ j.origin = tplHome t ∧
      leAt j.desc 2 2 = i % 65536 ∧ u.workId = (s.workId + 1) % 2 ^ 32 ∧ (ctxOf u i).inflight = (ctxOf s i).inflight + 1 ∧ (ctxOf u i).since = 0)

/-- Arrival, start, saving, resumption and end of jobs. The job tag that is served first is queued at its instance (R310),
discarded as late (R38), or refused with VERSION, NOT_FOUND or BUSY, which its originator is told (R42, R310). The
head of a free instance's queue starts on every rank (R311), is discarded where it is late (R311), goes to another
instance where a core refuses it (R47), and ends as RETIRED on an instance out of service (R517). A rank at its
pre-emption point is saved to its save area in HBM and its core freed (R293, R294), and resumes where it stood (R295),
or ends FAULTED where its context reads as poison (R355). When every rank has ended the job ends, with the worst
status and its result on its way (R312). A reload ends with the placements in place (R308, R309). -/
def Obligations.JobsComplete : Prop :=
  (∀ i s t u g o k j, frozen s = false → takeTag i (fun t => t.kind == 2) s = some (t, u) → g = tagOf t.tag → o = objsOf u g.version →
    (liveObjs u g.version).isSome = true → pickInst u o (u8 t.body 0) (u8 t.body 1) = some k → (inst? u k).isSome = true →
    j = ({
    desc := padTo 64 (t.body.take 4 ++ le 4 g.workId ++ t.body.drop 8), wid := g.workId, version := g.version,
      deadline := g.deadline, origin := if t.link = 8 then 3 else 4, chip := g.chip, unit := g.unit, bmis := t.bmis } : Job) →
    ((isLate g.deadline (now u) = false ∨ g.lateOk = true) → queuedJobs u k < 1024 →
      exec (.jobArrive i) s = .next (queueJob k j (if t.link = 8 then djobStatus g.unit (chipId u) g.workId 0 u else u))) ∧
    (isLate g.deadline (now u) = true → g.lateOk = false →
      exec (.jobArrive i) s = .next (discardLate k j (if t.link = 8 then djobStatus g.unit (chipId u) g.workId 15 u else u))) ∧
    ((isLate g.deadline (now u) = false ∨ g.lateOk = true) → 1024 ≤ queuedJobs u k →
      exec (.jobArrive i) s = .next (if t.link = 8 then djobStatus g.unit (chipId u) g.workId 6 u else sendReturn j 6 false [] u))) ∧
  (∀ i s t u g j, frozen s = false → takeTag i (fun t => t.kind == 2) s = some (t, u) → g = tagOf t.tag →
    j = ({
    desc := padTo 64 (t.body.take 4 ++ le 4 g.workId ++ t.body.drop 8), wid := g.workId, version := g.version,
      deadline := g.deadline, origin := if t.link = 8 then 3 else 4, chip := g.chip, unit := g.unit, bmis := t.bmis } : Job) →
    (liveObjs u g.version = none → exec (.jobArrive i) s =
      .next (if t.link = 8 then djobStatus g.unit (chipId u) g.workId 7 u else sendReturn j 7 false [] u)) ∧
    ((liveObjs u g.version).isSome = true → pickInst u (objsOf u g.version) (u8 t.body 0) (u8 t.body 1) = none → exec (.jobArrive i) s =
      .next (if t.link = 8 then djobStatus g.unit (chipId u) g.workId 13 u else sendReturn j 13 false [] u))) ∧
  (∀ i s, frozen s = true ∨ takeTag i (fun t => t.kind == 2) s = none → exec (.jobArrive i) s = .next s) ∧
  (∀ i s x j f n, frozen s = false → inst? s i = some x → headJob x = some j → x.running = none → j.saved = [] → jobsRun s = true → x.out = false →
    placeOf (objsOf s j.version) i = (f, n) → n ≠ 0 → coresIdle s f n = true → refuses s (objsOf s j.version) i = false →
    (isLate j.deadline (now s) = false ∨ j.lateOk = true) →
    ∃ t y k, exec (.jobStart i) s = .next t ∧ inst? t i = some y ∧ y.running = some k ∧ k.wid = j.wid ∧ k.version = j.version ∧ k.desc = j.desc ∧
      ∀ r, r < n → (core t (physOf s (f + r))).inst = some i ∧ (core t (physOf s (f + r))).k = [] ∧
        (s.mem.poison = [] → (∀ l g, (core s l).prog = some g → g.poison = false) → (core t (physOf s (f + r))).st = 1)) ∧
  (∀ i s x j f n, frozen s = false → inst? s i = some x → headJob x = some j → x.running = none → j.saved = [] → jobsRun s = true → x.out = false →
    placeOf (objsOf s j.version) i = (f, n) → (refuses s (objsOf s j.version) i = true ∨ n ≠ 0 ∧ coresIdle s f n = true) →
    isLate j.deadline (now s) = true → j.lateOk = false →
    exec (.jobStart i) s = .next (preemptScan (discardLate i j (setInst i (unqueue j x) s)))) ∧
  (∀ i s x j k, frozen s = false → inst? s i = some x → headJob x = some j → x.running = none → j.saved = [] → jobsRun s = true → x.out = false →
    refuses s (objsOf s j.version) i = true → (isLate j.deadline (now s) = false ∨ j.lateOk = true) →
    otherInst s (objsOf s j.version) i j = some k → exec (.jobStart i) s = .next (queueJob k j (setInst i (unqueue j x) s))) ∧
  (∀ i s x j, frozen s = false → inst? s i = some x → headJob x = some j → x.running = none → j.saved = [] → jobsRun s = true → x.out = true →
    exec (.jobStart i) s = .next (preemptScan (finishJob i j 11 (setInst i (unqueue j x) s)))) ∧
  (∀ i s, frozen s = true ∨ inst? s i = none ∨ (∃ x, inst? s i = some x ∧ (headJob x = none ∨ x.running.isSome = true)) →
    exec (.jobStart i) s = .next s ∧ ∀ w, exec (.jobResume i w) s = .next s) ∧
  (∀ p a s i x j, coreOn s p = true → (core s p).st = 3 ∨ (core s p).st = 2 ∧ (core s p).preempt = true → (core s p).open_ = false →
    allEmpty (core s p) = true → inHbm s a saveLen = true → (core s p).inst = some i → inst? s i = some x → x.running = some j →
    (∀ st, (core s p).stop = some st → exec (.contextSave ⟨p, a⟩) s = .next (endRank p st s)) ∧
    ((core s p).stop = none → ∃ t, exec (.contextSave ⟨p, a⟩) s = .next t ∧ (core t p).st = 0 ∧ (core t p).inst = none ∧ (core t p).preempt = false ∧
      t.mem.hbm = (writeContext a (contextCells s p j (oidModel x.model)) s).mem.hbm)) ∧
  (∀ i s x j f sv, frozen s = false → inst? s i = some x → headJob x = some j → x.running = none → j.saved = [(0, sv)] → x.out = false →
    jobsRun s = true → placeOf (objsOf s j.version) i = (f, 1) → coresIdle s f 1 = true → contextPoison s sv.area = none →
    (∀ w, w ≠ j.wid → exec (.jobResume i w) s = .next s) ∧
    ∃ t c, exec (.jobResume i j.wid) s = .next t ∧ core t (physOf s f) = c ∧ c.st = 1 ∧ c.inst = some i ∧ c.pc = Mem.leAt s.mem.hbm (sv.area + 4) 4 % 8192 ∧
      c.step = Mem.leAt s.mem.hbm (sv.area + 8) 4 ∧ c.v = cellMap s.mem.hbm (sv.area + 2048) 4 32768) ∧
  (∀ i s x j f sv a, frozen s = false → inst? s i = some x → headJob x = some j → x.running = none → j.saved = [(0, sv)] → x.out = false →
    jobsRun s = true → placeOf (objsOf s j.version) i = (f, 1) → coresIdle s f 1 = true → contextPoison s sv.area = some a →
    exec (.jobResume i j.wid) s = .next (preemptScan (poisonRead a (setInst i { unqueue j x with
    first := f, ranks := 1,
      running := some { j with saved := [], ended := mset j.ended 0 12 } } s)))) ∧
  (∀ i s x j, frozen s = false → inst? s i = some x → x.running = some j → (∀ r, r < x.ranks → (mget j.ended r).isSome = true) →
    exec (.jobComplete i) s = .next (preemptScan (finishJob i j (if ∃ e ∈ j.ended, e.2 = 3 then 3 else if ∃ e ∈ j.ended, e.2 ≠ 0 then 12
      else if areaOk j.area then 0 else 3) (setInst i { x with running := none } s)))) ∧
  (∀ i s x, frozen s = false → inst? s i = some x → x.loading = true → s.sys.level = 0 → s.ch.pwr = 0 → ∃ t y,
    exec (.placementReloadComplete i) s = .next t ∧
    inst? t i = some y ∧ y.loading = false ∧ ∀ l ∈ instCores s i, l < s.nv.cores → (core t (physOf s l)).reload = false) ∧
  (∀ i s x, frozen s = false → inst? s i = some x → x.loading = false → x.swap ≠ 0 → s.ch.pwr ≠ 1 → x.running = none →
    (∀ j ∈ x.queue, j.version = x.swap) →
    exec (.placementReloadComplete i) s = .next (setInst i { x with swap := 0 } (loadInst (objsOf s x.swap) i s)))

/-- Results and returns. Of the results on their way to a router the one of the highest PRIORITY, the oldest of these,
leaves next (R39): with status OK its parts are delivered, a late one counted and only where LATE_OK is set (R315,
R316); a failed one tells the session that submitted it, and gives its return where one is asked for (R315). The
frames of a return are written where their copy words say, late ones only with LATE_OK; the last ends the job's
flight, and the first tells a DJOB still waiting what became of its job (R36, R310, R315, R316, R403). -/
def Obligations.ResultsComplete : Prop :=
  (∀ d s x, resultNext s d = some x → x ∈ s.results ∧ x.job.die s = d ∧ ∀ y ∈ s.results, y.job.die s = d → y.job.prio ≤ x.job.prio) ∧
  (∀ d s, frozen s = true ∨ resultNext s d = none → exec (.resultRoute d) s = .next s) ∧
  (∀ d s x u, frozen s = false → resultNext s d = some x → u = { s with results := s.results.erase x } →
    x.status = 0 → isLate x.job.deadline (now s) = false →
    exec (.resultRoute d) s = .next (deliverParts x false (if x.job.stream = 0xFFFF then perf (scCtr d + 0x10) 1 u
      else setCtx x.job.stream { ctxOf u x.job.stream with lastResult := now s } (perf (scCtr d + 0x10) 1 u)))) ∧
  (∀ d s x u, frozen s = false → resultNext s d = some x → u = { s with results := s.results.erase x } →
    x.status = 0 → isLate x.job.deadline (now s) = true → x.job.lateOk = true → x.job.stream = 0xFFFF →
    exec (.resultRoute d) s = .next (deliverParts x true (perf (scCtr d + 0x10) 1 (scErr d 3 (jobMiss (0xE4 + 8 * d) d x.job u))))) ∧
  (∀ d s x u v, frozen s = false → resultNext s d = some x → u = { s with results := s.results.erase x } →
    x.status = 0 → isLate x.job.deadline (now s) = true → x.job.lateOk = true → x.job.stream ≠ 0xFFFF →
    v = perf (scCtr d + 0x10) 1 (ctxCount x.job.stream 1 (scErr d 3 (jobMiss (0xE4 + 8 * d) d x.job u))) →
    exec (.resultRoute d) s = .next (deliverParts x true (setCtx x.job.stream { ctxOf v x.job.stream with lastResult := now v } v))) ∧
  (∀ d s x u, frozen s = false → resultNext s d = some x → u = { s with results := s.results.erase x } →
    x.status = 0 → isLate x.job.deadline (now s) = true → x.job.lateOk = false → exec (.resultRoute d) s = .next
      (notify x.job x.inst 15 true true (failed_ x.job (scErr d 4 (jobMiss (0xE4 + 8 * d) d x.job u))))) ∧
  (∀ d s x u l, frozen s = false → resultNext s d = some x → u = { s with results := s.results.erase x } →
    x.status ≠ 0 → l = isLate x.job.deadline (now s) → exec (.resultRoute d) s = .next (giveReturn x.job x.inst x.status l [] (if x.job.isHost
      then (resultEvent 2 x.job (resultBody x.job x.inst x.status l false []) u).2 else u))) ∧
  (∀ i s, frozen s = true ∨ takeTag i (fun t => t.kind == 3 && (t.unit == 0xE4 || t.unit == 0xEC)) s = none →
    exec (.returnArrive i) s = .next s) ∧
  (∀ i s t u g w v, frozen s = false → takeTag i (fun t => t.kind == 3 && (t.unit == 0xE4 || t.unit == 0xEC)) s = some (t, u) →
    g = tagOf t.tag → w = beAt t.body 0 8 → v = (if bit w 63 then dropAway g.chip g.workId u else u) →
    (isLate g.deadline (now u) = false ∨ g.lateOk = true) → (bit w 62 = false ∨ t.body.length ≤ 8) → exec (.returnArrive i) s =
      .next (if 8 < t.body.length ∧ inMem v (w % 2 ^ 48) (t.body.length - 8) = true then devWrite (w % 2 ^ 48) (t.body.drop 8) v else v)) ∧
  (∀ i s t u g w v y, frozen s = false → takeTag i (fun t => t.kind == 3 && (t.unit == 0xE4 || t.unit == 0xEC)) s = some (t, u) →
    g = tagOf t.tag → w = beAt t.body 0 8 → v = (if bit w 63 then dropAway g.chip g.workId u else u) → 8 < t.body.length → bit w 62 = true →
    y = returnAccept g.chip g.workId (leAt (t.body.drop 8) 0 2) v →
    (isLate g.deadline (now u) = false ∨ g.lateOk = true ∧ u8 (t.body.drop 8) 8 % 2 = 1) →
    exec (.returnArrive i) s = .next (if inMem y (w % 2 ^ 48) (t.body.length - 8) then devWrite (w % 2 ^ 48) (t.body.drop 8) y
      else scErr ((g.unit - 0xE4) / 8) 5 y)) ∧
  (∀ i s t u g w v y z, frozen s = false → takeTag i (fun t => t.kind == 3 && (t.unit == 0xE4 || t.unit == 0xEC)) s = some (t, u) →
    g = tagOf t.tag → w = beAt t.body 0 8 → v = (if bit w 63 then dropAway g.chip g.workId u else u) → 8 < t.body.length → bit w 62 = true →
    y = returnAccept g.chip g.workId (leAt (t.body.drop 8) 0 2) v → isLate g.deadline (now u) = true → g.lateOk = true →
    u8 (t.body.drop 8) 8 % 2 = 0 → z = raiseF {
    code := 0x0401, unit := g.unit, index := (g.unit - 0xE4) / 8, version := g.version,
      detail := g.workId + 2 ^ 32 * g.dl } (scErr ((g.unit - 0xE4) / 8) 3 y) →
    exec (.returnArrive i) s = .next (if inMem z (w % 2 ^ 48) (t.body.length - 8) then devWrite (w % 2 ^ 48) ((t.body.drop 8).set 8 1) z
      else scErr ((g.unit - 0xE4) / 8) 5 z)) ∧
  (∀ i s t u g w v, frozen s = false → takeTag i (fun t => t.kind == 3 && (t.unit == 0xE4 || t.unit == 0xEC)) s = some (t, u) →
    g = tagOf t.tag → w = beAt t.body 0 8 → v = (if bit w 63 then dropAway g.chip g.workId u else u) →
    isLate g.deadline (now u) = true → g.lateOk = false → bit w 62 = false → exec (.returnArrive i) s = .next v) ∧
  (∀ i s t u g w v y, frozen s = false → takeTag i (fun t => t.kind == 3 && (t.unit == 0xE4 || t.unit == 0xEC)) s = some (t, u) →
    g = tagOf t.tag → w = beAt t.body 0 8 → v = (if bit w 63 then dropAway g.chip g.workId u else u) → 8 < t.body.length → bit w 62 = true →
    y = returnAccept g.chip g.workId (leAt (t.body.drop 8) 0 2) v → isLate g.deadline (now u) = true → g.lateOk = false →
    exec (.returnArrive i) s = .next (raiseF {
    code := 0x0401, unit := g.unit, index := (g.unit - 0xE4) / 8, version := g.version,
      detail := g.workId + 2 ^ 32 * g.dl } (scErr ((g.unit - 0xE4) / 8) 4 y)))

/-- Errors, repair and retirement of HBM and core store. The code corrects one wrong symbol and detects two (R353). A
corrected HBM read changes no data and no poison, and asks for a repair at the row's limit, 0 being taken as 1 (R354,
R356); one whose re-read is right counts towards its pseudo-channel's retirement (R354, R512); an uncorrectable one
poisons its line and retires the pseudo-channel (R354, R359); three wrong symbols or more may pass for a correctable
pattern, and then change that line only (R353). A repair takes a spare row, its unreadable lines held as poison, or
with no spare retires the pseudo-channel (R356, R358); a migration ends, and the next that waits begins (R360); the
stacks' temperatures set the refresh rate (R349). A clean core-store word has no effect, a corrected one loses
nothing, an uncorrectable one is poisoned (R367), a bank's copy ends (R368), and a poisoned word is rewritten from its
container unless that reads as poison too (R355, R367). -/
def Obligations.MemoryEventsComplete : Prop :=
  (∀ w, rsRead [] w = 0 ∧ (∀ i, rsRead [i] w = 1) ∧ ∀ i j, i ≠ j → rsRead [i, j] w = 2) ∧
  (∀ a row e1 e2 w1 w2 s, down s = true ∨ inHbm s a 1 = false ∨ a / 64 ∉ s.mem.poison ∧ rsRead e1 w1 = 0 →
    exec (.hbmReread a row ⟨e1, e2, w1, w2⟩) s = .next s) ∧
  (∀ a row e1 e2 w1 w2 s, down s = false → inHbm s a 1 = true → a / 64 ∈ s.mem.poison →
    exec (.hbmReread a row ⟨e1, e2, w1, w2⟩) s = .next (hbErr (pchOf s a / 32) 3 s)) ∧
  (∀ a row e1 e2 w1 w2 s, down s = false → inHbm s a 1 = true → a / 64 ∉ s.mem.poison → rsRead e1 w1 = 1 →
    ∃ t, exec (.hbmReread a row ⟨e1, e2, w1, w2⟩) s = .next t ∧
    t.mem.hbm = s.mem.hbm ∧ t.mem.cs = s.mem.cs ∧ t.mem.poison = s.mem.poison ∧ (s.mem.rowCe ≤ 1 → (pchOf s a, row) ∈ t.mem.repairs)) ∧
  (∀ a row e1 e2 w1 w2 s, down s = false → inHbm s a 1 = true → a / 64 ∉ s.mem.poison → rsRead e1 w1 = 3 →
    ∃ t, exec (.hbmReread a row ⟨e1, e2, w1, w2⟩) s = .next t ∧
    t.mem.cs = s.mem.cs ∧ t.mem.poison = s.mem.poison ∧ ∀ x, x / 64 ≠ a / 64 → Mem.read t.mem.hbm x = Mem.read s.mem.hbm x) ∧
  (∀ a row e1 e2 w1 w2 s u v, down s = false → inHbm s a 1 = true → a / 64 ∉ s.mem.poison → rsRead e1 w1 = 2 → rsRead e2 w2 ≠ 2 →
    u = hbErr (pchOf s a / 32) 1 (hbErr (pchOf s a / 32) 0 (writeBack a (rsRead e2 w2) s)) →
    v = (if bit s.nv.pchRetired (pchOf s a) then (false, u) else channelEvent 2 (pchOf s a) 0 u) → exec (.hbmReread a row ⟨e1, e2, w1, w2⟩) s =
      .next (if v.1 then retirePch (pchOf s a) (hbFault 0x0101 (pchOf s a) 2 (a / 64 + 2 ^ 63) v.2)
        else hbFault 0x0101 (pchOf s a) 0 (a / 64 + 2 ^ 63) v.2)) ∧
  (∀ a row e1 e2 w1 w2 s u, down s = false → inHbm s a 1 = true → a / 64 ∉ s.mem.poison → rsRead e1 w1 = 2 → rsRead e2 w2 = 2 →
    u = hbErr (pchOf s a / 32) 2 s →
    exec (.hbmReread a row ⟨e1, e2, w1, w2⟩) s = .next (retirePch (pchOf s a) (hbFault 0x0306 (pchOf s a) 2 (a / 64) { u with
    mem := { u.mem with
      poison := sadd u.mem.poison (a / 64),
      repairs := if u.mem.repairs.contains (pchOf s a, row) then u.mem.repairs else u.mem.repairs ++ [(pchOf s a, row)] } }))) ∧
  (∀ p row l s, down s = false → (p, row) ∈ s.mem.repairs → ∃ t, exec (.hbmRowRepair p row l true) s = .next t ∧ t.mem.hbm = s.mem.hbm ∧
    t.mem.repairs = s.mem.repairs.filter (· != (p, row)) ∧ t.nv.repaired = (p, row, false) :: s.nv.repaired ∧
    ∀ x, x ∈ t.mem.poison ↔ x ∈ s.mem.poison ∨ x ∈ l ∧ inHbm s (64 * x) 64 = true ∧ pchOf s (64 * x) = p) ∧
  (∀ p row l s, down s = false → (p, row) ∈ s.mem.repairs → exec (.hbmRowRepair p row l false) s = .next (retirePch p
    { s with mem := { s.mem with repairs := s.mem.repairs.filter (· != (p, row)) } })) ∧
  (∀ p row l b s, down s = true ∨ (p, row) ∉ s.mem.repairs → exec (.hbmRowRepair p row l b) s = .next s) ∧
  (∀ h p l s, down s = false → mget s.mem.migrate h = some p → (∀ q ∈ s.mem.queued, halfOf q ≠ h) → ∃ t,
    exec (.migrationComplete h l) s = .next t ∧ t.mem.migrate = mdel s.mem.migrate h ∧ t.mem.hbm = s.mem.hbm ∧
    ∀ x ∈ s.mem.poison, x ∈ t.mem.poison) ∧
  (∀ h p q s, down s = false → mget s.mem.migrate h = some p → s.mem.queued.find? (fun p => halfOf p == h) = some q →
    exec (.migrationComplete h []) s = .next (startMigration q { s with mem := { s.mem with migrate := mdel s.mem.migrate h } })) ∧
  (∀ h l s, down s = true ∨ mget s.mem.migrate h = none → exec (.migrationComplete h l) s = .next s) ∧
  (∀ l e m s, down s = false → ∃ t, exec (.hbmTempRead l e m) s = .next t ∧ t.mem.hbm = s.mem.hbm ∧
    ∀ i, i < 12 → mget t.mem.temps i = some (l.getD i 0) ∧ bit t.mem.fastRef i = decide (1360 < toSigned 16 (l.getD i 0))) ∧
  (∀ p o k s, frozen s = true ∨ s.ch.pwr = 1 ∨ k = 0 ∨ (p * 2 ^ 26 + o) / 32 ∈ s.mem.csPoison → exec (.patrolScrub p o k) s = .next s) ∧
  (∀ p o s, frozen s = false → s.ch.pwr ≠ 1 → p < 132 → o < 2 ^ 26 → (p * 2 ^ 26 + o) / 32 ∉ s.mem.csPoison →
    ∃ t, exec (.patrolScrub p o 1) s = .next t ∧ (p * 2 ^ 26 + o) / 32 ∈ t.mem.csCorr ∧ t.mem.cs = s.mem.cs ∧ t.mem.csPoison = s.mem.csPoison) ∧
  (∀ p o k s, frozen s = false → s.ch.pwr ≠ 1 → p < 132 → o < 2 ^ 26 → 2 ≤ k → (p * 2 ^ 26 + o) / 32 ∉ s.mem.csPoison →
    ∃ t, exec (.patrolScrub p o k) s = .next t ∧ (p * 2 ^ 26 + o) / 32 ∈ t.mem.csPoison ∧ t.mem.cs = s.mem.cs) ∧
  (∀ p l b r s, frozen s = false → s.ch.pwr ≠ 1 → mgetD s.mem.copying p [] = b :: r → ∃ t, exec (.bankSpared p l) s = .next t ∧
    t.mem.cs = s.mem.cs ∧ t.mem.copying = msetD s.mem.copying p r [] ∧ t.nv.spared = mset s.nv.spared p (mgetD s.nv.spared p [] ++ [b]) ∧
    (l = [] → t.mem.csPoison = s.mem.csPoison) ∧ ∀ w ∈ l, w % 64 = b → w < 2 ^ 21 → p * 2 ^ 21 + w ∈ t.mem.csPoison) ∧
  (∀ p l s, frozen s = true ∨ s.ch.pwr = 1 ∨ mgetD s.mem.copying p [] = [] → exec (.bankSpared p l) s = .next s) ∧
  (∀ p o s r w, frozen s = false → s.ch.pwr ≠ 1 → w = o / 32 * 32 → (p * 2 ^ 26 + w) / 32 ∈ s.mem.csPoison →
    (core s p).regions.find? (fun r => (wordIn (r.dst / 2 ^ 26) (r.dst % 2 ^ 26) r.len w).2) = some r →
    (∀ i k, i < 32 → localIndex r.dst r.len (w + i) = some k → devPoison s (r.src + k) = false) →
    exec (.coreStoreRewrite p o) s = .next (csWrite p w ((List.range 32).map fun i => match localIndex r.dst r.len (w + i) with
      | some k => devByte s 0 (r.src + k)
      | none => Mem.read s.mem.cs (p * 2 ^ 26 + w + i)) s)) ∧
  (∀ p o s r w i k, frozen s = false → s.ch.pwr ≠ 1 → w = o / 32 * 32 → (p * 2 ^ 26 + w) / 32 ∈ s.mem.csPoison →
    (core s p).regions.find? (fun r => (wordIn (r.dst / 2 ^ 26) (r.dst % 2 ^ 26) r.len w).2) = some r →
    i < 32 → localIndex r.dst r.len (w + i) = some k → devPoison s (r.src + k) = true →
    ∃ k, devPoison s (r.src + k) = true ∧ exec (.coreStoreRewrite p o) s = .next (poisonRead (r.src + k) s)) ∧
  (∀ p o s, frozen s = true ∨ s.ch.pwr = 1 ∨ (p * 2 ^ 26 + o / 32 * 32) / 32 ∉ s.mem.csPoison → exec (.coreStoreRewrite p o) s = .next s)

/-- The chronometer's servo, its setting and its alarms. A comparison enters OFFSET with DELAY_PS added (R378). The first
one before any version is live steps the count (R380), 16 comparisons in a row within 2 ns lock, more than 10 ms with
a version live is HOLDOVER, and so is LOCKED without a comparison for 3 s (R380); in HOLDOVER the count runs at the
mean rate of the last lock and an offset within 10 ms ends it (R380; the form of the mean is the model's, log 96).
CH_SET takes effect at the 1PPS edge or ends with TIMEOUT (R394); an alarm fires once when the count reaches it
(R389); the 10 MHz reference comes and goes (R376), and without it the always-on domain counts on the crystal (R377). -/
def Obligations.TimeEventsComplete : Prop :=
  (∀ o s, servoUp s = false ∨ s.ch.source = 0 → exec (.chRefCompare o) s = .next s) ∧
  (∀ o s, servoUp s = true → s.ch.source ≠ 0 → ∃ t, exec (.chRefCompare o) s = .next t ∧
    t.ch.offset = clampI (-2147483647) 2147483647 (o + delay256 s) ∧ t.ch.first = false ∧ t.ch.source = s.ch.source) ∧
  (∀ o s, servoUp s = true → s.ch.source ≠ 0 → s.ch.st = 1 → s.ch.first = true → verLive s = false → ∃ t, exec (.chRefCompare o) s = .next t ∧
    t.ch.cnt = ((s.ch.cnt : Int) + (o + delay256 s) * (2 ^ 24 : Nat)).toNat ∧ t.ch.st = 1) ∧
  (∀ o s, servoUp s = true → s.ch.source ≠ 0 → s.ch.st = 1 → (s.ch.first = false ∨ verLive s = true) → within (o + delay256 s) off2ns = true →
    ∃ t, exec (.chRefCompare o) s = .next t ∧ t.ch.cnt = s.ch.cnt ∧ t.ch.inLock = s.ch.inLock + 1 ∧
      t.ch.st = if 15 ≤ s.ch.inLock then 2 else 1) ∧
  (∀ o s, servoUp s = true → s.ch.source ≠ 0 → s.ch.st = 1 → (s.ch.first = false ∨ verLive s = true) → within (o + delay256 s) off2ns = false →
    (verLive s = false ∨ within (o + delay256 s) off10ms = true) →
    ∃ t, exec (.chRefCompare o) s = .next t ∧ t.ch.cnt = s.ch.cnt ∧ t.ch.inLock = 0 ∧ t.ch.st = 1) ∧
  (∀ o s, servoUp s = true → s.ch.source ≠ 0 → (s.ch.st = 1 ∨ s.ch.st = 2) → verLive s = true → within (o + delay256 s) off10ms = false →
    ∃ t, exec (.chRefCompare o) s = .next t ∧ t.ch.st = 3 ∧ t.ch.cnt = s.ch.cnt) ∧
  (∀ o s, servoUp s = true → s.ch.source ≠ 0 → s.ch.st = 2 → (verLive s = false ∨ within (o + delay256 s) off10ms = true) →
    ∃ t, exec (.chRefCompare o) s = .next t ∧ t.ch.st = 2 ∧ t.ch.cnt = s.ch.cnt) ∧
  (∀ o s c, servoUp s = true → s.ch.source ≠ 0 → s.ch.st = 3 →
    c = { s.ch with offset := clampI (-2147483647) 2147483647 (o + delay256 s), lastCmp := now s, first := false } → exec (.chRefCompare o) s =
      .next { s with ch := if within (o + delay256 s) off10ms then { c with st := 1, inLock := 0 } else c }) ∧
  (∀ d s, (holdover d s).ch.st = 3 ∧ (holdover d s).ch.adj = meanRate (noteLock s).ch ∧ (holdover d s).ch.cnt = s.ch.cnt) ∧
  (∀ s, exec .timeHoldover s = .next (if servoUp s = true ∧ s.ch.st = 2 ∧ s.ch.lastCmp + 3000000000 ≤ now s then holdover 0 s else s)) ∧
  (∀ s w u, s.ch.setWait = some w → verLive s = false →
    u = stepTo (w.value * 1000000000 * 2 ^ 32) { s with ch := { s.ch with setWait := none } } →
    exec .chSetPpsEdge s = .next (endWait w.who 0 0 [] { u with ch := { u.ch with valid := true } })) ∧
  (∀ c s, (stepTo c s).ch.cnt = c ∧ (stepTo c s).ch.alarm = s.ch.alarm ∧ (stepTo c s).ch.st = s.ch.st) ∧
  (∀ s w, s.ch.setWait = some w → verLive s = true →
    exec .chSetPpsEdge s = .next (endWait w.who 9 0 [] { s with ch := { s.ch with setWait := none } })) ∧
  (∀ s w, s.ch.setWait = some w → exec .chSetTimeout s =
    .next (if now s < w.limit then s else endWait w.who 10 0 [] { s with ch := { s.ch with setWait := none } })) ∧
  (∀ s, s.ch.setWait = none → exec .chSetPpsEdge s = .next s ∧ exec .chSetTimeout s = .next s) ∧
  (∀ n s u, n < 4 → bit s.ch.alEn n = true → s.ch.vbk = true → mgetD s.ch.alarm n 0 ≤ now s →
    u = { s with ch := { s.ch with alEn := clrBit s.ch.alEn n, alFired := setBit s.ch.alFired n } } →
    exec (.alarmFire n) s = .next (wakeFire n (if bit s.ch.alEvent n = true ∧ s.ch.pwr ≠ 2
      then sendEvent 5 0 (le 1 n ++ zeros 7 ++ le 8 (mgetD s.ch.alarm n 0)) u else u))) ∧
  (∀ n s, 4 ≤ n ∨ bit s.ch.alEn n = false ∨ s.ch.vbk = false ∨ now s < mgetD s.ch.alarm n 0 → exec (.alarmFire n) s = .next s) ∧
  (∀ s, exec .ref10mLoss s = .next { s with ch := { s.ch with ref10 := false } } ∧
    exec .ref10mReturn s = .next { s with ch := { s.ch with ref10 := true } }) ∧
  (∀ s, (s.ch.pwr = 2 ∨ s.sys.level = 3) → s.ch.ref10 = false → exec .countOnlyEntry s = .next { s with ch := { s.ch with crystal := true } }) ∧
  (∀ s, s.ch.pwr ≠ 2 ∧ s.sys.level ≠ 3 ∨ s.ch.ref10 = true → exec .countOnlyEntry s = .next s)

/-- Wake sources, power states, temperatures and the damper. A WAKE pin's comparator sets its level, with 50 mV of
hysteresis, and a pin past its threshold or the light of a port is a wake source, which sets its cause in SLEEP and on
the way there and wakes the part in SLEEP where the wake mask has its bit (R390, R387); BANKED begins once every
instance is idle (R386). A sensor at 95 °C raises THERMAL once and HOT, and HOT clears with all below 90 °C (R513);
the working cap moves by 25 W a ms (R552). Above the working cap the damper takes one step; below 97 % for 100 µs it
undoes one (R551). -/
def Obligations.PowerEventsComplete : Prop :=
  (∀ n v s u, n < 2 → s.ch.vbk = true → u = { s with
    ch := { s.ch with
      wakeLvl := if wakeSide s n v (if bit s.ch.wakeLvl n then 50 else 0) then setBit s.ch.wakeLvl n else clrBit s.ch.wakeLvl n } } →
    exec (.wakeComparatorFire n v) s = .next (if wakeSide u n v 0 then wakeFire (4 + n) u else u)) ∧
  (∀ n v h s, (wakePol s n = false → (wakeSide s n v h = true ↔ wakeThr s n < v + h)) ∧
    (wakePol s n = true → (wakeSide s n v h = true ↔ v < wakeThr s n + h))) ∧
  (∀ n v s, 2 ≤ n ∨ s.ch.vbk = false → exec (.wakeComparatorFire n v) s = .next s) ∧
  (∀ b s, s.ch.pwr ≠ 2 → s.ch.toSleep = false → wakeFire b s = s) ∧
  (∀ b s, s.ch.pwr ≠ 2 → s.ch.toSleep = true → wakeFire b s = { s with ch := { s.ch with wakeCause := setBit s.ch.wakeCause b } }) ∧
  (∀ b s, s.ch.pwr = 2 → bit s.ch.wakeMask b = false → wakeFire b s = { s with ch := { s.ch with wakeCause := setBit s.ch.wakeCause b } }) ∧
  (∀ b s, s.ch.pwr = 2 → bit s.ch.wakeMask b = true → (wakeFire b s).ch.pwr = 0 ∧ bit (wakeFire b s).sys.srcs 9 = true) ∧
  (∀ p on l s u, p < 2 → s.ch.vbk = true → u = { s with ch := { s.ch with light := if on then setBit s.ch.light p else clrBit s.ch.light p } } →
    (on = false → exec (.lightDetect p on l) s = .next (if down s then u else setBxPort p { bxPort u p with lock := false } u)) ∧
    (on = true → exec (.lightDetect p on l) s = .next (wakeFire (6 + p) (if down s then u else setBxPort p { bxPort u p with lock := l } u)))) ∧
  (∀ p on l s, 2 ≤ p ∨ s.ch.vbk = false → exec (.lightDetect p on l) s = .next s) ∧
  (∀ s, s.ch.pwr = 3 → s.ch.toSleep = false → allIdle s = true → frozen s = false → exec .bankedEntry s = .next { s with ch := { s.ch with pwr := 1 } }) ∧
  (∀ s, s.ch.pwr ≠ 3 ∨ s.ch.toSleep = true ∨ allIdle s = false ∨ frozen s = true → exec .bankedEntry s = .next s) ∧
  (∀ k v s, down s = false → k < 48 → 1520 ≤ toSigned 16 v → exec (.thermalWarning k v) s = .next (
    let t := { s with pw := { s.pw with tj := mset s.pw.tj k (v % 65536) } }
    if s.flt.hot then t else raiseF { code := 0x0801, unit := helmUnit s, version := newestNum s, detail := 1 + 256 * k + 65536 * (v % 65536) }
      { t with flt := { t.flt with hot := true } })) ∧
  (∀ k v s, down s = true ∨ 48 ≤ k ∨ toSigned 16 v < 1520 → exec (.thermalWarning k v) s = .next s) ∧
  (∀ l s, down s = false → l.length = 48 → (∀ v ∈ l, toSigned 16 v < 1440) → exec (.thermalWarningClear l) s = .next { s with
    pw := { s.pw with tj := (List.range 48).map fun k => (k, l.getD k 0 % 65536) }, flt := { s.flt with hot := false } }) ∧
  (∀ l s, down s = false → l.length = 48 → ∃ w, exec (.workingCapStep l) s = .next { s with
    pw := { s.pw with
      tj := (List.range 48).map fun k => (k, l.getD k 0 % 65536), work := w } } ∧
    (s.flt.hot = true ∨ hbmHot s = true → w = max 900 (s.pw.work - 25)) ∧
    (w = s.pw.work ∨ w = max 900 (s.pw.work - 25) ∨ w = min s.pw.cap (s.pw.work + 25))) ∧
  (∀ r m b s u, down s = false → u = measure r m s →
    (1000 * u.pw.work < u.pw.avg → exec (.damperMeasure r m b) s = .next (damperStep b { u with pw := { u.pw with below := none } })) ∧
    (970 * u.pw.work ≤ u.pw.avg → u.pw.avg ≤ 1000 * u.pw.work →
      exec (.damperMeasure r m b) s = .next { u with pw := { u.pw with floor := false, below := none } }) ∧
    (∀ t, u.pw.avg < 970 * u.pw.work → u.pw.below = some t → exec (.damperMeasure r m b) s =
      .next (if t + 100000 ≤ now s ∧ u.pw.undone + 10000 ≤ now s then damperUndo { u with pw := { u.pw with floor := false } }
        else { u with pw := { u.pw with floor := false } })) ∧
    (u.pw.avg < 970 * u.pw.work → u.pw.below = none →
      exec (.damperMeasure r m b) s = .next { u with pw := { u.pw with floor := false, below := some (now s) } }))

/-- A chain link trains, goes down and changes its lanes. Lane lock, codeword lock, the offer and the acceptance take a
link up (R405, R406); an attempt whose lanes or version fail is repeated after 100 ms, and a step past its limit fails
(R405); a lane that fails beside lanes that lock is retired the third time in a row (R512), and offers without a
common lane retire the link (R406). Loss of lock and a DOWN flit take it down, and it trains again (R407, R399),
orphaning the tree nodes toward a partner that has been reset (R344). LANE_REQ takes effect and is answered, LANE_ACK
completes the switch, and without it in 1 ms the link trains again (R411). A codeword with up to 15 wrong symbols is
counted as corrected, one with more as uncorrectable: it loses a slice port's framing and counts towards a chain
lane's retirement (R51, R395, R512). -/
def Obligations.LinkTrainingCompletes : Prop :=
  (∀ n fast bad s, n < 8 → fwUp s = true → (link s n).retryAt = none → (link s n).st = 1 →
    (∀ i, i < 8 → bit bad i = true → bit (usableLanes s n) i = false) → exec (.clLaneLock n fast false bad) s = .next (setLink n { link s n with
      st := 2, fast := fast && (link s n).maxVer == 2, since := now s, lockFail := [] } s)) ∧
  (∀ n fast bad s l, n < 8 → fwUp s = true → (link s n).retryAt = none → (link s n).st = 1 →
    l = ((List.range 8).filter fun i => bit bad i && bit (usableLanes s n) i) → l ≠ [] →
    (l.length = popcount (usableLanes s n) 8 → exec (.clLaneLock n fast false bad) s = .next (failLink n s)) ∧
    (∀ f, l.length ≠ popcount (usableLanes s n) 8 → f = l.map (fun i => (i, mgetD (link s n).lockFail i 0 + 1)) →
      exec (.clLaneLock n fast false bad) s = .next ((f.filter fun e => 3 ≤ e.2).foldl (fun s e => retireLane n e.1 s)
        (failLink n (setLink n { link s n with lockFail := f } s))))) ∧
  (∀ n fast bad s, n < 8 → fwUp s = true → (link s n).retryAt = none → (link s n).st = 2 →
    exec (.clLaneLock n fast true bad) s = .next (sendTrainFlit n 1 (link s n).maxVer (setLink n { link s n with st := 3, since := now s } s))) ∧
  (∀ n fast w bad s, 8 ≤ n ∨ (link s n).retryAt.isSome = true ∨ fwUp s = false → exec (.clLaneLock n fast w bad) s = .next s) ∧
  (∀ n f s o, n < 8 → s.sys.level < 2 → crcOk f = true → u8 f 0 = 1 → (link s n).retryAt = none → (link s n).st = 3 → u8 f 1 = 1 →
    o = ({
    ver := u8 f 2, mask := u8 f 3, chip := beAt f 4 2, link := u8 f 6 % 8, valid := bit (u8 f 6) 3,
      cred := [beAt f 8 2, beAt f 10 2, beAt f 12 2] } : ClOffer) →
    (usableLanes s n &&& o.mask ≠ 0 → linkVer (link s n) o.ver ≠ 0 → exec (.clTrain n f) s =
      .next (sendTrainFlit n 2 (linkVer (link s n) o.ver) (setLink n { link s n with st := 4, offer := some o, since := now s } s))) ∧
    (usableLanes s n &&& o.mask = 0 → exec (.clTrain n f) s = .next (retireLink n s)) ∧
    (usableLanes s n &&& o.mask ≠ 0 → linkVer (link s n) o.ver = 0 → exec (.clTrain n f) s = .next (failLink n s))) ∧
  (∀ n f s o, n < 8 → s.sys.level < 2 → crcOk f = true → u8 f 0 = 1 → (link s n).retryAt = none → (link s n).st = 4 → u8 f 1 = 2 →
    (link s n).offer = some o →
    (u8 f 2 = linkVer (link s n) o.ver → ∃ t, exec (.clTrain n f) s = .next t ∧ (link t n).st = 5 ∧
      (link t n).ver = linkVer (link s n) o.ver ∧ (link t n).active = usableLanes s n &&& o.mask ∧ (link t n).cred = o.cred ∧
      (link t n).partner = some (o.chip, o.link, o.valid)) ∧
    (u8 f 2 ≠ linkVer (link s n) o.ver → exec (.clTrain n f) s = .next (failLink n s))) ∧
  (∀ n s t, (link s n).retryAt = some t → exec (.clTrainRetry n) s = .next (if t ≤ now s then startLink n s else s)) ∧
  (∀ n s, (link s n).retryAt = none → exec (.clTrainRetry n) s = .next
    (if 1 ≤ (link s n).st ∧ (link s n).st ≤ 4 ∧ (link s n).since + stepLimit (link s n).st < now s then failLink n s else s)) ∧
  (∀ n b s, exec (.clLockLoss ⟨n, b⟩) s = .next (if flitsRun s n then retrainLink n (if b then treeLinkLost n s else s) else s)) ∧
  (∀ n f s, flitsRun s n = true → crcOk f = true → u8 f 0 = 8 → exec (.down n f) s = .next (retrainLink n s)) ∧
  (∀ n f s m e, flitsRun s n = true → crcOk f = true → u8 f 0 = 4 →
    ((link s n).laneReq = none ∧ m = u8 f 1 &&& (link s n).active ∧ e = u8 f 2 ∨
      ∃ a t, (link s n).laneReq = some (a, t) ∧ m = u8 f 1 &&& a ∧ e = max (link s n).epoch (u8 f 2)) →
    (m ≠ 0 → exec (.laneReq n f) s = .next (let x := draw (adoptMask n m e s)
      sendCtl n ([0x05] ++ le 1 m ++ le 1 e ++ [0] ++ be 2 (Config.switchWord x.1).toNat) x.2)) ∧
    (m = 0 → exec (.laneReq n f) s = .next (retireLink n s))) ∧
  (∀ n f s m t, flitsRun s n = true → crcOk f = true → u8 f 0 = 5 → (link s n).laneReq = some (m, t) →
    exec (.laneAck n f) s = .next (if u8 f 1 = m ∧ u8 f 2 = (link s n).epoch then adoptMask n m (link s n).epoch s else s)) ∧
  (∀ n f s, (link s n).laneReq = none → crcOk f = true → exec (.laneAck n f) s = .next s) ∧
  (∀ n s m t, (link s n).laneReq = some (m, t) → exec (.laneAckTimeout n) s = .next (if t + 1000000 ≤ now s then retrainLink n s else s)) ∧
  (∀ n s, (link s n).laneReq = none → exec (.laneAckTimeout n) s = .next s) ∧
  (∀ q l k s, q < 64 → 3 ≤ (port s q).st → down s = false → 1 ≤ k →
    exec (.uncorrectableCodeword false q ⟨l, k⟩) s = .next (if k ≤ 15 then spPerf q 0x28 1 s
      else if trained (port (spErr q 0 1 s) q) then loseFraming q (spErr q 0 1 s) else spErr q 0 1 s)) ∧
  (∀ n l k s x, laneRuns s n l = true → 15 < k → x = channelEvent 0 (8 * n + l) 0 (clErr n 0 1 s) →
    exec (.uncorrectableCodeword true n ⟨l, k⟩) s = .next (if x.1 then retireLane n l x.2 else x.2)) ∧
  (∀ n l k s, laneRuns s n l = true → 1 ≤ k → k ≤ 15 → exec (.uncorrectableCodeword true n ⟨l, k⟩) s = .next (perf (clLink n + 0x30) 1 s)) ∧
  (∀ b n l k s, k = 0 ∨ b = false ∧ (64 ≤ n ∨ (port s n).st < 3 ∨ down s = true) ∨ b = true ∧ laneRuns s n l = false →
    exec (.uncorrectableCodeword b n ⟨l, k⟩) s = .next s)

/-- Flits of a chain link that is up. A data flit of type 1 with the expected SEQ is taken once its acknowledgement has
acted, any other one is answered with NACK, and one without a right CRC is counted (R397, R409); a flit of a reserved
type or channel is discarded and counted (R396, R398), and one that no credit covers makes the link train again
(R404). A heave-to marker, whose frame and tag are checked like any other's, waits for the stop (R408, R42). NACK and
the timeout replay from the oldest flit that is not acknowledged (R409); CREDIT returns credits, which are granted as
buffers free (R404). TIME_REQ is answered, and its answer is a comparison of the servo (R422). -/
def Obligations.LinkFlitsComplete : Prop :=
  (∀ n f s t v, flitsRun s n = true → crcOk f = true → t = ackLink n (beAt f 2 2) s → beAt f 0 2 = (link t n).rx → v = u8 (sub f 4 56) 0 / 16 % 4 → v < 3 →
    (isMarker (link t n) (sub f 4 56) = true ∨ (link t n).grant.getD v 0 ≠ 0) → exec (.clDataFlit n ⟨1, f⟩) s = .next (acceptFlit n f
      (setLink n { link t n with rx := ((link t n).rx + 1) % 65536, nacked := false } t))) ∧
  (∀ n f s t, flitsRun s n = true → crcOk f = true → t = ackLink n (beAt f 2 2) s → beAt f 0 2 = (link t n).rx → u8 (sub f 4 56) 0 / 16 % 4 = 3 →
    exec (.clDataFlit n ⟨1, f⟩) s = .next (frameErr n (setLink n { link t n with rx := ((link t n).rx + 1) % 65536, nacked := false } t))) ∧
  (∀ n f s t v, flitsRun s n = true → crcOk f = true → t = ackLink n (beAt f 2 2) s → beAt f 0 2 = (link t n).rx → v = u8 (sub f 4 56) 0 / 16 % 4 → v < 3 →
    isMarker (link t n) (sub f 4 56) = false → (link t n).grant.getD v 0 = 0 → exec (.clDataFlit n ⟨1, f⟩) s = .next (retrainLink n (frameErr n t))) ∧
  (∀ n f s t, flitsRun s n = true → crcOk f = true → t = ackLink n (beAt f 2 2) s → beAt f 0 2 ≠ (link t n).rx →
    exec (.clDataFlit n ⟨1, f⟩) s = .next (sendNack n t)) ∧
  (∀ n f s, flitsRun s n = true → f.length = 64 → crcOk f = false → exec (.clDataFlit n ⟨1, f⟩) s = .next (sendNack n (clErr n 1 1 s)) ∧
    exec (.clDataFlit n ⟨0, f⟩) s = .next (clErr n 1 1 s)) ∧
  (∀ n k f s, flitsRun s n = true → f.length = 64 → 2 ≤ k → exec (.clDataFlit n ⟨k, f⟩) s = .next (frameErr n s)) ∧
  (∀ n k f s, flitsRun s n = false ∨ f.length ≠ 64 ∨ k = 0 ∧ crcOk f = true → exec (.clDataFlit n ⟨k, f⟩) s = .next s) ∧
  (∀ n f s u r, r = sub f 4 56 → u = perf (clLink n + 0x28) 1 s → isMarker (link u n) r = true → acceptFlit n f s = takeMarker n r u) ∧
  (∀ n r s g u, g = sub r 2 (u8 r 1) → g.length = 44 → beAt g 10 2 = 8 → (link s n).miswired = false → s.chip.isSome = true →
    checkTag n false (tagOf (sub g 12 24)) (g.drop 36) s = (some false, u) →
    takeMarker n r s = setLink n { link u n with marker := some ((tagOf (sub g 12 24)).workId, beAt g 36 8) } (noteSeq (tagOf (sub g 12 24)) u)) ∧
  (∀ n f s, flitsRun s n = true → crcOk f = true → u8 f 0 = 3 → exec (.nack n f) s = .next (replayFrom n (beAt f 1 2) s)) ∧
  (∀ n f s, flitsRun s n = true → f.length = 64 → crcOk f = false → exec (.nack n f) s = .next (clErr n 1 1 s)) ∧
  (∀ n f s t, flitsRun s n = true → crcOk f = true → u8 f 0 = 2 → t = ackLink n (beAt f 1 2) s → exec (.credit n f) s = .next (pumpLink n (setLink n { link t n with
    cred := (List.range 3).map fun v => (link t n).cred.getD v 0 + beAt f (4 + 2 * v) 2 } t))) ∧
  (∀ n s c, flitsRun s n = true → c = (fun v => min ((link s n).back.getD v 0) 65535) → exec (.clCreditSend n) s = .next
    (sendCtl n ([0x02] ++ be 2 (link s n).rx ++ [0] ++ be 2 (c 0) ++ be 2 (c 1) ++ be 2 (c 2)) (setLink n { link s n with
      back := (List.range 3).map fun v => (link s n).back.getD v 0 - c v,
      grant := (List.range 3).map fun v => (link s n).grant.getD v 0 + c v } s))) ∧
  (∀ n s, exec (.clReplayTimeout n) s = .next (if flitsRun s n = true ∧ (link s n).replay ≠ [] ∧
    (link s n).ackT + max (4 * (link s n).rtt) 10000 ≤ now s then replayFrom n (link s n).una s else s)) ∧
  (∀ n f s t, flitsRun s n = true → crcOk f = true → u8 f 0 = 6 → t = be 8 (now s) ++ be 1 (now256 s % 256) →
    exec (.timeReq n f) s = .next (sendCtl n ([0x07] ++ zeros 7 ++ t ++ zeros 7 ++ t ++ zeros 7 ++ sub f 8 8) s)) ∧
  (∀ n f s t, flitsRun s n = true → crcOk f = true → u8 f 0 = 7 → (link s n).timeReq = some t → beAt f 40 8 = t / 256 → s.ch.source = 3 → s.ch.link = n →
    exec (.timeResp n f) s = .next (refCompare ((((stampAt f 8 : Int) - t) - ((now256 s : Int) - stampAt f 24)) / 2)
      (setLink n { link s n with timeReq := none } s))) ∧
  (∀ n f s, crcOk f = true → ((link s n).timeReq = none ∨ s.ch.source ≠ 3 ∨ s.ch.link ≠ n) → exec (.timeResp n f) s = .next s) ∧
  (∀ s, s.ch.source = 3 → flitsRun s s.ch.link = true → (link s s.ch.link).timeSent ≤ now s / 2 ^ 20 → exec .timeReqSend s = .next
    (sendCtl s.ch.link ([0x06] ++ zeros 7 ++ be 8 (now s) ++ be 1 (now256 s % 256)) (setLink s.ch.link { link s s.ch.link with
      timeSent := now s / 2 ^ 20 + 1, timeReq := some (now256 s) } s))) ∧
  (∀ s, s.ch.source ≠ 3 ∨ flitsRun s s.ch.link = false ∨ now s / 2 ^ 20 < (link s s.ch.link).timeSent → exec .timeReqSend s = .next s)

/-- Frames between the chips of a chain. Each period a chip sends its bearing exchange on a link that is up, on Weltix v1
from helm to helm (R423), and its report upward or to the host once its children have reported or the deadline has
passed (R447); a partner's body sets the link's agreement (R446), a child's report is kept for its period (R447).
UNREACH loses a route for 10 ms (R418); a relayed command runs, but not one that needs a stopped island (R537), and is
answered, or times out (R421); a copy confirmation completes the oldest copy, and without it in 10 ms copies are
refused (R403). A reset request of a partner resets the system (R481). On Weltix v1 the exchange carries its own
number as WORK_ID, which is the model's choice (log 76). -/
def Obligations.ChainFramesComplete : Prop :=
  (∀ n s c m x, (link s n).partner = some (c, m, true) → linkUp s n = true → s.chip.isSome = true → (link s n).exch ≤ now s / 2 ^ 30 → holding s = false →
    s.sys.level < 2 → ((link s n).ver = 1 → helmUp s = true) →
    x = newTag (if (link s n).ver = 1 then helmUnit s else 0xFE) (if (link s n).ver = 1 then 5 else 8) c (link s n).exchNum (newestNum s) 0xFFFFFFFF
      (if (link s n).ver = 1 then 7 else 0) 0 false false
      (setLink n { link s n with exch := now s / 2 ^ 30 + 1, exchNum := ((link s n).exchNum + 1) % 2 ^ 32 } s) →
    exec (.bearingExchangeSend n) s = .next (enqueue n (tableFrame c (tagBytes x.1) (exchangeBody x.2)) x.2)) ∧
  (∀ n s, (∀ c m, (link s n).partner ≠ some (c, m, true)) ∨ linkUp s n = false ∨ s.chip = none ∨ now s / 2 ^ 30 < (link s n).exch ∨ holding s = true →
    exec (.bearingExchangeSend n) s = .next s) ∧
  (∀ i s t u, takeIn i (fun t => ((tagOf t.tag).kind == 8 && t.body.length == 72) || plainCtl 72 t) s = some (t, u) → bearingDiffers u t.body = none →
    exec (.bearingExchange i) s = .next { u with
    ver := { u.ver with
      link := mset u.ver.link t.link (if beAt t.body 0 2 = newestNum u then 1 else 2), exchRx := mset u.ver.exchRx t.link (now u / 2 ^ 30) } }) ∧
  (∀ i s t u a b, takeIn i (fun t => ((tagOf t.tag).kind == 8 && t.body.length == 72) || plainCtl 72 t) s = some (t, u) →
    bearingDiffers u t.body = some (a, b) → ∃ v, exec (.bearingExchange i) s = .next v ∧ mgetD v.ver.link t.link 0 = 3) ∧
  (∀ s k kids got u own v, helmUp s = true → k = now s / 2 ^ 30 → s.ver.aggSent ≤ k → 1000000 ≤ now s % 2 ^ 30 →
    kids = (List.range 8).filter (bit s.ver.children) → got = (s.ver.reports.filter fun r => r.1 == k && kids.contains r.2.1) →
    (1000000 + 2000000 * s.ver.height ≤ now s % 2 ^ 30 ∨ ∀ n ∈ kids, ∃ r ∈ got, r.2.1 = n) →
    u = (if s.ver.own.any (·.1 == k) then s else countSelf s) →
    own = got.foldl (fun a r => addCounts a r.2.2) (addCounts ((u.ver.own.map (·.2)).getD [])
      [0, 0, 0, 0, 0, 0, (kids.filter fun n => !got.any fun r => r.2.1 == n).length]) →
    v = { u with ver := { u.ver with aggSent := k + 1, reports := u.ver.reports.filter fun r => decide (k < r.1) } } →
    (s.ver.parent = 0xFF → exec .aggReportSend s = .next
      (sendEvent 4 0 (reportBody le k own ++ le 2 (newestNum s) ++ zeros 6 ++ newestBearing s) v)) ∧
    (s.ver.parent ≠ 0xFF → s.chip = none → exec .aggReportSend s = .next v) ∧
    (∀ c m b x, s.ver.parent ≠ 0xFF → s.chip.isSome = true → (link s s.ver.parent).partner = some (c, m, b) →
      x = newTag (helmUnit s) 5 c 0 (newestNum s) 0xFFFFFFFF 7 0 false false v →
      exec .aggReportSend s = .next (sendPath (pathFrame (be 2 c ++ [1, 0] ++ be 6 s.ver.parent) (tagBytes x.1) (reportBody be k own)) x.2))) ∧
  (∀ s, helmUp s = false ∨ now s / 2 ^ 30 < s.ver.aggSent ∨ now s % 2 ^ 30 < 1000000 → exec .aggReportSend s = .next s) ∧
  (∀ s, (countSelf s).ver.own = some (now s / 2 ^ 30, ownCounts s) ∧ (countSelf s).ver.bmis = 0 ∧ (countSelf s).ver.reports = s.ver.reports) ∧
  (∀ i s t u, takeIn i (plainCtl 40) s = some (t, u) → exec (.aggChildReport i) s = .next (if bit u.ver.children t.link = true ∧
    now u / 2 ^ 30 ≤ beAt t.body 0 8 ∧ u.ver.aggSent ≤ beAt t.body 0 8 then { u with
    ver := { u.ver with
      reports := (u.ver.reports.filter fun r => !(r.1 == beAt t.body 0 8 && r.2.1 == t.link)) ++
        [(beAt t.body 0 8, t.link, (List.range 7).map fun j => beAt t.body (8 + 4 * j) 4)] } } else u)) ∧
  (∀ i s t u k, takeIn i (plainCtl 2) s = some (t, u) → k = errc (baseCl + 0x08) (baseCl + 0x0C) 1 1 u →
    exec (.unreach i) s = .next (endLost { k with cl := { k.cl with unreach := mset k.cl.unreach (beAt t.body 0 2) (now k + 10000000) } })) ∧
  (∀ i cr s t u, helmUp s = true → takeIn i (fun t => ctlWhat t == 1 || ctlWhat t == 2) s = some (t, u) → ctlWhat t = 2 →
    exec (.controlFrame i cr) s = .next (relayAnswer t u)) ∧
  (∀ i cr s t u, helmUp s = true → takeIn i (fun t => ctlWhat t == 1 || ctlWhat t == 2) s = some (t, u) → ctlWhat t = 1 →
    (holding s = false ∨ (innerRq (t.body.drop 8)).op ∉ islandOps) → exec (.controlFrame i cr) s = .next (runInner t cr u)) ∧
  (∀ i cr s t u, helmUp s = true → takeIn i (fun t => ctlWhat t == 1 || ctlWhat t == 2) s = some (t, u) → ctlWhat t = 1 →
    holding s = true → (innerRq (t.body.drop 8)).op ∈ islandOps → exec (.controlFrame i cr) s = .next s) ∧
  (∀ m s, (∃ r ∈ s.cl.relays, r.mbx = m ∧ r.ends ≤ now s) → exec (.clRelayTimeout m) s = .next
    (endWait m 10 0 [] { s with cl := { s.cl with relays := s.cl.relays.filter fun r => r.mbx != m } })) ∧
  (∀ m s, (∀ r ∈ s.cl.relays, r.mbx = m → now s < r.ends) → exec (.clRelayTimeout m) s = .next s) ∧
  (∀ i s t u p e, takeIn i (fun t => (tagOf t.tag).kind == 3 && t.body.isEmpty) s = some (t, u) →
    oldestCopy (copiesTo u (tagOf t.tag).chip (tagOf t.tag).workId) = some (p, e) → exec (.dcopyConfirm i) s = .next (doneEi p 12 e u)) ∧
  (∀ i s t u, takeIn i (fun t => (tagOf t.tag).kind == 3 && t.body.isEmpty) s = some (t, u) →
    oldestCopy (copiesTo u (tagOf t.tag).chip (tagOf t.tag).workId) = none → exec (.dcopyConfirm i) s = .next u) ∧
  (∀ s, exec .dcopyConfirmTimeout s = .next (if holding s then s else refuseCopies (fun e => decide (e.sent + 10000000 ≤ now s)) s)) ∧
  (∀ i s t u, takeIn i (fun t => ctlWhat t == 3) s = some (t, u) → exec (.remoteResetRequest i) s = .next (if linkUp u t.link then assertSrc 7 u else u)) ∧
  (∀ i cr s, (∀ f, takeIn i f s = none) → exec (.bearingExchange i) s = .next s ∧ exec (.aggChildReport i) s = .next s ∧ exec (.unreach i) s = .next s ∧
    exec (.controlFrame i cr) s = .next s ∧ exec (.dcopyConfirm i) s = .next s ∧ exec (.remoteResetRequest i) s = .next s)

/-- The commit instant, the retirement of a version, and its bearings. At the armed instant a complete round becomes the
newest version, the former newest the older one, and the round closes (R439); during a heave-to the round is judged as
it stood at the stop (R443); one that is not complete is not committed and is reported (R439). The older version
retires when nothing of it is in flight and RETAIN_MS has passed (R442). The staged bearing becomes ready (R438), and
a fault period ends with its summary (R507). -/
def Obligations.VersionsCommitAndRetire : Prop :=
  (∀ s r t, s.ver.round = some r → r.armed = some t → t ≤ now s → s.sys.level < 2 → holding s = false → r.complete s = true →
    exec .commitInstant s = .next (commitRound r t s)) ∧
  (∀ s r j t, s.ver.round = some r → r.armed = some t → t ≤ now s → s.sys.level < 2 → holding s = true → s.hv.round = some j → j.num = r.num →
    j.complete s = true → exec .commitInstant s = .next (commitRound j t s)) ∧
  (∀ r t s, (commitRound r t s).ver.newest.num = r.num ∧ (commitRound r t s).ver.newest.objs = r.objs ∧ (commitRound r t s).ver.newest.since = t ∧
    (commitRound r t s).ver.round = none ∧ (commitRound r t s).ver.older = (if s.ver.newest.num = 0 then none else some (s.ver.newest, t))) ∧
  (∀ s r t, s.ver.round = some r → r.armed = some t → t ≤ now s → s.sys.level < 2 →
    (∀ j, (if holding s then s.hv.round else some r) = some j → j.num ≠ r.num ∨ j.complete s = false) →
    ∃ u, exec .commitInstant s = .next u ∧ u.ver = { s.ver with round := some { r with armed := none }, missed := true } ∧ u.insts = s.insts) ∧
  (∀ s, s.ver.round = none ∨ (∃ r, s.ver.round = some r ∧ (r.armed = none ∨ ∃ t, r.armed = some t ∧ now s < t)) ∨ 2 ≤ s.sys.level →
    exec .commitInstant s = .next s) ∧
  (∀ s l t, s.ver.older = some (l, t) → inFlight s l.num = 0 → t + s.ver.retainMs * 1000000 ≤ now s → ∃ u, exec .versionRetire s = .next u ∧
    u.ver = { s.ver with older := none } ∧ u.mem = s.mem ∧ u.insts = s.insts.filter fun e => (s.ver.newest.objs.models.flatMap fun m => m.2.nums).contains e.1) ∧
  (∀ s, s.ver.older = none ∨ (∃ l t, s.ver.older = some (l, t) ∧ (inFlight s l.num ≠ 0 ∨ now s < t + s.ver.retainMs * 1000000)) →
    exec .versionRetire s = .next s) ∧
  (∀ s r, s.ver.round = some r → exec .stagedBearingReady s = .next { s with ver := { s.ver with round := some { r with bearingReady := true } } }) ∧
  (∀ s, s.ver.round = none → exec .stagedBearingReady s = .next s) ∧
  (∀ c k s, (∃ p ∈ s.flt.periods, p.code = c ∧ p.chan = k ∧ p.ends ≤ now s) → exec (.faultPeriodEnd c k) s = .next (endPeriod c k s)) ∧
  (∀ c k s, (∀ p ∈ s.flt.periods, p.code = c → p.chan = k → now s < p.ends) → exec (.faultPeriodEnd c k) s = .next s) ∧
  (∀ c k s p, s.flt.periods.find? (fun p => p.code == c && p.chan == k) = some p → p.ends ≤ now s → p.pending = 0 →
    exec (.faultPeriodEnd c k) s = .next { s with flt := { s.flt with periods := s.flt.periods.filter fun p => !(p.code == c && p.chan == k) } })

/-- What the sources of a reset do, and their release. A power-on source resets everything but the always-on domain and
MRAM, a system source keeps the always-on fields too, and a core reset clears the cores and their core stores and
keeps HBM and the versions (R480, R481, R482, R555); each sets its source and its cause. A source that is no longer
asserted is released, the timed ones 10 us after they began (R481, R483). VBK keeps the count and the reset counters
(R377, R481, R484). -/
def Obligations.ResetSourcesAct : Prop :=
  (∀ s, s.sys.level < 3 → ∃ t, exec .powerOnReset s = .next t ∧ t.sys.level = 3 ∧ bit t.sys.srcs 0 = true ∧ bit t.sys.cause 0 = true ∧
    t.nv = s.nv ∧ t.ch.cnt = s.ch.cnt ∧ t.ver = State.reset.ver ∧ t.mem = State.reset.mem ∧ t.helm = State.reset.helm ∧ t.ch.valid = false) ∧
  (∀ k s, k < 10 → s.sys.level < 3 → ∃ t, exec (.supplyTrip k) s = .next t ∧ t.sys.level = 3 ∧ bit t.sys.cause 1 = true ∧ t.sys.rail = k ∧ t.nv = s.nv) ∧
  (∀ s, s.sys.level < 3 → ∃ t, exec .refclkLoss s = .next t ∧ t.sys.level = 3 ∧ bit t.sys.srcs 10 = true ∧ bit t.sys.cause 1 = true ∧ t.sys.rail = 0x10) ∧
  (∀ s, s.sys.level < 2 → ∃ t, exec .sysRstN s = .next t ∧ t.sys.level = 2 ∧ bit t.sys.srcs 2 = true ∧ bit t.sys.cause 2 = true ∧
    t.nv = s.nv ∧ t.ch.cnt = s.ch.cnt ∧ t.ch.valid = s.ch.valid ∧ t.ver = State.reset.ver ∧ t.mem = State.reset.mem ∧ t.helm = State.reset.helm) ∧
  (∀ s, s.sys.level < 2 → s.ch.pwr ≠ 2 → ∃ t, exec .thermalTrip s = .next t ∧ t.sys.level = 2 ∧ bit t.sys.cause 8 = true ∧ t.mem = State.reset.mem) ∧
  (∀ k s, s.ch.pwr = 2 → exec .thermalTrip s = .next s ∧ exec .coreRstN s = .next s ∧ (10 ≤ k → exec (.supplyTrip k) s = .next s)) ∧
  (∀ s, s.ch.pwr ≠ 2 → 2 ≤ s.sys.level → ∃ t v, exec .sysRstN s = .next t ∧ exec .thermalTrip s = .next v ∧
    t.sys.level = s.sys.level ∧ v.sys.level = s.sys.level ∧ bit t.sys.srcs 2 = true ∧ bit v.sys.srcs 8 = true ∧ t.ver = s.ver ∧ v.ver = s.ver) ∧
  (∀ s, s.ch.pwr ≠ 2 → 1 ≤ s.sys.level → ∃ t, exec .coreRstN s = .next t ∧ t.sys.level = s.sys.level ∧ bit t.sys.srcs 3 = true ∧ t.ver = s.ver ∧
    t.cores = s.cores) ∧
  (∀ s, s.sys.level = 3 → s.ch.pwr ≠ 2 → ∃ t u, exec .powerOnReset s = .next t ∧ exec .refclkLoss s = .next u ∧ t.sys.level = 3 ∧ u.sys.level = 3 ∧
    bit t.sys.srcs 0 = true ∧ bit u.sys.srcs 10 = true ∧ u.sys.rail = 0x10 ∧ t.ver = s.ver ∧ u.ver = s.ver) ∧
  (∀ s, s.sys.level = 0 → s.ch.pwr ≠ 2 → holding s = true → ∃ t, exec .coreRstN s = .next t ∧ t.sys.level = 1 ∧ t.sys.coreRstHeld = true ∧
    t.cores = s.cores ∧ t.mem.cs = s.mem.cs) ∧
  (∀ s, s.sys.level = 0 → s.ch.pwr ≠ 2 → holding s = false → ∃ t, exec .coreRstN s = .next t ∧ t.sys.level = 1 ∧ bit t.sys.srcs 3 = true ∧
    bit t.sys.cause 3 = true ∧ t.mem.cs = [] ∧ t.mem.hbm = s.mem.hbm ∧ t.ver = s.ver ∧ t.ch = s.ch) ∧
  (∀ s t, s.sys.rstAt = some t → t ≤ now s → s.sys.level < 2 → ∃ u, exec .mbxSysAssert s = .next u ∧ u.sys.level = 2 ∧
    bit u.sys.srcs 4 = true ∧ bit u.sys.cause 4 = true) ∧
  (∀ s, s.sys.rstAt = none ∨ (∃ t, s.sys.rstAt = some t ∧ now s < t) → exec .mbxSysAssert s = .next s) ∧
  (∀ k s, bit s.sys.srcs k = true → timedSrc k = false → exec (.resetRelease k) s = .next (releaseSrc k s)) ∧
  (∀ k s, bit s.sys.srcs k = true → timedSrc k = true → mgetD s.sys.srcT k 0 + 10000 ≤ now s → exec (.resetRelease k) s = .next (releaseSrc k s)) ∧
  (∀ k s, bit s.sys.srcs k = false ∨ timedSrc k = true ∧ now s < mgetD s.sys.srcT k 0 + 10000 → exec (.resetRelease k) s = .next s) ∧
  (∀ k s, (releaseSrc k s).sys.srcs = clrBit s.sys.srcs k ∧ (releaseSrc k s).sys.level = widest (clrBit s.sys.srcs k)) ∧
  (∀ s, exec .vbkLoss s = .next { s with
    ch := { s.ch with vbk := false, cnt := 0 },
    sys := { s.sys with cnt := [], srcT := s.sys.srcT.map fun e => (e.1, 0) } }) ∧
  (∀ s, s.ch.vbk = true → exec .vbkApplied s = .next s) ∧
  (∀ s, s.ch.vbk = false → ∃ t, exec .vbkApplied s = .next t ∧ t.ch.vbk = true ∧ t.ch.cnt = 0 ∧ t.ch.valid = false ∧ t.sys.cnt = [] ∧ t.nv = s.nv)

/-- The quiesce handshake, block reset, and boot. A unit that has drained acknowledges and goes on with its operation, one
that has not by its limit is forced and reported (R486), and a unit under block reset answers when it is clear (R487).
The boot ROM reads the strap and turns on the transmitters (R493), starts the first slot whose image verifies or stops
with FW_BOOT (R497); HBM becomes ready and its repairs permanent (R357, R493); the debug unlock ends at its expiry
(R502). -/
def Obligations.QuiesceAndBootComplete : Prop :=
  (∀ u i s, (blk s u i).st = 1 → (blk s u i).op ≠ some 4 → drained s u i = true → (holding s = false ∨ 3 ≤ u) →
    exec (.quiesceAck u i) s = .next (quiesced u i 0 s)) ∧
  (∀ u i s, (blk s u i).st ≠ 1 ∨ (blk s u i).op = some 4 ∨ drained s u i = false ∨ holding s = true ∧ u < 3 →
    exec (.quiesceAck u i) s = .next s) ∧
  (∀ u i n l s, (blk s u i).st ≠ 1 ∨ now s < (blk s u i).since + (blk s u i).limit ∨ u = 1 ∨ holding s = true ∧ u < 3 →
    exec (.quiesceTimeout u i n l) s = .next s) ∧
  (∀ u i n l s, (blk s u i).st = 1 → (blk s u i).since + (blk s u i).limit ≤ now s → u ≠ 1 → (holding s = false ∨ 3 ≤ u) → (blk s u i).op ≠ some 4 →
    exec (.quiesceTimeout u i n l) s = .next (let x := abortWork u i n l s
      quiesced u i x.1 (setBlk u i (blk s u i) (forcedReset u i x.1 x.2)))) ∧
  (∀ i n l s, (blk s 0 i).st = 1 → (blk s 0 i).since + (blk s 0 i).limit ≤ now s → holding s = false → (blk s 0 i).op = some 4 →
    exec (.quiesceTimeout 0 i n l) s = .next (let x := abortWork 0 i n l s
      setBlk 0 i {} (resetOneCore i (forcedReset 0 i x.1 x.2)))) ∧
  (∀ u i s v, (blk s u i).st = 4 → (holding s = false ∨ 3 ≤ u) → v = setBlk u i {} s →
    ((u = 0 ∨ u = 1) → exec (.blockResetDone u i) s = .next (answerBlk (blk s u i) v)) ∧
    (u = 2 → exec (.blockResetDone u i) s = .next (answerBlk (blk s u i)
      (if (port v i).en = true ∧ v.ver.newest.num ≠ 0 then startTraining i v else v))) ∧
    (u = 3 → exec (.blockResetDone u i) s = .next (answerBlk (blk s u i) (startLink i v))) ∧
    (u = 4 → exec (.blockResetDone u i) s = .next (answerBlk (blk s u i)
      (if v.sys.level = 0 then { v with mem := { v.mem with selfRef := clrBit v.mem.selfRef i } } else v))) ∧
    (u = 5 → exec (.blockResetDone u i) s = .next (answerBlk (blk s u i) { v with helm := { v.helm with heldPair := none } }))) ∧
  (∀ u i s, (blk s u i).st ≠ 4 ∨ holding s = true ∧ u < 3 → exec (.blockResetDone u i) s = .next s) ∧
  (∀ l b r s, s.sys.rom = false → s.sys.level < 2 → s.ch.pwr ≠ 2 → l.length = 16 → (∀ x ∈ l, x ≤ 255) → ∃ t, exec (.bootRomStart l b r) s = .next t ∧
    t.sys.rom = true ∧ t.sys.strap = strapOf l ∧ t.sys.idOk = b ∧ t.sys.boot = (if b = false then 4 else if strapOf l % 4 = 3 then 3 else 1) ∧ t.ch.source = 1 + bits (strapOf l) 2 2 ∧
    (bxPort t 0).txOn = true ∧ (bxPort t 1).txOn = true ∧ t.nv = s.nv) ∧
  (∀ l b r s, s.sys.rom = true ∨ 2 ≤ s.sys.level ∨ s.ch.pwr = 2 ∨ l.length ≠ 16 → exec (.bootRomStart l b r) s = .next s) ∧
  (∀ v s k, s.sys.rom = true → s.sys.level < 2 → s.sys.boot = 1 → bootSrc s = 0 → (slotOrder s).find? (fun k => bit v k &&
      (match mget s.nv.slots k with | some i => imageOk s i.data | none => false)) = some k →
    exec (.firmwareStart v) s = .next (startFw ((mget s.nv.slots k).getD { len := 0 }).data (some k) { s with nv := { s.nv with pending := none } })) ∧
  (∀ v s, s.sys.rom = true → s.sys.level < 2 → s.sys.boot = 1 → bootSrc s = 0 →
    (∀ k ∈ slotOrder s, bit v k = true → ∀ i, mget s.nv.slots k = some i → imageOk s i.data = false) →
    ∃ t, exec (.firmwareStart v) s = .next t ∧ t.sys.boot = 4 ∧ t.nv = { s.nv with pending := none }) ∧
  (∀ v s, s.sys.rom = false ∨ 2 ≤ s.sys.level ∨ s.sys.boot ≠ 1 ∨ bootSrc s ≠ 0 → exec (.firmwareStart v) s = .next s) ∧
  (∀ m k s, (startFw m k s).sys.boot = 2 ∧ (startFw m k s).sys.fwVer = Mem.leAt m 8 4 ∧ (startFw m k s).sys.svn = Mem.leAt m 12 4 ∧ (startFw m k s).sys.fwSlot = k) ∧
  (∀ s, fwUp s = true → s.ch.pwr ≠ 2 → exec .hbmInitComplete s = .next { s with
    mem := { s.mem with ready := true },
    nv := { s.nv with repaired := s.nv.repaired.map fun r => (r.1, r.2.1, true) } }) ∧
  (∀ s, fwUp s = false ∨ s.ch.pwr = 2 → exec .hbmInitComplete s = .next s) ∧
  (∀ s t, s.sys.dbgExp = some t → t ≤ now s → exec .debugExpiry s = .next { s with sys := { s.sys with dbg := 0, dbgExp := none } }) ∧
  (∀ s, s.sys.dbgExp = none ∨ (∃ t, s.sys.dbgExp = some t ∧ now s < t) → exec .debugExpiry s = .next s)

/-- A heave-to stops and resumes the islands, logbooks drain, and SMBus and JTAG read. At T the islands freeze and
INLINE_OK falls (R536), and at R they restart (R541); a marker closes its link's record or stops the chip (R424,
R538). A logbook that is due drains what the cap lets leave, to its ring or its session (R529). SMBus answers a word
or the block of rails (R557). JTAG answers BYPASS, IDCODE and scans, reads and writes with debug scope 2, does nothing
where an instruction is not available (R503, R558), and refuses the vendor's test logic, whose effect the spec does
not give (R558). -/
def Obligations.StopsAndReadsComplete : Prop :=
  (∀ s, s.hv.st = 1 → s.hv.t ≤ now s → ∃ t, exec .heaveToStop s = .next t ∧ t.hv.st = 2 ∧ t.hv.num = s.hv.armNum ∧ t.hv.t = s.hv.t ∧ t.hv.stopT = now s ∧
    t.inlineOk = false ∧ t.mem = s.mem ∧ t.cores = s.cores) ∧
  (∀ s, s.hv.st = 3 → s.hv.r ≤ now s → ∃ t, exec .heaveToResume s = .next t ∧ t = resume s ∧ t.hv.st = 0) ∧
  (∀ s, s.hv.st ≠ 1 ∨ now s < s.hv.t → exec .heaveToStop s = .next s) ∧
  (∀ s, s.hv.st ≠ 3 ∨ now s < s.hv.r → exec .heaveToResume s = .next s) ∧
  (∀ n s, (link s n).marker = none → exec (.heaveToMarker n) s = .next s) ∧
  (∀ n s k t, (link s n).marker = some (k, t) → holding s = true → exec (.heaveToMarker n) s = .next (
    let u := setLink n { link s n with marker := none } s
    { u with hv := { u.hv with links := mupd u.hv.links n {} fun x => { x with got := true, markerT := t } } })) ∧
  (∀ n s k t, (link s n).marker = some (k, t) → holding s = false → s.hv.ever = true → s.hv.num = k →
    exec (.heaveToMarker n) s = .next (releaseHeld n (setLink n { link s n with marker := none } s))) ∧
  (∀ n s k t, (link s n).marker = some (k, t) → holding s = false → (s.hv.ever = false ∨ s.hv.num ≠ k) →
    ∃ u, exec (.heaveToMarker n) s = .next u ∧ u.hv.st = 2 ∧ u.hv.num = k ∧ u.hv.byMarker = true ∧ (mgetD u.hv.links n {}).got = true) ∧
  (∀ k s, drainDue s k = false ∨ holding s = true ∨ 2 ≤ s.sys.level → exec (.logbookDrain k) s = .next s) ∧
  (∀ k s x, x = logbook s k → drainDue s k = true → x.brixvia = false →
    (drainRoom s x = 0 ∨ x.chip = chipId s ∧ hbmHeld s x.addr (2 ^ x.size) = true) → exec (.logbookDrain k) s = .next s) ∧
  (∀ k s x n, x = logbook s k → drainDue s k = true → holding s = false → s.sys.level < 2 → x.brixvia = false → n = drainRoom s x → n ≠ 0 →
    (x.chip ≠ chipId s ∨ hbmHeld s x.addr (2 ^ x.size) = false) →
    exec (.logbookDrain k) s = .next (ringOut k x (x.buf.take n) (setLog k { x with
      buf := x.buf.drop n, wr := x.wr + n, flush := x.flush && !(x.buf.drop n).isEmpty } s))) ∧
  (∀ k s x, x = logbook s k → drainDue s k = true → holding s = false → s.sys.level < 2 → x.brixvia = true →
    (sess s x.sess).opened = true → (sess s x.sess).gen = x.gen →
    exec (.logbookDrain k) s = .next (brixviaOut (x.buf.length + 1) x x.buf (setLog k { x with buf := [], flush := false } s))) ∧
  (∀ k s x, x = logbook s k → drainDue s k = true → holding s = false → s.sys.level < 2 → x.brixvia = true →
    ((sess s x.sess).opened = false ∨ (sess s x.sess).gen ≠ x.gen) → ∃ t, exec (.logbookDrain k) s = .next t ∧ (logbook t k).buf = []) ∧
  (∀ c s, s.sys.rom = false ∨ down s = true ∨ c ≠ 0x10 ∧ smbusWord s c = none → exec (.smbusRead c) s = .next s) ∧
  (∀ c s v, s.sys.rom = true → down s = false → c ≠ 0x10 → smbusWord s c = some v → exec (.smbusRead c) s = .next (emit (.smbus (le 2 v)) s)) ∧
  (∀ s, s.sys.rom = true → down s = false → exec (.smbusRead 0x10) s = .next
    (emit (.smbus ([22] ++ (List.range 11).flatMap fun k => le 2 (mgetD s.pw.rails k 0))) s)) ∧
  (∀ d s, s.sys.level ≠ 3 → s.ch.pwr ≠ 2 → exec (.jtagInstruction .bypass d) s = .next (emit (.jtag d) { s with jtag := { s.jtag with ir := .bypass } }) ∧
    exec (.jtagInstruction .idcode d) s = .next (emit (.jtag (le 4 (0x071604B5 + 2 ^ 28 * (Config.stepping.toNat % 16)))) { s with jtag := { s.jtag with ir := .idcode } })) ∧
  (∀ o d s, s.sys.level ≠ 3 → s.ch.pwr ≠ 2 → (o = .samplePreload ∨ o = .ac ∨ ((o = .extest ∨ o = .extestPulse ∨ o = .extestTrain) ∧ s.inlineOk = false)) →
    ∃ t, exec (.jtagInstruction o d) s = .next t ∧ t.jtag.cells = d ∧ t.jtag.ir = o) ∧
  (∀ f d s, s.sys.level ≠ 3 → s.ch.pwr ≠ 2 → dbgOpen s 2 = true → exec (.jtagInstruction (.access f none) d) s = .next (
    let x := accRead accJtag f { s with jtag := { s.jtag with ir := .access f none } }
    emit (.jtag (le 4 x.1)) x.2)) ∧
  (∀ f v d s, s.sys.level ≠ 3 → s.ch.pwr ≠ 2 → dbgOpen s 2 = true → exec (.jtagInstruction (.access f (some v)) d) s = .next
    (accWrite accJtag f (v % 2 ^ 32) { s with jtag := { s.jtag with ir := .access f (some v) } })) ∧
  (∀ o d s, jtagMay s o = false ∨ s.sys.level = 3 ∨ s.ch.pwr = 2 → exec (.jtagInstruction o d) s = .next s) ∧
  (∀ d s, s.sys.level ≠ 3 → s.ch.pwr ≠ 2 → dbgOpen s 2 = true → exec (.jtagInstruction .vendor d) s = .refused .vendorTest)

/-- The round that follows version 0x0000 is not complete before it has staged its objects. While the newest version is
0x0000, a round that has not staged the parse graph, the selection table, the lookup plan or one of the eight deadline
classes is not complete, whatever else it holds, and at its armed instant it does not become a version (R435). -/
def Obligations.FirstRoundNeedsItsObjects : Prop :=
  (∀ (s : State) (r : Round) id, s.ver.newest.num = 0 → id ∈ [oidPg, oidSel, oidPlan] ++ (List.range 8).map oidDlc → mget r.written id = none → r.complete s = false) ∧
  (∀ s r t id, s.ver.newest.num = 0 → s.ver.round = some r → r.armed = some t → (holding s = true → s.hv.round = some r) →
    id ∈ [oidPg, oidSel, oidPlan] ++ (List.range 8).map oidDlc → mget r.written id = none →
    ∃ u, exec .commitInstant s = .next u ∧ u.ver.newest = s.ver.newest)

/-- The chip id and the routing table are link state. Neither is part of a configuration object: a commit leaves both as
they are, and the bearing of the newest version is the same whatever they are. A system reset clears both: no chip id,
and every entry of the table at its value before it is set. A core reset and the block resets keep both (R413). -/
def Obligations.ChipIdAndRoutesAreLinkState : Prop :=
  (∀ r t s, (commitRound r t s).chip = s.chip ∧ (commitRound r t s).cl.route = s.cl.route) ∧
  (∀ s, ∃ t, exec .commitInstant s = .next t ∧ t.chip = s.chip ∧ t.cl.route = s.cl.route) ∧
  (∀ s c l, newestBearing { s with chip := c, cl := { s.cl with route := l } } = newestBearing s) ∧
  (∀ s, s.sys.level < 2 → ∃ t, exec .sysRstN s = .next t ∧ t.chip = none ∧ t.cl.route = [] ∧ ∀ d, routeEntry t d = 0xFF) ∧
  (∀ s, s.sys.level = 0 → s.ch.pwr ≠ 2 → holding s = false → ∃ t, exec .coreRstN s = .next t ∧ t.sys.level = 1 ∧ t.chip = s.chip ∧ t.cl.route = s.cl.route) ∧
  (∀ u i s, (clearUnit u i s).chip = s.chip ∧ (clearUnit u i s).cl.route = s.cl.route) ∧
  (∀ u i s, ∃ t, exec (.quiesceAck u i) s = .next t ∧ t.chip = s.chip ∧ t.cl.route = s.cl.route) ∧
  (∀ u i n l s, ∃ t, exec (.quiesceTimeout u i n l) s = .next t ∧ t.chip = s.chip ∧ t.cl.route = s.cl.route) ∧
  (∀ u i s, ∃ t, exec (.blockResetDone u i) s = .next t ∧ t.chip = s.chip ∧ t.cl.route = s.cl.route)

/-- The cells of an array accumulate with saturation and keep a mark of it. Each product is added and the sum clamped to
the 48-bit range, the next product being added to the clamped value. Every cell of a problem that is fed takes the
value so reached; it is marked saturated exactly where it was marked before or one of its adds clamped, and ACC_SAT is
set exactly where it was set before or any cell's add clamped. CLR takes every mark and ACC_SAT away (R208). -/
def Obligations.AccumulationSaturates : Prop :=
  (∀ v, clampI (-2 ^ 47) (2 ^ 47 - 1) v = max (-2 ^ 47) (min v (2 ^ 47 - 1))) ∧
  (∀ l x, accLine [] l x = (x, false) ∧ accLine l [] x = (x, false)) ∧
  (∀ a w la lw x, accLine (a :: la) (w :: lw) x =
    ((accLine la lw (clampI (-2 ^ 47) (2 ^ 47 - 1) (x + a * w))).1,
     (decide (x + a * w < -2 ^ 47) || decide (2 ^ 47 - 1 < x + a * w)) || (accLine la lw (clampI (-2 ^ 47) (2 ^ 47 - 1) (x + a * w))).2)) ∧
  (∀ mode j k la lw x, mode < 4 → j < modeP mode → la.length ≤ [64, 32, 16, 8].getD mode 0 → lw.length ≤ [64, 32, 16, 512].getD mode 0 → mwf x.acc = true →
    (∀ i n, i < la.length → n < lw.length →
      mgetD (feedProblem mode j k la lw x).acc (cellOf mode j i n) 0 =
        (accLine (la.getD i []) (lw.getD n []) (mgetD x.acc (cellOf mode j i n) 0)).1 ∧
      (cellOf mode j i n ∈ (feedProblem mode j k la lw x).sat ↔ cellOf mode j i n ∈ x.sat ∨
        (accLine (la.getD i []) (lw.getD n []) (mgetD x.acc (cellOf mode j i n) 0)).2 = true)) ∧
    ((feedProblem mode j k la lw x).accSat = true ↔ x.accSat = true ∨ ∃ i n, i < la.length ∧ n < lw.length ∧
      (accLine (la.getD i []) (lw.getD n []) (mgetD x.acc (cellOf mode j i n) 0)).2 = true)) ∧
  (∀ mode m n r x, (clearSlot mode m n r x).accSat = false ∧ (clearSlot mode m n r x).sat = [])

/-- A request rung again with the SEQ and OPCODE of the stored response is not executed again. Where a mailbox that holds
no waiting or running command is rung with the SEQ and OPCODE of its stored response, that response is sent in an
MBX_RESP with REPLAY set (bit 1 of FLAGS), and no command is queued: of the mailbox only the session of its last ring
changes, and the sending leaves every mailbox, the tickets, the versions, the memories and the counters as they were
(R462). -/
def Obligations.SameRequestIsReplayed : Prop :=
  (∀ m i q r s, (mbx s m).st ≠ 1 → (mbx s m).st ≠ 2 → (mbx s m).resp = some r → r.op = q.op → r.seq = q.seq → ringMbx m i q s = sendResp m i 2 r (setMbx m { mbx s m with last := i } s)) ∧
  (∀ m i r s, i < 4 → m < 32 → helmUp s = true → (sess s i).opened = true → (mbx s m).st ≠ 1 → (mbx s m).st ≠ 2 → (mbx s m).resp = some r →
    r.op = (areaRq s m).op → r.seq = (areaRq s m).seq → exec (.cwMbxDbRing i (2 ^ m)) s = .next (sendResp m i 2 r (setMbx m { mbx s m with last := i } s))) ∧
  (∀ m i r s, sendResp m i 2 r s = sendSeq i 0x11 0 (le 1 m ++ le 1 2 ++ zeros 6 ++ respBytes r) s) ∧
  (∀ m i r s, (sendResp m i 2 r s).helm.mbx = s.helm.mbx ∧ (sendResp m i 2 r s).helm.ticket = s.helm.ticket ∧
    (sendResp m i 2 r s).ver = s.ver ∧ (sendResp m i 2 r s).mem = s.mem ∧ (sendResp m i 2 r s).nv = s.nv ∧
    (sendResp m i 2 r s).cores = s.cores ∧ (sendResp m i 2 r s).ctrs = s.ctrs)
end

