-- ==== Sys2Proof/Laws/Maps.lean ====
section
/-! SUPPORT. Sparse maps and memories: reads after writes, and the canonical form that every operation keeps. -/

namespace Sys2Proof.Machine

open Sys2Proof

variable {α : Type}

/-! ### The canonical form of maps -/

/-- Every key of `m` lies above `k`. -/
def above (k : Nat) (m : Map α) : Prop := ∀ e ∈ m, k < e.1

theorem mwf_cons (e : Nat × α) (m : Map α) : mwf (e :: m) = true ↔ above e.1 m ∧ mwf m = true := by
  induction m generalizing e with
  | nil => simp [mwf, above]
  | cons f r ih =>
    obtain ⟨j, v⟩ := e
    obtain ⟨k, w⟩ := f
    simp only [mwf, Bool.and_eq_true, decide_eq_true_eq]
    constructor
    · rintro ⟨h, hr⟩
      refine ⟨?_, hr⟩
      intro x hx
      rcases List.mem_cons.mp hx with rfl | hx
      · exact h
      · exact lt_trans h ((ih (k, w)).mp hr |>.1 x hx)
    · rintro ⟨h, hr⟩
      exact ⟨h (k, w) (by simp), hr⟩

theorem mget_of_above {k : Nat} {m : Map α} (h : above k m) : mget m k = none := by
  induction m with
  | nil => rfl
  | cons e r ih =>
    have := h e (by simp)
    unfold mget
    rw [if_neg (by omega)]
    exact ih fun x hx => h x (by simp [hx])

theorem mget_mem {m : Map α} {k : Nat} {v : α} (h : mget m k = some v) : (k, v) ∈ m := by
  induction m with
  | nil => simp [mget] at h
  | cons x r ih =>
    simp only [mget] at h
    split at h
    · next hj => simp only [Option.some.injEq] at h; subst hj h; exact List.mem_cons_self ..
    · exact List.mem_cons_of_mem _ (ih h)
theorem mset_mem {m : Map α} {k : Nat} {v : α} {x : Nat × α} (h : x ∈ mset m k v) : x = (k, v) ∨ x ∈ m := by
  induction m with
  | nil => simpa [mset] using h
  | cons e r ih =>
    unfold mset at h
    split at h
    · simpa using h
    · split at h
      · rcases List.mem_cons.mp h with h | h
        · exact .inl h
        · exact .inr (by simp [h])
      · rcases List.mem_cons.mp h with h | h
        · exact .inr (by simp [h])
        · rcases ih h with h | h
          · exact .inl h
          · exact .inr (by simp [h])

theorem mdel_mem {m : Map α} {k : Nat} {x : Nat × α} (h : x ∈ mdel m k) : x ∈ m := by
  induction m with
  | nil => simp [mdel] at h
  | cons e r ih =>
    unfold mdel at h
    split at h
    · exact h
    · split at h
      · simp [h]
      · rcases List.mem_cons.mp h with h | h
        · simp [h]
        · simp [ih h]

theorem mset_wf {m : Map α} (k : Nat) (v : α) (h : mwf m = true) : mwf (mset m k v) = true := by
  induction m with
  | nil => rfl
  | cons e r ih =>
    obtain ⟨ha, hr⟩ := (mwf_cons e r).mp h
    unfold mset
    split
    · rename_i hk
      refine (mwf_cons _ _).mpr ⟨?_, h⟩
      intro x hx
      rcases List.mem_cons.mp hx with rfl | hx
      · exact hk
      · exact lt_trans hk (ha x hx)
    · split
      · rename_i hk
        subst hk
        exact (mwf_cons _ _).mpr ⟨ha, hr⟩
      · refine (mwf_cons _ _).mpr ⟨?_, ih hr⟩
        intro x hx
        rcases mset_mem hx with rfl | hx
        · show e.1 < k
          omega
        · exact ha x hx

theorem mdel_wf {m : Map α} (k : Nat) (h : mwf m = true) : mwf (mdel m k) = true := by
  induction m with
  | nil => rfl
  | cons e r ih =>
    obtain ⟨ha, hr⟩ := (mwf_cons e r).mp h
    unfold mdel
    split
    · exact h
    · split
      · exact hr
      · exact (mwf_cons _ _).mpr ⟨fun x hx => ha x (mdel_mem hx), ih hr⟩

theorem filter_wf {m : Map α} (f : Nat × α → Bool) (h : mwf m = true) : mwf (m.filter f) = true := by
  induction m with
  | nil => rfl
  | cons e r ih =>
    obtain ⟨ha, hr⟩ := (mwf_cons e r).mp h
    rw [List.filter_cons]
    split
    · exact (mwf_cons _ _).mpr ⟨fun x hx => ha x (List.mem_filter.mp hx).1, ih hr⟩
    · exact ih hr

/-! ### Reads after writes -/

@[simp] theorem mget_mset_same (m : Map α) (k : Nat) (v : α) : mget (mset m k v) k = some v := by
  induction m with
  | nil => simp [mset, mget]
  | cons e r ih =>
    unfold mset
    split
    · simp [mget]
    · split
      · simp [mget]
      · rw [mget, if_neg (by omega)]
        exact ih

theorem mget_mset_other (m : Map α) {k j : Nat} (v : α) (h : j ≠ k) : mget (mset m k v) j = mget m j := by
  induction m with
  | nil => simp [mset, mget, Ne.symm h]
  | cons e r ih =>
    unfold mset
    split
    · rw [mget, if_neg (fun x => h x.symm)]
    · split
      · rename_i hk
        subst hk
        simp [mget, Ne.symm h]
      · simp only [mget, ih]

theorem mget_mdel_same {m : Map α} (k : Nat) (h : mwf m = true) : mget (mdel m k) k = none := by
  induction m with
  | nil => rfl
  | cons e r ih =>
    obtain ⟨ha, hr⟩ := (mwf_cons e r).mp h
    unfold mdel
    split
    · rename_i hk
      rw [mget, if_neg (by omega)]
      exact mget_of_above fun x hx => lt_trans hk (ha x hx)
    · split
      · rename_i hk
        subst hk
        exact mget_of_above ha
      · rw [mget, if_neg (by omega)]
        exact ih hr

theorem mget_mdel_other (m : Map α) {k j : Nat} (h : j ≠ k) : mget (mdel m k) j = mget m j := by
  induction m with
  | nil => rfl
  | cons e r ih =>
    unfold mdel
    split
    · rfl
    · split
      · rename_i hk
        subst hk
        simp [mget, Ne.symm h]
      · simp only [mget, ih]

@[simp] theorem mgetD_mset_same (m : Map α) (k : Nat) (v d : α) : mgetD (mset m k v) k d = v := by simp [mgetD]
theorem mgetD_mset_other (m : Map α) {k j : Nat} (v d : α) (h : j ≠ k) : mgetD (mset m k v) j d = mgetD m j d := by
  simp [mgetD, mget_mset_other m v h]
theorem mgetD_msetD_same [DecidableEq α] {m : Map α} (k : Nat) (v d : α) (h : mwf m = true) : mgetD (msetD m k v d) k d = v := by
  unfold msetD
  split
  · rename_i hv
    simp [mgetD, mget_mdel_same k h, hv]
  · simp
theorem mgetD_msetD_other [DecidableEq α] (m : Map α) {k j : Nat} (v d : α) (h : j ≠ k) :
    mgetD (msetD m k v d) j d = mgetD m j d := by
  unfold msetD mgetD
  split
  · rw [mget_mdel_other m h]
  · rw [mget_mset_other m v h]
theorem msetD_wf [DecidableEq α] {m : Map α} (k : Nat) (v d : α) (h : mwf m = true) : mwf (msetD m k v d) = true := by
  unfold msetD
  split
  · exact mdel_wf k h
  · exact mset_wf k v h

/-! ### Memory -/

theorem Mem.wf_iff (m : Mem) : Mem.wf m = true ↔ mwf m = true ∧ ∀ e ∈ m, e.2 ≠ 0 := by
  simp [Mem.wf]

/-- A write keeps the canonical form. -/
theorem Mem.write_wf {m : Mem} (a : Nat) (b : Byte) (h : Mem.wf m = true) : Mem.wf (Mem.write m a b) = true := by
  obtain ⟨hw, hz⟩ := (Mem.wf_iff m).mp h
  refine (Mem.wf_iff _).mpr ⟨msetD_wf a b 0 hw, ?_⟩
  intro e he
  unfold Mem.write msetD at he
  split at he
  · exact hz e (mdel_mem he)
  · rename_i hb
    rcases mset_mem he with rfl | he
    · exact hb
    · exact hz e he

/-- A store of many bytes keeps the canonical form. -/
theorem Mem.store_wf (b : Bytes) : ∀ {m : Mem} (a : Nat), Mem.wf m = true → Mem.wf (Mem.store m a b) = true := by
  induction b with
  | nil => intro m a h; exact h
  | cons x r ih => intro m a h; exact ih (a + 1) (Mem.write_wf a x h)

/-- What is left of a memory by a filter keeps the canonical form. -/
theorem Mem.filter_wf {m : Mem} (f : Nat × Byte → Bool) (h : Mem.wf m = true) : Mem.wf (m.filter f : Mem) = true := by
  obtain ⟨hw, hz⟩ := (Mem.wf_iff m).mp h
  exact (Mem.wf_iff _).mpr ⟨Machine.filter_wf f hw, fun e he => hz e (List.mem_filter.mp he).1⟩

/-- Clearing a range keeps the canonical form. -/
theorem Mem.clear_wf {m : Mem} (a n : Nat) (h : Mem.wf m = true) : Mem.wf (Mem.clear m a n) = true := Mem.filter_wf _ h

/-- A fold of operations that keep the canonical form keeps it. -/
theorem Mem.foldl_wf {β : Type} (l : List β) (f : Mem → β → Mem) (hf : ∀ m x, Mem.wf m = true → Mem.wf (f m x) = true) :
    ∀ {m : Mem}, Mem.wf m = true → Mem.wf (l.foldl f m) = true := by
  induction l with
  | nil => intro m h; exact h
  | cons x r ih => intro m h; exact ih (hf m x h)

/-- A byte reads as what was written last. -/
theorem Mem.read_write_same {m : Mem} (a : Nat) (b : Byte) (h : Mem.wf m = true) : Mem.read (Mem.write m a b) a = b :=
  mgetD_msetD_same a b 0 ((Mem.wf_iff m).mp h).1
/-- A write leaves every other byte. -/
theorem Mem.read_write_other (m : Mem) {a c : Nat} (b : Byte) (h : c ≠ a) : Mem.read (Mem.write m a b) c = Mem.read m c :=
  mgetD_msetD_other m b 0 h
/-- A store leaves every byte outside it. -/
theorem Mem.read_store_outside (b : Bytes) : ∀ (m : Mem) (a c : Nat), (c < a ∨ a + b.length ≤ c) →
    Mem.read (Mem.store m a b) c = Mem.read m c := by
  induction b with
  | nil => intro m a c _; rfl
  | cons x r ih =>
    intro m a c h
    have h' : c < a ∨ a + (r.length + 1) ≤ c := h
    rw [Mem.store, ih _ _ _ (by omega), Mem.read_write_other m x (by omega)]
/-- A stored byte reads back. -/
theorem Mem.read_store_inside (b : Bytes) : ∀ (m : Mem) (a i : Nat), Mem.wf m = true → (h : i < b.length) →
    Mem.read (Mem.store m a b) (a + i) = b[i] := by
  induction b with
  | nil => intro m a i _ h; exact absurd h (by simp)
  | cons x r ih =>
    intro m a i hm h
    cases i with
    | zero =>
      rw [Mem.store, Mem.read_store_outside r _ _ _ (by omega)]
      exact Mem.read_write_same a x hm
    | succ i =>
      have := ih (Mem.write m a x) (a + 1) i (Mem.write_wf a x hm) (by simpa using h)
      rw [Mem.store]
      simpa [Nat.add_assoc, Nat.add_comm 1 i] using this

end Sys2Proof.Machine
end

