-- ==== Sys2Proof/Laws/Mailbox.lean ====
section
/-! SUPPORT. An accepted mailbox command runs its handler at once, on the state in which it has been taken. -/

namespace Sys2Proof.Machine

open Sys2Proof

/-- A later value at a key replaces the earlier one. -/
@[simp] theorem mset_mset {α : Type} (m : Map α) (k : Nat) (v w : α) : mset (mset m k v) k w = mset m k w := by
  induction m with
  | nil => simp [mset]
  | cons e r ih =>
    obtain ⟨j, x⟩ := e
    simp only [mset]
    split
    · simp [mset]
    · split
      · simp [mset]
      · simp [mset, *]

@[simp] theorem setMbx_setMbx (m : Nat) (x y : Mbx) (s : State) : setMbx m y (setMbx m x s) = setMbx m y s := by simp [setMbx]
@[simp] theorem mbx_setMbx (m : Nat) (x : Mbx) (s : State) : mbx (setMbx m x s) m = x := by simp [setMbx, mbx]

/-! ### The state in which a command has been taken -/

section

variable (op : Nat) (r : Req) (s : State)

@[simp] theorem busy_pending : (busy op r s).pending = s.pending := rfl
@[simp] theorem busy_free : (busy op r s).free = s.free := rfl
@[simp] theorem busy_out : (busy op r s).out = s.out := rfl
@[simp] theorem busy_ctrs : (busy op r s).ctrs = s.ctrs := rfl
@[simp] theorem busy_ovf : (busy op r s).ovf = s.ovf := rfl
@[simp] theorem busy_latch : (busy op r s).latch = s.latch := rfl
@[simp] theorem busy_tagSeq : (busy op r s).tagSeq = s.tagSeq := rfl
@[simp] theorem busy_flt : (busy op r s).flt = s.flt := rfl
@[simp] theorem busy_ver : (busy op r s).ver = s.ver := rfl
@[simp] theorem busy_ports : (busy op r s).ports = s.ports := rfl
@[simp] theorem busy_inlineOk : (busy op r s).inlineOk = s.inlineOk := rfl
@[simp] theorem busy_pipes : (busy op r s).pipes = s.pipes := rfl
@[simp] theorem busy_slices : (busy op r s).slices = s.slices := rfl
@[simp] theorem busy_dies : (busy op r s).dies = s.dies := rfl
@[simp] theorem busy_learn : (busy op r s).learn = s.learn := rfl
@[simp] theorem busy_tunits : (busy op r s).tunits = s.tunits := rfl
@[simp] theorem busy_failed : (busy op r s).failed = s.failed := rfl
@[simp] theorem busy_cjobs : (busy op r s).cjobs = s.cjobs := rfl
@[simp] theorem busy_evals : (busy op r s).evals = s.evals := rfl
@[simp] theorem busy_seqRx : (busy op r s).seqRx = s.seqRx := rfl
@[simp] theorem busy_arrived : (busy op r s).arrived = s.arrived := rfl
@[simp] theorem busy_reloading : (busy op r s).reloading = s.reloading := rfl
@[simp] theorem busy_records : (busy op r s).records = s.records := rfl
@[simp] theorem busy_ch : (busy op r s).ch = s.ch := rfl
@[simp] theorem busy_chip : (busy op r s).chip = s.chip := rfl
@[simp] theorem busy_nv : (busy op r s).nv = s.nv := rfl
@[simp] theorem busy_sys : (busy op r s).sys = s.sys := rfl
@[simp] theorem busy_jtag : (busy op r s).jtag = s.jtag := rfl
@[simp] theorem busy_hv : (busy op r s).hv = s.hv := rfl
@[simp] theorem busy_logs : (busy op r s).logs = s.logs := rfl
@[simp] theorem busy_pw : (busy op r s).pw = s.pw := rfl
@[simp] theorem busy_obsW : (busy op r s).obsW = s.obsW := rfl
@[simp] theorem busy_mem : (busy op r s).mem = s.mem := rfl
@[simp] theorem busy_cores : (busy op r s).cores = s.cores := rfl
@[simp] theorem busy_hub : (busy op r s).hub = s.hub := rfl
@[simp] theorem busy_inbox : (busy op r s).inbox = s.inbox := rfl
@[simp] theorem busy_ctx : (busy op r s).ctx = s.ctx := rfl
@[simp] theorem busy_insts : (busy op r s).insts = s.insts := rfl
@[simp] theorem busy_results : (busy op r s).results = s.results := rfl
@[simp] theorem busy_workId : (busy op r s).workId = s.workId := rfl
@[simp] theorem busy_away : (busy op r s).away = s.away := rfl
@[simp] theorem busy_cl : (busy op r s).cl = s.cl := rfl
@[simp] theorem busy_active : (busy op r s).helm.active = s.helm.active := rfl
@[simp] theorem busy_standby : (busy op r s).helm.standby = s.helm.standby := rfl
@[simp] theorem busy_stopped : (busy op r s).helm.stopped = s.helm.stopped := rfl
@[simp] theorem busy_heldPair : (busy op r s).helm.heldPair = s.helm.heldPair := rfl
@[simp] theorem busy_sess : (busy op r s).helm.sess = s.helm.sess := rfl
@[simp] theorem busy_hs : (busy op r s).helm.hs = s.helm.hs := rfl
@[simp] theorem busy_ports' : (busy op r s).helm.ports = s.helm.ports := rfl
@[simp] theorem busy_page : (busy op r s).helm.page = s.helm.page := rfl
@[simp] theorem now_busy : now (busy op r s) = now s := rfl
@[simp] theorem newestNum_busy : newestNum (busy op r s) = newestNum s := rfl
@[simp] theorem chipId_busy : chipId (busy op r s) = chipId s := rfl
@[simp] theorem holding_busy : holding (busy op r s) = holding s := rfl
@[simp] theorem down_busy : down (busy op r s) = down s := rfl
@[simp] theorem frozen_busy : frozen (busy op r s) = frozen s := rfl
@[simp] theorem helmUp_busy : helmUp (busy op r s) = helmUp s := rfl
@[simp] theorem helmUnit_busy : helmUnit (busy op r s) = helmUnit s := rfl
@[simp] theorem unlocked_busy : unlocked (busy op r s) = unlocked s := rfl
@[simp] theorem sess_busy (i) : sess (busy op r s) i = sess s i := rfl
@[simp] theorem core_busy (i) : core (busy op r s) i = core s i := rfl
@[simp] theorem link_busy (i) : link (busy op r s) i = link s i := rfl
@[simp] theorem port_busy (i) : port (busy op r s) i = port s i := rfl
@[simp] theorem die_busy (i) : die (busy op r s) i = die s i := rfl
@[simp] theorem obj_busy (i) : obj (busy op r s) i = obj s i := rfl
@[simp] theorem ctxOf_busy (i) : ctxOf (busy op r s) i = ctxOf s i := rfl
@[simp] theorem physOf_busy (i) : physOf (busy op r s) i = physOf s i := rfl
@[simp] theorem dbgOpen_busy (i) : dbgOpen (busy op r s) i = dbgOpen s i := rfl
@[simp] theorem instAt_busy (i) : inst? (busy op r s) i = inst? s i := rfl
@[simp] theorem linkUp_busy (i) : linkUp (busy op r s) i = linkUp s i := rfl
@[simp] theorem placedOn_busy (i) : placedOn (busy op r s) i = placedOn s i := rfl
@[simp] theorem blk_busy (u i : Nat) : blk (busy op r s) u i = blk s u i := rfl
theorem mbx_busy : mbx (busy op r s) r.mbx =
    { mbx s r.mbx with
      st := 2, sess := r.sess, gen := (sess s r.sess).gen, rq := some (rqOf op r), ticket := s.helm.ticket + 1, ready := none,
      seq := r.seq, last := r.sess, stalled := false } := by simp [busy]

end

/-- A request that no row rejects has its effect (R463). -/
theorem rows_pass {l : List (Nat × Bool)} {s : State} {k : CmdRes} (h : ∀ e ∈ l, e.2 = false) : rows l s k = k := by
  induction l with
  | nil => rfl
  | cons e t ih =>
    simp only [rows, h e (List.mem_cons_self ..), Bool.false_eq_true, if_false]
    exact ih fun x hx => h x (List.mem_cons_of_mem _ hx)

/-- The call that an accepted request makes. -/
def callOf (r : Req) (s : State) : Call :=
  { who := r.mbx, sess := r.sess, gen := (sess s r.sess).gen, ifv := (sess s r.sess).ifv, anchored := (sess s r.sess).anchored,
    seq := r.seq, p := r.payload, cr := r.cr }

/-- The response of a handler's result, where the command does not wait. -/
def settled (op : Nat) (r : Req) (x : CmdRes) : State :=
  if x.waits then x.s
  else setMbx r.mbx { mbx x.s r.mbx with ready := some { op := op, seq := r.seq, status := x.status, detail := x.detail, payload := x.out } } x.s

@[simp] theorem callOf_p (r : Req) (s : State) : (callOf r s).p = r.payload := rfl
@[simp] theorem callOf_sess (r : Req) (s : State) : (callOf r s).sess = r.sess := rfl
@[simp] theorem callOf_gen (r : Req) (s : State) : (callOf r s).gen = (sess s r.sess).gen := rfl
@[simp] theorem callOf_who (r : Req) (s : State) : (callOf r s).who = r.mbx := rfl
@[simp] theorem callOf_seq (r : Req) (s : State) : (callOf r s).seq = r.seq := rfl
@[simp] theorem callOf_cr (r : Req) (s : State) : (callOf r s).cr = r.cr := rfl
@[simp] theorem callOf_anchored (r : Req) (s : State) : (callOf r s).anchored = (sess s r.sess).anchored := rfl
@[simp] theorem callOf_relayed (r : Req) (s : State) : (callOf r s).relayed = false := rfl
@[simp] theorem settled_okay (op : Nat) (r : Req) (t : State) : settled op r (okay t) = answered op r 0 [] t := rfl
@[simp] theorem settled_reply (op : Nat) (r : Req) (out : Bytes) (t : State) : settled op r (reply out t) = answered op r 0 out t := rfl
@[simp] theorem settled_detail (op : Nat) (r : Req) (d : Nat) (t : State) :
    settled op r { detail := d, s := t } = answered op r d [] t := rfl
@[simp] theorem settled_waits (op : Nat) (r : Req) (t : State) : settled op r { waits := true, s := t } = t := rfl
theorem accepted_opened {op since : Nat} {r : Req} {s : State} (h : accepted op since r s = true) : (sess s r.sess).opened = true := by
  simp only [accepted, takesRing, Bool.and_eq_true] at h; exact h.1.1.1.1.2
theorem accepted_helmUp {op since : Nat} {r : Req} {s : State} (h : accepted op since r s = true) : helmUp s = true := by
  simp only [accepted, takesRing, Bool.and_eq_true] at h; exact h.1.1.1.1.1.1.1

/-- The ring of a request that its mailbox takes (R459, R462). -/
theorem ringMbx_takes {m i : Nat} {q : Rq} {s : State} (h1 : (mbx s m).st ≠ 1) (h2 : (mbx s m).st ≠ 2)
    (h3 : ∀ a, (mbx s m).resp = some a → ¬(a.op = q.op ∧ a.seq = q.seq)) :
    ringMbx m i q s = setMbx m
      { mbx s m with
        st := 1, sess := i, gen := (sess s i).gen, rq := some q, ticket := s.helm.ticket + 1, ready := none, seq := q.seq, last := i, stalled := false }
      { s with helm := { s.helm with ticket := s.helm.ticket + 1 } } := by
  have h : (mbx s m).resp.filter (fun r => r.op == q.op && r.seq == q.seq) = none := by
    cases hr : (mbx s m).resp with
    | none => rfl
    | some a => simp only [Option.filter, Bool.and_eq_true, beq_iff_eq, if_neg (h3 a hr)]
  simp only [ringMbx, h1, h2, h, Bool.or_self, decide_false, Bool.false_eq_true, if_false]
  rfl

/-- A queued request that meets no check runs its handler (R461, R463). -/
theorem startMbx_runs {h : Call → State → CmdRes} {m : Nat} {cr : Crypto} {t : State} {q : Rq} (h1 : helmUp t = true)
    (h2 : (mbx t m).st = 1) (h3 : fenceOpen t m = true) (h4 : (mbx t m).rq = some q)
    (h5 : (sess t (mbx t m).sess).opened = true) (h6 : (sess t (mbx t m).sess).gen = (mbx t m).gen)
    (h7 : reqChecks t (sess t (mbx t m).sess).ifv (sess t (mbx t m).sess).anchored q = none)
    (h8 : (holding t && islandOps.contains q.op) = false) :
    startMbx h m cr t =
      (let x := h { who := m, sess := (mbx t m).sess, gen := (mbx t m).gen, ifv := (sess t (mbx t m).sess).ifv,
                    anchored := (sess t (mbx t m).sess).anchored, seq := q.seq, p := q.payload, cr := cr }
         (setMbx m { mbx t m with st := 2, ready := none, stalled := false } t)
       if x.waits then x.s
       else setMbx m { mbx x.s m with
         ready := some { op := q.op, seq := q.seq, status := x.status, detail := x.detail, payload := x.out } } x.s) := by
  simp only [startMbx, h1, h2, h3, h4, h5, h6, h7, h8, Bool.not_true, Bool.false_or, decide_true, Bool.and_self, Bool.true_or,
    beq_self_eq_true, if_true, Bool.false_eq_true, if_false, Bool.true_and]

/-- The ring of an accepted request is taken. -/
theorem takesRing_ring {op : Nat} {r : Req} {s : State} (h : takesRing op r s = true) :
    ringMbx r.mbx r.sess (rqOf op r) s = setMbx r.mbx
      { mbx s r.mbx with
        st := 1, sess := r.sess, gen := (sess s r.sess).gen, rq := some (rqOf op r), ticket := s.helm.ticket + 1, ready := none,
        seq := r.seq, last := r.sess, stalled := false }
      { s with helm := { s.helm with ticket := s.helm.ticket + 1 } } := by
  simp only [takesRing, Bool.and_eq_true, bne_iff_ne] at h
  refine ringMbx_takes h.1.1.2.1 h.1.1.2.2 fun a e => ?_
  have := h.2
  simp only [e, rqOf] at this ⊢
  grind

/-- A request that no fence holds back starts at once. -/
theorem fencesOpen_ring {op : Nat} {r : Req} {s : State} (hr : takesRing op r s = true) (h : fencesOpen r s = true) :
    fenceOpen (ringMbx r.mbx r.sess (rqOf op r) s) r.mbx = true := by
  rw [takesRing_ring hr]
  simp only [fenceOpen, fencesOpen, mbx_setMbx, List.all_eq_true] at *
  intro e he
  rcases mset_mem he with rfl | he
  · simp
  · have := h e he
    simp only [rqOf] at *
    grind

/-- A request that passes the checks of R463 is refused by none of them. -/
theorem passesChecks_none {op since : Nat} {r : Req} {s : State} (ho : opSince op = some since) (hs : since ≠ 0)
    (h : passesChecks op since r s = true) : reqChecks s (sess s r.sess).ifv (sess s r.sess).anchored (rqOf op r) = none := by
  simp only [passesChecks] at h
  simp only [reqChecks, rqOf, ho, romMode]
  grind

/-- An accepted command runs its handler on the state in which it has been taken (R459, R461, R463). -/
theorem mbxRow_accepted {op since : Nat} {h : Call → State → CmdRes} {r : Req} {s : State} (ho : opSince op = some since)
    (hs : since ≠ 0) (ha : accepted op since r s = true) : mbxRow op h r s = settled op r (h (callOf r s) (busy op r s)) := by
  simp only [accepted, Bool.and_eq_true, Bool.not_eq_true'] at ha
  have hr := takesRing_ring ha.1.1.1
  have hf := fencesOpen_ring ha.1.1.1 ha.1.2
  have hc := passesChecks_none ho hs ha.1.1.2
  have ht := ha.1.1.1
  simp only [takesRing, Bool.and_eq_true, decide_eq_true_eq] at ht
  have e1 : reqChecks (ringMbx r.mbx r.sess (rqOf op r) s) (sess s r.sess).ifv (sess s r.sess).anchored (rqOf op r) = none := by
    rw [← hc, hr]; rfl
  have e2 : helmUp (ringMbx r.mbx r.sess (rqOf op r) s) = helmUp s := by rw [hr]; rfl
  have e3 : holding (ringMbx r.mbx r.sess (rqOf op r) s) = holding s := by rw [hr]; rfl
  have e4 : ∀ i, sess (ringMbx r.mbx r.sess (rqOf op r) s) i = sess s i := by intro i; rw [hr]; rfl
  have e5 : (ringMbx r.mbx r.sess (rqOf op r) s).helm.ticket ≠ s.helm.ticket := by rw [hr]; simp [setMbx]
  have e6 : (!helmUp s || decide (32 ≤ r.mbx) || decide (4 ≤ r.sess) || !(sess s r.sess).opened) = false := by grind
  simp only [mbxRow, e6, e5, Bool.false_eq_true, if_false]
  have e7 := congrArg (fun t => mbx t r.mbx) hr
  simp only [mbx_setMbx] at e7
  have e8 := startMbx_runs (h := h) (m := r.mbx) (cr := r.cr) (t := ringMbx r.mbx r.sess (rqOf op r) s) (q := rqOf op r)
    (by rw [e2, ht.1.1.1.1]) (by rw [e7]) hf (by rw [e7]) (by rw [e4, e7, ht.1.2]) (by rw [e4, e7]) (by rw [e4, e7]; exact e1)
    (by rw [e3]; exact ha.2)
  have e9 : setMbx r.mbx { mbx (ringMbx r.mbx r.sess (rqOf op r) s) r.mbx with st := 2, ready := none, stalled := false }
      (ringMbx r.mbx r.sess (rqOf op r) s) = busy op r s := by
    rw [e7, hr, setMbx_setMbx]
    rfl
  rw [e8, e9, e4, e7]
  rfl

end Sys2Proof.Machine
end

