-- ==== Sys2Proof/Laws/Access.lean ====
section
/-! SUPPORT. A component that has been set reads as it was set, another one as it was, and the last setting counts. -/

namespace Sys2Proof.Machine

open Sys2Proof

variable (s : State)

@[simp] theorem port_setPort_same (q : Nat) (x : Port) : port (setPort q x s) q = x := by simp [port, setPort]
theorem port_setPort_other {q j : Nat} (x : Port) (h : j ≠ q) : port (setPort q x s) j = port s j := by
  simp [port, setPort, mgetD_mset_other _ _ _ h]
@[simp] theorem setPort_setPort (q : Nat) (x y : Port) : setPort q y (setPort q x s) = setPort q y s := by simp [setPort]

@[simp] theorem pipe_setPipe_same (n : Nat) (x : Pipe) : pipe (setPipe n x s) n = x := by simp [pipe, setPipe]
theorem pipe_setPipe_other {n j : Nat} (x : Pipe) (h : j ≠ n) : pipe (setPipe n x s) j = pipe s j := by
  simp [pipe, setPipe, mgetD_mset_other _ _ _ h]
@[simp] theorem setPipe_setPipe (n : Nat) (x y : Pipe) : setPipe n y (setPipe n x s) = setPipe n y s := by simp [setPipe]

@[simp] theorem die_setDie_same (d : Nat) (x : Die) : die (setDie d x s) d = x := by simp [die, setDie]
theorem die_setDie_other {d j : Nat} (x : Die) (h : j ≠ d) : die (setDie d x s) j = die s j := by
  simp [die, setDie, mgetD_mset_other _ _ _ h]
@[simp] theorem setDie_setDie (d : Nat) (x y : Die) : setDie d y (setDie d x s) = setDie d y s := by simp [setDie]

@[simp] theorem sess_setSess_same (i : Nat) (x : Sess) : sess (setSess i x s) i = x := by simp [sess, setSess]
theorem sess_setSess_other {i j : Nat} (x : Sess) (h : j ≠ i) : sess (setSess i x s) j = sess s j := by
  simp [sess, setSess, mgetD_mset_other _ _ _ h]
@[simp] theorem setSess_setSess (i : Nat) (x y : Sess) : setSess i y (setSess i x s) = setSess i y s := by simp [setSess]

@[simp] theorem bxPort_setBxPort_same (p : Nat) (x : BxPort) : bxPort (setBxPort p x s) p = x := by simp [bxPort, setBxPort]
theorem bxPort_setBxPort_other {p j : Nat} (x : BxPort) (h : j ≠ p) : bxPort (setBxPort p x s) j = bxPort s j := by
  simp [bxPort, setBxPort, mgetD_mset_other _ _ _ h]
@[simp] theorem setBxPort_setBxPort (p : Nat) (x y : BxPort) : setBxPort p y (setBxPort p x s) = setBxPort p y s := by simp [setBxPort]

@[simp] theorem tunit_setTunit_same (u : Nat) (x : TUnit) : tunit (setTunit u x s) u = x := by simp [tunit, setTunit]
theorem tunit_setTunit_other {u j : Nat} (x : TUnit) (h : j ≠ u) : tunit (setTunit u x s) j = tunit s j := by
  simp [tunit, setTunit, mgetD_mset_other _ _ _ h]
@[simp] theorem setTunit_setTunit (u : Nat) (x y : TUnit) : setTunit u y (setTunit u x s) = setTunit u y s := by simp [setTunit]

@[simp] theorem core_setCore_same (p : Nat) (x : Core) : core (setCore p x s) p = x := by simp [core, setCore]
theorem core_setCore_other {p j : Nat} (x : Core) (h : j ≠ p) : core (setCore p x s) j = core s j := by
  simp [core, setCore, mgetD_mset_other _ _ _ h]
@[simp] theorem setCore_setCore (p : Nat) (x y : Core) : setCore p y (setCore p x s) = setCore p y s := by simp [setCore]

@[simp] theorem link_setLink_same (n : Nat) (x : Lnk) : link (setLink n x s) n = x := by simp [link, setLink]
theorem link_setLink_other {n j : Nat} (x : Lnk) (h : j ≠ n) : link (setLink n x s) j = link s j := by
  simp [link, setLink, mgetD_mset_other _ _ _ h]
@[simp] theorem setLink_setLink (n : Nat) (x y : Lnk) : setLink n y (setLink n x s) = setLink n y s := by simp [setLink]

@[simp] theorem logbook_setLog_same (k : Nat) (x : Logbook) : logbook (setLog k x s) k = x := by simp [logbook, setLog]
theorem logbook_setLog_other {k j : Nat} (x : Logbook) (h : j ≠ k) : logbook (setLog k x s) j = logbook s j := by
  simp [logbook, setLog, mgetD_mset_other _ _ _ h]
@[simp] theorem setLog_setLog (k : Nat) (x y : Logbook) : setLog k y (setLog k x s) = setLog k y s := by simp [setLog]

@[simp] theorem instOf_setInst_same (i : Nat) (x : Inst) : inst? (setInst i x s) i = some x := by simp [inst?, setInst]
@[simp] theorem setInst_setInst (i : Nat) (x y : Inst) : setInst i y (setInst i x s) = setInst i y s := by simp [setInst]

@[simp] theorem now_setPort (q : Nat) (x : Port) : now (setPort q x s) = now s := rfl
@[simp] theorem now_setPipe (n : Nat) (x : Pipe) : now (setPipe n x s) = now s := rfl
@[simp] theorem now_setDie (d : Nat) (x : Die) : now (setDie d x s) = now s := rfl
@[simp] theorem now_setSess (i : Nat) (x : Sess) : now (setSess i x s) = now s := rfl
@[simp] theorem now_setBxPort (p : Nat) (x : BxPort) : now (setBxPort p x s) = now s := rfl
@[simp] theorem now_setTunit (u : Nat) (x : TUnit) : now (setTunit u x s) = now s := rfl
@[simp] theorem now_setCore (p : Nat) (x : Core) : now (setCore p x s) = now s := rfl
@[simp] theorem now_setLink (n : Nat) (x : Lnk) : now (setLink n x s) = now s := rfl
@[simp] theorem now_setLog (k : Nat) (x : Logbook) : now (setLog k x s) = now s := rfl

end Sys2Proof.Machine
end

