-- ==== Sys2Proof/Laws/CoreOps.lean ====
section
/-! SUPPORT. What the shared operations of core instructions do: breakpoints, the step of a control word, decoding. -/

namespace Sys2Proof.Machine

open Sys2Proof

/-- An event of a kind that no breakpoint watches matches none. -/
theorem brkMatch_none (p k v : Nat) (s : State) (h : (core s p).brks.all (fun b => b.2.kind != k) = true) : brkMatch p k v s = s := by
  suffices ∀ l : List Nat, l.foldl (fun s i =>
      let c := core s p
      match mget c.brks i with
      | none => s
      | some b =>
        if b.kind == k && (b.value == v || (k == 4 && b.value == 0)) then
          if b.seen + 1 < b.count then setCore p { c with brks := mset c.brks i { b with seen := b.seen + 1 } } s
          else setCore p { c with
            brks := mset c.brks i { b with seen := 0 },
            halting := c.halting || c.st == 1,
            brkHit := if c.st == 1 && !c.halting then i else c.brkHit } s
        else s) s = s from this _
  intro l
  induction l with
  | nil => rfl
  | cons i r ih =>
    simp only [List.foldl_cons]
    cases hm : mget (core s p).brks i with
    | none => simpa [hm] using ih
    | some b =>
      have hk : (b.kind == k) = false := by
        have := List.all_eq_true.mp h (i, b) (mget_mem hm)
        simpa using this
      simpa [hm, hk] using ih

theorem core_looked (p : Nat) (s : State) : core (looked p s) p = { core s p with pass := true } := by
  unfold looked
  split
  · next h => rw [← h]
  · simp
@[simp] theorem setCore_looked (p : Nat) (c : Core) (s : State) : setCore p c (looked p s) = setCore p c s := by
  unfold looked; split <;> simp

/-- A core that stands at a legal word with its registers ready decodes it, or waits where the word has no effect yet. -/
theorem ctlStep_atWord {s : State} {p w op : Nat} (h : atWord s p w = true) (hop : bits w 63 56 = op) (f : Nat → State → Option State) :
    ctlStep p op f s = match f w (looked p s) with | some t => decoded p t | none => looked p s := by
  simp only [atWord, Bool.and_eq_true, beq_iff_eq, Bool.not_eq_true', bne_iff_ne, List.all_eq_true] at h
  have h1 := h.1.1.1.1.1
  have hl : (if (core s p).pass then s else brkMatch p 1 (core s p).pc (setCore p { core s p with pass := true } s)) = looked p s := by
    unfold looked
    split
    · rfl
    · exact brkMatch_none _ _ _ _ (by simpa using fun a b hb => (h.1.1.2 (a, b) hb).1)
  have hh : (core (looked p s) p).halting = false := by
    simp only [canDecode, Bool.and_eq_true, Bool.not_eq_true'] at h1
    simp [core_looked, h1]
  have hw : (legalCtl w) = true := h.1.1.1.2
  simp only [ctlStep, h1, h.1.1.1.1.2, Option.isNone_some, Option.getD_some, hw, hop, Bool.not_true, Bool.or_self, bne_self_eq_false,
    Bool.and_false, Bool.false_eq_true, if_false, hl, hh, h.1.2]
  all_goals (cases f w (looked p s) <;> rfl)

/-- A core that takes no single steps decodes one word more. -/
theorem decoded_setCore (p : Nat) (c : Core) (s : State) (h : c.single = false) : decoded p (setCore p c s) = decodedTo p c s := by
  simp [decoded, decodedTo, h]

theorem atWord_single {s : State} {p w : Nat} (h : atWord s p w = true) : (core s p).single = false := by
  simp only [atWord, Bool.and_eq_true, Bool.not_eq_true'] at h; exact h.2

@[simp] theorem nextPc_single (c : Core) : (nextPc c).single = c.single := rfl
@[simp] theorem setK_single (i v : Nat) (c : Core) : (setK i v c).single = c.single := by unfold setK; split <;> rfl
@[simp] theorem takeTickets_single (cw w tpl : Nat) (c : Core) : (takeTickets cw w tpl c).single = c.single := by
  unfold takeTickets; rfl

/-- An engine that stands at its instruction carries it out. -/
theorem engStep_atEngine {s : State} {p q cls op : Nat} {e : EI} (h : atEngine s p q cls op e = true) (f : EI → State → State) :
    engStep p q cls op f s = f e s := by
  simp only [atEngine, Bool.and_eq_true, beq_iff_eq, bne_iff_ne, ne_eq] at h
  simp [engStep, h.1.1.1.1.1, h.1.1.1.1.2, h.1.1.1.2, h.1.1.2, h.1.2, h.2]
/-- An engine that stands at its instruction carries it out and is done. -/
theorem engDone_atEngine {s : State} {p q cls op : Nat} {e : EI} (h : atEngine s p q cls op e = true) (f : EI → State → State) :
    engDone p q cls op f s = doneEi p q e (f e s) := engStep_atEngine h _

end Sys2Proof.Machine
end

