-- ==== Sys2Proof/Laws/State.lean ====
section
/-! SUPPORT. One lemma per field for each elementary update of the state: what it leaves as it was. -/

namespace Sys2Proof.Machine

open Sys2Proof

variable (s : State)

/-! ### setPort -/

@[simp] theorem setPort_pending (q : Nat) (x : Port) : (setPort q x s).pending = s.pending := rfl
@[simp] theorem setPort_free (q : Nat) (x : Port) : (setPort q x s).free = s.free := rfl
@[simp] theorem setPort_out (q : Nat) (x : Port) : (setPort q x s).out = s.out := rfl
@[simp] theorem setPort_ctrs (q : Nat) (x : Port) : (setPort q x s).ctrs = s.ctrs := rfl
@[simp] theorem setPort_ovf (q : Nat) (x : Port) : (setPort q x s).ovf = s.ovf := rfl
@[simp] theorem setPort_latch (q : Nat) (x : Port) : (setPort q x s).latch = s.latch := rfl
@[simp] theorem setPort_tagSeq (q : Nat) (x : Port) : (setPort q x s).tagSeq = s.tagSeq := rfl
@[simp] theorem setPort_seqRx (q : Nat) (x : Port) : (setPort q x s).seqRx = s.seqRx := rfl
@[simp] theorem setPort_flt (q : Nat) (x : Port) : (setPort q x s).flt = s.flt := rfl
@[simp] theorem setPort_ver (q : Nat) (x : Port) : (setPort q x s).ver = s.ver := rfl
@[simp] theorem setPort_inlineOk (q : Nat) (x : Port) : (setPort q x s).inlineOk = s.inlineOk := rfl
@[simp] theorem setPort_pipes (q : Nat) (x : Port) : (setPort q x s).pipes = s.pipes := rfl
@[simp] theorem setPort_slices (q : Nat) (x : Port) : (setPort q x s).slices = s.slices := rfl
@[simp] theorem setPort_dies (q : Nat) (x : Port) : (setPort q x s).dies = s.dies := rfl
@[simp] theorem setPort_learn (q : Nat) (x : Port) : (setPort q x s).learn = s.learn := rfl
@[simp] theorem setPort_tunits (q : Nat) (x : Port) : (setPort q x s).tunits = s.tunits := rfl
@[simp] theorem setPort_failed (q : Nat) (x : Port) : (setPort q x s).failed = s.failed := rfl
@[simp] theorem setPort_cjobs (q : Nat) (x : Port) : (setPort q x s).cjobs = s.cjobs := rfl
@[simp] theorem setPort_evals (q : Nat) (x : Port) : (setPort q x s).evals = s.evals := rfl
@[simp] theorem setPort_arrived (q : Nat) (x : Port) : (setPort q x s).arrived = s.arrived := rfl
@[simp] theorem setPort_records (q : Nat) (x : Port) : (setPort q x s).records = s.records := rfl
@[simp] theorem setPort_ch (q : Nat) (x : Port) : (setPort q x s).ch = s.ch := rfl
@[simp] theorem setPort_helm (q : Nat) (x : Port) : (setPort q x s).helm = s.helm := rfl
@[simp] theorem setPort_chip (q : Nat) (x : Port) : (setPort q x s).chip = s.chip := rfl
@[simp] theorem setPort_nv (q : Nat) (x : Port) : (setPort q x s).nv = s.nv := rfl
@[simp] theorem setPort_sys (q : Nat) (x : Port) : (setPort q x s).sys = s.sys := rfl
@[simp] theorem setPort_jtag (q : Nat) (x : Port) : (setPort q x s).jtag = s.jtag := rfl
@[simp] theorem setPort_hv (q : Nat) (x : Port) : (setPort q x s).hv = s.hv := rfl
@[simp] theorem setPort_logs (q : Nat) (x : Port) : (setPort q x s).logs = s.logs := rfl
@[simp] theorem setPort_pw (q : Nat) (x : Port) : (setPort q x s).pw = s.pw := rfl
@[simp] theorem setPort_obsW (q : Nat) (x : Port) : (setPort q x s).obsW = s.obsW := rfl
@[simp] theorem setPort_mem (q : Nat) (x : Port) : (setPort q x s).mem = s.mem := rfl
@[simp] theorem setPort_cores (q : Nat) (x : Port) : (setPort q x s).cores = s.cores := rfl
@[simp] theorem setPort_hub (q : Nat) (x : Port) : (setPort q x s).hub = s.hub := rfl
@[simp] theorem setPort_inbox (q : Nat) (x : Port) : (setPort q x s).inbox = s.inbox := rfl
@[simp] theorem setPort_ctx (q : Nat) (x : Port) : (setPort q x s).ctx = s.ctx := rfl
@[simp] theorem setPort_insts (q : Nat) (x : Port) : (setPort q x s).insts = s.insts := rfl
@[simp] theorem setPort_reloading (q : Nat) (x : Port) : (setPort q x s).reloading = s.reloading := rfl
@[simp] theorem setPort_results (q : Nat) (x : Port) : (setPort q x s).results = s.results := rfl
@[simp] theorem setPort_workId (q : Nat) (x : Port) : (setPort q x s).workId = s.workId := rfl
@[simp] theorem setPort_away (q : Nat) (x : Port) : (setPort q x s).away = s.away := rfl
@[simp] theorem setPort_cl (q : Nat) (x : Port) : (setPort q x s).cl = s.cl := rfl

/-! ### setPipe -/

@[simp] theorem setPipe_pending (n : Nat) (x : Pipe) : (setPipe n x s).pending = s.pending := rfl
@[simp] theorem setPipe_free (n : Nat) (x : Pipe) : (setPipe n x s).free = s.free := rfl
@[simp] theorem setPipe_out (n : Nat) (x : Pipe) : (setPipe n x s).out = s.out := rfl
@[simp] theorem setPipe_ctrs (n : Nat) (x : Pipe) : (setPipe n x s).ctrs = s.ctrs := rfl
@[simp] theorem setPipe_ovf (n : Nat) (x : Pipe) : (setPipe n x s).ovf = s.ovf := rfl
@[simp] theorem setPipe_latch (n : Nat) (x : Pipe) : (setPipe n x s).latch = s.latch := rfl
@[simp] theorem setPipe_tagSeq (n : Nat) (x : Pipe) : (setPipe n x s).tagSeq = s.tagSeq := rfl
@[simp] theorem setPipe_seqRx (n : Nat) (x : Pipe) : (setPipe n x s).seqRx = s.seqRx := rfl
@[simp] theorem setPipe_flt (n : Nat) (x : Pipe) : (setPipe n x s).flt = s.flt := rfl
@[simp] theorem setPipe_ver (n : Nat) (x : Pipe) : (setPipe n x s).ver = s.ver := rfl
@[simp] theorem setPipe_ports (n : Nat) (x : Pipe) : (setPipe n x s).ports = s.ports := rfl
@[simp] theorem setPipe_inlineOk (n : Nat) (x : Pipe) : (setPipe n x s).inlineOk = s.inlineOk := rfl
@[simp] theorem setPipe_slices (n : Nat) (x : Pipe) : (setPipe n x s).slices = s.slices := rfl
@[simp] theorem setPipe_dies (n : Nat) (x : Pipe) : (setPipe n x s).dies = s.dies := rfl
@[simp] theorem setPipe_learn (n : Nat) (x : Pipe) : (setPipe n x s).learn = s.learn := rfl
@[simp] theorem setPipe_tunits (n : Nat) (x : Pipe) : (setPipe n x s).tunits = s.tunits := rfl
@[simp] theorem setPipe_failed (n : Nat) (x : Pipe) : (setPipe n x s).failed = s.failed := rfl
@[simp] theorem setPipe_cjobs (n : Nat) (x : Pipe) : (setPipe n x s).cjobs = s.cjobs := rfl
@[simp] theorem setPipe_evals (n : Nat) (x : Pipe) : (setPipe n x s).evals = s.evals := rfl
@[simp] theorem setPipe_arrived (n : Nat) (x : Pipe) : (setPipe n x s).arrived = s.arrived := rfl
@[simp] theorem setPipe_records (n : Nat) (x : Pipe) : (setPipe n x s).records = s.records := rfl
@[simp] theorem setPipe_ch (n : Nat) (x : Pipe) : (setPipe n x s).ch = s.ch := rfl
@[simp] theorem setPipe_helm (n : Nat) (x : Pipe) : (setPipe n x s).helm = s.helm := rfl
@[simp] theorem setPipe_chip (n : Nat) (x : Pipe) : (setPipe n x s).chip = s.chip := rfl
@[simp] theorem setPipe_nv (n : Nat) (x : Pipe) : (setPipe n x s).nv = s.nv := rfl
@[simp] theorem setPipe_sys (n : Nat) (x : Pipe) : (setPipe n x s).sys = s.sys := rfl
@[simp] theorem setPipe_jtag (n : Nat) (x : Pipe) : (setPipe n x s).jtag = s.jtag := rfl
@[simp] theorem setPipe_hv (n : Nat) (x : Pipe) : (setPipe n x s).hv = s.hv := rfl
@[simp] theorem setPipe_logs (n : Nat) (x : Pipe) : (setPipe n x s).logs = s.logs := rfl
@[simp] theorem setPipe_pw (n : Nat) (x : Pipe) : (setPipe n x s).pw = s.pw := rfl
@[simp] theorem setPipe_obsW (n : Nat) (x : Pipe) : (setPipe n x s).obsW = s.obsW := rfl
@[simp] theorem setPipe_mem (n : Nat) (x : Pipe) : (setPipe n x s).mem = s.mem := rfl
@[simp] theorem setPipe_cores (n : Nat) (x : Pipe) : (setPipe n x s).cores = s.cores := rfl
@[simp] theorem setPipe_hub (n : Nat) (x : Pipe) : (setPipe n x s).hub = s.hub := rfl
@[simp] theorem setPipe_inbox (n : Nat) (x : Pipe) : (setPipe n x s).inbox = s.inbox := rfl
@[simp] theorem setPipe_ctx (n : Nat) (x : Pipe) : (setPipe n x s).ctx = s.ctx := rfl
@[simp] theorem setPipe_insts (n : Nat) (x : Pipe) : (setPipe n x s).insts = s.insts := rfl
@[simp] theorem setPipe_reloading (n : Nat) (x : Pipe) : (setPipe n x s).reloading = s.reloading := rfl
@[simp] theorem setPipe_results (n : Nat) (x : Pipe) : (setPipe n x s).results = s.results := rfl
@[simp] theorem setPipe_workId (n : Nat) (x : Pipe) : (setPipe n x s).workId = s.workId := rfl
@[simp] theorem setPipe_away (n : Nat) (x : Pipe) : (setPipe n x s).away = s.away := rfl
@[simp] theorem setPipe_cl (n : Nat) (x : Pipe) : (setPipe n x s).cl = s.cl := rfl

/-! ### setDie -/

@[simp] theorem setDie_pending (d : Nat) (x : Die) : (setDie d x s).pending = s.pending := rfl
@[simp] theorem setDie_free (d : Nat) (x : Die) : (setDie d x s).free = s.free := rfl
@[simp] theorem setDie_out (d : Nat) (x : Die) : (setDie d x s).out = s.out := rfl
@[simp] theorem setDie_ctrs (d : Nat) (x : Die) : (setDie d x s).ctrs = s.ctrs := rfl
@[simp] theorem setDie_ovf (d : Nat) (x : Die) : (setDie d x s).ovf = s.ovf := rfl
@[simp] theorem setDie_latch (d : Nat) (x : Die) : (setDie d x s).latch = s.latch := rfl
@[simp] theorem setDie_tagSeq (d : Nat) (x : Die) : (setDie d x s).tagSeq = s.tagSeq := rfl
@[simp] theorem setDie_seqRx (d : Nat) (x : Die) : (setDie d x s).seqRx = s.seqRx := rfl
@[simp] theorem setDie_flt (d : Nat) (x : Die) : (setDie d x s).flt = s.flt := rfl
@[simp] theorem setDie_ver (d : Nat) (x : Die) : (setDie d x s).ver = s.ver := rfl
@[simp] theorem setDie_ports (d : Nat) (x : Die) : (setDie d x s).ports = s.ports := rfl
@[simp] theorem setDie_inlineOk (d : Nat) (x : Die) : (setDie d x s).inlineOk = s.inlineOk := rfl
@[simp] theorem setDie_pipes (d : Nat) (x : Die) : (setDie d x s).pipes = s.pipes := rfl
@[simp] theorem setDie_slices (d : Nat) (x : Die) : (setDie d x s).slices = s.slices := rfl
@[simp] theorem setDie_learn (d : Nat) (x : Die) : (setDie d x s).learn = s.learn := rfl
@[simp] theorem setDie_tunits (d : Nat) (x : Die) : (setDie d x s).tunits = s.tunits := rfl
@[simp] theorem setDie_failed (d : Nat) (x : Die) : (setDie d x s).failed = s.failed := rfl
@[simp] theorem setDie_cjobs (d : Nat) (x : Die) : (setDie d x s).cjobs = s.cjobs := rfl
@[simp] theorem setDie_evals (d : Nat) (x : Die) : (setDie d x s).evals = s.evals := rfl
@[simp] theorem setDie_arrived (d : Nat) (x : Die) : (setDie d x s).arrived = s.arrived := rfl
@[simp] theorem setDie_records (d : Nat) (x : Die) : (setDie d x s).records = s.records := rfl
@[simp] theorem setDie_ch (d : Nat) (x : Die) : (setDie d x s).ch = s.ch := rfl
@[simp] theorem setDie_helm (d : Nat) (x : Die) : (setDie d x s).helm = s.helm := rfl
@[simp] theorem setDie_chip (d : Nat) (x : Die) : (setDie d x s).chip = s.chip := rfl
@[simp] theorem setDie_nv (d : Nat) (x : Die) : (setDie d x s).nv = s.nv := rfl
@[simp] theorem setDie_sys (d : Nat) (x : Die) : (setDie d x s).sys = s.sys := rfl
@[simp] theorem setDie_jtag (d : Nat) (x : Die) : (setDie d x s).jtag = s.jtag := rfl
@[simp] theorem setDie_hv (d : Nat) (x : Die) : (setDie d x s).hv = s.hv := rfl
@[simp] theorem setDie_logs (d : Nat) (x : Die) : (setDie d x s).logs = s.logs := rfl
@[simp] theorem setDie_pw (d : Nat) (x : Die) : (setDie d x s).pw = s.pw := rfl
@[simp] theorem setDie_obsW (d : Nat) (x : Die) : (setDie d x s).obsW = s.obsW := rfl
@[simp] theorem setDie_mem (d : Nat) (x : Die) : (setDie d x s).mem = s.mem := rfl
@[simp] theorem setDie_cores (d : Nat) (x : Die) : (setDie d x s).cores = s.cores := rfl
@[simp] theorem setDie_hub (d : Nat) (x : Die) : (setDie d x s).hub = s.hub := rfl
@[simp] theorem setDie_inbox (d : Nat) (x : Die) : (setDie d x s).inbox = s.inbox := rfl
@[simp] theorem setDie_ctx (d : Nat) (x : Die) : (setDie d x s).ctx = s.ctx := rfl
@[simp] theorem setDie_insts (d : Nat) (x : Die) : (setDie d x s).insts = s.insts := rfl
@[simp] theorem setDie_reloading (d : Nat) (x : Die) : (setDie d x s).reloading = s.reloading := rfl
@[simp] theorem setDie_results (d : Nat) (x : Die) : (setDie d x s).results = s.results := rfl
@[simp] theorem setDie_workId (d : Nat) (x : Die) : (setDie d x s).workId = s.workId := rfl
@[simp] theorem setDie_away (d : Nat) (x : Die) : (setDie d x s).away = s.away := rfl
@[simp] theorem setDie_cl (d : Nat) (x : Die) : (setDie d x s).cl = s.cl := rfl

/-! ### setSess -/

@[simp] theorem setSess_pending (i : Nat) (x : Sess) : (setSess i x s).pending = s.pending := rfl
@[simp] theorem setSess_free (i : Nat) (x : Sess) : (setSess i x s).free = s.free := rfl
@[simp] theorem setSess_out (i : Nat) (x : Sess) : (setSess i x s).out = s.out := rfl
@[simp] theorem setSess_ctrs (i : Nat) (x : Sess) : (setSess i x s).ctrs = s.ctrs := rfl
@[simp] theorem setSess_ovf (i : Nat) (x : Sess) : (setSess i x s).ovf = s.ovf := rfl
@[simp] theorem setSess_latch (i : Nat) (x : Sess) : (setSess i x s).latch = s.latch := rfl
@[simp] theorem setSess_tagSeq (i : Nat) (x : Sess) : (setSess i x s).tagSeq = s.tagSeq := rfl
@[simp] theorem setSess_seqRx (i : Nat) (x : Sess) : (setSess i x s).seqRx = s.seqRx := rfl
@[simp] theorem setSess_flt (i : Nat) (x : Sess) : (setSess i x s).flt = s.flt := rfl
@[simp] theorem setSess_ver (i : Nat) (x : Sess) : (setSess i x s).ver = s.ver := rfl
@[simp] theorem setSess_ports (i : Nat) (x : Sess) : (setSess i x s).ports = s.ports := rfl
@[simp] theorem setSess_inlineOk (i : Nat) (x : Sess) : (setSess i x s).inlineOk = s.inlineOk := rfl
@[simp] theorem setSess_pipes (i : Nat) (x : Sess) : (setSess i x s).pipes = s.pipes := rfl
@[simp] theorem setSess_slices (i : Nat) (x : Sess) : (setSess i x s).slices = s.slices := rfl
@[simp] theorem setSess_dies (i : Nat) (x : Sess) : (setSess i x s).dies = s.dies := rfl
@[simp] theorem setSess_learn (i : Nat) (x : Sess) : (setSess i x s).learn = s.learn := rfl
@[simp] theorem setSess_tunits (i : Nat) (x : Sess) : (setSess i x s).tunits = s.tunits := rfl
@[simp] theorem setSess_failed (i : Nat) (x : Sess) : (setSess i x s).failed = s.failed := rfl
@[simp] theorem setSess_cjobs (i : Nat) (x : Sess) : (setSess i x s).cjobs = s.cjobs := rfl
@[simp] theorem setSess_evals (i : Nat) (x : Sess) : (setSess i x s).evals = s.evals := rfl
@[simp] theorem setSess_arrived (i : Nat) (x : Sess) : (setSess i x s).arrived = s.arrived := rfl
@[simp] theorem setSess_records (i : Nat) (x : Sess) : (setSess i x s).records = s.records := rfl
@[simp] theorem setSess_ch (i : Nat) (x : Sess) : (setSess i x s).ch = s.ch := rfl
@[simp] theorem setSess_chip (i : Nat) (x : Sess) : (setSess i x s).chip = s.chip := rfl
@[simp] theorem setSess_nv (i : Nat) (x : Sess) : (setSess i x s).nv = s.nv := rfl
@[simp] theorem setSess_sys (i : Nat) (x : Sess) : (setSess i x s).sys = s.sys := rfl
@[simp] theorem setSess_jtag (i : Nat) (x : Sess) : (setSess i x s).jtag = s.jtag := rfl
@[simp] theorem setSess_hv (i : Nat) (x : Sess) : (setSess i x s).hv = s.hv := rfl
@[simp] theorem setSess_logs (i : Nat) (x : Sess) : (setSess i x s).logs = s.logs := rfl
@[simp] theorem setSess_pw (i : Nat) (x : Sess) : (setSess i x s).pw = s.pw := rfl
@[simp] theorem setSess_obsW (i : Nat) (x : Sess) : (setSess i x s).obsW = s.obsW := rfl
@[simp] theorem setSess_mem (i : Nat) (x : Sess) : (setSess i x s).mem = s.mem := rfl
@[simp] theorem setSess_cores (i : Nat) (x : Sess) : (setSess i x s).cores = s.cores := rfl
@[simp] theorem setSess_hub (i : Nat) (x : Sess) : (setSess i x s).hub = s.hub := rfl
@[simp] theorem setSess_inbox (i : Nat) (x : Sess) : (setSess i x s).inbox = s.inbox := rfl
@[simp] theorem setSess_ctx (i : Nat) (x : Sess) : (setSess i x s).ctx = s.ctx := rfl
@[simp] theorem setSess_insts (i : Nat) (x : Sess) : (setSess i x s).insts = s.insts := rfl
@[simp] theorem setSess_reloading (i : Nat) (x : Sess) : (setSess i x s).reloading = s.reloading := rfl
@[simp] theorem setSess_results (i : Nat) (x : Sess) : (setSess i x s).results = s.results := rfl
@[simp] theorem setSess_workId (i : Nat) (x : Sess) : (setSess i x s).workId = s.workId := rfl
@[simp] theorem setSess_away (i : Nat) (x : Sess) : (setSess i x s).away = s.away := rfl
@[simp] theorem setSess_cl (i : Nat) (x : Sess) : (setSess i x s).cl = s.cl := rfl

/-! ### setMbx -/

@[simp] theorem setMbx_pending (m : Nat) (x : Mbx) : (setMbx m x s).pending = s.pending := rfl
@[simp] theorem setMbx_free (m : Nat) (x : Mbx) : (setMbx m x s).free = s.free := rfl
@[simp] theorem setMbx_out (m : Nat) (x : Mbx) : (setMbx m x s).out = s.out := rfl
@[simp] theorem setMbx_ctrs (m : Nat) (x : Mbx) : (setMbx m x s).ctrs = s.ctrs := rfl
@[simp] theorem setMbx_ovf (m : Nat) (x : Mbx) : (setMbx m x s).ovf = s.ovf := rfl
@[simp] theorem setMbx_latch (m : Nat) (x : Mbx) : (setMbx m x s).latch = s.latch := rfl
@[simp] theorem setMbx_tagSeq (m : Nat) (x : Mbx) : (setMbx m x s).tagSeq = s.tagSeq := rfl
@[simp] theorem setMbx_seqRx (m : Nat) (x : Mbx) : (setMbx m x s).seqRx = s.seqRx := rfl
@[simp] theorem setMbx_flt (m : Nat) (x : Mbx) : (setMbx m x s).flt = s.flt := rfl
@[simp] theorem setMbx_ver (m : Nat) (x : Mbx) : (setMbx m x s).ver = s.ver := rfl
@[simp] theorem setMbx_ports (m : Nat) (x : Mbx) : (setMbx m x s).ports = s.ports := rfl
@[simp] theorem setMbx_inlineOk (m : Nat) (x : Mbx) : (setMbx m x s).inlineOk = s.inlineOk := rfl
@[simp] theorem setMbx_pipes (m : Nat) (x : Mbx) : (setMbx m x s).pipes = s.pipes := rfl
@[simp] theorem setMbx_slices (m : Nat) (x : Mbx) : (setMbx m x s).slices = s.slices := rfl
@[simp] theorem setMbx_dies (m : Nat) (x : Mbx) : (setMbx m x s).dies = s.dies := rfl
@[simp] theorem setMbx_learn (m : Nat) (x : Mbx) : (setMbx m x s).learn = s.learn := rfl
@[simp] theorem setMbx_tunits (m : Nat) (x : Mbx) : (setMbx m x s).tunits = s.tunits := rfl
@[simp] theorem setMbx_failed (m : Nat) (x : Mbx) : (setMbx m x s).failed = s.failed := rfl
@[simp] theorem setMbx_cjobs (m : Nat) (x : Mbx) : (setMbx m x s).cjobs = s.cjobs := rfl
@[simp] theorem setMbx_evals (m : Nat) (x : Mbx) : (setMbx m x s).evals = s.evals := rfl
@[simp] theorem setMbx_arrived (m : Nat) (x : Mbx) : (setMbx m x s).arrived = s.arrived := rfl
@[simp] theorem setMbx_records (m : Nat) (x : Mbx) : (setMbx m x s).records = s.records := rfl
@[simp] theorem setMbx_ch (m : Nat) (x : Mbx) : (setMbx m x s).ch = s.ch := rfl
@[simp] theorem setMbx_chip (m : Nat) (x : Mbx) : (setMbx m x s).chip = s.chip := rfl
@[simp] theorem setMbx_nv (m : Nat) (x : Mbx) : (setMbx m x s).nv = s.nv := rfl
@[simp] theorem setMbx_sys (m : Nat) (x : Mbx) : (setMbx m x s).sys = s.sys := rfl
@[simp] theorem setMbx_jtag (m : Nat) (x : Mbx) : (setMbx m x s).jtag = s.jtag := rfl
@[simp] theorem setMbx_hv (m : Nat) (x : Mbx) : (setMbx m x s).hv = s.hv := rfl
@[simp] theorem setMbx_logs (m : Nat) (x : Mbx) : (setMbx m x s).logs = s.logs := rfl
@[simp] theorem setMbx_pw (m : Nat) (x : Mbx) : (setMbx m x s).pw = s.pw := rfl
@[simp] theorem setMbx_obsW (m : Nat) (x : Mbx) : (setMbx m x s).obsW = s.obsW := rfl
@[simp] theorem setMbx_mem (m : Nat) (x : Mbx) : (setMbx m x s).mem = s.mem := rfl
@[simp] theorem setMbx_cores (m : Nat) (x : Mbx) : (setMbx m x s).cores = s.cores := rfl
@[simp] theorem setMbx_hub (m : Nat) (x : Mbx) : (setMbx m x s).hub = s.hub := rfl
@[simp] theorem setMbx_inbox (m : Nat) (x : Mbx) : (setMbx m x s).inbox = s.inbox := rfl
@[simp] theorem setMbx_ctx (m : Nat) (x : Mbx) : (setMbx m x s).ctx = s.ctx := rfl
@[simp] theorem setMbx_insts (m : Nat) (x : Mbx) : (setMbx m x s).insts = s.insts := rfl
@[simp] theorem setMbx_reloading (m : Nat) (x : Mbx) : (setMbx m x s).reloading = s.reloading := rfl
@[simp] theorem setMbx_results (m : Nat) (x : Mbx) : (setMbx m x s).results = s.results := rfl
@[simp] theorem setMbx_workId (m : Nat) (x : Mbx) : (setMbx m x s).workId = s.workId := rfl
@[simp] theorem setMbx_away (m : Nat) (x : Mbx) : (setMbx m x s).away = s.away := rfl
@[simp] theorem setMbx_cl (m : Nat) (x : Mbx) : (setMbx m x s).cl = s.cl := rfl

/-! ### setBxPort -/

@[simp] theorem setBxPort_pending (p : Nat) (x : BxPort) : (setBxPort p x s).pending = s.pending := rfl
@[simp] theorem setBxPort_free (p : Nat) (x : BxPort) : (setBxPort p x s).free = s.free := rfl
@[simp] theorem setBxPort_out (p : Nat) (x : BxPort) : (setBxPort p x s).out = s.out := rfl
@[simp] theorem setBxPort_ctrs (p : Nat) (x : BxPort) : (setBxPort p x s).ctrs = s.ctrs := rfl
@[simp] theorem setBxPort_ovf (p : Nat) (x : BxPort) : (setBxPort p x s).ovf = s.ovf := rfl
@[simp] theorem setBxPort_latch (p : Nat) (x : BxPort) : (setBxPort p x s).latch = s.latch := rfl
@[simp] theorem setBxPort_tagSeq (p : Nat) (x : BxPort) : (setBxPort p x s).tagSeq = s.tagSeq := rfl
@[simp] theorem setBxPort_seqRx (p : Nat) (x : BxPort) : (setBxPort p x s).seqRx = s.seqRx := rfl
@[simp] theorem setBxPort_flt (p : Nat) (x : BxPort) : (setBxPort p x s).flt = s.flt := rfl
@[simp] theorem setBxPort_ver (p : Nat) (x : BxPort) : (setBxPort p x s).ver = s.ver := rfl
@[simp] theorem setBxPort_ports (p : Nat) (x : BxPort) : (setBxPort p x s).ports = s.ports := rfl
@[simp] theorem setBxPort_inlineOk (p : Nat) (x : BxPort) : (setBxPort p x s).inlineOk = s.inlineOk := rfl
@[simp] theorem setBxPort_pipes (p : Nat) (x : BxPort) : (setBxPort p x s).pipes = s.pipes := rfl
@[simp] theorem setBxPort_slices (p : Nat) (x : BxPort) : (setBxPort p x s).slices = s.slices := rfl
@[simp] theorem setBxPort_dies (p : Nat) (x : BxPort) : (setBxPort p x s).dies = s.dies := rfl
@[simp] theorem setBxPort_learn (p : Nat) (x : BxPort) : (setBxPort p x s).learn = s.learn := rfl
@[simp] theorem setBxPort_tunits (p : Nat) (x : BxPort) : (setBxPort p x s).tunits = s.tunits := rfl
@[simp] theorem setBxPort_failed (p : Nat) (x : BxPort) : (setBxPort p x s).failed = s.failed := rfl
@[simp] theorem setBxPort_cjobs (p : Nat) (x : BxPort) : (setBxPort p x s).cjobs = s.cjobs := rfl
@[simp] theorem setBxPort_evals (p : Nat) (x : BxPort) : (setBxPort p x s).evals = s.evals := rfl
@[simp] theorem setBxPort_arrived (p : Nat) (x : BxPort) : (setBxPort p x s).arrived = s.arrived := rfl
@[simp] theorem setBxPort_records (p : Nat) (x : BxPort) : (setBxPort p x s).records = s.records := rfl
@[simp] theorem setBxPort_ch (p : Nat) (x : BxPort) : (setBxPort p x s).ch = s.ch := rfl
@[simp] theorem setBxPort_chip (p : Nat) (x : BxPort) : (setBxPort p x s).chip = s.chip := rfl
@[simp] theorem setBxPort_nv (p : Nat) (x : BxPort) : (setBxPort p x s).nv = s.nv := rfl
@[simp] theorem setBxPort_sys (p : Nat) (x : BxPort) : (setBxPort p x s).sys = s.sys := rfl
@[simp] theorem setBxPort_jtag (p : Nat) (x : BxPort) : (setBxPort p x s).jtag = s.jtag := rfl
@[simp] theorem setBxPort_hv (p : Nat) (x : BxPort) : (setBxPort p x s).hv = s.hv := rfl
@[simp] theorem setBxPort_logs (p : Nat) (x : BxPort) : (setBxPort p x s).logs = s.logs := rfl
@[simp] theorem setBxPort_pw (p : Nat) (x : BxPort) : (setBxPort p x s).pw = s.pw := rfl
@[simp] theorem setBxPort_obsW (p : Nat) (x : BxPort) : (setBxPort p x s).obsW = s.obsW := rfl
@[simp] theorem setBxPort_mem (p : Nat) (x : BxPort) : (setBxPort p x s).mem = s.mem := rfl
@[simp] theorem setBxPort_cores (p : Nat) (x : BxPort) : (setBxPort p x s).cores = s.cores := rfl
@[simp] theorem setBxPort_hub (p : Nat) (x : BxPort) : (setBxPort p x s).hub = s.hub := rfl
@[simp] theorem setBxPort_inbox (p : Nat) (x : BxPort) : (setBxPort p x s).inbox = s.inbox := rfl
@[simp] theorem setBxPort_ctx (p : Nat) (x : BxPort) : (setBxPort p x s).ctx = s.ctx := rfl
@[simp] theorem setBxPort_insts (p : Nat) (x : BxPort) : (setBxPort p x s).insts = s.insts := rfl
@[simp] theorem setBxPort_reloading (p : Nat) (x : BxPort) : (setBxPort p x s).reloading = s.reloading := rfl
@[simp] theorem setBxPort_results (p : Nat) (x : BxPort) : (setBxPort p x s).results = s.results := rfl
@[simp] theorem setBxPort_workId (p : Nat) (x : BxPort) : (setBxPort p x s).workId = s.workId := rfl
@[simp] theorem setBxPort_away (p : Nat) (x : BxPort) : (setBxPort p x s).away = s.away := rfl
@[simp] theorem setBxPort_cl (p : Nat) (x : BxPort) : (setBxPort p x s).cl = s.cl := rfl

/-! ### setTunit -/

@[simp] theorem setTunit_pending (u : Nat) (x : TUnit) : (setTunit u x s).pending = s.pending := rfl
@[simp] theorem setTunit_free (u : Nat) (x : TUnit) : (setTunit u x s).free = s.free := rfl
@[simp] theorem setTunit_out (u : Nat) (x : TUnit) : (setTunit u x s).out = s.out := rfl
@[simp] theorem setTunit_ctrs (u : Nat) (x : TUnit) : (setTunit u x s).ctrs = s.ctrs := rfl
@[simp] theorem setTunit_ovf (u : Nat) (x : TUnit) : (setTunit u x s).ovf = s.ovf := rfl
@[simp] theorem setTunit_latch (u : Nat) (x : TUnit) : (setTunit u x s).latch = s.latch := rfl
@[simp] theorem setTunit_tagSeq (u : Nat) (x : TUnit) : (setTunit u x s).tagSeq = s.tagSeq := rfl
@[simp] theorem setTunit_seqRx (u : Nat) (x : TUnit) : (setTunit u x s).seqRx = s.seqRx := rfl
@[simp] theorem setTunit_flt (u : Nat) (x : TUnit) : (setTunit u x s).flt = s.flt := rfl
@[simp] theorem setTunit_ver (u : Nat) (x : TUnit) : (setTunit u x s).ver = s.ver := rfl
@[simp] theorem setTunit_ports (u : Nat) (x : TUnit) : (setTunit u x s).ports = s.ports := rfl
@[simp] theorem setTunit_inlineOk (u : Nat) (x : TUnit) : (setTunit u x s).inlineOk = s.inlineOk := rfl
@[simp] theorem setTunit_pipes (u : Nat) (x : TUnit) : (setTunit u x s).pipes = s.pipes := rfl
@[simp] theorem setTunit_slices (u : Nat) (x : TUnit) : (setTunit u x s).slices = s.slices := rfl
@[simp] theorem setTunit_dies (u : Nat) (x : TUnit) : (setTunit u x s).dies = s.dies := rfl
@[simp] theorem setTunit_learn (u : Nat) (x : TUnit) : (setTunit u x s).learn = s.learn := rfl
@[simp] theorem setTunit_failed (u : Nat) (x : TUnit) : (setTunit u x s).failed = s.failed := rfl
@[simp] theorem setTunit_cjobs (u : Nat) (x : TUnit) : (setTunit u x s).cjobs = s.cjobs := rfl
@[simp] theorem setTunit_evals (u : Nat) (x : TUnit) : (setTunit u x s).evals = s.evals := rfl
@[simp] theorem setTunit_arrived (u : Nat) (x : TUnit) : (setTunit u x s).arrived = s.arrived := rfl
@[simp] theorem setTunit_records (u : Nat) (x : TUnit) : (setTunit u x s).records = s.records := rfl
@[simp] theorem setTunit_ch (u : Nat) (x : TUnit) : (setTunit u x s).ch = s.ch := rfl
@[simp] theorem setTunit_helm (u : Nat) (x : TUnit) : (setTunit u x s).helm = s.helm := rfl
@[simp] theorem setTunit_chip (u : Nat) (x : TUnit) : (setTunit u x s).chip = s.chip := rfl
@[simp] theorem setTunit_nv (u : Nat) (x : TUnit) : (setTunit u x s).nv = s.nv := rfl
@[simp] theorem setTunit_sys (u : Nat) (x : TUnit) : (setTunit u x s).sys = s.sys := rfl
@[simp] theorem setTunit_jtag (u : Nat) (x : TUnit) : (setTunit u x s).jtag = s.jtag := rfl
@[simp] theorem setTunit_hv (u : Nat) (x : TUnit) : (setTunit u x s).hv = s.hv := rfl
@[simp] theorem setTunit_logs (u : Nat) (x : TUnit) : (setTunit u x s).logs = s.logs := rfl
@[simp] theorem setTunit_pw (u : Nat) (x : TUnit) : (setTunit u x s).pw = s.pw := rfl
@[simp] theorem setTunit_obsW (u : Nat) (x : TUnit) : (setTunit u x s).obsW = s.obsW := rfl
@[simp] theorem setTunit_mem (u : Nat) (x : TUnit) : (setTunit u x s).mem = s.mem := rfl
@[simp] theorem setTunit_cores (u : Nat) (x : TUnit) : (setTunit u x s).cores = s.cores := rfl
@[simp] theorem setTunit_hub (u : Nat) (x : TUnit) : (setTunit u x s).hub = s.hub := rfl
@[simp] theorem setTunit_inbox (u : Nat) (x : TUnit) : (setTunit u x s).inbox = s.inbox := rfl
@[simp] theorem setTunit_ctx (u : Nat) (x : TUnit) : (setTunit u x s).ctx = s.ctx := rfl
@[simp] theorem setTunit_insts (u : Nat) (x : TUnit) : (setTunit u x s).insts = s.insts := rfl
@[simp] theorem setTunit_reloading (u : Nat) (x : TUnit) : (setTunit u x s).reloading = s.reloading := rfl
@[simp] theorem setTunit_results (u : Nat) (x : TUnit) : (setTunit u x s).results = s.results := rfl
@[simp] theorem setTunit_workId (u : Nat) (x : TUnit) : (setTunit u x s).workId = s.workId := rfl
@[simp] theorem setTunit_away (u : Nat) (x : TUnit) : (setTunit u x s).away = s.away := rfl
@[simp] theorem setTunit_cl (u : Nat) (x : TUnit) : (setTunit u x s).cl = s.cl := rfl

/-! ### setSlice -/

@[simp] theorem setSlice_pending (x : Slice) : (setSlice x s).pending = s.pending := rfl
@[simp] theorem setSlice_free (x : Slice) : (setSlice x s).free = s.free := rfl
@[simp] theorem setSlice_out (x : Slice) : (setSlice x s).out = s.out := rfl
@[simp] theorem setSlice_ctrs (x : Slice) : (setSlice x s).ctrs = s.ctrs := rfl
@[simp] theorem setSlice_ovf (x : Slice) : (setSlice x s).ovf = s.ovf := rfl
@[simp] theorem setSlice_latch (x : Slice) : (setSlice x s).latch = s.latch := rfl
@[simp] theorem setSlice_tagSeq (x : Slice) : (setSlice x s).tagSeq = s.tagSeq := rfl
@[simp] theorem setSlice_seqRx (x : Slice) : (setSlice x s).seqRx = s.seqRx := rfl
@[simp] theorem setSlice_flt (x : Slice) : (setSlice x s).flt = s.flt := rfl
@[simp] theorem setSlice_ver (x : Slice) : (setSlice x s).ver = s.ver := rfl
@[simp] theorem setSlice_ports (x : Slice) : (setSlice x s).ports = s.ports := rfl
@[simp] theorem setSlice_inlineOk (x : Slice) : (setSlice x s).inlineOk = s.inlineOk := rfl
@[simp] theorem setSlice_pipes (x : Slice) : (setSlice x s).pipes = s.pipes := rfl
@[simp] theorem setSlice_dies (x : Slice) : (setSlice x s).dies = s.dies := rfl
@[simp] theorem setSlice_learn (x : Slice) : (setSlice x s).learn = s.learn := rfl
@[simp] theorem setSlice_tunits (x : Slice) : (setSlice x s).tunits = s.tunits := rfl
@[simp] theorem setSlice_failed (x : Slice) : (setSlice x s).failed = s.failed := rfl
@[simp] theorem setSlice_cjobs (x : Slice) : (setSlice x s).cjobs = s.cjobs := rfl
@[simp] theorem setSlice_evals (x : Slice) : (setSlice x s).evals = s.evals := rfl
@[simp] theorem setSlice_arrived (x : Slice) : (setSlice x s).arrived = s.arrived := rfl
@[simp] theorem setSlice_records (x : Slice) : (setSlice x s).records = s.records := rfl
@[simp] theorem setSlice_ch (x : Slice) : (setSlice x s).ch = s.ch := rfl
@[simp] theorem setSlice_helm (x : Slice) : (setSlice x s).helm = s.helm := rfl
@[simp] theorem setSlice_chip (x : Slice) : (setSlice x s).chip = s.chip := rfl
@[simp] theorem setSlice_nv (x : Slice) : (setSlice x s).nv = s.nv := rfl
@[simp] theorem setSlice_sys (x : Slice) : (setSlice x s).sys = s.sys := rfl
@[simp] theorem setSlice_jtag (x : Slice) : (setSlice x s).jtag = s.jtag := rfl
@[simp] theorem setSlice_hv (x : Slice) : (setSlice x s).hv = s.hv := rfl
@[simp] theorem setSlice_logs (x : Slice) : (setSlice x s).logs = s.logs := rfl
@[simp] theorem setSlice_pw (x : Slice) : (setSlice x s).pw = s.pw := rfl
@[simp] theorem setSlice_obsW (x : Slice) : (setSlice x s).obsW = s.obsW := rfl
@[simp] theorem setSlice_mem (x : Slice) : (setSlice x s).mem = s.mem := rfl
@[simp] theorem setSlice_cores (x : Slice) : (setSlice x s).cores = s.cores := rfl
@[simp] theorem setSlice_hub (x : Slice) : (setSlice x s).hub = s.hub := rfl
@[simp] theorem setSlice_inbox (x : Slice) : (setSlice x s).inbox = s.inbox := rfl
@[simp] theorem setSlice_ctx (x : Slice) : (setSlice x s).ctx = s.ctx := rfl
@[simp] theorem setSlice_insts (x : Slice) : (setSlice x s).insts = s.insts := rfl
@[simp] theorem setSlice_reloading (x : Slice) : (setSlice x s).reloading = s.reloading := rfl
@[simp] theorem setSlice_results (x : Slice) : (setSlice x s).results = s.results := rfl
@[simp] theorem setSlice_workId (x : Slice) : (setSlice x s).workId = s.workId := rfl
@[simp] theorem setSlice_away (x : Slice) : (setSlice x s).away = s.away := rfl
@[simp] theorem setSlice_cl (x : Slice) : (setSlice x s).cl = s.cl := rfl

/-! ### delSlice -/

@[simp] theorem delSlice_pending (q n : Nat) : (delSlice q n s).pending = s.pending := rfl
@[simp] theorem delSlice_free (q n : Nat) : (delSlice q n s).free = s.free := rfl
@[simp] theorem delSlice_out (q n : Nat) : (delSlice q n s).out = s.out := rfl
@[simp] theorem delSlice_ctrs (q n : Nat) : (delSlice q n s).ctrs = s.ctrs := rfl
@[simp] theorem delSlice_ovf (q n : Nat) : (delSlice q n s).ovf = s.ovf := rfl
@[simp] theorem delSlice_latch (q n : Nat) : (delSlice q n s).latch = s.latch := rfl
@[simp] theorem delSlice_tagSeq (q n : Nat) : (delSlice q n s).tagSeq = s.tagSeq := rfl
@[simp] theorem delSlice_seqRx (q n : Nat) : (delSlice q n s).seqRx = s.seqRx := rfl
@[simp] theorem delSlice_flt (q n : Nat) : (delSlice q n s).flt = s.flt := rfl
@[simp] theorem delSlice_ver (q n : Nat) : (delSlice q n s).ver = s.ver := rfl
@[simp] theorem delSlice_ports (q n : Nat) : (delSlice q n s).ports = s.ports := rfl
@[simp] theorem delSlice_inlineOk (q n : Nat) : (delSlice q n s).inlineOk = s.inlineOk := rfl
@[simp] theorem delSlice_pipes (q n : Nat) : (delSlice q n s).pipes = s.pipes := rfl
@[simp] theorem delSlice_dies (q n : Nat) : (delSlice q n s).dies = s.dies := rfl
@[simp] theorem delSlice_learn (q n : Nat) : (delSlice q n s).learn = s.learn := rfl
@[simp] theorem delSlice_tunits (q n : Nat) : (delSlice q n s).tunits = s.tunits := rfl
@[simp] theorem delSlice_failed (q n : Nat) : (delSlice q n s).failed = s.failed := rfl
@[simp] theorem delSlice_cjobs (q n : Nat) : (delSlice q n s).cjobs = s.cjobs := rfl
@[simp] theorem delSlice_evals (q n : Nat) : (delSlice q n s).evals = s.evals := rfl
@[simp] theorem delSlice_arrived (q n : Nat) : (delSlice q n s).arrived = s.arrived := rfl
@[simp] theorem delSlice_records (q n : Nat) : (delSlice q n s).records = s.records := rfl
@[simp] theorem delSlice_ch (q n : Nat) : (delSlice q n s).ch = s.ch := rfl
@[simp] theorem delSlice_helm (q n : Nat) : (delSlice q n s).helm = s.helm := rfl
@[simp] theorem delSlice_chip (q n : Nat) : (delSlice q n s).chip = s.chip := rfl
@[simp] theorem delSlice_nv (q n : Nat) : (delSlice q n s).nv = s.nv := rfl
@[simp] theorem delSlice_sys (q n : Nat) : (delSlice q n s).sys = s.sys := rfl
@[simp] theorem delSlice_jtag (q n : Nat) : (delSlice q n s).jtag = s.jtag := rfl
@[simp] theorem delSlice_hv (q n : Nat) : (delSlice q n s).hv = s.hv := rfl
@[simp] theorem delSlice_logs (q n : Nat) : (delSlice q n s).logs = s.logs := rfl
@[simp] theorem delSlice_pw (q n : Nat) : (delSlice q n s).pw = s.pw := rfl
@[simp] theorem delSlice_obsW (q n : Nat) : (delSlice q n s).obsW = s.obsW := rfl
@[simp] theorem delSlice_mem (q n : Nat) : (delSlice q n s).mem = s.mem := rfl
@[simp] theorem delSlice_cores (q n : Nat) : (delSlice q n s).cores = s.cores := rfl
@[simp] theorem delSlice_hub (q n : Nat) : (delSlice q n s).hub = s.hub := rfl
@[simp] theorem delSlice_inbox (q n : Nat) : (delSlice q n s).inbox = s.inbox := rfl
@[simp] theorem delSlice_ctx (q n : Nat) : (delSlice q n s).ctx = s.ctx := rfl
@[simp] theorem delSlice_insts (q n : Nat) : (delSlice q n s).insts = s.insts := rfl
@[simp] theorem delSlice_reloading (q n : Nat) : (delSlice q n s).reloading = s.reloading := rfl
@[simp] theorem delSlice_results (q n : Nat) : (delSlice q n s).results = s.results := rfl
@[simp] theorem delSlice_workId (q n : Nat) : (delSlice q n s).workId = s.workId := rfl
@[simp] theorem delSlice_away (q n : Nat) : (delSlice q n s).away = s.away := rfl
@[simp] theorem delSlice_cl (q n : Nat) : (delSlice q n s).cl = s.cl := rfl

/-! ### setCore -/

@[simp] theorem setCore_pending (p : Nat) (x : Core) : (setCore p x s).pending = s.pending := rfl
@[simp] theorem setCore_free (p : Nat) (x : Core) : (setCore p x s).free = s.free := rfl
@[simp] theorem setCore_out (p : Nat) (x : Core) : (setCore p x s).out = s.out := rfl
@[simp] theorem setCore_ctrs (p : Nat) (x : Core) : (setCore p x s).ctrs = s.ctrs := rfl
@[simp] theorem setCore_ovf (p : Nat) (x : Core) : (setCore p x s).ovf = s.ovf := rfl
@[simp] theorem setCore_latch (p : Nat) (x : Core) : (setCore p x s).latch = s.latch := rfl
@[simp] theorem setCore_tagSeq (p : Nat) (x : Core) : (setCore p x s).tagSeq = s.tagSeq := rfl
@[simp] theorem setCore_seqRx (p : Nat) (x : Core) : (setCore p x s).seqRx = s.seqRx := rfl
@[simp] theorem setCore_flt (p : Nat) (x : Core) : (setCore p x s).flt = s.flt := rfl
@[simp] theorem setCore_ver (p : Nat) (x : Core) : (setCore p x s).ver = s.ver := rfl
@[simp] theorem setCore_ports (p : Nat) (x : Core) : (setCore p x s).ports = s.ports := rfl
@[simp] theorem setCore_inlineOk (p : Nat) (x : Core) : (setCore p x s).inlineOk = s.inlineOk := rfl
@[simp] theorem setCore_pipes (p : Nat) (x : Core) : (setCore p x s).pipes = s.pipes := rfl
@[simp] theorem setCore_slices (p : Nat) (x : Core) : (setCore p x s).slices = s.slices := rfl
@[simp] theorem setCore_dies (p : Nat) (x : Core) : (setCore p x s).dies = s.dies := rfl
@[simp] theorem setCore_learn (p : Nat) (x : Core) : (setCore p x s).learn = s.learn := rfl
@[simp] theorem setCore_tunits (p : Nat) (x : Core) : (setCore p x s).tunits = s.tunits := rfl
@[simp] theorem setCore_failed (p : Nat) (x : Core) : (setCore p x s).failed = s.failed := rfl
@[simp] theorem setCore_cjobs (p : Nat) (x : Core) : (setCore p x s).cjobs = s.cjobs := rfl
@[simp] theorem setCore_evals (p : Nat) (x : Core) : (setCore p x s).evals = s.evals := rfl
@[simp] theorem setCore_arrived (p : Nat) (x : Core) : (setCore p x s).arrived = s.arrived := rfl
@[simp] theorem setCore_records (p : Nat) (x : Core) : (setCore p x s).records = s.records := rfl
@[simp] theorem setCore_ch (p : Nat) (x : Core) : (setCore p x s).ch = s.ch := rfl
@[simp] theorem setCore_helm (p : Nat) (x : Core) : (setCore p x s).helm = s.helm := rfl
@[simp] theorem setCore_chip (p : Nat) (x : Core) : (setCore p x s).chip = s.chip := rfl
@[simp] theorem setCore_nv (p : Nat) (x : Core) : (setCore p x s).nv = s.nv := rfl
@[simp] theorem setCore_sys (p : Nat) (x : Core) : (setCore p x s).sys = s.sys := rfl
@[simp] theorem setCore_jtag (p : Nat) (x : Core) : (setCore p x s).jtag = s.jtag := rfl
@[simp] theorem setCore_hv (p : Nat) (x : Core) : (setCore p x s).hv = s.hv := rfl
@[simp] theorem setCore_logs (p : Nat) (x : Core) : (setCore p x s).logs = s.logs := rfl
@[simp] theorem setCore_pw (p : Nat) (x : Core) : (setCore p x s).pw = s.pw := rfl
@[simp] theorem setCore_obsW (p : Nat) (x : Core) : (setCore p x s).obsW = s.obsW := rfl
@[simp] theorem setCore_mem (p : Nat) (x : Core) : (setCore p x s).mem = s.mem := rfl
@[simp] theorem setCore_hub (p : Nat) (x : Core) : (setCore p x s).hub = s.hub := rfl
@[simp] theorem setCore_inbox (p : Nat) (x : Core) : (setCore p x s).inbox = s.inbox := rfl
@[simp] theorem setCore_ctx (p : Nat) (x : Core) : (setCore p x s).ctx = s.ctx := rfl
@[simp] theorem setCore_insts (p : Nat) (x : Core) : (setCore p x s).insts = s.insts := rfl
@[simp] theorem setCore_reloading (p : Nat) (x : Core) : (setCore p x s).reloading = s.reloading := rfl
@[simp] theorem setCore_results (p : Nat) (x : Core) : (setCore p x s).results = s.results := rfl
@[simp] theorem setCore_workId (p : Nat) (x : Core) : (setCore p x s).workId = s.workId := rfl
@[simp] theorem setCore_away (p : Nat) (x : Core) : (setCore p x s).away = s.away := rfl
@[simp] theorem setCore_cl (p : Nat) (x : Core) : (setCore p x s).cl = s.cl := rfl

/-! ### setCtx -/

@[simp] theorem setCtx_pending (i : Nat) (x : SCtx) : (setCtx i x s).pending = s.pending := rfl
@[simp] theorem setCtx_free (i : Nat) (x : SCtx) : (setCtx i x s).free = s.free := rfl
@[simp] theorem setCtx_out (i : Nat) (x : SCtx) : (setCtx i x s).out = s.out := rfl
@[simp] theorem setCtx_ctrs (i : Nat) (x : SCtx) : (setCtx i x s).ctrs = s.ctrs := rfl
@[simp] theorem setCtx_ovf (i : Nat) (x : SCtx) : (setCtx i x s).ovf = s.ovf := rfl
@[simp] theorem setCtx_latch (i : Nat) (x : SCtx) : (setCtx i x s).latch = s.latch := rfl
@[simp] theorem setCtx_tagSeq (i : Nat) (x : SCtx) : (setCtx i x s).tagSeq = s.tagSeq := rfl
@[simp] theorem setCtx_seqRx (i : Nat) (x : SCtx) : (setCtx i x s).seqRx = s.seqRx := rfl
@[simp] theorem setCtx_flt (i : Nat) (x : SCtx) : (setCtx i x s).flt = s.flt := rfl
@[simp] theorem setCtx_ver (i : Nat) (x : SCtx) : (setCtx i x s).ver = s.ver := rfl
@[simp] theorem setCtx_ports (i : Nat) (x : SCtx) : (setCtx i x s).ports = s.ports := rfl
@[simp] theorem setCtx_inlineOk (i : Nat) (x : SCtx) : (setCtx i x s).inlineOk = s.inlineOk := rfl
@[simp] theorem setCtx_pipes (i : Nat) (x : SCtx) : (setCtx i x s).pipes = s.pipes := rfl
@[simp] theorem setCtx_slices (i : Nat) (x : SCtx) : (setCtx i x s).slices = s.slices := rfl
@[simp] theorem setCtx_dies (i : Nat) (x : SCtx) : (setCtx i x s).dies = s.dies := rfl
@[simp] theorem setCtx_learn (i : Nat) (x : SCtx) : (setCtx i x s).learn = s.learn := rfl
@[simp] theorem setCtx_tunits (i : Nat) (x : SCtx) : (setCtx i x s).tunits = s.tunits := rfl
@[simp] theorem setCtx_failed (i : Nat) (x : SCtx) : (setCtx i x s).failed = s.failed := rfl
@[simp] theorem setCtx_cjobs (i : Nat) (x : SCtx) : (setCtx i x s).cjobs = s.cjobs := rfl
@[simp] theorem setCtx_evals (i : Nat) (x : SCtx) : (setCtx i x s).evals = s.evals := rfl
@[simp] theorem setCtx_arrived (i : Nat) (x : SCtx) : (setCtx i x s).arrived = s.arrived := rfl
@[simp] theorem setCtx_records (i : Nat) (x : SCtx) : (setCtx i x s).records = s.records := rfl
@[simp] theorem setCtx_ch (i : Nat) (x : SCtx) : (setCtx i x s).ch = s.ch := rfl
@[simp] theorem setCtx_helm (i : Nat) (x : SCtx) : (setCtx i x s).helm = s.helm := rfl
@[simp] theorem setCtx_chip (i : Nat) (x : SCtx) : (setCtx i x s).chip = s.chip := rfl
@[simp] theorem setCtx_nv (i : Nat) (x : SCtx) : (setCtx i x s).nv = s.nv := rfl
@[simp] theorem setCtx_sys (i : Nat) (x : SCtx) : (setCtx i x s).sys = s.sys := rfl
@[simp] theorem setCtx_jtag (i : Nat) (x : SCtx) : (setCtx i x s).jtag = s.jtag := rfl
@[simp] theorem setCtx_hv (i : Nat) (x : SCtx) : (setCtx i x s).hv = s.hv := rfl
@[simp] theorem setCtx_logs (i : Nat) (x : SCtx) : (setCtx i x s).logs = s.logs := rfl
@[simp] theorem setCtx_pw (i : Nat) (x : SCtx) : (setCtx i x s).pw = s.pw := rfl
@[simp] theorem setCtx_obsW (i : Nat) (x : SCtx) : (setCtx i x s).obsW = s.obsW := rfl
@[simp] theorem setCtx_mem (i : Nat) (x : SCtx) : (setCtx i x s).mem = s.mem := rfl
@[simp] theorem setCtx_cores (i : Nat) (x : SCtx) : (setCtx i x s).cores = s.cores := rfl
@[simp] theorem setCtx_hub (i : Nat) (x : SCtx) : (setCtx i x s).hub = s.hub := rfl
@[simp] theorem setCtx_inbox (i : Nat) (x : SCtx) : (setCtx i x s).inbox = s.inbox := rfl
@[simp] theorem setCtx_insts (i : Nat) (x : SCtx) : (setCtx i x s).insts = s.insts := rfl
@[simp] theorem setCtx_reloading (i : Nat) (x : SCtx) : (setCtx i x s).reloading = s.reloading := rfl
@[simp] theorem setCtx_results (i : Nat) (x : SCtx) : (setCtx i x s).results = s.results := rfl
@[simp] theorem setCtx_workId (i : Nat) (x : SCtx) : (setCtx i x s).workId = s.workId := rfl
@[simp] theorem setCtx_away (i : Nat) (x : SCtx) : (setCtx i x s).away = s.away := rfl
@[simp] theorem setCtx_cl (i : Nat) (x : SCtx) : (setCtx i x s).cl = s.cl := rfl

/-! ### setInst -/

@[simp] theorem setInst_pending (i : Nat) (x : Inst) : (setInst i x s).pending = s.pending := rfl
@[simp] theorem setInst_free (i : Nat) (x : Inst) : (setInst i x s).free = s.free := rfl
@[simp] theorem setInst_out (i : Nat) (x : Inst) : (setInst i x s).out = s.out := rfl
@[simp] theorem setInst_ctrs (i : Nat) (x : Inst) : (setInst i x s).ctrs = s.ctrs := rfl
@[simp] theorem setInst_ovf (i : Nat) (x : Inst) : (setInst i x s).ovf = s.ovf := rfl
@[simp] theorem setInst_latch (i : Nat) (x : Inst) : (setInst i x s).latch = s.latch := rfl
@[simp] theorem setInst_tagSeq (i : Nat) (x : Inst) : (setInst i x s).tagSeq = s.tagSeq := rfl
@[simp] theorem setInst_seqRx (i : Nat) (x : Inst) : (setInst i x s).seqRx = s.seqRx := rfl
@[simp] theorem setInst_flt (i : Nat) (x : Inst) : (setInst i x s).flt = s.flt := rfl
@[simp] theorem setInst_ver (i : Nat) (x : Inst) : (setInst i x s).ver = s.ver := rfl
@[simp] theorem setInst_ports (i : Nat) (x : Inst) : (setInst i x s).ports = s.ports := rfl
@[simp] theorem setInst_inlineOk (i : Nat) (x : Inst) : (setInst i x s).inlineOk = s.inlineOk := rfl
@[simp] theorem setInst_pipes (i : Nat) (x : Inst) : (setInst i x s).pipes = s.pipes := rfl
@[simp] theorem setInst_slices (i : Nat) (x : Inst) : (setInst i x s).slices = s.slices := rfl
@[simp] theorem setInst_dies (i : Nat) (x : Inst) : (setInst i x s).dies = s.dies := rfl
@[simp] theorem setInst_learn (i : Nat) (x : Inst) : (setInst i x s).learn = s.learn := rfl
@[simp] theorem setInst_tunits (i : Nat) (x : Inst) : (setInst i x s).tunits = s.tunits := rfl
@[simp] theorem setInst_failed (i : Nat) (x : Inst) : (setInst i x s).failed = s.failed := rfl
@[simp] theorem setInst_cjobs (i : Nat) (x : Inst) : (setInst i x s).cjobs = s.cjobs := rfl
@[simp] theorem setInst_evals (i : Nat) (x : Inst) : (setInst i x s).evals = s.evals := rfl
@[simp] theorem setInst_arrived (i : Nat) (x : Inst) : (setInst i x s).arrived = s.arrived := rfl
@[simp] theorem setInst_records (i : Nat) (x : Inst) : (setInst i x s).records = s.records := rfl
@[simp] theorem setInst_ch (i : Nat) (x : Inst) : (setInst i x s).ch = s.ch := rfl
@[simp] theorem setInst_helm (i : Nat) (x : Inst) : (setInst i x s).helm = s.helm := rfl
@[simp] theorem setInst_chip (i : Nat) (x : Inst) : (setInst i x s).chip = s.chip := rfl
@[simp] theorem setInst_nv (i : Nat) (x : Inst) : (setInst i x s).nv = s.nv := rfl
@[simp] theorem setInst_sys (i : Nat) (x : Inst) : (setInst i x s).sys = s.sys := rfl
@[simp] theorem setInst_jtag (i : Nat) (x : Inst) : (setInst i x s).jtag = s.jtag := rfl
@[simp] theorem setInst_hv (i : Nat) (x : Inst) : (setInst i x s).hv = s.hv := rfl
@[simp] theorem setInst_logs (i : Nat) (x : Inst) : (setInst i x s).logs = s.logs := rfl
@[simp] theorem setInst_pw (i : Nat) (x : Inst) : (setInst i x s).pw = s.pw := rfl
@[simp] theorem setInst_obsW (i : Nat) (x : Inst) : (setInst i x s).obsW = s.obsW := rfl
@[simp] theorem setInst_mem (i : Nat) (x : Inst) : (setInst i x s).mem = s.mem := rfl
@[simp] theorem setInst_cores (i : Nat) (x : Inst) : (setInst i x s).cores = s.cores := rfl
@[simp] theorem setInst_hub (i : Nat) (x : Inst) : (setInst i x s).hub = s.hub := rfl
@[simp] theorem setInst_inbox (i : Nat) (x : Inst) : (setInst i x s).inbox = s.inbox := rfl
@[simp] theorem setInst_ctx (i : Nat) (x : Inst) : (setInst i x s).ctx = s.ctx := rfl
@[simp] theorem setInst_reloading (i : Nat) (x : Inst) : (setInst i x s).reloading = s.reloading := rfl
@[simp] theorem setInst_results (i : Nat) (x : Inst) : (setInst i x s).results = s.results := rfl
@[simp] theorem setInst_workId (i : Nat) (x : Inst) : (setInst i x s).workId = s.workId := rfl
@[simp] theorem setInst_away (i : Nat) (x : Inst) : (setInst i x s).away = s.away := rfl
@[simp] theorem setInst_cl (i : Nat) (x : Inst) : (setInst i x s).cl = s.cl := rfl

/-! ### setLink -/

@[simp] theorem setLink_pending (n : Nat) (x : Lnk) : (setLink n x s).pending = s.pending := rfl
@[simp] theorem setLink_free (n : Nat) (x : Lnk) : (setLink n x s).free = s.free := rfl
@[simp] theorem setLink_out (n : Nat) (x : Lnk) : (setLink n x s).out = s.out := rfl
@[simp] theorem setLink_ctrs (n : Nat) (x : Lnk) : (setLink n x s).ctrs = s.ctrs := rfl
@[simp] theorem setLink_ovf (n : Nat) (x : Lnk) : (setLink n x s).ovf = s.ovf := rfl
@[simp] theorem setLink_latch (n : Nat) (x : Lnk) : (setLink n x s).latch = s.latch := rfl
@[simp] theorem setLink_tagSeq (n : Nat) (x : Lnk) : (setLink n x s).tagSeq = s.tagSeq := rfl
@[simp] theorem setLink_seqRx (n : Nat) (x : Lnk) : (setLink n x s).seqRx = s.seqRx := rfl
@[simp] theorem setLink_flt (n : Nat) (x : Lnk) : (setLink n x s).flt = s.flt := rfl
@[simp] theorem setLink_ver (n : Nat) (x : Lnk) : (setLink n x s).ver = s.ver := rfl
@[simp] theorem setLink_ports (n : Nat) (x : Lnk) : (setLink n x s).ports = s.ports := rfl
@[simp] theorem setLink_inlineOk (n : Nat) (x : Lnk) : (setLink n x s).inlineOk = s.inlineOk := rfl
@[simp] theorem setLink_pipes (n : Nat) (x : Lnk) : (setLink n x s).pipes = s.pipes := rfl
@[simp] theorem setLink_slices (n : Nat) (x : Lnk) : (setLink n x s).slices = s.slices := rfl
@[simp] theorem setLink_dies (n : Nat) (x : Lnk) : (setLink n x s).dies = s.dies := rfl
@[simp] theorem setLink_learn (n : Nat) (x : Lnk) : (setLink n x s).learn = s.learn := rfl
@[simp] theorem setLink_tunits (n : Nat) (x : Lnk) : (setLink n x s).tunits = s.tunits := rfl
@[simp] theorem setLink_failed (n : Nat) (x : Lnk) : (setLink n x s).failed = s.failed := rfl
@[simp] theorem setLink_cjobs (n : Nat) (x : Lnk) : (setLink n x s).cjobs = s.cjobs := rfl
@[simp] theorem setLink_evals (n : Nat) (x : Lnk) : (setLink n x s).evals = s.evals := rfl
@[simp] theorem setLink_arrived (n : Nat) (x : Lnk) : (setLink n x s).arrived = s.arrived := rfl
@[simp] theorem setLink_records (n : Nat) (x : Lnk) : (setLink n x s).records = s.records := rfl
@[simp] theorem setLink_ch (n : Nat) (x : Lnk) : (setLink n x s).ch = s.ch := rfl
@[simp] theorem setLink_helm (n : Nat) (x : Lnk) : (setLink n x s).helm = s.helm := rfl
@[simp] theorem setLink_chip (n : Nat) (x : Lnk) : (setLink n x s).chip = s.chip := rfl
@[simp] theorem setLink_nv (n : Nat) (x : Lnk) : (setLink n x s).nv = s.nv := rfl
@[simp] theorem setLink_sys (n : Nat) (x : Lnk) : (setLink n x s).sys = s.sys := rfl
@[simp] theorem setLink_jtag (n : Nat) (x : Lnk) : (setLink n x s).jtag = s.jtag := rfl
@[simp] theorem setLink_hv (n : Nat) (x : Lnk) : (setLink n x s).hv = s.hv := rfl
@[simp] theorem setLink_logs (n : Nat) (x : Lnk) : (setLink n x s).logs = s.logs := rfl
@[simp] theorem setLink_pw (n : Nat) (x : Lnk) : (setLink n x s).pw = s.pw := rfl
@[simp] theorem setLink_obsW (n : Nat) (x : Lnk) : (setLink n x s).obsW = s.obsW := rfl
@[simp] theorem setLink_mem (n : Nat) (x : Lnk) : (setLink n x s).mem = s.mem := rfl
@[simp] theorem setLink_cores (n : Nat) (x : Lnk) : (setLink n x s).cores = s.cores := rfl
@[simp] theorem setLink_hub (n : Nat) (x : Lnk) : (setLink n x s).hub = s.hub := rfl
@[simp] theorem setLink_inbox (n : Nat) (x : Lnk) : (setLink n x s).inbox = s.inbox := rfl
@[simp] theorem setLink_ctx (n : Nat) (x : Lnk) : (setLink n x s).ctx = s.ctx := rfl
@[simp] theorem setLink_insts (n : Nat) (x : Lnk) : (setLink n x s).insts = s.insts := rfl
@[simp] theorem setLink_reloading (n : Nat) (x : Lnk) : (setLink n x s).reloading = s.reloading := rfl
@[simp] theorem setLink_results (n : Nat) (x : Lnk) : (setLink n x s).results = s.results := rfl
@[simp] theorem setLink_workId (n : Nat) (x : Lnk) : (setLink n x s).workId = s.workId := rfl
@[simp] theorem setLink_away (n : Nat) (x : Lnk) : (setLink n x s).away = s.away := rfl

/-! ### setBlk -/

@[simp] theorem setBlk_pending (u i : Nat) (x : Blk) : (setBlk u i x s).pending = s.pending := rfl
@[simp] theorem setBlk_free (u i : Nat) (x : Blk) : (setBlk u i x s).free = s.free := rfl
@[simp] theorem setBlk_out (u i : Nat) (x : Blk) : (setBlk u i x s).out = s.out := rfl
@[simp] theorem setBlk_ctrs (u i : Nat) (x : Blk) : (setBlk u i x s).ctrs = s.ctrs := rfl
@[simp] theorem setBlk_ovf (u i : Nat) (x : Blk) : (setBlk u i x s).ovf = s.ovf := rfl
@[simp] theorem setBlk_latch (u i : Nat) (x : Blk) : (setBlk u i x s).latch = s.latch := rfl
@[simp] theorem setBlk_tagSeq (u i : Nat) (x : Blk) : (setBlk u i x s).tagSeq = s.tagSeq := rfl
@[simp] theorem setBlk_seqRx (u i : Nat) (x : Blk) : (setBlk u i x s).seqRx = s.seqRx := rfl
@[simp] theorem setBlk_flt (u i : Nat) (x : Blk) : (setBlk u i x s).flt = s.flt := rfl
@[simp] theorem setBlk_ver (u i : Nat) (x : Blk) : (setBlk u i x s).ver = s.ver := rfl
@[simp] theorem setBlk_ports (u i : Nat) (x : Blk) : (setBlk u i x s).ports = s.ports := rfl
@[simp] theorem setBlk_inlineOk (u i : Nat) (x : Blk) : (setBlk u i x s).inlineOk = s.inlineOk := rfl
@[simp] theorem setBlk_pipes (u i : Nat) (x : Blk) : (setBlk u i x s).pipes = s.pipes := rfl
@[simp] theorem setBlk_slices (u i : Nat) (x : Blk) : (setBlk u i x s).slices = s.slices := rfl
@[simp] theorem setBlk_dies (u i : Nat) (x : Blk) : (setBlk u i x s).dies = s.dies := rfl
@[simp] theorem setBlk_learn (u i : Nat) (x : Blk) : (setBlk u i x s).learn = s.learn := rfl
@[simp] theorem setBlk_tunits (u i : Nat) (x : Blk) : (setBlk u i x s).tunits = s.tunits := rfl
@[simp] theorem setBlk_failed (u i : Nat) (x : Blk) : (setBlk u i x s).failed = s.failed := rfl
@[simp] theorem setBlk_cjobs (u i : Nat) (x : Blk) : (setBlk u i x s).cjobs = s.cjobs := rfl
@[simp] theorem setBlk_evals (u i : Nat) (x : Blk) : (setBlk u i x s).evals = s.evals := rfl
@[simp] theorem setBlk_arrived (u i : Nat) (x : Blk) : (setBlk u i x s).arrived = s.arrived := rfl
@[simp] theorem setBlk_records (u i : Nat) (x : Blk) : (setBlk u i x s).records = s.records := rfl
@[simp] theorem setBlk_ch (u i : Nat) (x : Blk) : (setBlk u i x s).ch = s.ch := rfl
@[simp] theorem setBlk_helm (u i : Nat) (x : Blk) : (setBlk u i x s).helm = s.helm := rfl
@[simp] theorem setBlk_chip (u i : Nat) (x : Blk) : (setBlk u i x s).chip = s.chip := rfl
@[simp] theorem setBlk_nv (u i : Nat) (x : Blk) : (setBlk u i x s).nv = s.nv := rfl
@[simp] theorem setBlk_jtag (u i : Nat) (x : Blk) : (setBlk u i x s).jtag = s.jtag := rfl
@[simp] theorem setBlk_hv (u i : Nat) (x : Blk) : (setBlk u i x s).hv = s.hv := rfl
@[simp] theorem setBlk_logs (u i : Nat) (x : Blk) : (setBlk u i x s).logs = s.logs := rfl
@[simp] theorem setBlk_pw (u i : Nat) (x : Blk) : (setBlk u i x s).pw = s.pw := rfl
@[simp] theorem setBlk_obsW (u i : Nat) (x : Blk) : (setBlk u i x s).obsW = s.obsW := rfl
@[simp] theorem setBlk_mem (u i : Nat) (x : Blk) : (setBlk u i x s).mem = s.mem := rfl
@[simp] theorem setBlk_cores (u i : Nat) (x : Blk) : (setBlk u i x s).cores = s.cores := rfl
@[simp] theorem setBlk_hub (u i : Nat) (x : Blk) : (setBlk u i x s).hub = s.hub := rfl
@[simp] theorem setBlk_inbox (u i : Nat) (x : Blk) : (setBlk u i x s).inbox = s.inbox := rfl
@[simp] theorem setBlk_ctx (u i : Nat) (x : Blk) : (setBlk u i x s).ctx = s.ctx := rfl
@[simp] theorem setBlk_insts (u i : Nat) (x : Blk) : (setBlk u i x s).insts = s.insts := rfl
@[simp] theorem setBlk_reloading (u i : Nat) (x : Blk) : (setBlk u i x s).reloading = s.reloading := rfl
@[simp] theorem setBlk_results (u i : Nat) (x : Blk) : (setBlk u i x s).results = s.results := rfl
@[simp] theorem setBlk_workId (u i : Nat) (x : Blk) : (setBlk u i x s).workId = s.workId := rfl
@[simp] theorem setBlk_away (u i : Nat) (x : Blk) : (setBlk u i x s).away = s.away := rfl
@[simp] theorem setBlk_cl (u i : Nat) (x : Blk) : (setBlk u i x s).cl = s.cl := rfl

/-! ### emit -/

@[simp] theorem emit_pending (o : Out) : (emit o s).pending = s.pending := rfl
@[simp] theorem emit_free (o : Out) : (emit o s).free = s.free := rfl
@[simp] theorem emit_ctrs (o : Out) : (emit o s).ctrs = s.ctrs := rfl
@[simp] theorem emit_ovf (o : Out) : (emit o s).ovf = s.ovf := rfl
@[simp] theorem emit_latch (o : Out) : (emit o s).latch = s.latch := rfl
@[simp] theorem emit_tagSeq (o : Out) : (emit o s).tagSeq = s.tagSeq := rfl
@[simp] theorem emit_seqRx (o : Out) : (emit o s).seqRx = s.seqRx := rfl
@[simp] theorem emit_flt (o : Out) : (emit o s).flt = s.flt := rfl
@[simp] theorem emit_ver (o : Out) : (emit o s).ver = s.ver := rfl
@[simp] theorem emit_ports (o : Out) : (emit o s).ports = s.ports := rfl
@[simp] theorem emit_inlineOk (o : Out) : (emit o s).inlineOk = s.inlineOk := rfl
@[simp] theorem emit_pipes (o : Out) : (emit o s).pipes = s.pipes := rfl
@[simp] theorem emit_slices (o : Out) : (emit o s).slices = s.slices := rfl
@[simp] theorem emit_dies (o : Out) : (emit o s).dies = s.dies := rfl
@[simp] theorem emit_learn (o : Out) : (emit o s).learn = s.learn := rfl
@[simp] theorem emit_tunits (o : Out) : (emit o s).tunits = s.tunits := rfl
@[simp] theorem emit_failed (o : Out) : (emit o s).failed = s.failed := rfl
@[simp] theorem emit_cjobs (o : Out) : (emit o s).cjobs = s.cjobs := rfl
@[simp] theorem emit_evals (o : Out) : (emit o s).evals = s.evals := rfl
@[simp] theorem emit_arrived (o : Out) : (emit o s).arrived = s.arrived := rfl
@[simp] theorem emit_records (o : Out) : (emit o s).records = s.records := rfl
@[simp] theorem emit_ch (o : Out) : (emit o s).ch = s.ch := rfl
@[simp] theorem emit_helm (o : Out) : (emit o s).helm = s.helm := rfl
@[simp] theorem emit_chip (o : Out) : (emit o s).chip = s.chip := rfl
@[simp] theorem emit_nv (o : Out) : (emit o s).nv = s.nv := rfl
@[simp] theorem emit_sys (o : Out) : (emit o s).sys = s.sys := rfl
@[simp] theorem emit_jtag (o : Out) : (emit o s).jtag = s.jtag := rfl
@[simp] theorem emit_hv (o : Out) : (emit o s).hv = s.hv := rfl
@[simp] theorem emit_logs (o : Out) : (emit o s).logs = s.logs := rfl
@[simp] theorem emit_pw (o : Out) : (emit o s).pw = s.pw := rfl
@[simp] theorem emit_obsW (o : Out) : (emit o s).obsW = s.obsW := rfl
@[simp] theorem emit_mem (o : Out) : (emit o s).mem = s.mem := rfl
@[simp] theorem emit_cores (o : Out) : (emit o s).cores = s.cores := rfl
@[simp] theorem emit_hub (o : Out) : (emit o s).hub = s.hub := rfl
@[simp] theorem emit_inbox (o : Out) : (emit o s).inbox = s.inbox := rfl
@[simp] theorem emit_ctx (o : Out) : (emit o s).ctx = s.ctx := rfl
@[simp] theorem emit_insts (o : Out) : (emit o s).insts = s.insts := rfl
@[simp] theorem emit_reloading (o : Out) : (emit o s).reloading = s.reloading := rfl
@[simp] theorem emit_results (o : Out) : (emit o s).results = s.results := rfl
@[simp] theorem emit_workId (o : Out) : (emit o s).workId = s.workId := rfl
@[simp] theorem emit_away (o : Out) : (emit o s).away = s.away := rfl
@[simp] theorem emit_cl (o : Out) : (emit o s).cl = s.cl := rfl

/-! ### perf -/

@[simp] theorem perf_pending (off n : Nat) : (perf off n s).pending = s.pending := rfl
@[simp] theorem perf_free (off n : Nat) : (perf off n s).free = s.free := rfl
@[simp] theorem perf_out (off n : Nat) : (perf off n s).out = s.out := rfl
@[simp] theorem perf_ovf (off n : Nat) : (perf off n s).ovf = s.ovf := rfl
@[simp] theorem perf_latch (off n : Nat) : (perf off n s).latch = s.latch := rfl
@[simp] theorem perf_tagSeq (off n : Nat) : (perf off n s).tagSeq = s.tagSeq := rfl
@[simp] theorem perf_seqRx (off n : Nat) : (perf off n s).seqRx = s.seqRx := rfl
@[simp] theorem perf_flt (off n : Nat) : (perf off n s).flt = s.flt := rfl
@[simp] theorem perf_ver (off n : Nat) : (perf off n s).ver = s.ver := rfl
@[simp] theorem perf_ports (off n : Nat) : (perf off n s).ports = s.ports := rfl
@[simp] theorem perf_inlineOk (off n : Nat) : (perf off n s).inlineOk = s.inlineOk := rfl
@[simp] theorem perf_pipes (off n : Nat) : (perf off n s).pipes = s.pipes := rfl
@[simp] theorem perf_slices (off n : Nat) : (perf off n s).slices = s.slices := rfl
@[simp] theorem perf_dies (off n : Nat) : (perf off n s).dies = s.dies := rfl
@[simp] theorem perf_learn (off n : Nat) : (perf off n s).learn = s.learn := rfl
@[simp] theorem perf_tunits (off n : Nat) : (perf off n s).tunits = s.tunits := rfl
@[simp] theorem perf_failed (off n : Nat) : (perf off n s).failed = s.failed := rfl
@[simp] theorem perf_cjobs (off n : Nat) : (perf off n s).cjobs = s.cjobs := rfl
@[simp] theorem perf_evals (off n : Nat) : (perf off n s).evals = s.evals := rfl
@[simp] theorem perf_arrived (off n : Nat) : (perf off n s).arrived = s.arrived := rfl
@[simp] theorem perf_records (off n : Nat) : (perf off n s).records = s.records := rfl
@[simp] theorem perf_ch (off n : Nat) : (perf off n s).ch = s.ch := rfl
@[simp] theorem perf_helm (off n : Nat) : (perf off n s).helm = s.helm := rfl
@[simp] theorem perf_chip (off n : Nat) : (perf off n s).chip = s.chip := rfl
@[simp] theorem perf_nv (off n : Nat) : (perf off n s).nv = s.nv := rfl
@[simp] theorem perf_sys (off n : Nat) : (perf off n s).sys = s.sys := rfl
@[simp] theorem perf_jtag (off n : Nat) : (perf off n s).jtag = s.jtag := rfl
@[simp] theorem perf_hv (off n : Nat) : (perf off n s).hv = s.hv := rfl
@[simp] theorem perf_logs (off n : Nat) : (perf off n s).logs = s.logs := rfl
@[simp] theorem perf_pw (off n : Nat) : (perf off n s).pw = s.pw := rfl
@[simp] theorem perf_obsW (off n : Nat) : (perf off n s).obsW = s.obsW := rfl
@[simp] theorem perf_mem (off n : Nat) : (perf off n s).mem = s.mem := rfl
@[simp] theorem perf_cores (off n : Nat) : (perf off n s).cores = s.cores := rfl
@[simp] theorem perf_hub (off n : Nat) : (perf off n s).hub = s.hub := rfl
@[simp] theorem perf_inbox (off n : Nat) : (perf off n s).inbox = s.inbox := rfl
@[simp] theorem perf_ctx (off n : Nat) : (perf off n s).ctx = s.ctx := rfl
@[simp] theorem perf_insts (off n : Nat) : (perf off n s).insts = s.insts := rfl
@[simp] theorem perf_reloading (off n : Nat) : (perf off n s).reloading = s.reloading := rfl
@[simp] theorem perf_results (off n : Nat) : (perf off n s).results = s.results := rfl
@[simp] theorem perf_workId (off n : Nat) : (perf off n s).workId = s.workId := rfl
@[simp] theorem perf_away (off n : Nat) : (perf off n s).away = s.away := rfl
@[simp] theorem perf_cl (off n : Nat) : (perf off n s).cl = s.cl := rfl

/-! ### errc -/

@[simp] theorem errc_pending (off ovf b n : Nat) : (errc off ovf b n s).pending = s.pending := by unfold errc; dsimp only; split <;> rfl
@[simp] theorem errc_free (off ovf b n : Nat) : (errc off ovf b n s).free = s.free := by unfold errc; dsimp only; split <;> rfl
@[simp] theorem errc_out (off ovf b n : Nat) : (errc off ovf b n s).out = s.out := by unfold errc; dsimp only; split <;> rfl
@[simp] theorem errc_latch (off ovf b n : Nat) : (errc off ovf b n s).latch = s.latch := by unfold errc; dsimp only; split <;> rfl
@[simp] theorem errc_tagSeq (off ovf b n : Nat) : (errc off ovf b n s).tagSeq = s.tagSeq := by unfold errc; dsimp only; split <;> rfl
@[simp] theorem errc_seqRx (off ovf b n : Nat) : (errc off ovf b n s).seqRx = s.seqRx := by unfold errc; dsimp only; split <;> rfl
@[simp] theorem errc_flt (off ovf b n : Nat) : (errc off ovf b n s).flt = s.flt := by unfold errc; dsimp only; split <;> rfl
@[simp] theorem errc_ver (off ovf b n : Nat) : (errc off ovf b n s).ver = s.ver := by unfold errc; dsimp only; split <;> rfl
@[simp] theorem errc_ports (off ovf b n : Nat) : (errc off ovf b n s).ports = s.ports := by unfold errc; dsimp only; split <;> rfl
@[simp] theorem errc_inlineOk (off ovf b n : Nat) : (errc off ovf b n s).inlineOk = s.inlineOk := by unfold errc; dsimp only; split <;> rfl
@[simp] theorem errc_pipes (off ovf b n : Nat) : (errc off ovf b n s).pipes = s.pipes := by unfold errc; dsimp only; split <;> rfl
@[simp] theorem errc_slices (off ovf b n : Nat) : (errc off ovf b n s).slices = s.slices := by unfold errc; dsimp only; split <;> rfl
@[simp] theorem errc_dies (off ovf b n : Nat) : (errc off ovf b n s).dies = s.dies := by unfold errc; dsimp only; split <;> rfl
@[simp] theorem errc_learn (off ovf b n : Nat) : (errc off ovf b n s).learn = s.learn := by unfold errc; dsimp only; split <;> rfl
@[simp] theorem errc_tunits (off ovf b n : Nat) : (errc off ovf b n s).tunits = s.tunits := by unfold errc; dsimp only; split <;> rfl
@[simp] theorem errc_failed (off ovf b n : Nat) : (errc off ovf b n s).failed = s.failed := by unfold errc; dsimp only; split <;> rfl
@[simp] theorem errc_cjobs (off ovf b n : Nat) : (errc off ovf b n s).cjobs = s.cjobs := by unfold errc; dsimp only; split <;> rfl
@[simp] theorem errc_evals (off ovf b n : Nat) : (errc off ovf b n s).evals = s.evals := by unfold errc; dsimp only; split <;> rfl
@[simp] theorem errc_arrived (off ovf b n : Nat) : (errc off ovf b n s).arrived = s.arrived := by unfold errc; dsimp only; split <;> rfl
@[simp] theorem errc_records (off ovf b n : Nat) : (errc off ovf b n s).records = s.records := by unfold errc; dsimp only; split <;> rfl
@[simp] theorem errc_ch (off ovf b n : Nat) : (errc off ovf b n s).ch = s.ch := by unfold errc; dsimp only; split <;> rfl
@[simp] theorem errc_helm (off ovf b n : Nat) : (errc off ovf b n s).helm = s.helm := by unfold errc; dsimp only; split <;> rfl
@[simp] theorem errc_chip (off ovf b n : Nat) : (errc off ovf b n s).chip = s.chip := by unfold errc; dsimp only; split <;> rfl
@[simp] theorem errc_nv (off ovf b n : Nat) : (errc off ovf b n s).nv = s.nv := by unfold errc; dsimp only; split <;> rfl
@[simp] theorem errc_sys (off ovf b n : Nat) : (errc off ovf b n s).sys = s.sys := by unfold errc; dsimp only; split <;> rfl
@[simp] theorem errc_jtag (off ovf b n : Nat) : (errc off ovf b n s).jtag = s.jtag := by unfold errc; dsimp only; split <;> rfl
@[simp] theorem errc_hv (off ovf b n : Nat) : (errc off ovf b n s).hv = s.hv := by unfold errc; dsimp only; split <;> rfl
@[simp] theorem errc_logs (off ovf b n : Nat) : (errc off ovf b n s).logs = s.logs := by unfold errc; dsimp only; split <;> rfl
@[simp] theorem errc_pw (off ovf b n : Nat) : (errc off ovf b n s).pw = s.pw := by unfold errc; dsimp only; split <;> rfl
@[simp] theorem errc_obsW (off ovf b n : Nat) : (errc off ovf b n s).obsW = s.obsW := by unfold errc; dsimp only; split <;> rfl
@[simp] theorem errc_mem (off ovf b n : Nat) : (errc off ovf b n s).mem = s.mem := by unfold errc; dsimp only; split <;> rfl
@[simp] theorem errc_cores (off ovf b n : Nat) : (errc off ovf b n s).cores = s.cores := by unfold errc; dsimp only; split <;> rfl
@[simp] theorem errc_hub (off ovf b n : Nat) : (errc off ovf b n s).hub = s.hub := by unfold errc; dsimp only; split <;> rfl
@[simp] theorem errc_inbox (off ovf b n : Nat) : (errc off ovf b n s).inbox = s.inbox := by unfold errc; dsimp only; split <;> rfl
@[simp] theorem errc_ctx (off ovf b n : Nat) : (errc off ovf b n s).ctx = s.ctx := by unfold errc; dsimp only; split <;> rfl
@[simp] theorem errc_insts (off ovf b n : Nat) : (errc off ovf b n s).insts = s.insts := by unfold errc; dsimp only; split <;> rfl
@[simp] theorem errc_reloading (off ovf b n : Nat) : (errc off ovf b n s).reloading = s.reloading := by unfold errc; dsimp only; split <;> rfl
@[simp] theorem errc_results (off ovf b n : Nat) : (errc off ovf b n s).results = s.results := by unfold errc; dsimp only; split <;> rfl
@[simp] theorem errc_workId (off ovf b n : Nat) : (errc off ovf b n s).workId = s.workId := by unfold errc; dsimp only; split <;> rfl
@[simp] theorem errc_away (off ovf b n : Nat) : (errc off ovf b n s).away = s.away := by unfold errc; dsimp only; split <;> rfl
@[simp] theorem errc_cl (off ovf b n : Nat) : (errc off ovf b n s).cl = s.cl := by unfold errc; dsimp only; split <;> rfl

/-! ### State.withPending -/

@[simp] theorem withPending_free (l : List Instr) : (s.withPending l).free = s.free := rfl
@[simp] theorem withPending_out (l : List Instr) : (s.withPending l).out = s.out := rfl
@[simp] theorem withPending_ctrs (l : List Instr) : (s.withPending l).ctrs = s.ctrs := rfl
@[simp] theorem withPending_ovf (l : List Instr) : (s.withPending l).ovf = s.ovf := rfl
@[simp] theorem withPending_latch (l : List Instr) : (s.withPending l).latch = s.latch := rfl
@[simp] theorem withPending_tagSeq (l : List Instr) : (s.withPending l).tagSeq = s.tagSeq := rfl
@[simp] theorem withPending_seqRx (l : List Instr) : (s.withPending l).seqRx = s.seqRx := rfl
@[simp] theorem withPending_flt (l : List Instr) : (s.withPending l).flt = s.flt := rfl
@[simp] theorem withPending_ver (l : List Instr) : (s.withPending l).ver = s.ver := rfl
@[simp] theorem withPending_ports (l : List Instr) : (s.withPending l).ports = s.ports := rfl
@[simp] theorem withPending_inlineOk (l : List Instr) : (s.withPending l).inlineOk = s.inlineOk := rfl
@[simp] theorem withPending_pipes (l : List Instr) : (s.withPending l).pipes = s.pipes := rfl
@[simp] theorem withPending_slices (l : List Instr) : (s.withPending l).slices = s.slices := rfl
@[simp] theorem withPending_dies (l : List Instr) : (s.withPending l).dies = s.dies := rfl
@[simp] theorem withPending_learn (l : List Instr) : (s.withPending l).learn = s.learn := rfl
@[simp] theorem withPending_tunits (l : List Instr) : (s.withPending l).tunits = s.tunits := rfl
@[simp] theorem withPending_failed (l : List Instr) : (s.withPending l).failed = s.failed := rfl
@[simp] theorem withPending_cjobs (l : List Instr) : (s.withPending l).cjobs = s.cjobs := rfl
@[simp] theorem withPending_evals (l : List Instr) : (s.withPending l).evals = s.evals := rfl
@[simp] theorem withPending_arrived (l : List Instr) : (s.withPending l).arrived = s.arrived := rfl
@[simp] theorem withPending_records (l : List Instr) : (s.withPending l).records = s.records := rfl
@[simp] theorem withPending_ch (l : List Instr) : (s.withPending l).ch = s.ch := rfl
@[simp] theorem withPending_helm (l : List Instr) : (s.withPending l).helm = s.helm := rfl
@[simp] theorem withPending_chip (l : List Instr) : (s.withPending l).chip = s.chip := rfl
@[simp] theorem withPending_nv (l : List Instr) : (s.withPending l).nv = s.nv := rfl
@[simp] theorem withPending_sys (l : List Instr) : (s.withPending l).sys = s.sys := rfl
@[simp] theorem withPending_jtag (l : List Instr) : (s.withPending l).jtag = s.jtag := rfl
@[simp] theorem withPending_hv (l : List Instr) : (s.withPending l).hv = s.hv := rfl
@[simp] theorem withPending_logs (l : List Instr) : (s.withPending l).logs = s.logs := rfl
@[simp] theorem withPending_pw (l : List Instr) : (s.withPending l).pw = s.pw := rfl
@[simp] theorem withPending_obsW (l : List Instr) : (s.withPending l).obsW = s.obsW := rfl
@[simp] theorem withPending_mem (l : List Instr) : (s.withPending l).mem = s.mem := rfl
@[simp] theorem withPending_cores (l : List Instr) : (s.withPending l).cores = s.cores := rfl
@[simp] theorem withPending_hub (l : List Instr) : (s.withPending l).hub = s.hub := rfl
@[simp] theorem withPending_inbox (l : List Instr) : (s.withPending l).inbox = s.inbox := rfl
@[simp] theorem withPending_ctx (l : List Instr) : (s.withPending l).ctx = s.ctx := rfl
@[simp] theorem withPending_insts (l : List Instr) : (s.withPending l).insts = s.insts := rfl
@[simp] theorem withPending_reloading (l : List Instr) : (s.withPending l).reloading = s.reloading := rfl
@[simp] theorem withPending_results (l : List Instr) : (s.withPending l).results = s.results := rfl
@[simp] theorem withPending_workId (l : List Instr) : (s.withPending l).workId = s.workId := rfl
@[simp] theorem withPending_away (l : List Instr) : (s.withPending l).away = s.away := rfl
@[simp] theorem withPending_cl (l : List Instr) : (s.withPending l).cl = s.cl := rfl

/-! ### setCh -/

@[simp] theorem setCh_pending (c : Chron) : (setCh c s).pending = s.pending := rfl
@[simp] theorem setCh_free (c : Chron) : (setCh c s).free = s.free := rfl
@[simp] theorem setCh_out (c : Chron) : (setCh c s).out = s.out := rfl
@[simp] theorem setCh_ctrs (c : Chron) : (setCh c s).ctrs = s.ctrs := rfl
@[simp] theorem setCh_ovf (c : Chron) : (setCh c s).ovf = s.ovf := rfl
@[simp] theorem setCh_latch (c : Chron) : (setCh c s).latch = s.latch := rfl
@[simp] theorem setCh_tagSeq (c : Chron) : (setCh c s).tagSeq = s.tagSeq := rfl
@[simp] theorem setCh_seqRx (c : Chron) : (setCh c s).seqRx = s.seqRx := rfl
@[simp] theorem setCh_flt (c : Chron) : (setCh c s).flt = s.flt := rfl
@[simp] theorem setCh_ver (c : Chron) : (setCh c s).ver = s.ver := rfl
@[simp] theorem setCh_ports (c : Chron) : (setCh c s).ports = s.ports := rfl
@[simp] theorem setCh_inlineOk (c : Chron) : (setCh c s).inlineOk = s.inlineOk := rfl
@[simp] theorem setCh_pipes (c : Chron) : (setCh c s).pipes = s.pipes := rfl
@[simp] theorem setCh_slices (c : Chron) : (setCh c s).slices = s.slices := rfl
@[simp] theorem setCh_dies (c : Chron) : (setCh c s).dies = s.dies := rfl
@[simp] theorem setCh_learn (c : Chron) : (setCh c s).learn = s.learn := rfl
@[simp] theorem setCh_tunits (c : Chron) : (setCh c s).tunits = s.tunits := rfl
@[simp] theorem setCh_failed (c : Chron) : (setCh c s).failed = s.failed := rfl
@[simp] theorem setCh_cjobs (c : Chron) : (setCh c s).cjobs = s.cjobs := rfl
@[simp] theorem setCh_evals (c : Chron) : (setCh c s).evals = s.evals := rfl
@[simp] theorem setCh_arrived (c : Chron) : (setCh c s).arrived = s.arrived := rfl
@[simp] theorem setCh_records (c : Chron) : (setCh c s).records = s.records := rfl
@[simp] theorem setCh_helm (c : Chron) : (setCh c s).helm = s.helm := rfl
@[simp] theorem setCh_chip (c : Chron) : (setCh c s).chip = s.chip := rfl
@[simp] theorem setCh_nv (c : Chron) : (setCh c s).nv = s.nv := rfl
@[simp] theorem setCh_sys (c : Chron) : (setCh c s).sys = s.sys := rfl
@[simp] theorem setCh_jtag (c : Chron) : (setCh c s).jtag = s.jtag := rfl
@[simp] theorem setCh_hv (c : Chron) : (setCh c s).hv = s.hv := rfl
@[simp] theorem setCh_logs (c : Chron) : (setCh c s).logs = s.logs := rfl
@[simp] theorem setCh_pw (c : Chron) : (setCh c s).pw = s.pw := rfl
@[simp] theorem setCh_obsW (c : Chron) : (setCh c s).obsW = s.obsW := rfl
@[simp] theorem setCh_mem (c : Chron) : (setCh c s).mem = s.mem := rfl
@[simp] theorem setCh_cores (c : Chron) : (setCh c s).cores = s.cores := rfl
@[simp] theorem setCh_hub (c : Chron) : (setCh c s).hub = s.hub := rfl
@[simp] theorem setCh_inbox (c : Chron) : (setCh c s).inbox = s.inbox := rfl
@[simp] theorem setCh_ctx (c : Chron) : (setCh c s).ctx = s.ctx := rfl
@[simp] theorem setCh_insts (c : Chron) : (setCh c s).insts = s.insts := rfl
@[simp] theorem setCh_reloading (c : Chron) : (setCh c s).reloading = s.reloading := rfl
@[simp] theorem setCh_results (c : Chron) : (setCh c s).results = s.results := rfl
@[simp] theorem setCh_workId (c : Chron) : (setCh c s).workId = s.workId := rfl
@[simp] theorem setCh_away (c : Chron) : (setCh c s).away = s.away := rfl
@[simp] theorem setCh_cl (c : Chron) : (setCh c s).cl = s.cl := rfl

@[simp] theorem withPending_pending (l : List Instr) : (s.withPending l).pending = l := rfl
@[simp] theorem setCh_ch (c : Chron) : (setCh c s).ch = c := rfl

end Sys2Proof.Machine
end

