-- ==== Sys2Proof/Laws/Taken.lean ====
section
/-! SUPPORT. What the model reads of the state is what it was, once a mailbox command has been taken: one lemma per reader. -/

namespace Sys2Proof.Machine

open Sys2Proof

variable (op : Nat) (r : Req) (s : State)

/-! ### Mailbox -/

@[simp] theorem callOf_busy (x : Req) : callOf x (busy op r s) = callOf x s := rfl

/-! ### Arrays -/

@[simp] theorem amDesc_busy (p : Nat) (w : Nat) (a : Nat) : amDesc (busy op r s) p w a = amDesc s p w a := rfl
@[simp] theorem amPoison_busy (p : Nat) (w : Nat) (a : Nat) : amPoison (busy op r s) p w a = amPoison s p w a := rfl
@[simp] theorem amRanges_busy (p : Nat) (w : Nat) (a : Nat) : amRanges (busy op r s) p w a = amRanges s p w a := rfl
@[simp] theorem arrMask_busy (p : Nat) : arrMask (busy op r s) p = arrMask s p := rfl
@[simp] theorem chainOf_busy (p : Nat) (w : Nat) (a : Nat) (h : Half) : chainOf (busy op r s) p w a h = chainOf s p w a h := rfl
@[simp] theorem drainDesc_busy (p : Nat) (at_ : Nat) : drainDesc (busy op r s) p at_ = drainDesc s p at_ := rfl
@[simp] theorem drainFmt_busy (p : Nat) (d : Bytes) (i : List Nat) : drainFmt (busy op r s) p d i = drainFmt s p d i := rfl
@[simp] theorem drainPoison_busy (p : Nat) (d : Bytes) (x : Slot) (a : Nat) : drainPoison (busy op r s) p d x a = drainPoison s p d x a :=
    rfl
@[simp] theorem drainRows_busy (p : Nat) (a : Nat) (f : Nat) (d : Bytes) (x : Slot) (n : Nar) :
    drainRows (busy op r s) p a f d x n = drainRows s p a f d x n :=
  rfl
@[simp] theorem drainVal_busy (p : Nat) (d : Bytes) (acc : Int) (la : Int) (lw : Int) (rf : Nat) (cf : Nat) (i : Nat) :
    drainVal (busy op r s) p d acc la lw rf cf i = drainVal s p d acc la lw rf cf i :=
  rfl
@[simp] theorem halfAt_busy (p : Nat) (h : Nat) : halfAt (busy op r s) p h = halfAt s p h := rfl
@[simp] theorem slotAt_busy (p : Nat) (key : Nat) : slotAt (busy op r s) p key = slotAt s p key := rfl
@[simp] theorem slotKey_busy (p : Nat) (a : Nat) (sl : Nat) : slotKey (busy op r s) p a sl = slotKey s p a sl := rfl

/-! ### Brixvia -/

@[simp] theorem bulkBar_busy (i : Nat) : bulkBar (busy op r s) i = bulkBar s i := rfl
@[simp] theorem bulkOf_busy (i : Nat) (xid : Nat) : bulkOf (busy op r s) i xid = bulkOf s i xid := rfl
@[simp] theorem freeSess_busy : freeSess (busy op r s) = freeSess s := rfl
@[simp] theorem portFit_busy (x : Sess) (p : Nat) : portFit (busy op r s) x p = portFit s x p := rfl
@[simp] theorem portUp_busy (p : Nat) : portUp (busy op r s) p = portUp s p := rfl
@[simp] theorem ptpUses_busy (k : PtpKind) : ptpUses (busy op r s) k = ptpUses s k := rfl

/-! ### Chain -/

@[simp] theorem bearingDiffers_busy (b : Bytes) : bearingDiffers (busy op r s) b = bearingDiffers s b := rfl
@[simp] theorem copiesTo_busy (chip : Nat) (wid : Nat) : copiesTo (busy op r s) chip wid = copiesTo s chip wid := rfl
@[simp] theorem exchangeBody_busy : exchangeBody (busy op r s) = exchangeBody s := rfl
@[simp] theorem ownCounts_busy : ownCounts (busy op r s) = ownCounts s := rfl

/-! ### Chronometer -/

@[simp] theorem servoUp_busy : servoUp (busy op r s) = servoUp s := rfl
@[simp] theorem stepped_busy (ns : Int) : stepped (busy op r s) ns = stepped s ns := rfl
@[simp] theorem verLive_busy : verLive (busy op r s) = verLive s := rfl

/-! ### Classifier -/

@[simp] theorem composeVerdict_busy (x : Slice) (pf : List PRef) : composeVerdict (busy op r s) x pf = composeVerdict s x pf :=
    rfl
@[simp] theorem ovrApplies_busy (v : Nat) (b : Bytes) : ovrApplies (busy op r s) v b = ovrApplies s v b := rfl
@[simp] theorem readsBad_busy (place v : Nat) (pf : List PRef) (x : PRef) : readsBad (busy op r s) place v pf x = readsBad s place v pf x :=
    rfl

/-! ### CompassUnit -/

@[simp] theorem cjobStatus_busy (b : Bytes) (version : Nat) : cjobStatus (busy op r s) b version = cjobStatus s b version := rfl
@[simp] theorem cjobsOf_busy (d : Nat) : cjobsOf (busy op r s) d = cjobsOf s d := rfl
@[simp] theorem cmpRuns_busy (u : Nat) : cmpRuns (busy op r s) u = cmpRuns s u := rfl
@[simp] theorem cmpTakes_busy (u : Nat) (v : Nat) : cmpTakes (busy op r s) u v = cmpTakes s u v := rfl
@[simp] theorem samplesQueued_busy (d : Nat) : samplesQueued (busy op r s) d = samplesQueued s d := rfl

/-! ### Control -/

@[simp] theorem jobField_busy (p : Nat) (sel : Nat) : jobField (busy op r s) p sel = jobField s p sel := rfl
@[simp] theorem slotsOf_busy (p : Nat) (e : EI) : slotsOf (busy op r s) p e = slotsOf s p e := rfl
@[simp] theorem slotsUsed_busy (p : Nat) : slotsUsed (busy op r s) p = slotsUsed s p := rfl

/-! ### CoreOps -/

@[simp] theorem canDecode_busy (p : Nat) : canDecode (busy op r s) p = canDecode s p := rfl
@[simp] theorem coreOn_busy (p : Nat) : coreOn (busy op r s) p = coreOn s p := rfl
@[simp] theorem csSlice_busy (p : Nat) (o : Nat) (n : Nat) : csSlice (busy op r s) p o n = csSlice s p o n := rfl
@[simp] theorem jobOf_busy (p : Nat) : jobOf (busy op r s) p = jobOf s p := rfl
@[simp] theorem jobVersion_busy (p : Nat) : jobVersion (busy op r s) p = jobVersion s p := rfl
@[simp] theorem lcore_busy (p : Nat) : lcore (busy op r s) p = lcore s p := rfl

/-! ### Jobs -/

@[simp] theorem coresIdle_busy (f : Nat) (n : Nat) : coresIdle (busy op r s) f n = coresIdle s f n := rfl
@[simp] theorem instCores_busy (i : Nat) : instCores (busy op r s) i = instCores s i := rfl
@[simp] theorem progAt_busy (model : Nat) (a : Nat) : progAt (busy op r s) model a = progAt s model a := rfl
@[simp] theorem rankProg_busy (model : Nat) (m : Model) (x : Nat) : rankProg (busy op r s) model m x = rankProg s model m x :=
    rfl
@[simp] theorem sectAt_busy (a : Nat) (i : Nat) : sectAt (busy op r s) a i = sectAt s a i := rfl
@[simp] theorem sectsOf_busy (a : Nat) : sectsOf (busy op r s) a = sectsOf s a := rfl

/-! ### LinkLayer -/

@[simp] theorem flitsRun_busy (n : Nat) : flitsRun (busy op r s) n = flitsRun s n := rfl
@[simp] theorem fwUp_busy : fwUp (busy op r s) = fwUp s := rfl
@[simp] theorem holdsFlits_busy (n : Nat) : holdsFlits (busy op r s) n = holdsFlits s n := rfl
@[simp] theorem replaysLast_busy (n : Nat) : replaysLast (busy op r s) n = replaysLast s n := rfl
@[simp] theorem usableLanes_busy (n : Nat) : usableLanes (busy op r s) n = usableLanes s n := rfl

/-! ### Links -/

@[simp] theorem linkAgree_busy (n : Nat) : linkAgree (busy op r s) n = linkAgree s n := rfl
@[simp] theorem routeEntry_busy (d : Nat) : routeEntry (busy op r s) d = routeEntry s d := rfl
@[simp] theorem routeLost_busy (d : Nat) : routeLost (busy op r s) d = routeLost s d := rfl
@[simp] theorem routeTo_busy (d : Nat) : routeTo (busy op r s) d = routeTo s d := rfl

/-! ### Lookup -/

@[simp] theorem ageS_busy : ageS (busy op r s) = ageS s := rfl
@[simp] theorem exactSearch_busy (x : Slice) (o : Objs) (pf : List PRef) : exactSearch (busy op r s) x o pf = exactSearch s x o pf :=
    rfl
@[simp] theorem findWay_busy (d : Nat) (b : Nat) (mac : Nat) (vlan : Nat) (pf : List PRef) :
    findWay (busy op r s) d b mac vlan pf = findWay s d b mac vlan pf :=
  rfl
@[simp] theorem learnEnt_busy (b : Nat) (w : Nat) : learnEnt (busy op r s) b w = learnEnt s b w := rfl
@[simp] theorem learnSearch_busy (x : Slice) (o : Objs) (pf : List PRef) : learnSearch (busy op r s) x o pf = learnSearch s x o pf :=
    rfl
@[simp] theorem lpmSearch_busy (x : Slice) (o : Objs) (pf : List PRef) : lpmSearch (busy op r s) x o pf = lpmSearch s x o pf :=
    rfl
@[simp] theorem trieBad_busy (d f v : Nat) (l : List Pfx) (a : Nat) (pf : List PRef) :
    trieBad (busy op r s) d f v l a pf = trieBad s d f v l a pf :=
  rfl
@[simp] theorem wayFull_busy (d : Nat) (b : Nat) (pf : List PRef) (w : Nat) : wayFull (busy op r s) d b pf w = wayFull s d b pf w :=
    rfl

/-! ### Mailbox -/

@[simp] theorem reqChecks_busy (ver : Nat) (anchored : Bool) (q : Rq) : reqChecks (busy op r s) ver anchored q = reqChecks s ver anchored q :=
    rfl
@[simp] theorem romMode_busy : romMode (busy op r s) = romMode s := rfl

/-! ### Memory -/

@[simp] theorem activeN_busy (h : Nat) : activeN (busy op r s) h = activeN s h := rfl
@[simp] theorem activePch_busy (h : Nat) : activePch (busy op r s) h = activePch s h := rfl
@[simp] theorem devByte_busy (n : Nat) (a : Nat) : devByte (busy op r s) n a = devByte s n a := rfl
@[simp] theorem devBytes_busy (a : Nat) (n : Nat) : devBytes (busy op r s) a n = devBytes s a n := rfl
@[simp] theorem devPoison_busy (a : Nat) : devPoison (busy op r s) a = devPoison s a := rfl
@[simp] theorem firstPoison_busy (a : Nat) (n : Nat) : firstPoison (busy op r s) a n = firstPoison s a n := rfl
@[simp] theorem halfSize_busy (h : Nat) : halfSize (busy op r s) h = halfSize s h := rfl
@[simp] theorem inCs_busy (a : Nat) (n : Nat) : inCs (busy op r s) a n = inCs s a n := rfl
@[simp] theorem inHbm_busy (a : Nat) (n : Nat) : inHbm (busy op r s) a n = inHbm s a n := rfl
@[simp] theorem inMem_busy (a : Nat) (n : Nat) : inMem (busy op r s) a n = inMem s a n := rfl
@[simp] theorem locOf_busy (a : Nat) : locOf (busy op r s) a = locOf s a := rfl
@[simp] theorem localByte_busy (p : Nat) (a : Nat) : localByte (busy op r s) p a = localByte s p a := rfl
@[simp] theorem localBytes_busy (p : Nat) (a : Nat) (n : Nat) : localBytes (busy op r s) p a n = localBytes s p a n := rfl
@[simp] theorem localLe_busy (p : Nat) (a : Nat) (n : Nat) : localLe (busy op r s) p a n = localLe s p a n := rfl
@[simp] theorem localPoison_busy (p : Nat) (a : Nat) (n : Nat) : localPoison (busy op r s) p a n = localPoison s p a n := rfl
@[simp] theorem pchOf_busy (a : Nat) : pchOf (busy op r s) a = pchOf s a := rfl
@[simp] theorem ringByte_busy (o : Nat) : ringByte (busy op r s) o = ringByte s o := rfl

/-! ### Observe -/

@[simp] theorem coreRecord_busy (p : Nat) : coreRecord (busy op r s) p = coreRecord s p := rfl
@[simp] theorem drainDue_busy (k : Nat) : drainDue (busy op r s) k = drainDue s k := rfl
@[simp] theorem drainRoom_busy (x : Logbook) : drainRoom (busy op r s) x = drainRoom s x := rfl
@[simp] theorem fifos_busy : fifos (busy op r s) = fifos s := rfl
@[simp] theorem hvRecord_busy (sec : Nat) (idx : Nat) : hvRecord (busy op r s) sec idx = hvRecord s sec idx := rfl
@[simp] theorem islandStopped_busy (i : Nat) : islandStopped (busy op r s) i = islandStopped s i := rfl
@[simp] theorem logUnit_busy (k : Nat) : logUnit (busy op r s) k = logUnit s k := rfl
@[simp] theorem logbook_busy (k : Nat) : logbook (busy op r s) k = logbook s k := rfl
@[simp] theorem markLink_busy (n : Nat) : markLink (busy op r s) n = markLink s n := rfl
@[simp] theorem obsRoom_busy (h : Nat) : obsRoom (busy op r s) h = obsRoom s h := rfl
@[simp] theorem openHbm_busy (a : Nat) (n : Nat) : openHbm (busy op r s) a n = openHbm s a n := rfl
@[simp] theorem openLink_busy (n : Nat) : openLink (busy op r s) n = openLink s n := rfl
@[simp] theorem tagIsland_busy (t : InTag) : tagIsland (busy op r s) t = tagIsland s t := rfl
@[simp] theorem utilRecord_busy (p : Nat) : utilRecord (busy op r s) p = utilRecord s p := rfl

/-! ### Ops -/

@[simp] theorem bxPort_busy (p : Nat) : bxPort (busy op r s) p = bxPort s p := rfl
@[simp] theorem ctr_busy (off : Nat) : ctr (busy op r s) off = ctr s off := rfl
@[simp] theorem instOf_busy (i : Nat) : inst? (busy op r s) i = inst? s i := rfl
@[simp] theorem liveObjs_busy (v : Nat) : liveObjs (busy op r s) v = liveObjs s v := rfl
@[simp] theorem logOf_busy (p : Nat) : logOf (busy op r s) p = logOf s p := rfl
@[simp] theorem now256_busy : now256 (busy op r s) = now256 s := rfl
@[simp] theorem nowSec_busy : nowSec (busy op r s) = nowSec s := rfl
@[simp] theorem objsOf_busy (v : Nat) : objsOf (busy op r s) v = objsOf s v := rfl
@[simp] theorem pipe_busy (n : Nat) : pipe (busy op r s) n = pipe s n := rfl
@[simp] theorem shortBearing_busy (v : Nat) : shortBearing (busy op r s) v = shortBearing s v := rfl
@[simp] theorem sliceOf_busy (q : Nat) (seq : Nat) : slice? (busy op r s) q seq = slice? s q seq := rfl
@[simp] theorem threshOf_busy (cls : Nat) : threshOf (busy op r s) cls = threshOf s cls := rfl
@[simp] theorem tunit_busy (u : Nat) : tunit (busy op r s) u = tunit s u := rfl

/-! ### Power -/

@[simp] theorem allIdle_busy : allIdle (busy op r s) = allIdle s := rfl
@[simp] theorem divNext_busy (b : Nat) : divNext (busy op r s) b = divNext s b := rfl
@[simp] theorem divOf_busy (p : Nat) : divOf (busy op r s) p = divOf s p := rfl
@[simp] theorem hbmHot_busy : hbmHot (busy op r s) = hbmHot s := rfl
@[simp] theorem hbmMax_busy : hbmMax (busy op r s) = hbmMax s := rfl
@[simp] theorem tjMax_busy : tjMax (busy op r s) = tjMax s := rfl
@[simp] theorem tjOf_busy (k : Nat) : tjOf (busy op r s) k = tjOf s k := rfl
@[simp] theorem wakePol_busy (n : Nat) : wakePol (busy op r s) n = wakePol s n := rfl
@[simp] theorem wakeThr_busy (n : Nat) : wakeThr (busy op r s) n = wakeThr s n := rfl

/-! ### Registers -/

@[simp] theorem accUp_busy (acc : Nat) : accUp (busy op r s) acc = accUp s acc := rfl
@[simp] theorem alarmPins_busy : alarmPins (busy op r s) = alarmPins s := rfl
@[simp] theorem alarmStat_busy : alarmStat (busy op r s) = alarmStat s := rfl
@[simp] theorem assertedCauses_busy : assertedCauses (busy op r s) = assertedCauses s := rfl
@[simp] theorem chVal_busy (off : Nat) : chVal (busy op r s) off = chVal s off := rfl
@[simp] theorem clVal_busy (off : Nat) : clVal (busy op r s) off = clVal s off := rfl
@[simp] theorem ctrVal_busy (o : Nat) : ctrVal (busy op r s) o = ctrVal s o := rfl
@[simp] theorem cwStatus_busy : cwStatus (busy op r s) = cwStatus s := rfl
@[simp] theorem fltVal_busy (off : Nat) : fltVal (busy op r s) off = fltVal s off := rfl
@[simp] theorem hbVal_busy (off : Nat) : hbVal (busy op r s) off = hbVal s off := rfl
@[simp] theorem jtagMay_busy (o : JtagOp) : jtagMay (busy op r s) o = jtagMay s o := rfl
@[simp] theorem noSpare_busy : noSpare (busy op r s) = noSpare s := rfl
@[simp] theorem obsVal_busy (off : Nat) : obsVal (busy op r s) off = obsVal s off := rfl
@[simp] theorem openSess_busy : openSess (busy op r s) = openSess s := rfl
@[simp] theorem ptpPort_busy : ptpPort (busy op r s) = ptpPort s := rfl
@[simp] theorem smbusWord_busy (code : Nat) : smbusWord (busy op r s) code = smbusWord s code := rfl
@[simp] theorem spVal_busy (off : Nat) : spVal (busy op r s) off = spVal s off := rfl
@[simp] theorem sparesLeft_busy (d : Nat) : sparesLeft (busy op r s) d = sparesLeft s d := rfl
@[simp] theorem tblVal_busy (off : Nat) : tblVal (busy op r s) off = tblVal s off := rfl
@[simp] theorem wide_busy (off : Nat) : wide (busy op r s) off = wide s off := rfl
@[simp] theorem windowOff_busy (x : Nat) : windowOff (busy op r s) x = windowOff s x := rfl

/-! ### Reset -/

@[simp] theorem blkCount_busy (u : Nat) : blkCount (busy op r s) u = blkCount s u := rfl
@[simp] theorem blkOff_busy (u : Nat) (i : Nat) : blkOff (busy op r s) u i = blkOff s u i := rfl
@[simp] theorem blkUnit_busy (u : Nat) (i : Nat) : blkUnit (busy op r s) u i = blkUnit s u i := rfl
@[simp] theorem bulksRunning_busy : bulksRunning (busy op r s) = bulksRunning s := rfl
@[simp] theorem drained_busy (u : Nat) (i : Nat) : drained (busy op r s) u i = drained s u i := rfl
@[simp] theorem spareFor_busy (d : Nat) : spareFor (busy op r s) d = spareFor s d := rfl

/-! ### ScalarDma -/

@[simp] theorem copyOk_busy (w : Nat) (remote : Bool) (d : Bytes) : copyOk (busy op r s) w remote d = copyOk s w remote d := rfl

/-! ### SealCompass -/

@[simp] theorem poolsExceeded_busy (x : Round) : poolsExceeded x (busy op r s) = poolsExceeded x s := rfl

/-! ### SealRules -/

@[simp] theorem rcBytes_busy (x : Round) : rcBytes x (busy op r s) = rcBytes x s := rfl

/-! ### SealStreams -/

@[simp] theorem containerBad_busy (a : Nat) (n : Nat) (h : Bytes) : containerBad (busy op r s) a n h = containerBad s a n h :=
    rfl
@[simp] theorem ctxBytes_busy (i : Nat) : ctxBytes (busy op r s) i = ctxBytes s i := rfl
@[simp] theorem instNums_busy (x : Round) (k : Nat) (n : Nat) : instNums (busy op r s) x k n = instNums s x k n := rfl
@[simp] theorem placeFails_busy (x : Round) (k : Nat) (swap : Bool) (m : Model) : placeFails (busy op r s) x k swap m = placeFails s x k swap m :=
    rfl
@[simp] theorem residents_busy (m : Model) (l : Nat) : residents (busy op r s) m l = residents s m l := rfl
@[simp] theorem ringInCs_busy (l : Nat) (a : Nat) (n : Nat) : ringInCs (busy op r s) l a n = ringInCs s l a n := rfl
@[simp] theorem scFirst_busy (o : Objs) : scFirst (busy op r s) o = scFirst s o := rfl
@[simp] theorem sectOut_busy (a : Nat) (n : Nat) (x : Sect) : sectOut (busy op r s) a n x = sectOut s a n x := rfl
@[simp] theorem tplBad_busy (o : Objs) (i : Nat) : tplBad (busy op r s) o i = tplBad s o i := rfl

/-! ### Service -/

@[simp] theorem syncRecord_busy (x : ORef) : syncRecord (busy op r s) x = syncRecord s x := rfl

/-! ### SlicePort -/

@[simp] theorem dataGrant_busy (q : Nat) : dataGrant (busy op r s) q = dataGrant s q := rfl
@[simp] theorem fallbackBytes_busy (q : Nat) (e : Pend) : fallbackBytes (busy op r s) q e = fallbackBytes s q e := rfl
@[simp] theorem inlineCond_busy : inlineCond (busy op r s) = inlineCond s := rfl
@[simp] theorem lanes_busy (q : Nat) : lanes (busy op r s) q = lanes s q := rfl
@[simp] theorem pipeOf_busy (q : Nat) : pipeOf (busy op r s) q = pipeOf s q := rfl
@[simp] theorem twoLane_busy (q : Nat) : twoLane (busy op r s) q = twoLane s q := rfl
@[simp] theorem unusedPort_busy (q : Nat) : unusedPort (busy op r s) q = unusedPort s q := rfl
@[simp] theorem withFallback_busy (q : Nat) (e : Pend) : withFallback (busy op r s) q e = withFallback s q e := rfl

/-! ### Staging -/

@[simp] theorem copiesInFlight_busy (v : Nat) : copiesInFlight (busy op r s) v = copiesInFlight s v := rfl
@[simp] theorem inFlight_busy (v : Nat) : inFlight (busy op r s) v = inFlight s v := rfl
@[simp] theorem newestBearing_busy : newestBearing (busy op r s) = newestBearing s := rfl
@[simp] theorem noRound_busy : noRound (busy op r s) = noRound s := rfl
@[simp] theorem pendingByte_busy (x : Round) : pendingByte (busy op r s) x = pendingByte s x := rfl
@[simp] theorem r435_busy (x : Round) : r435 (busy op r s) x = r435 s x := rfl
@[simp] theorem slicesInFlight_busy (v : Nat) : slicesInFlight (busy op r s) v = slicesInFlight s v := rfl
@[simp] theorem verSummary_busy : verSummary (busy op r s) = verSummary s := rfl

/-! ### Streams -/

@[simp] theorem ctxState_busy (i : Nat) : ctxState (busy op r s) i = ctxState s i := rfl
@[simp] theorem instOut_busy (i : Nat) : instOut (busy op r s) i = instOut s i := rfl
@[simp] theorem pickInst_busy (o : Objs) (model : Nat) (inst : Nat) : pickInst (busy op r s) o model inst = pickInst s o model inst :=
    rfl
@[simp] theorem queuedJobs_busy (i : Nat) : queuedJobs (busy op r s) i = queuedJobs s i := rfl
@[simp] theorem recordRow_busy (i : Option Nat) (x : Bytes) : recordRow (busy op r s) i x = recordRow s i x := rfl
@[simp] theorem resolve_busy (x : Bytes) : resolve (busy op r s) x = resolve s x := rfl

/-! ### Sync -/

@[simp] theorem hubOf_busy (p : Nat) : hubOf (busy op r s) p = hubOf s p := rfl
@[simp] theorem isRemote_busy (w : Nat) : isRemote (busy op r s) w = isRemote s w := rfl
@[simp] theorem remoteWaiters_busy : remoteWaiters (busy op r s) = remoteWaiters s := rfl
@[simp] theorem reqWid_busy (p : Nat) (w : Nat) (posted : Bool) : reqWid (busy op r s) p w posted = reqWid s p w posted := rfl
@[simp] theorem signedOf_busy (w : Waiter) (o : Nat) (x : SObj) : signed_ w o (busy op r s) x = signed_ w o s x := rfl
@[simp] theorem tagObj_busy (wid : Nat) : tagObj (busy op r s) wid = tagObj s wid := rfl
@[simp] theorem targetOf_busy (p : Nat) (w : Nat) : targetOf (busy op r s) p w = targetOf s p w := rfl
@[simp] theorem waitingSync_busy (p : Nat) (chip : Nat) (wid : Nat) : waitingSync (busy op r s) p chip wid = waitingSync s p chip wid :=
    rfl

/-! ### Tables -/

@[simp] theorem poolUse_busy (f : Nat) (l : List Pfx) (t : List (Nat × Nat × Nat)) : poolUse (busy op r s) f l t = poolUse s f l t :=
    rfl
@[simp] theorem tblRead_busy (u : Nat) (off : Nat) : tblRead u off (busy op r s) = tblRead u off s := rfl
@[simp] theorem viewObjs_busy (c : TblOp) : viewObjs c (busy op r s) = viewObjs c s := rfl

/-! ### Tick -/

@[simp] theorem coarse_busy : coarse (busy op r s) = coarse s := rfl
@[simp] theorem ctlState_busy (p : Nat) : ctlState (busy op r s) p = ctlState s p := rfl
@[simp] theorem engState_busy (p : Nat) (q : Nat) : engState (busy op r s) p q = engState s p q := rfl
@[simp] theorem fullQueue_busy (p : Nat) : fullQueue (busy op r s) p = fullQueue s p := rfl
@[simp] theorem headReason_busy (p : Nat) (q : Nat) (e : EI) : headReason (busy op r s) p q e = headReason s p q e := rfl
@[simp] theorem islStill_busy (i : Nat) : islStill (busy op r s) i = islStill s i := rfl
@[simp] theorem obsHeld_busy : obsHeld (busy op r s) = obsHeld s := rfl
@[simp] theorem tickStep_busy : tickStep (busy op r s) = tickStep s := rfl

/-! ### Trust -/

@[simp] theorem attestBody_busy (nonce : Bytes) (first : Nat) : attestBody (busy op r s) nonce first = attestBody s nonce first :=
    rfl
@[simp] theorem bootSrc_busy : bootSrc (busy op r s) = bootSrc s := rfl
@[simp] theorem dbgFree_busy : dbgFree (busy op r s) = dbgFree s := rfl
@[simp] theorem debugRoot_busy (chain : Nat) : debugRoot (busy op r s) chain = debugRoot s chain := rfl
@[simp] theorem imageOk_busy (m : Mem) : imageOk (busy op r s) m = imageOk s m := rfl
@[simp] theorem loadedAll_busy (n : Nat) : loadedAll (busy op r s) n = loadedAll s n := rfl
@[simp] theorem modelEntries_busy : modelEntries (busy op r s) = modelEntries s := rfl
@[simp] theorem resetCnt_busy (n : Nat) : resetCnt (busy op r s) n = resetCnt s n := rfl
@[simp] theorem slotOrder_busy : slotOrder (busy op r s) = slotOrder s := rfl

/-! ### Vector -/

@[simp] theorem deqElem_busy (p : Nat) (f : Nat) (d : QDesc) (i : Nat) : deqElem (busy op r s) p f d i = deqElem s p f d i :=
    rfl
@[simp] theorem qDesc_busy (p : Nat) (w : Nat) : qDesc (busy op r s) p w = qDesc s p w := rfl
@[simp] theorem vecHost_busy (p : Nat) (e : Nat) : vecHost (busy op r s) p e = vecHost s p e := rfl
@[simp] theorem vecMask_busy (p : Nat) : vecMask (busy op r s) p = vecMask s p := rfl

/-! ### Safety -/

@[simp] theorem atEngine_busy (p : Nat) (q : Nat) (cls : Nat) (o : Nat) (e : EI) : atEngine (busy op r s) p q cls o e = atEngine s p q cls o e :=
    rfl
@[simp] theorem atWord_busy (p : Nat) (w : Nat) : atWord (busy op r s) p w = atWord s p w := rfl
@[simp] theorem freeObj_busy (k : Nat) : freeObj (busy op r s) k = freeObj s k := rfl
@[simp] theorem modelOf_busy (x : Req) (nums : List Nat) (digest : Bytes) : modelOf x (busy op r s) nums digest = modelOf x s nums digest :=
    rfl
@[simp] theorem poolsFit_busy (x : Round) : poolsFit (busy op r s) x = poolsFit s x := rfl
@[simp] theorem unitRetired_busy (u : Nat) (i : Nat) : unitRetired (busy op r s) u i = unitRetired s u i := rfl

end Sys2Proof.Machine
end

