-- ==== Sys2Proof/WellFormed.lean ====
section
/-! DEFINITION. Well-formed commands: every operand lies in the range that the spec gives it. -/

namespace Sys2Proof

/-- `l` holds bytes of a count that does not exceed `n`. -/
def shortBytes (n : Nat) (l : Bytes) : Bool := decide (l.length ≤ n)
/-- Every number of `l` lies below `n`. -/
def allBelow (n : Nat) (l : List Nat) : Bool := l.all fun x => decide (x < n)

/-- What the published cryptography answers: nine chains at most. -/
def Crypto.wf (c : Crypto) : Bool := decide (c.chain < 2 ^ 9)
/-- A request (R457, R458): 32 mailboxes, 4 sessions, the widths of its header, at most 4,080 payload bytes. -/
def Req.wf (r : Req) : Bool :=
  decide (r.mbx < 32) && decide (r.sess < 4) && decide (r.seq < 2 ^ 32) && decide (r.ifv < 256) && decide (r.flags < 256) &&
  decide (r.rsvd < 2 ^ 48) && shortBytes 4080 r.payload && r.cr.wf
/-- An entry that parity protects: within its memory (R131, R144, R174). -/
def PRef.wf : PRef → Bool
  | .trie fam stage _ _ => decide (fam < 2) && decide (stage < 16)
  | .exact t k => decide (t < 8) && decide (k < 65536)
  | .learn b w => decide (b < 262144) && decide (w < 4)
  | .flow i => decide (i < 2 ^ 32)
  | .rule n _ => decide (n < 16)
  | .score m _ => decide (m < 256)
  | .comp e _ => decide (e < 256)
/-- What a compass unit works on: a slice of one of 64 ports. -/
def CWork.wf : CWork → Bool
  | .slice q n => decide (q < 64) && decide (n < 2 ^ 24)
  | .job => true
/-- A Brixvia frame (R471): two ports, four sessions, the widths of the header, a body within a frame. -/
def BxFrame.wf (f : BxFrame) : Bool :=
  decide (f.port < 2) && decide (f.sess < 4) && decide (f.pn < 2 ^ 64) && decide (f.fseq < 2 ^ 32) && decide (f.fack < 2 ^ 32) &&
  decide (f.flags < 256) && shortBytes 9216 f.body
/-- A slice-port word (R52): a type of two bits and 64 bytes. -/
def SpWord.wf (w : SpWord) : Bool := decide (w.ty < 4) && w.data.length == 64
/-- A PTP message: a domain of one byte. -/
def PtpDs.wf (d : PtpDs) : Bool :=
  decide (d.prio1 < 256) && decide (d.clockClass < 256) && decide (d.accuracy < 256) && decide (d.variance < 65536) &&
  decide (d.prio2 < 256) && decide (d.identity < 2 ^ 64) && decide (d.steps < 65536)
def PtpMsg.wf (m : PtpMsg) : Bool :=
  decide (m.domain < 256) && decide (m.src < 2 ^ 80) && decide (m.ttl < 2 ^ 64) && (match m.ds with | some d => d.wf | none => true)
/-- A JTAG access: a register of the space (R452) and a word. -/
def JtagOp.wf : JtagOp → Bool
  | .access off v => decide (off < 2 ^ 24) && (match v with | some x => decide (x < 2 ^ 32) | none => true)
  | .bypass | .idcode | .samplePreload | .ac | .extest | .extestPulse | .extestTrain | .vendor => true

/-- A physical core (R261). -/
def coreOk (p : Nat) : Bool := decide (p < 132)
/-- A slice port (R48). -/
def portOk (q : Nat) : Bool := decide (q < 64)
/-- A Weltix link (R395). -/
def linkOk (n : Nat) : Bool := decide (n < 8)
/-- A flit of 64 bytes on a link (R397). -/
def flitOk (n : Nat) (f : Bytes) : Bool := linkOk n && f.length == 64
/-- A unit under the quiesce handshake (R487). -/
def unitOk (u i : Nat) : Bool := decide (u < 6) && decide (i < 132)

/-- A well-formed command. -/
def wellFormed (c : Instr) : Bool :=
  match c with
  | .hello r | .regRead r | .regWrite r | .evtCtl r | .dlcStage r | .pgStage r | .pgSeal r | .rcStage r | .rcDelete r | .rcSeal r
  | .tbPlanStage r | .tbSeal r | .cpStage r | .cpDelete r | .cpSeal r | .jobSubmit r | .modelStage r | .modelDelete r
  | .coreBrkSet r | .coreCont r | .coreStateRead r | .scStage r | .scSeal r | .scCtl r | .syncRead r | .syncTree r
  | .memPchRetire r | .chSource r | .chSet r | .pwrState r | .clChipId r | .clRouteSet r | .clUnretire r | .clRelay r
  | .verOpen r | .verAbort r | .commitAt r | .verStatus r | .verCtl r | .rst r | .blkCtl r | .quiesceSet r | .rstRemote r
  | .taAdd r | .taRemove r | .attest r | .certRead r | .dbgChallenge r | .dbgUnlock r | .fwLoad r | .fwInstall r | .fwConfirm r
  | .fltThreshStage r | .fltRingRead r | .obsCoreRead r | .logCtl r | .dumpArm r | .hvArm r | .hvRead r | .pwrCap r
  | .pwrRead r => r.wf
  | .tblRead u v | .tblWrite u v | .tblInsert u v | .tblDelete u v | .tblSearch u v | .tblAgeScan u v =>
    decide (u < 4) && decide (v < 2 ^ 32)
  | .tblCmdComplete u => decide (u < 4)
  | .tblRegCollide u off v => decide (u < 4) && decide (off < 256) && decide (v < 2 ^ 32)
  | .cwMbxDbRing i mask => decide (i < 4) && decide (mask < 2 ^ 32)
  | .cwMbxDoneClear mask => decide (mask < 2 ^ 32)
  | .heaveCtlArm | .heaveCtlResume | .heaveCtlCancel | .cwDbgLock => true
  | .spPortEnable q | .spPortDisable q | .spPortWidthSet q _ => portOk q
  | .clLinkEnable n | .clLinkDisable n => linkOk n
  | .counterClear off => decide (off < 2 ^ 24)
  | .lowWordReadLatch acc off => decide (acc ≤ 0x300) && decide (off < 2 ^ 24)
  | .registerWrite acc off v => decide (acc ≤ 0x300) && decide (off < 2 ^ 24) && decide (v < 2 ^ 32)
  | .mbxStart m cr => decide (m < 32) && cr.wf
  | .mbxComplete m => decide (m < 32)
  | .hsInit port body => decide (port < 2) && shortBytes 9216 body
  | .hsFin port i body peer cr => decide (port < 2) && decide (i < 4) && shortBytes 9216 body && decide (peer < 2 ^ 32) && cr.wf
  | .mbxWrite f | .mbxRead f | .bulkWrite f | .bulkRead f | .bxAck f | .keepalive f | .close f => f.wf
  | .ptpMessage port m => decide (port < 2) && m.wf
  | .bxRetxTimeout i | .bxAckSend i | .sessionIdleTimeout i | .handshakeTimeout i | .activePortSwitch i | .eventFrameSend i =>
    decide (i < 4)
  | .keepaliveSend | .helmTakeover => true
  | .helmLockstepStop i => decide (i < 2)
  | .sliceArrival q ws => portOk q && ws.all SpWord.wf
  | .resync q w | .spCredit q w | .spTrain q w => portOk q && w.length == 64
  | .spTrainTimeout q | .spTrainRetry q | .spLockLoss q => portOk q
  | .spTimeSend => true
  | .parseWalk p _ => decide (p < 32)
  | .sliceLookup q n pf | .verdictCompose q n pf => portOk q && decide (n < 2 ^ 24) && pf.all PRef.wf
  | .learnEventForward d | .learnAgeSweep d | .recordAppend d | .resultRoute d | .compassJobComplete d => decide (d < 2)
  | .flowFetchReturn d b t x => decide (d < 2) && decide (b < 2 ^ 32) && decide (t < 2 ^ 48) && decide (x < 16)
  | .tableRepair place r _ => decide (place < 34) && r.wf
  | .compassBlockEval u k pf bad => decide (u < 32) && k.wf && pf.all PRef.wf && allBelow 4096 bad
  | .fallbackInstant q | .verdictWordSend q | .resultFrameSend q => portOk q
  | .cadenceTick i => decide (i < 65536)
  | .jobArrive _ | .returnArrive _ | .syncRemoteRequest _ | .syncReply _ | .syncRelease _ | .releaseAck _ | .treeArrive _
  | .treeRelease _ | .orphan _ | .withdraw _ | .bearingExchange _ | .aggChildReport _ | .unreach _ | .dcopyConfirm _
  | .remoteResetRequest _ => true
  | .jobStart i | .jobComplete i | .placementReloadComplete i => decide (i < 256)
  | .jobResume i wid => decide (i < 256) && decide (wid < 2 ^ 32)
  | .contextSave w => coreOk w.core && decide (w.area < 2 ^ 48)
  | .djob d => coreOk d.core && d.acc.all fun k => [0, 6, 7, 13, 15].contains k
  | .nop p | .issue p | .setk p | .addk p | .alu p | .br p | .loopK p | .rbegin p | .rend p | .psafe p | .stepi p
  | .waitq p | .getj p | .endJob p | .brk p | .regionPass p | .regionRetry p | .breakpointHit p | .dcopy p | .signal p
  | .waitSync p | .decrement p | .barrier p | .initSync p | .cjob p | .dumpCopy p | .syncTimeout p => coreOk p
  | .instrRelease p q | .instrComplete p q | .qwait p q | .tmark p q | .dump p q => coreOk p && decide (q < 15)
  | .aload p k => coreOk p && skewOk k
  | .amul p k => coreOk p && (match k with | some (a, x) => decide (a < 4) && skewOk (some x) | none => true)
  | .adrain p f => coreOk p && f.all fun x => decide (x.1 < 4) && decide (x.2.1 < 8192) && decide (x.2.2 < 64)
  | .mvmul p k f => coreOk p && skewOk k && f.all fun x => decide (x.1 < 4096) && decide (x.2 < 64)
  | .vld p e | .vst p e | .vcmp p e | .vsel p e | .vbc p e | .vkx p e => coreOk p && decide (e < 8)
  | .varith p e r | .vred p e r | .vsfn p e r | .vquant p e r | .vdeq p e r => coreOk p && decide (e < 8) && groupOk r
  | .salu p e | .sli p e | .saddi p e | .sld p e | .sst p e | .smovk p e | .sgetk p e => coreOk p && decide (e < 2)
  | .hbmReread a row e => decide (a < 2 ^ 48) && decide (row < 2 ^ 32) && allBelow 36 e.first && allBelow 36 e.second
  | .hbmRowRepair p row lost _ => decide (p < 384) && decide (row < 2 ^ 32) && allBelow (2 ^ 48) lost
  | .migrationComplete h lost => decide (h < 2) && allBelow (2 ^ 48) lost
  | .hbmTempRead t a b => decide (t.length = 12) && allBelow 65536 t && decide (a.length = 12) && decide (b.length = 12)
  | .patrolScrub p off k => coreOk p && decide (off < 2 ^ 26) && decide (k < 3)
  | .bankSpared p lost => coreOk p && allBelow (2 ^ 26) lost
  | .chRefCompare _ | .timeHoldover | .chSetPpsEdge | .chSetTimeout => true
  | .alarmFire n => decide (n < 4)
  | .wakeComparatorFire n mv => decide (n < 2) && decide (mv < 65536)
  | .lightDetect p _ _ => decide (p < 2)
  | .countOnlyEntry | .bankedEntry => true
  | .clDataFlit n f => flitOk n f.bytes && decide (f.ty < 4)
  | .clTrain n f | .nack n f | .credit n f | .laneReq n f | .laneAck n f | .down n f | .timeReq n f
  | .timeResp n f => flitOk n f
  | .clLockLoss x => linkOk x.link
  | .clTrainRetry n | .clCreditSend n | .clReplayTimeout n | .laneAckTimeout n | .bearingExchangeSend n
  | .heaveToMarker n => linkOk n
  | .timeReqSend | .aggReportSend => true
  | .controlFrame _ cr => cr.wf
  | .clRelayTimeout who => decide (who < 2 ^ 17)
  | .dcopyConfirmTimeout | .heaveToResume | .commitInstant | .versionRetire => true
  | .faultPeriodEnd code _ => decide (code < 65536)
  | .quiesceAck u i | .blockResetDone u i => unitOk u i
  | .quiesceTimeout u i _ lines => unitOk u i && allBelow (2 ^ 48) lines
  | .powerOnReset | .sysRstN | .coreRstN | .refclkLoss | .thermalTrip | .watchdogExpiry => true
  | .supplyTrip rail => decide (rail < 11)
  | .thermalWarning k t => decide (k < 48) && decide (t < 65536)
  | .resetRelease k => decide (k < 11)
  | .bootRomStart samples _ torn => allBelow (2 ^ 12) samples && allBelow (2 ^ 24) torn
  | .firmwareStart sig => decide (sig < 2 ^ 8)
  | .standbySelfTest _ | .hbmInitComplete => true
  | .damperMeasure rails mw busy => decide (rails.length = 11) && decide (mw < 2 ^ 32) && decide (busy < 2 ^ 132)
  | .workingCapStep tj | .thermalWarningClear tj => decide (tj.length = 48) && allBelow 65536 tj
  | .logbookDrain k => decide (k < 0x82)
  | .heaveToStop => true
  | .smbusRead code => decide (code < 256)
  | .jtagInstruction op _ => op.wf
  | .spLaneLock q _ _ => portOk q
  | .clLaneLock n _ _ bad => linkOk n && decide (bad < 256)
  | .uncorrectableCodeword chain i c => (if chain then linkOk i else portOk i) && decide (c.lane < 8) && decide (c.errs ≤ 544)
  | .ref10mLoss | .ref10mReturn | .vbkLoss | .vbkApplied => true
  | .coreStoreRewrite p off => coreOk p && decide (off < 2 ^ 26)
  | .stagedBearingReady | .debugExpiry | .mbxSysAssert => true
where
  skewOk (k : Option (Nat × Nat)) : Bool := match k with | some (b, n) => decide (b < 2 ^ 19) && decide (n < 2 ^ 16) | none => true
  groupOk (r : Option Nat) : Bool := match r with | some g => decide (g < 64) | none => true

end Sys2Proof
end

