-- ==== Sys2Proof/Tests/Slice0.lean ====
section
/-! SUPPORT. Tests: states and operands that meet the hypotheses of every clause of every statement, an ill-formed term for every check of
WellFormed, the spec's worked examples, and single steps. -/

namespace Tests

open Sys2Proof Sys2Proof.Machine

set_option maxRecDepth 10000
set_option Elab.async false

/-- A byte string. -/
def bs (l : List Nat) : Bytes := l.map (BitVec.ofNat 8)
/-- `n` in place in a register field: the bits from `lo` up. -/
def fld (lo n : Nat) : Nat := n * 2 ^ lo
/-- A part that has booted, with session 3 open and anchored at version 1.4, every debug scope open and HBM ready. -/
def up : State :=
  { sys := { rom := true, boot := 2, idOk := true, dbg := 7 }, mem := { ready := true },
    helm := { sess := [(3, { opened := true, gen := 1, ifv := 0x14, anchored := true })], ports := [(0, { txOn := true }), (1, { txOn := true })],
              standby := true } }
/-- `s` at chronometer time `t` ns. -/
def atNs (t : Nat) (s : State) : State := { s with ch := { s.ch with cnt := t * 2 ^ 32 } }
/-- `s` with a round open. -/
def staging (x : Round) (s : State) : State := { s with ver := { s.ver with round := some x } }
/-- A request in mailbox 31 with payload `p`. -/
def ask (p : Bytes) : Req := ⟨31, 3, 5, 0x14, 0, 0, p, ⟨true, 0x1FF⟩⟩
/-- Physical core 131 is `c`. -/
def withCore (c : Core) : State := { cores := [(131, c)] }
/-- Dump slot 3 of physical core 129 is `d`. -/
def withDump (d : DumpSlot) : State := { up with cores := [(129, { dumps := [(3, d)] })] }
/-- A program of one control word. -/
def oneWord (w : Nat) : Prog := { model := 1, addr := 0, entry := 0, mode := 0, used := 0, ctl := [w], tpl := [], sync := [] }
/-- Core 131 runs, with `c` otherwise, and stands at control word `w`. -/
def atCtl (w : Nat) (c : Core) : State := withCore { c with st := 1, prog := some (oneWord w) }
/-- An engine instruction of a class and opcode with the other fields in `x`. -/
def ins (c o x : Nat) : Nat := c * 2 ^ 124 + o * 2 ^ 116 + x
/-- Queue `q` of core 131, otherwise `c`, has released the instruction `w`. -/
def atEng (q w : Nat) (c : Core) : State := withCore { c with st := 1, run := [(q, [{ w := w, ph := 1 }])] }

/-- The first word of the core store of core 131 is poisoned. -/
def poisoned (s : State) : State := { s with mem := { csPoison := [131 * 2 ^ 21] } }
/-- The row descriptor at address 0 of core 131 has a reserved byte set. -/
def badDesc (s : State) : State := { s with mem := { cs := [(131 * 2 ^ 26 + 24, 1)] } }

/-- The drain descriptor at address 0 of core 131 has bit 0 of byte 21 set: the drain reads no rescale table. -/
def rescaled (s : State) : State := { s with mem := { cs := [(131 * 2 ^ 26 + 21, 1)] } }
/-- The copy descriptor at address 0 of core 131: one row of 32 bytes from HBM 0 to 4,096 of chip 0xFFFE. -/
def copyAt : Mem := [(9, 0x10), (16, 32), (20, 1), (22, 0xFE), (23, 0xFF)].map fun b => (131 * 2 ^ 26 + b.1, b.2)
def aDump : DumpSlot := { symbol := 0, step := 0, count := 1, addr := 0, bytes := 64 }

/-- A round whose parse graph has one node, the root, that ends the walk. -/
def graphRound : Round :=
  { num := 1, objs := { img := [(oidPg, { len := 37632, data := [(0, 1), (4, 1), (0x100, 3)] })] },
    written := [(oidPg, 2 ^ 1176 - 1)], pending := 1, dirty := 1 }
/-- A round whose rule set 0 has no rules; the selection table names it for every port. -/
def ruleRound : Round := { num := 1, objs := { img := [(oidRule 0, { len := 64, data := [(0, 1), (26, 7)] })] } }
/-- A round whose graph has slot 0 of 4 bytes, which the plan names on every port but as an IPv6 address. -/
def planRound : Round :=
  { num := 1, objs := { img := [(oidPg, { len := 37632, data := [(0x41, 2)] }),
    (oidPlan, { len := 2112, data := (0, 1) :: (List.range 64).map fun q => (65 + 32 * q, 0xFF) })] } }
/-- Version 1 holds model 1, with one instance, number 127, on one core. -/
def modelUp : State :=
  { up with
    ver := { newest := { num := 1, objs := { models := [(1, { addr := 0, length := 96, place := 0, instances := 1, firstCore := 0, ranks := 1, kvBytes := 0, nums := [127], digest := [] })] } } },
    insts := [(127, { model := 1, first := 0, ranks := 1, addr := 0 })] }
/-- HBM holds a container of format 2 for one rank with one section without bytes. -/
def contUp : State := { up with mem := { ready := true, hbm := [(0, 2), (2, 1), (4, 1), (64, 2), (66, 0xFF), (67, 0xFF)] } }
/-- Chip 0xFFFF, whose link 7 is up and leads to chip 0xFFFE. -/
def chainUp : State :=
  { up with chip := some 0xFFFF, cl := { links := [(7, { st := 5, partner := some (0xFFFE, 0, true) })], route := [(0xFFFE, 0xF7)] } }
/-- A firmware image of one byte. -/
def fwMem : Mem := [(0, 0x4E), (1, 0x59), (2, 0x46), (3, 0x57), (4, 1), (16, 1)]

/-! Whatever part of HBM the device owns, it ends below 2^36. -/
theorem and_three {p q r : Bool} (hp : p = true) (hq : q = true) (hr : r = true) : (p && q && r) = true := by rw [hp, hq, hr]; rfl
theorem base_one : halfBase 1 = 0x3600000000 := Nat.one_mul _
theorem base_zero : halfBase 0 = 0 := Nat.zero_mul _
theorem open_mid {s : State} {a n : Nat} (ha : a = 0x1000000000) (hi : inHbm s a n = true) (hn : n ≤ 0x1000000000) : openHbm s a n = true := by
  have h0 : a / 0x3600000000 = 0 := Nat.div_eq_of_lt (by omega)
  have h := (Config.hbmReserved 0).isLt
  have b0 := base_zero
  have b1 := base_one
  unfold openHbm rsvd
  rw [h0]
  generalize halfBase 0 = z at *
  generalize halfBase 1 = o at *
  generalize (Config.hbmReserved 0).toNat = r at *
  refine and_three hi (decide_eq_true ?_) (Bool.or_eq_true_iff.mpr (.inr (decide_eq_true ?_)))
  · clear b1 hn hi h0; omega
  · clear b0 h h0 hi; omega

/-- A request for VER_ABORT that passes the checks of R463. -/
def okRq : Rq := { op := 0x0C02, len := 0, seq := 5, ifv := 0x14, flags := 1, rsvd := 0, payload := [] }
/-- Mailbox 31 is `x`. -/
def rung (x : Mbx) : State := { up with helm := { up.helm with mbx := [(31, x)] } }
/-- Session 3 is `x`. -/
def session (x : Sess) : State := { up with helm := { up.helm with sess := [(3, x)] } }
/-- An authentic frame of session 3 on port 1, in sequence. -/
def frame (b : Bytes) : BxFrame := { port := 1, sess := 3, pn := 0, fseq := 0, fack := 0, flags := 0, tagOk := true, body := b }
def aDs : PtpDs := { prio1 := 128, clockClass := 6, accuracy := 0x20, variance := 0, prio2 := 128, identity := 1, steps := 0 }
/-- The servo is on PTP, under a profile, and follows master 1. -/
def onPtp (pr : Nat) : State :=
  { up with
    helm := { up.helm with sess := [(3, { opened := true, port := 1 })] },
    ch := { source := 2, profile := pr, masters := [{ src := 1, ds := aDs, till := 1 }] } }
/-- A PTP message of master 1. -/
def ptp (k : PtpKind) (d : Option PtpDs) (o : Option Int) : PtpMsg :=
  { kind := k, src := 1, domain := 0, barred := false, ds := d, ttl := 1, off := o }
/-- Slice port 63 is `x`. -/
def portIs (x : Port) : State := { ports := [(63, x)] }
/-- A slice of port 63. -/
def aSlice : Slice := { q := 63, seq := 1, version := 1, sliceId := 1, dl := 7, ingress := 0, frameLen := 64, sliceLen := 64, stamp := 0, data := zeros 64 }
/-- A slice of port 63 without a verdict. -/
def aPend : Pend := { seq := 1, sliceId := 1, dl := 7, version := 1, fInst := 1 }
def anEvt : LEvt := { mac := 0xFFFFFFFFFFFF, vlan := 4095, port := 63, sec := 0 }
def anEnt : LEnt := { mac := 0xFFFFFFFFFFFF, vlan := 4095, valid := true, port := 63 }
def anInst : Inst := { model := 1, first := 129, ranks := 1, addr := 0 }

/-- AMUL of one step on array 3, which clears the slot and starts a chain. -/
def aMul : Nat := ins 0 2 (fld 72 1 + fld 112 1 + fld 111 1)
/-- A slot whose chain has one row and one column. -/
def drainable : Slot := { chain := some { mode := 0, m := 1, n := 1, afmt := 0, ascaled := false, wfmt := 0, wscaled := false, arefs := [], wrefs := [] } }
/-- Core 131 at an MVMUL without steps, whose output goes without a format of its own. -/
def mvUp : State := { atEng 1 (ins 1 1 (fld 25 2)) {} with mem := { cs := [(131 * 2 ^ 26 + 85, 1)] } }
def aJob : CJobSt :=
  { id := 0, core := 131, prio := 0, version := 1, ens := 1, sumsOut := false, samples := 1, inAddr := 0, outAddr := 0, stride := 0 }
/-- Version 1 holds ensemble 1 of two blocks and one feature, and a compass job waits for it. -/
def ensUp : State :=
  { ver := { newest := { num := 1, objs := { img := [(oidEns 1, { len := 1088, data := [(5, 2), (6, 1)] })] } } }, cjobs := [(1, [aJob])] }
/-- A sync instruction on object 47 of its own core, with value `v`. -/
def syncW (op v : Nat) : Nat := ins 5 op (fld 104 47 + fld 96 0xFF + fld 48 v)
/-- A sync message of chip 5 with operation `op`, arrived on link 7. -/
def syncTag (op wid : Nat) : InTag :=
  { link := 7, tag := tagBytes { chip := 5, unit := 0, kind := 4, workId := 65536 * op + wid, version := 0, bearing := 0 }, body := le 4 1 ++ zeros 4 }
def inboxless (h : Map SObj) : State := { hub := h }
def inboxed (t : InTag) (h : Map SObj) : State := { inboxless h with inbox := [t] }
/-- A measurement record of version 1 without values, under key 0 of map entry 0. -/
def aRecord : Bytes := zeros 18 ++ le 2 1 ++ zeros 12
/-- The same with 255 values. -/
def longRecord : Bytes := zeros 3 ++ bs [255] ++ zeros 14 ++ le 2 1 ++ zeros 12
/-- Version 1 leads key 0 to stream context 65,535, whose template has cadence mode bits `m` and a cadence of 1,000 ns. -/
def streamUp (m : Nat) : State :=
  { ver := { newest := { num := 1, objs := {
      img := [(oidKeyMap, { len := 512, data := [(0, 1), (2, 0xFF), (3, 0xFF), (4, 1)] })],
      sc := [(4194240, BitVec.ofNat 8 (1 + m)), (4194243, 1), (4194255, 2), (4194256, 0xE8), (4194257, 3)] } } },
    records := [(1, [(1, aRecord)])], ctx := [(65535, { st := 1 })] }
/-- A dispatched job of version 1 without a stream. -/
def theJob : Job := { desc := bs [1, 127, 0xFF, 0xFF] ++ zeros 60, wid := 1, version := 1, deadline := 0xFFFFFFFF, origin := 0 }
def jobUp (x : Inst) : State := { modelUp with insts := [(127, x)] }
/-- It names no instance. -/
def anyJob : Job := { theJob with desc := bs [1, 0xFF, 0xFF, 0xFF] ++ zeros 60 }
/-- It is past its deadline; a second one, of the stream whose number ends in `b`, may be late. -/
def lateJob : Job := { theJob with deadline := 0xFFFFFFF0 }
def okLate (b : Nat) : Job := { lateJob with desc := bs [1, 127, b, 0xFF] ++ zeros 8 ++ bs [64] ++ zeros 51 }
/-- Instance 127's core quiesces; instance 126 of the same model does not. -/
def twoUp : State :=
  { up with
    ver := { newest := { num := 1, objs := { models := [(1, { addr := 0, length := 96, place := 0, instances := 2, firstCore := 0, ranks := 1, kvBytes := 0, nums := [126, 127], digest := [] })] } } },
    insts := [(126, { model := 1, first := 0, ranks := 1, addr := 0 }), (127, { anInst with queue := [anyJob] })],
    sys := { up.sys with blocks := [(1, { st := 1, op := some 0 })] } }
/-- Core 131 is `c`, and instance 127 runs a job. -/
def saving (c : Core) : State := { jobUp { anInst with running := some theJob } with cores := [(131, c)] }
def aSave : Saved := { core := 131, area := 0 }
def aRes : Res := { job := theJob, status := 0, inst := 127, area := [] }
/-- A job tag from chip 5 for instance 127. -/
def jobTag : InTag :=
  { link := 7, tag := tagBytes { chip := 5, unit := 0, kind := 2, workId := 1, version := 1, bearing := 0 }, body := bs [1, 127, 0xFF, 0xFF] ++ zeros 60 }
/-- A return to this chip with flag byte `b` and 32 bytes. -/
def retTag (b : Nat) : InTag :=
  { tag := tagBytes { chip := 5, unit := 0xE4, kind := 3, workId := 1, version := 1, bearing := 0 }, body := bs [b] ++ zeros 39 }

/-- The same return, past its deadline. -/
def retLate (b : Nat) (ok : Bool) : InTag :=
  { retTag b with tag := tagBytes { chip := 5, unit := 0xE4, kind := 3, workId := 1, version := 1, bearing := 0, deadline := 0xFFFFFFF0, lateOk := ok } }
/-- The same job tag, past its deadline. -/
def jobLate : InTag :=
  { jobTag with tag := tagBytes { chip := 5, unit := 0, kind := 2, workId := 1, version := 1, bearing := 0, deadline := 0xFFFFFFF0 } }
/-- Operation `op` with argument `arg` of a message of chip 5 on hub object 255, which is `x`. -/
def onHub (op arg : Nat) (x : SObj) : SyncEnd × State :=
  syncOp ⟨true, 0, 255⟩ op arg { unit := 0, chip := 5, remote := true, wid := 65536 * op + 0xFFFF, version := 0 } (inboxless [(255, x)])
def aWait : Waiter := { unit := 0, fresh := true }

def aRegion : Region := { dst := 0, len := 32, src := 0, model := 1 }
/-- Link 7 is `x`. -/
def linkIs (x : Lnk) : State := { up with cl := { links := [(7, x)] } }
/-- A flit that begins with `l`, with its CRC. -/
def flitOf (l : List Nat) : Bytes := padTo 60 (bs l) ++ be 4 (crc32c (padTo 60 (bs l)))
/-- A frame of chip 5 that arrived on link 7. -/
def ctlTag (kind : Nat) (b : Bytes) : InTag :=
  { link := 7, tag := tagBytes { chip := 5, unit := 0, kind := kind, workId := 1, version := 0, bearing := 0 }, body := b }
/-- A DCOPY to chip 5 that waits for its confirmation. -/
def aCopy : EI := { w := ins 4 1 0, ph := 2, chip := 5, wid := 1 }
/-- A complete round, armed for instant 0. -/
def fullRound : Round := { num := 2, objs := {}, armed := some 0, bearingReady := true }
def aPeriod : FltPeriod := { code := 0x0601, chan := 0, ends := 0, limit := 1, last := { code := 0x0601, unit := 0 } }
def anOffer : ClOffer := { ver := 2, mask := 0xFF, chip := 5, link := 0, valid := true, cred := [1, 1, 1] }
/-- A heave-to marker of chip 5, as it follows the SEQ and ACK of its flit, and a chip that takes it on link 7. -/
def aMarker : Bytes :=
  bs [0xC0, 44] ++ zeros 10 ++ be 2 8 ++ tagBytes { chip := 5, unit := 0, kind := 7, workId := 1, version := 0, bearing := 0 } ++ zeros 8
def atMarker : State := { linkIs { st := 5, ver := 2 } with chip := some 0xFFFF }
/-- Core 131's first word, which a region fills, is poisoned; the region's source is not. -/
def atRegion : State := poisoned (withCore { regions := [aRegion] })
theorem region_clean : ∀ i k, i < 32 → localIndex aRegion.dst aRegion.len (0 / 32 * 32 + i) = some k →
    devPoison atRegion (aRegion.src + k) = false := by
  intro i k hi hk
  have h := (by decide +kernel : ∀ i < 32, (localIndex aRegion.dst aRegion.len (0 / 32 * 32 + i)).all
    (fun k => !devPoison atRegion (aRegion.src + k)) = true) i hi
  rw [hk] at h
  simpa using h
/-- Logbook 0x81 is `x`. -/
def logIs (x : Logbook) : State := { up with logs := [(0x81, x)] }
/-- A logbook of this chip with one record, asked to flush. -/
def aLog : Logbook := { chip := chipId State.reset, buf := [zeros 32], flush := true }
/-- A round armed for instant 0 that is not complete, and the state that holds it. -/
def bareRound : Round := { num := 2, objs := {}, armed := some 0 }
def armed : State := { ver := { round := some bareRound } }
theorem armed_bare : ∀ j, (if holding armed then armed.hv.round else some bareRound) = some j → j.num ≠ bareRound.num ∨ j.complete armed = false := by
  intro j h
  have e : some bareRound = some j := h
  cases e
  exact .inr (by decide +kernel)
/-- Unit `i` of kind `u` is in reset. -/
def inReset (u i : Nat) : State := { sys := { blocks := [(65536 * u + i, { st := 4 })] } }

/-- States and operands that meet the hypotheses of each clause of StepRunsTheFrontCommand. -/
theorem witness_StepRunsTheFrontCommand :
    ∃ s : State, ∃ l : List Instr, s.pending = l :=
  ⟨{ pending := [.powerOnReset] }, [.powerOnReset], by decide +kernel⟩

/-- States and operands that meet the hypotheses of each clause of IdleStepAdvancesTime. -/
theorem witness_IdleStepAdvancesTime :
    ∃ s : State, s.pending = [] :=
  ⟨State.reset, by decide +kernel⟩

/-- States and operands that meet the hypotheses of each clause of SleepTickCountsCoarsely. -/
theorem witness_SleepTickCountsCoarsely :
    ∃ s : State, s.pending = [] ∧ s.ch.vbk = true ∧ (s.ch.pwr = 2 ∨ s.sys.level = 3) :=
  ⟨{ ch := { pwr := 2 } }, by decide +kernel⟩

/-- States and operands that meet the hypotheses of each clause of EveryStepKeepsMemoryForm. -/
theorem witness_EveryStepKeepsMemoryForm :
    ∃ s : State, ∃ t : State, memForm s ∧ step s = .next t :=
  ⟨{ pending := [.vbkLoss] }, _, ⟨by decide, by decide⟩, rfl⟩

/-- States and operands that meet the hypotheses of each clause of ExecLeavesTheQueue. -/
theorem witness_ExecLeavesTheQueue :
    ∃ c : Instr, ∃ s : State, ∃ t : State, exec c s = .next t :=
  ⟨.powerOnReset, State.reset, _, rfl⟩

/-- States and operands that meet the hypotheses of each clause of OnlyVendorTestLogicIsRefused. -/
theorem witness_OnlyVendorTestLogicIsRefused :
    (∃ c : Instr, ∃ s : State, ∃ e, exec c s = .refused e) ∧
    (∃ c : Instr, refusable c = false) :=
  ⟨⟨.jtagInstruction .vendor [], up, _, rfl⟩,
   ⟨.powerOnReset, by decide +kernel⟩⟩

/-- States and operands that meet the hypotheses of each clause of HelmCommandsRun. -/
theorem witness_HelmCommandsRun :
    (∃ r : Req, ∃ s : State, accepted 0x0001 0x10 r s = true ∧ r.payload.length = 8 ∧ zeroAt r.payload 2 6 = true ∧ u8 r.payload 0 ≤ u8 r.payload
      1 ∧ u8 r.payload 0 / 16 = 1 ∧ u8 r.payload 1 / 16 = 1 ∧ u8 r.payload 0 ≤ 0x14 ∧ (∀ e ∈ s.helm.mbx, e.1 ≠ r.mbx → e.2.sess = r.sess →
      e.2.gen = (sess s r.sess).gen → e.2.st ≠ 1 ∧ e.2.st ≠ 2)) ∧
    (∃ r : Req, ∃ s : State, accepted 0x0004 0x11 r s = true ∧ r.payload.length = 8 ∧ bit (leAt r.payload 0 2) 0 = false ∧ leAt r.payload 0 2 <
      256 ∧ zeroAt r.payload 3 5 = true) ∧
    (∃ r : Req, ∃ s : State, accepted 0x0002 0x10 r s = true ∧ r.payload.length = 8 ∧ leAt r.payload 0 4 % 4 = 0 ∧ leAt r.payload 0 4 < 2 ^ 24 ∧
      leAt r.payload 6 2 = 0 ∧ 1 ≤ leAt r.payload 4 2 ∧ leAt r.payload 4 2 ≤ 1020 ∧ allMapped s (leAt r.payload 0 4) (leAt r.payload 4 2) = true) ∧
    (∃ r : Req, ∃ s : State, accepted 0x0003 0x10 r s = true ∧ r.payload.length = 8 + 4 * leAt r.payload 4 2 ∧ leAt r.payload 0 4 % 4 = 0 ∧ leAt
      r.payload 0 4 < 2 ^ 24 ∧ leAt r.payload 6 2 = 0 ∧ 1 ≤ leAt r.payload 4 2 ∧ leAt r.payload 4 2 ≤ 1018 ∧ allMapped s (leAt r.payload 0 4)
      (leAt r.payload 4 2) = true ∧ (dbgOpen s 1 = true ∨ 0x088 < leAt r.payload 0 4 ∨ leAt r.payload 0 4 + 4 * leAt r.payload 4 2 ≤ 0x080)) :=
  ⟨⟨ask (bs [0x14, 0x14, 0, 0, 0, 0, 0, 0]), { up with helm := { up.helm with mbx := [(30, { st := 2, sess := 2 })] } }, by decide +kernel⟩,
   ⟨ask (bs [0xFE, 0, 0xFF, 0, 0, 0, 0, 0]), up, by decide +kernel⟩,
   ⟨ask (le 4 0 ++ le 2 1 ++ le 2 0), up, by decide +kernel⟩,
   ⟨ask (le 4 0x88 ++ le 2 1 ++ le 2 0 ++ le 4 0xFFFFFFFF), up, by decide +kernel⟩⟩

/-- States and operands that meet the hypotheses of each clause of StagingCommandsWriteTheRound. -/
theorem witness_StagingCommandsWriteTheRound :
    (∃ r : Req, ∃ s : State, ∃ x, accepted 0x0102 0x10 r s = true ∧ s.ver.round = some x ∧ r.payload.length = 16 ∧ u8 r.payload 0 ≤ 7 ∧ zeroAt
      r.payload 1 3 = true ∧ zeroAt r.payload 12 4 = true ∧ 150 ≤ leAt r.payload 4 4 ∧ leAt r.payload 4 4 ≤ 10000000) ∧
    (∃ r : Req, ∃ s : State, ∃ x, accepted 0x0E01 0x10 r s = true ∧ s.ver.round = some x ∧ r.payload.length = 80 ∧ (∀ k < 10, zeroAt r.payload (8
      * k + 1) 3 = true ∧ u8 r.payload (8 * k) ≠ 0 ∧ leAt r.payload (8 * k + 4) 4 ≠ 0 ∧ leAt r.payload (8 * k + 4) 4 ≤ 604800000)) ∧
    (∃ r : Req, ∃ s : State, ∃ x, accepted 0x0201 0x10 r s = true ∧ s.ver.round = some x ∧ partOk r 0 37632 = true ∧ zeroAt r.payload 8 8 = true) ∧
    (∃ r : Req, ∃ s : State, ∃ x, accepted 0x0301 0x10 r s = true ∧ s.ver.round = some x ∧ u8 r.payload 0 ≤ 2 ∧ rcNumBad (u8 r.payload 0) (u8
      r.payload 1) = false ∧ partOk r 4 (rcLimit (u8 r.payload 0)) = true ∧ zeroAt r.payload 2 2 = true ∧ zeroAt r.payload 12 4 = true) ∧
    (∃ r : Req, ∃ s : State, ∃ x, accepted 0x0303 0x10 r s = true ∧ s.ver.round = some x ∧ r.payload.length = 4 ∧ (u8 r.payload 0 = 0 ∨ u8
      r.payload 0 = 2) ∧ rcNumBad (u8 r.payload 0) (u8 r.payload 1) = false ∧ zeroAt r.payload 2 2 = true) ∧
    (∃ r : Req, ∃ s : State, ∃ x, accepted 0x0401 0x10 r s = true ∧ s.ver.round = some x ∧ partOk r 0 2112 = true ∧ zeroAt r.payload 8 8 = true) ∧
    (∃ r : Req, ∃ s : State, ∃ x, accepted 0x0501 0x10 r s = true ∧ s.ver.round = some x ∧ 1 ≤ u8 r.payload 0 ∧ u8 r.payload 0 ≤ 64 ∧ partOk r 4
      8388608 = true ∧ zeroAt r.payload 1 3 = true ∧ zeroAt r.payload 12 4 = true) ∧
    (∃ r : Req, ∃ s : State, ∃ x, accepted 0x0503 0x10 r s = true ∧ s.ver.round = some x ∧ r.payload.length = 4 ∧ 1 ≤ u8 r.payload 0 ∧ u8
      r.payload 0 ≤ 64 ∧ zeroAt r.payload 1 3 = true) ∧
    (∃ r : Req, ∃ s : State, ∃ x, accepted 0x0701 0x10 r s = true ∧ s.ver.round = some x ∧ u8 r.payload 0 ≤ 1 ∧ zeroAt r.payload 1 3 = true ∧
      zeroAt r.payload 12 4 = true ∧ partOk r 4 (if u8 r.payload 0 = 0 then 4194304 else 512) = true) ∧
    (∃ r : Req, ∃ s : State, ∃ x, accepted 0x0611 0x10 r s = true ∧ s.ver.round = some x ∧ r.payload.length = 4 ∧ u8 r.payload 0 ≠ 0 ∧ zeroAt
      r.payload 1 3 = true) :=
  ⟨⟨ask (bs [7, 0, 0, 0] ++ le 4 150 ++ le 4 0xFFFFFFFF ++ le 4 0), staging { num := 1, objs := {} } up, { num := 1, objs := {} },
  by decide +kernel⟩,
   ⟨ask ((List.replicate 10 (bs [255, 0, 0, 0] ++ le 4 604800000)).flatten), staging { num := 1, objs := {} } up, { num := 1, objs := {} },
     by decide +kernel⟩,
   ⟨ask (le 4 37600 ++ le 4 32 ++ zeros 8 ++ zeros 32), staging { num := 1, objs := {} } up, { num := 1, objs := {} }, by decide +kernel⟩,
   ⟨ask (bs [2, 64, 0, 0] ++ le 4 128 ++ le 4 32 ++ zeros 4 ++ zeros 32), staging { num := 1, objs := {} } up, { num := 1, objs := {} },
     by decide +kernel⟩,
   ⟨ask (bs [2, 1, 0, 0]), staging { num := 1, objs := {} } up, { num := 1, objs := {} }, by decide +kernel⟩,
   ⟨ask (le 4 2080 ++ le 4 32 ++ zeros 8 ++ zeros 32), staging { num := 1, objs := {} } up, { num := 1, objs := {} }, by decide +kernel⟩,
   ⟨ask (bs [64, 0, 0, 0] ++ le 4 8388576 ++ le 4 32 ++ zeros 4 ++ zeros 32), staging { num := 1, objs := {} } up, { num := 1, objs := {} },
     by decide +kernel⟩,
   ⟨ask (bs [64, 0, 0, 0]), staging { num := 1, objs := {} } up, { num := 1, objs := {} }, by decide +kernel⟩,
   ⟨ask (bs [1, 0, 0, 0] ++ le 4 480 ++ le 4 32 ++ zeros 4 ++ zeros 32), staging { num := 1, objs := {} } up, { num := 1, objs := {} },
     by decide +kernel⟩,
   ⟨ask (bs [255, 0, 0, 0]), staging { num := 1, objs := {} } up, { num := 1, objs := {} }, by decide +kernel⟩⟩

/-- States and operands that meet the hypotheses of each clause of SealsMarkTheirGroup. -/
theorem witness_SealsMarkTheirGroup :
    (∃ r : Req, ∃ s : State, ∃ x, accepted 0x0202 0x10 r s = true ∧ s.ver.round = some x ∧ r.payload = [] ∧ (mget x.written oidPg).isSome = true
      ∧ allWritten x oidPg 37632 = true ∧ pgCheck (imgMem x.objs oidPg) = none) ∧
    (∃ r : Req, ∃ s : State, ∃ x, accepted 0x0302 0x10 r s = true ∧ s.ver.round = some x ∧ r.payload = [] ∧ x.unsealed 1 = false ∧ rcWritten x =
      true ∧ rcFirst x.objs (imgMem x.objs oidPg) = none ∧ rcBytes x s ≤ 100663296) ∧
    (∃ r : Req, ∃ s : State, ∃ x, accepted 0x0402 0x10 r s = true ∧ s.ver.round = some x ∧ r.payload = [] ∧ x.unsealed 1 = false ∧ allWritten x
      oidPlan 2112 = true ∧ planCheck (imgMem x.objs oidPlan) (imgMem x.objs oidPg) = none ∧ poolsFit s x = true) ∧
    (∃ r : Req, ∃ s : State, ∃ x, accepted 0x0502 0x10 r s = true ∧ s.ver.round = some x ∧ r.payload = [] ∧ x.unsealed 5 = false ∧ cpWritten x =
      true ∧ cpFirst x.objs = none ∧ poolsExceeded x s = false) ∧
    (∃ r : Req, ∃ s : State, ∃ x, accepted 0x0702 0x10 r s = true ∧ s.ver.round = some x ∧ r.payload = [] ∧ x.unsealed 4 = false ∧ scFirst s
      x.objs = none) :=
  ⟨⟨ask [], staging graphRound up, graphRound, by decide +kernel⟩,
   ⟨ask [], staging ruleRound up, ruleRound, by decide +kernel⟩,
   ⟨ask [], staging planRound up, planRound, by decide +kernel⟩,
   ⟨ask [], staging { num := 1, objs := {} } up, { num := 1, objs := {} }, by decide +kernel⟩,
   ⟨ask [], staging { num := 1, objs := {} } up, { num := 1, objs := {} }, by decide +kernel⟩⟩

/-- States and operands that meet the hypotheses of each clause of JobAndModelCommandsComplete. -/
theorem witness_JobAndModelCommandsComplete :
    (∃ r : Req, ∃ s : State, ∃ k, ∃ x, accepted 0x0601 0x10 r s = true ∧ r.payload.length = 64 ∧ newestNum s ≠ 0 ∧ pickInst s s.ver.newest.objs
      (u8 r.payload 0) (u8 r.payload 1) = some k ∧ inst? s k = some x ∧ queuedJobs s k < 1024 ∧ bit (u8 r.payload 12) 7 = false ∧ u8 r.payload 13
      = 0 ∧ zeroAt r.payload 28 12 = true ∧ zeroAt r.payload 56 8 = true ∧ (leAt r.payload 2 2 = 0xFFFF ∨ scValid s.ver.newest.objs (leAt
      r.payload 2 2) = true) ∧ (leAt r.payload 8 4 = 0 ∨ 1000 ≤ leAt r.payload 8 4)) ∧
    (∃ r : Req, ∃ s : State, ∃ x, accepted 0x0610 0x10 r s = true ∧ s.ver.round = some x ∧ r.payload.length = 32 ∧ u8 r.payload 0 ≠ 0 ∧ u8
      r.payload 1 ≤ 1 ∧ zeroAt r.payload 4 4 = true ∧ zeroAt r.payload 24 8 = true ∧ leAt r.payload 8 8 % 32 = 0 ∧ inHbm s (leAt r.payload 8 8)
      64 = true ∧ 64 ≤ leAt r.payload 16 8 ∧ inHbm s (leAt r.payload 8 8) (leAt r.payload 16 8) = true ∧ (leAt (devBytes s (leAt r.payload 8 8)
      64) 0 2 = 2 ∨ leAt (devBytes s (leAt r.payload 8 8) 64) 0 2 = 3) ∧ containerBad s (leAt r.payload 8 8) (leAt r.payload 16 8) (devBytes s
      (leAt r.payload 8 8) 64) = [] ∧ firstPoison s (leAt r.payload 8 8) (leAt r.payload 16 8) = none ∧ 64 + 32 * leAt (devBytes s (leAt
      r.payload 8 8) 64) 4 4 ≤ leAt r.payload 16 8 ∧ (sectsOf s (leAt r.payload 8 8)).any (sectOut s (leAt r.payload 8 8) (leAt r.payload 16 8))
      = false ∧ 1 ≤ u8 r.payload 2 ∧ u8 r.payload 2 ≤ 128 ∧ u8 r.payload 3 + u8 r.payload 2 * leAt (devBytes s (leAt r.payload 8 8) 64) 2 2 ≤
      s.nv.cores ∧ u8 r.payload 2 ≤ (instNums s x (u8 r.payload 0) (u8 r.payload 2)).length ∧ placeFails s x (u8 r.payload 0) (bit (u8 r.payload
      1) 0) (modelOf r s [] []) = false) ∧
    (∃ r : Req, ∃ s : State, accepted 0x0703 0x10 r s = true ∧ r.payload.length = 8 ∧ u8 r.payload 2 ≤ 4 ∧ zeroAt r.payload 3 5 = true ∧ (u8
      r.payload 2 = 1 ∨ u8 r.payload 2 = 2 → ctxState s (leAt r.payload 0 2) ≠ 0 ∧ ctxState s (leAt r.payload 0 2) ≠ 3) ∧ (u8 r.payload 2 = 3 →
      (ctxOf s (leAt r.payload 0 2)).inflight = 0)) :=
  ⟨⟨ask (bs [1, 127, 0xFF, 0xFF] ++ zeros 4 ++ le 4 1000 ++ zeros 52), modelUp, 127, { model := 1, first := 0, ranks := 1, addr := 0 },
  by decide +kernel⟩,
   ⟨ask (bs [255, 0, 1, 127, 0, 0, 0, 0] ++ le 8 0 ++ le 8 96 ++ zeros 8), staging { num := 1, objs := {} } contUp, { num := 1, objs := {} },
     by decide +kernel⟩,
   ⟨ask (le 2 0xFFFF ++ bs [4, 0, 0, 0, 0, 0]), up, by decide +kernel⟩⟩

/-- States and operands that meet the hypotheses of each clause of CoreAndSyncCommandsComplete. -/
theorem witness_CoreAndSyncCommandsComplete :
    (∃ r : Req, ∃ s : State, accepted 0x0620 0x10 r s = true ∧ r.payload.length = 16 ∧ dbgOpen s 0 = true ∧ u8 r.payload 2 ≤ 5 ∧ u8 r.payload 1 ≤
      7 ∧ u8 r.payload 3 < 4 ∧ zeroAt r.payload 12 4 = true ∧ (u8 r.payload 0 = 0xFF ∨ u8 r.payload 0 < s.nv.cores) ∧ (u8 r.payload 2 = 1 → leAt
      r.payload 4 4 ≤ 8191) ∧ (u8 r.payload 2 = 3 → leAt r.payload 4 4 ≤ 4095) ∧ (u8 r.payload 2 = 5 → leAt r.payload 4 4 ≤ 47)) ∧
    (∃ r : Req, ∃ s : State, accepted 0x0621 0x10 r s = true ∧ r.payload.length = 4 ∧ dbgOpen s 0 = true ∧ u8 r.payload 1 ≤ 1 ∧ zeroAt r.payload
      2 2 = true ∧ u8 r.payload 0 < s.nv.cores ∧ (core s (physOf s (u8 r.payload 0))).st = 2) ∧
    (∃ r : Req, ∃ s : State, accepted 0x0622 0x10 r s = true ∧ r.payload.length = 4 ∧ dbgOpen s 0 = true ∧ zeroAt r.payload 1 3 = true ∧ u8
      r.payload 0 < s.nv.cores) ∧
    (∃ r : Req, ∃ s : State, accepted 0x0801 0x10 r s = true ∧ r.payload.length = 8 ∧ u8 r.payload 0 ≤ 1 ∧ 1 ≤ u8 r.payload 3 ∧ u8 r.payload 3 ≤
      16 ∧ zeroAt r.payload 4 4 = true ∧ (u8 r.payload 0 = 1 → u8 r.payload 1 = 0 ∧ u8 r.payload 2 + u8 r.payload 3 ≤ 256) ∧ (u8 r.payload 0 = 0
      → u8 r.payload 1 < s.nv.cores ∧ u8 r.payload 2 + u8 r.payload 3 ≤ 48)) ∧
    (∃ r : Req, ∃ s : State, accepted 0x0802 0x12 r s = true ∧ r.payload.length = 8 ∧ leAt r.payload 6 2 = 0 ∧ u8 r.payload 1 = 0 ∧ (u8 r.payload
      2 = 0xFF ∨ (u8 r.payload 2 ≤ 7 ∧ bit (u8 r.payload 3) (u8 r.payload 2) = false ∧ bit s.nv.linkRetired (u8 r.payload 2) = false)) ∧ u8
      r.payload 3 &&& s.nv.linkRetired = 0 ∧ 1 ≤ leAt r.payload 4 2 + popcount (u8 r.payload 3) 8 ∧ leAt r.payload 4 2 + popcount (u8 r.payload
      3) 8 ≤ 65535 ∧ freeObj s (u8 r.payload 0) = true ∧ ((obj s ⟨true, 0, u8 r.payload 0⟩).owner = 0xFF ∨ (obj s ⟨true, 0, u8 r.payload
      0⟩).owner = 0xF0)) ∧
    (∃ r : Req, ∃ s : State, accepted 0x0802 0x12 r s = true ∧ r.payload.length = 8 ∧ leAt r.payload 6 2 = 0 ∧ u8 r.payload 1 = 1 ∧ zeroAt
      r.payload 2 4 = true ∧ freeObj s (u8 r.payload 0) = true ∧ (obj s ⟨true, 0, u8 r.payload 0⟩).owner = 0xF0) :=
  ⟨⟨ask (bs [127, 7, 1, 3] ++ le 4 8191 ++ le 4 0 ++ zeros 4), up, by decide +kernel⟩,
   ⟨ask (bs [127, 1, 0, 0]), { up with cores := [(129, { st := 2 })] }, by decide +kernel⟩,
   ⟨ask (bs [127, 0, 0, 0]), up, by decide +kernel⟩,
   ⟨ask (bs [1, 0, 240, 16, 0, 0, 0, 0]), up, by decide +kernel⟩,
   ⟨ask (bs [255, 0, 7, 0x7F] ++ le 2 65528 ++ le 2 0), up, by decide +kernel⟩,
   ⟨ask (bs [255, 1, 0, 0, 0, 0, 0, 0]), { up with hub := [(255, { owner := 0xF0 })] }, by decide +kernel⟩⟩

/-- States and operands that meet the hypotheses of each clause of ClockPowerAndMemoryCommandsComplete. -/
theorem witness_ClockPowerAndMemoryCommandsComplete :
    (∃ r : Req, ∃ s : State, accepted 0x0901 0x10 r s = true ∧ r.payload.length = 4 ∧ leAt r.payload 2 2 = 0 ∧ leAt r.payload 0 2 ≤ 383 ∧ bit
      s.nv.pchRetired (leAt r.payload 0 2) = false ∧ mget s.mem.migrate (halfOf (leAt r.payload 0 2)) = none ∧ (∀ q ∈ s.mem.queued, halfOf q ≠
      halfOf (leAt r.payload 0 2)) ∧ 97 ≤ activeN s (halfOf (leAt r.payload 0 2))) ∧
    (∃ p, ∃ s : State, bit s.nv.pchRetired p = false) ∧
    (∃ r : Req, ∃ s : State, accepted 0x0A01 0x10 r s = true ∧ r.payload.length = 16 ∧ zeroAt r.payload 8 8 = true ∧ u8 r.payload 0 ≤ 3 ∧ u8
      r.payload 1 ≤ 7 ∧ u8 r.payload 3 ≤ 1 ∧ (u8 r.payload 0 ≠ 3 → u8 r.payload 1 = 0) ∧ (u8 r.payload 0 ≠ 2 → u8 r.payload 2 = 0 ∧ u8 r.payload
      3 = 0) ∧ (u8 r.payload 0 = 0 → toSigned 32 (leAt r.payload 4 4) = 0) ∧ -10000000 ≤ toSigned 32 (leAt r.payload 4 4) ∧ toSigned 32 (leAt
      r.payload 4 4) ≤ 10000000 ∧ (u8 r.payload 0 = 3 → bit s.nv.linkRetired (u8 r.payload 1) = false)) ∧
    (∃ r : Req, ∃ s : State, ∃ c, accepted 0x0A02 0x10 r s = true ∧ r.payload.length = 16 ∧ zeroAt r.payload 1 7 = true ∧ u8 r.payload 0 = 1 ∧
      verLive s = false ∧ s.ch.setWait = none ∧ stepped s (toSigned 64 (leAt r.payload 8 8)) = some c) ∧
    (∃ r : Req, ∃ s : State, accepted 0x0A02 0x10 r s = true ∧ r.payload.length = 16 ∧ zeroAt r.payload 1 7 = true ∧ u8 r.payload 0 = 0 ∧ verLive
      s = false ∧ s.ch.source = 1 ∧ s.ch.setWait = none ∧ leAt r.payload 8 8 * 1000000000 < 2 ^ 64) ∧
    (∃ r : Req, ∃ s : State, accepted 0x0A10 0x10 r s = true ∧ r.payload.length = 4 ∧ leAt r.payload 2 2 = 0 ∧ holding s = false ∧ s.ch.toSleep =
      false ∧ u8 r.payload 0 = 0 ∧ u8 r.payload 1 = 0 ∧ s.ch.pwr = 1) ∧
    (∃ r : Req, ∃ s : State, accepted 0x0A10 0x10 r s = true ∧ r.payload.length = 4 ∧ leAt r.payload 2 2 = 0 ∧ holding s = false ∧ s.ch.toSleep =
      false ∧ u8 r.payload 0 = 1 ∧ u8 r.payload 1 = 0 ∧ s.ch.pwr = 0) ∧
    (∃ r : Req, ∃ s : State, accepted 0x0A10 0x10 r s = true ∧ r.payload.length = 4 ∧ leAt r.payload 2 2 = 0 ∧ holding s = false ∧ s.ch.toSleep =
      false ∧ u8 r.payload 0 = 2 ∧ u8 r.payload 1 ≠ 0 ∧ (s.ch.pwr = 0 ∨ s.ch.pwr = 1)) ∧
    (∃ r : Req, ∃ s : State, accepted 0x1001 0x10 r s = true ∧ r.payload.length = 4 ∧ leAt r.payload 2 2 = 0 ∧ 900 ≤ leAt r.payload 0 2 ∧ leAt
      r.payload 0 2 ≤ 1850) ∧
    (∃ r : Req, ∃ s : State, accepted 0x1002 0x10 r s = true ∧ r.payload = []) :=
  ⟨⟨ask (bs [0x7F, 1, 0, 0]), up, by decide +kernel⟩,
   ⟨383, State.reset, by decide +kernel⟩,
   ⟨ask (bs [3, 7, 0, 0] ++ le 4 10000000 ++ zeros 8), up, by decide +kernel⟩,
   ⟨ask (bs [1, 0, 0, 0, 0, 0, 0, 0] ++ zeros 8), up, 0, by decide +kernel⟩,
   ⟨ask (bs [0, 0, 0, 0, 0, 0, 0, 0] ++ le 8 18446744073), up, by decide +kernel⟩,
   ⟨ask (bs [0, 0, 0, 0]), { up with ch := { pwr := 1 } }, by decide +kernel⟩,
   ⟨ask (bs [1, 0, 0, 0]), up, by decide +kernel⟩,
   ⟨ask (bs [2, 255, 0, 0]), { up with ch := { pwr := 1 } }, by decide +kernel⟩,
   ⟨ask (le 2 1850 ++ le 2 0), up, by decide +kernel⟩,
   ⟨ask [], up, by decide +kernel⟩⟩

/-- States and operands that meet the hypotheses of each clause of ChainCommandsComplete. -/
theorem witness_ChainCommandsComplete :
    (∃ r : Req, ∃ s : State, accepted 0x0B01 0x10 r s = true ∧ r.payload.length = 4 ∧ leAt r.payload 2 2 = 0 ∧ zeroAt r.payload 2 2 = true ∧
      (s.chip = none ∨ s.chip = some (leAt r.payload 0 2))) ∧
    (∃ r : Req, ∃ s : State, accepted 0x0B02 0x10 r s = true ∧ r.payload.length = 8 + leAt r.payload 2 2 ∧ zeroAt r.payload 4 4 = true ∧ (∀ e ∈
      r.payload.drop 8, routeOk e = true) ∧ 1 ≤ leAt r.payload 2 2 ∧ leAt r.payload 2 2 ≤ 4072 ∧ leAt r.payload 0 2 + leAt r.payload 2 2 ≤ 65536
      ∧ s.chip.isSome = true) ∧
    (∃ r : Req, ∃ s : State, accepted 0x0B03 0x10 r s = true ∧ r.payload.length = 4 ∧ u8 r.payload 0 ≤ 7 ∧ u8 r.payload 1 ≠ 0 ∧ zeroAt r.payload
      2 2 = true ∧ mgetD s.nv.laneRetired (u8 r.payload 0) 0 &&& u8 r.payload 1 ≠ 0) ∧
    (∃ r : Req, ∃ s : State, accepted 0x0B10 0x13 r s = true ∧ 32 ≤ r.payload.length ∧ r.payload.length = 32 + leAt r.payload 18 2 ∧ u8 r.payload
      2 = 0 ∧ u8 r.payload 3 = 0 ∧ leAt r.payload 4 6 = 0 ∧ 1 ≤ leAt r.payload 10 2 ∧ leAt r.payload 10 2 ≤ 10000 ∧ zeroAt r.payload 12 4 = true
      ∧ s.chip.isSome = true ∧ leAt r.payload 0 2 ≠ chipId s ∧ routeLost s (leAt r.payload 0 2) = false) ∧
    (∃ r : Req, ∃ s : State, accepted 0x0B10 0x13 r s = true ∧ 32 ≤ r.payload.length ∧ r.payload.length = 32 + leAt r.payload 18 2 ∧ u8 r.payload
      2 = 1 ∧ 1 ≤ u8 r.payload 3 ∧ u8 r.payload 3 ≤ 15 ∧ 1 ≤ leAt r.payload 10 2 ∧ leAt r.payload 10 2 ≤ 10000 ∧ zeroAt r.payload 12 4 = true ∧
      s.chip.isSome = true ∧ bit s.nv.linkRetired (leAt r.payload 4 6 % 8) = false) :=
  ⟨⟨ask (le 2 0xFFFF ++ le 2 0), up, by decide +kernel⟩,
   ⟨ask (le 2 0xFFFF ++ le 2 1 ++ zeros 4 ++ bs [0xF7]), { up with chip := some 0xFFFF }, by decide +kernel⟩,
   ⟨ask (bs [7, 0x80, 0, 0]), { up with nv := { laneRetired := [(7, 0x80)] } }, by decide +kernel⟩,
   ⟨ask (le 2 0xFFFE ++ bs [0, 0] ++ zeros 6 ++ le 2 10000 ++ zeros 6 ++ le 2 16 ++ zeros 12 ++ zeros 16), chainUp, by decide +kernel⟩,
   ⟨ask (le 2 0xFFFE ++ bs [1, 15] ++ bs [7, 0, 0, 0, 0, 0] ++ le 2 10000 ++ zeros 6 ++ le 2 0 ++ zeros 12), chainUp, by decide +kernel⟩⟩

/-- States and operands that meet the hypotheses of each clause of VersionCommandsComplete. -/
theorem witness_VersionCommandsComplete :
    (∃ r : Req, ∃ s : State, accepted 0x0C01 0x10 r s = true ∧ r.payload.length = 4 ∧ leAt r.payload 2 2 = 0 ∧ s.ver.round = none ∧ s.mem.ready =
      true ∧ s.ver.older = none ∧ (leAt r.payload 0 2 = 0 ∨ liveObjs s (leAt r.payload 0 2) = none)) ∧
    (∃ r : Req, ∃ s : State, accepted 0x0C02 0x10 r s = true ∧ r.payload = [] ∧ s.ver.round.isSome = true) ∧
    (∃ r : Req, ∃ s : State, ∃ x, accepted 0x0C03 0x10 r s = true ∧ r.payload.length = 8 ∧ s.ver.round = some x ∧ now s + 10000 ≤ leAt r.payload
      0 8 ∧ leAt r.payload 0 8 ≤ now s + 600000000000) ∧
    (∃ r : Req, ∃ s : State, accepted 0x0C04 0x10 r s = true ∧ r.payload.length = 8 ∧ zeroAt r.payload 1 3 = true ∧ u8 r.payload 0 = 0) ∧
    (∃ r : Req, ∃ s : State, ∃ o, accepted 0x0C04 0x10 r s = true ∧ r.payload.length = 8 ∧ zeroAt r.payload 1 3 = true ∧ ((u8 r.payload 0 = 1 ∧ o
      = if newestNum s = 0 then none else some s.ver.newest.objs) ∨ (u8 r.payload 0 = 2 ∧ ∃ l, s.ver.older = some l ∧ o = some l.1.objs) ∨ (u8
      r.payload 0 = 3 ∧ ∃ x, s.ver.round = some x ∧ x.bearingReady = true ∧ o = some x.objs)) ∧ ((o.elim [] objIds).length = 0 ∨ leAt r.payload 4
      4 < (o.elim [] objIds).length)) ∧
    (∃ r : Req, ∃ s : State, accepted 0x0C05 0x14 r s = true ∧ r.payload.length = 8 ∧ u8 r.payload 0 ≤ 2 ∧ leAt r.payload 6 2 = 0 ∧ (u8 r.payload
      1 = 0xFF ∨ (u8 r.payload 1 ≤ 7 ∧ bit (u8 r.payload 2) (u8 r.payload 1) = false ∧ bit s.nv.linkRetired (u8 r.payload 1) = false)) ∧ 1 ≤ leAt
      r.payload 4 2 ∧ leAt r.payload 4 2 ≤ 1000 ∧ u8 r.payload 2 &&& s.nv.linkRetired = 0) :=
  ⟨⟨ask (le 2 0xFFFF ++ le 2 0), up, by decide +kernel⟩,
   ⟨ask [], staging { num := 1, objs := {} } up, by decide +kernel⟩,
   ⟨ask (le 8 600000000000), staging { num := 1, objs := {} } up, { num := 1, objs := {} }, by decide +kernel⟩,
   ⟨ask (zeros 8), up, by decide +kernel⟩,
   ⟨ask (bs [1, 0, 0, 0] ++ le 4 0), up, none, by decide +kernel⟩,
   ⟨ask (bs [2, 7, 0x7F, 255] ++ le 2 1000 ++ le 2 0), up, by decide +kernel⟩⟩

/-- States and operands that meet the hypotheses of each clause of ResetCommandsComplete. -/
theorem witness_ResetCommandsComplete :
    (∃ r : Req, ∃ s : State, accepted 0x0D01 0x10 r s = true ∧ r.payload.length = 4 ∧ u8 r.payload 0 = 1 ∧ zeroAt r.payload 1 3 = true) ∧
    (∃ r : Req, ∃ s : State, accepted 0x0D01 0x10 r s = true ∧ r.payload.length = 4 ∧ u8 r.payload 0 = 2 ∧ zeroAt r.payload 1 3 = true) ∧
    (∃ r : Req, ∃ s : State, accepted 0x0D02 0x10 r s = true ∧ r.payload.length = 8 ∧ zeroAt r.payload 4 4 = true ∧ (u8 r.payload 0) ≤ 5 ∧ leAt
      r.payload 2 2 < blkCount s (u8 r.payload 0) ∧ ((u8 r.payload 0) = 0 → bit s.nv.coreRetired (if (u8 r.payload 0) = 0 then physOf s (leAt
      r.payload 2 2) else leAt r.payload 2 2) = false) ∧ ((u8 r.payload 0) = 1 → bit s.nv.cmpRetired (if (u8 r.payload 0) = 0 then physOf s (leAt
      r.payload 2 2) else leAt r.payload 2 2) = false) ∧ ((u8 r.payload 0) = 3 → bit s.nv.linkRetired (if (u8 r.payload 0) = 0 then physOf s
      (leAt r.payload 2 2) else leAt r.payload 2 2) = false) ∧ (blk s (u8 r.payload 0) (if (u8 r.payload 0) = 0 then physOf s (leAt r.payload 2
      2) else leAt r.payload 2 2)).op = none ∧ (blk s (u8 r.payload 0) (if (u8 r.payload 0) = 0 then physOf s (leAt r.payload 2 2) else leAt
      r.payload 2 2)).st ≠ 4 ∧ u8 r.payload 1 = 0 ∧ (u8 r.payload 0) = 5 ∧ (if (u8 r.payload 0) = 0 then physOf s (leAt r.payload 2 2) else leAt
      r.payload 2 2) = s.helm.active ∧ s.helm.standby = true) ∧
    (∃ r : Req, ∃ s : State, accepted 0x0D02 0x10 r s = true ∧ r.payload.length = 8 ∧ zeroAt r.payload 4 4 = true ∧ (u8 r.payload 0) ≤ 5 ∧ leAt
      r.payload 2 2 < blkCount s (u8 r.payload 0) ∧ ((u8 r.payload 0) = 0 → bit s.nv.coreRetired (if (u8 r.payload 0) = 0 then physOf s (leAt
      r.payload 2 2) else leAt r.payload 2 2) = false) ∧ ((u8 r.payload 0) = 1 → bit s.nv.cmpRetired (if (u8 r.payload 0) = 0 then physOf s (leAt
      r.payload 2 2) else leAt r.payload 2 2) = false) ∧ ((u8 r.payload 0) = 3 → bit s.nv.linkRetired (if (u8 r.payload 0) = 0 then physOf s
      (leAt r.payload 2 2) else leAt r.payload 2 2) = false) ∧ (blk s (u8 r.payload 0) (if (u8 r.payload 0) = 0 then physOf s (leAt r.payload 2
      2) else leAt r.payload 2 2)).op = none ∧ (blk s (u8 r.payload 0) (if (u8 r.payload 0) = 0 then physOf s (leAt r.payload 2 2) else leAt
      r.payload 2 2)).st ≠ 4 ∧ u8 r.payload 1 = 0 ∧ ¬((u8 r.payload 0) = 5 ∧ (if (u8 r.payload 0) = 0 then physOf s (leAt r.payload 2 2) else
      leAt r.payload 2 2) = s.helm.active) ∧ blkOff s (u8 r.payload 0) (if (u8 r.payload 0) = 0 then physOf s (leAt r.payload 2 2) else leAt
      r.payload 2 2) = true) ∧
    (∃ r : Req, ∃ s : State, accepted 0x0D02 0x10 r s = true ∧ r.payload.length = 8 ∧ zeroAt r.payload 4 4 = true ∧ (u8 r.payload 0) ≤ 5 ∧ leAt
      r.payload 2 2 < blkCount s (u8 r.payload 0) ∧ ((u8 r.payload 0) = 0 → bit s.nv.coreRetired (if (u8 r.payload 0) = 0 then physOf s (leAt
      r.payload 2 2) else leAt r.payload 2 2) = false) ∧ ((u8 r.payload 0) = 1 → bit s.nv.cmpRetired (if (u8 r.payload 0) = 0 then physOf s (leAt
      r.payload 2 2) else leAt r.payload 2 2) = false) ∧ ((u8 r.payload 0) = 3 → bit s.nv.linkRetired (if (u8 r.payload 0) = 0 then physOf s
      (leAt r.payload 2 2) else leAt r.payload 2 2) = false) ∧ (blk s (u8 r.payload 0) (if (u8 r.payload 0) = 0 then physOf s (leAt r.payload 2
      2) else leAt r.payload 2 2)).op = none ∧ (blk s (u8 r.payload 0) (if (u8 r.payload 0) = 0 then physOf s (leAt r.payload 2 2) else leAt
      r.payload 2 2)).st ≠ 4 ∧ u8 r.payload 1 = 0 ∧ ¬((u8 r.payload 0) = 5 ∧ (if (u8 r.payload 0) = 0 then physOf s (leAt r.payload 2 2) else
      leAt r.payload 2 2) = s.helm.active) ∧ blkOff s (u8 r.payload 0) (if (u8 r.payload 0) = 0 then physOf s (leAt r.payload 2 2) else leAt
      r.payload 2 2) = false) ∧
    (∃ r : Req, ∃ s : State, accepted 0x0D02 0x10 r s = true ∧ r.payload.length = 8 ∧ zeroAt r.payload 4 4 = true ∧ (u8 r.payload 0) ≤ 5 ∧ leAt
      r.payload 2 2 < blkCount s (u8 r.payload 0) ∧ ((u8 r.payload 0) = 0 → bit s.nv.coreRetired (if (u8 r.payload 0) = 0 then physOf s (leAt
      r.payload 2 2) else leAt r.payload 2 2) = false) ∧ ((u8 r.payload 0) = 1 → bit s.nv.cmpRetired (if (u8 r.payload 0) = 0 then physOf s (leAt
      r.payload 2 2) else leAt r.payload 2 2) = false) ∧ ((u8 r.payload 0) = 3 → bit s.nv.linkRetired (if (u8 r.payload 0) = 0 then physOf s
      (leAt r.payload 2 2) else leAt r.payload 2 2) = false) ∧ (blk s (u8 r.payload 0) (if (u8 r.payload 0) = 0 then physOf s (leAt r.payload 2
      2) else leAt r.payload 2 2)).op = none ∧ (blk s (u8 r.payload 0) (if (u8 r.payload 0) = 0 then physOf s (leAt r.payload 2 2) else leAt
      r.payload 2 2)).st ≠ 4 ∧ u8 r.payload 1 = 1 ∧ (u8 r.payload 0) < 4 ∧ ((u8 r.payload 0) = 0 → placedOn s (leAt r.payload 2 2) = false) ∧
      blkOff s (u8 r.payload 0) (if (u8 r.payload 0) = 0 then physOf s (leAt r.payload 2 2) else leAt r.payload 2 2) = true) ∧
    (∃ r : Req, ∃ s : State, accepted 0x0D02 0x10 r s = true ∧ r.payload.length = 8 ∧ zeroAt r.payload 4 4 = true ∧ (u8 r.payload 0) ≤ 5 ∧ leAt
      r.payload 2 2 < blkCount s (u8 r.payload 0) ∧ ((u8 r.payload 0) = 0 → bit s.nv.coreRetired (if (u8 r.payload 0) = 0 then physOf s (leAt
      r.payload 2 2) else leAt r.payload 2 2) = false) ∧ ((u8 r.payload 0) = 1 → bit s.nv.cmpRetired (if (u8 r.payload 0) = 0 then physOf s (leAt
      r.payload 2 2) else leAt r.payload 2 2) = false) ∧ ((u8 r.payload 0) = 3 → bit s.nv.linkRetired (if (u8 r.payload 0) = 0 then physOf s
      (leAt r.payload 2 2) else leAt r.payload 2 2) = false) ∧ (blk s (u8 r.payload 0) (if (u8 r.payload 0) = 0 then physOf s (leAt r.payload 2
      2) else leAt r.payload 2 2)).op = none ∧ (blk s (u8 r.payload 0) (if (u8 r.payload 0) = 0 then physOf s (leAt r.payload 2 2) else leAt
      r.payload 2 2)).st ≠ 4 ∧ u8 r.payload 1 = 1 ∧ (u8 r.payload 0) < 4 ∧ ((u8 r.payload 0) = 0 → placedOn s (leAt r.payload 2 2) = false) ∧
      blkOff s (u8 r.payload 0) (if (u8 r.payload 0) = 0 then physOf s (leAt r.payload 2 2) else leAt r.payload 2 2) = false) ∧
    (∃ r : Req, ∃ s : State, accepted 0x0D02 0x10 r s = true ∧ r.payload.length = 8 ∧ zeroAt r.payload 4 4 = true ∧ (u8 r.payload 0) ≤ 5 ∧ leAt
      r.payload 2 2 < blkCount s (u8 r.payload 0) ∧ ((u8 r.payload 0) = 0 → bit s.nv.coreRetired (if (u8 r.payload 0) = 0 then physOf s (leAt
      r.payload 2 2) else leAt r.payload 2 2) = false) ∧ ((u8 r.payload 0) = 1 → bit s.nv.cmpRetired (if (u8 r.payload 0) = 0 then physOf s (leAt
      r.payload 2 2) else leAt r.payload 2 2) = false) ∧ ((u8 r.payload 0) = 3 → bit s.nv.linkRetired (if (u8 r.payload 0) = 0 then physOf s
      (leAt r.payload 2 2) else leAt r.payload 2 2) = false) ∧ (blk s (u8 r.payload 0) (if (u8 r.payload 0) = 0 then physOf s (leAt r.payload 2
      2) else leAt r.payload 2 2)).op = none ∧ (blk s (u8 r.payload 0) (if (u8 r.payload 0) = 0 then physOf s (leAt r.payload 2 2) else leAt
      r.payload 2 2)).st ≠ 4 ∧ u8 r.payload 1 = 2 ∧ (u8 r.payload 0) < 4 ∧ blkOff s (u8 r.payload 0) (if (u8 r.payload 0) = 0 then physOf s (leAt
      r.payload 2 2) else leAt r.payload 2 2) = true) ∧
    (∃ r : Req, ∃ s : State, accepted 0x0D03 0x10 r s = true ∧ r.payload.length = 4 ∧ 1 ≤ leAt r.payload 0 4 ∧ leAt r.payload 0 4 ≤ 10000) ∧
    (∃ r : Req, ∃ s : State, ∃ c, ∃ l, ∃ v, accepted 0x0D04 0x10 r s = true ∧ r.payload.length = 4 ∧ u8 r.payload 0 ≤ 7 ∧ zeroAt r.payload 1 3 =
      true ∧ bit s.nv.linkRetired (u8 r.payload 0) = false ∧ linkUp s (u8 r.payload 0) = true ∧ s.chip.isSome = true ∧ (link s (u8 r.payload
      0)).partner = some (c, l, v)) :=
  ⟨⟨ask (bs [1, 0, 0, 0]), up, by decide +kernel⟩,
   ⟨ask (bs [2, 0, 0, 0]), up, by decide +kernel⟩,
   ⟨ask (bs [5, 0, 0, 0] ++ zeros 4), up, by decide +kernel⟩,
   ⟨ask (bs [5, 0, 1, 0] ++ zeros 4), { up with sys := { up.sys with blocks := [(65536 * 5 + 1, { st := 5 })] } }, by decide +kernel⟩,
   ⟨ask (bs [4, 0, 11, 0] ++ zeros 4), up, by decide +kernel⟩,
   ⟨ask (bs [0, 1, 127, 0] ++ zeros 4), { up with sys := { up.sys with blocks := [(129, { st := 5 })] } }, by decide +kernel⟩,
   ⟨ask (bs [0, 1, 127, 0] ++ zeros 4), up, by decide +kernel⟩,
   ⟨ask (bs [3, 2, 7, 0] ++ zeros 4), linkIs { en := false }, by decide +kernel⟩,
   ⟨ask (le 4 10000), up, by decide +kernel⟩,
   ⟨ask (bs [7, 0, 0, 0]), chainUp, 0xFFFE, 0, true, by decide +kernel⟩⟩

/-- States and operands that meet the hypotheses of each clause of TrustCommandsComplete. -/
theorem witness_TrustCommandsComplete :
    (∃ r : Req, ∃ s : State, accepted 0x0D10 0x10 r s = true ∧ r.payload.length = 8 + leAt r.payload 4 2 ∧ (u8 r.payload 0) ≤ 7 ∧ 1 ≤ leAt
      r.payload 4 2 ∧ leAt r.payload 4 2 ≤ 1024 ∧ r.cr.sigOk = true ∧ u8 r.payload 1 < 2 ∧ leAt r.payload 2 2 = 0 ∧ leAt r.payload 6 2 = 0 ∧ mget
      s.nv.anchors (u8 r.payload 0) = none ∧ (s.nv.anchors = [] ∨ (sess s r.sess).anchored = true)) ∧
    (∃ r : Req, ∃ s : State, accepted 0x0D11 0x10 r s = true ∧ r.payload.length = 4 ∧ (u8 r.payload 0) ≤ 7 ∧ zeroAt r.payload 1 3 = true ∧ (mget
      s.nv.anchors (u8 r.payload 0)).isSome = true) ∧
    (∃ r : Req, ∃ s : State, accepted 0x0D20 0x10 r s = true ∧ r.payload.length = 40 ∧ zeroAt r.payload 34 6 = true ∧ (modelEntries s = [] ∨ leAt
      r.payload 32 2 < (modelEntries s).length)) ∧
    (∃ r : Req, ∃ s : State, accepted 0x0D21 0x10 r s = true ∧ r.payload = []) ∧
    (∃ r : Req, ∃ s : State, accepted 0x0D30 0x10 r s = true ∧ r.payload = []) ∧
    (∃ r : Req, ∃ s : State, ∃ i, accepted 0x0D31 0x10 r s = true ∧ 116 ≤ r.payload.length ∧ r.payload.length = 116 + leAt r.payload 48 2 ∧ 1 ≤
      leAt r.payload 48 2 ∧ leAt r.payload 48 2 ≤ 1024 ∧ 1 ≤ leAt r.payload 40 4 ∧ leAt r.payload 40 4 ≤ 7 ∧ zeroAt r.payload 44 4 = true ∧ leAt
      r.payload 50 2 = 0 ∧ s.sys.challenge = some (r.payload.take 32, i) ∧ now s ≤ i + 60000000000 ∧ now s < leAt r.payload 32 8 ∧ r.cr.sigOk =
      true ∧ debugRoot s r.cr.chain = true ∧ (sess s r.sess).anchored = true) ∧
    (∃ r : Req, ∃ s : State, accepted 0x0D31 0x10 r s = true ∧ r.payload = [] ∧ dbgFree s = true ∧ (sess s r.sess).anchored = true) :=
  ⟨⟨ask (bs [7, 1, 0, 0] ++ le 2 1024 ++ zeros 2 ++ zeros 1024), { up with nv := { anchors := [(6, (1, zeros 1))] } }, by decide +kernel⟩,
   ⟨ask (bs [7, 0, 0, 0]), { up with nv := { anchors := [(7, (1, zeros 1))] } }, by decide +kernel⟩,
   ⟨ask (zeros 32 ++ le 2 0xFFFF ++ zeros 6), up, by decide +kernel⟩,
   ⟨ask [], up, by decide +kernel⟩,
   ⟨ask [], up, by decide +kernel⟩,
   ⟨ask (zeros 32 ++ le 8 60000000001 ++ le 4 7 ++ zeros 4 ++ le 2 1 ++ le 2 0 ++ zeros 64 ++ zeros 1), atNs 60000000000
     { up with sys := { up.sys with challenge := some (zeros 32, 0) } }, 0, by decide +kernel⟩,
   ⟨ask [], { up with sys := { up.sys with strap := 8 } }, by decide +kernel⟩⟩

/-- States and operands that meet the hypotheses of each clause of FirmwareAndObservationCommandsComplete. -/
theorem witness_FirmwareAndObservationCommandsComplete :
    (∃ r : Req, ∃ s : State, accepted 0x0D40 0x10 r s = true ∧ partOk r 0 4194304 = true ∧ zeroAt r.payload 8 8 = true ∧ leAt r.payload 0 4 ≠ 0) ∧
    (∃ r : Req, ∃ s : State, accepted 0x0D40 0x10 r s = true ∧ partOk r 0 4194304 = true ∧ zeroAt r.payload 8 8 = true ∧ leAt r.payload 0 4 = 0) ∧
    (∃ r : Req, ∃ s : State, accepted 0x0D41 0x10 r s = true ∧ r.payload.length = 4 ∧ zeroAt r.payload 1 3 = true ∧ imageFault s.sys.load = none
      ∧ loadedAll s (128 + Mem.leAt s.sys.load 16 4) = true ∧ r.cr.sigOk = true ∧ s.nv.rollback ≤ Mem.leAt s.sys.load 12 4 ∧ u8 r.payload 0 = 0 ∧
      (s.sys.boot = 2 ∨ s.sys.boot = 3 ∨ s.sys.boot = 4)) ∧
    (∃ r : Req, ∃ s : State, accepted 0x0D41 0x10 r s = true ∧ r.payload.length = 4 ∧ zeroAt r.payload 1 3 = true ∧ imageFault s.sys.load = none
      ∧ loadedAll s (128 + Mem.leAt s.sys.load 16 4) = true ∧ r.cr.sigOk = true ∧ s.nv.rollback ≤ Mem.leAt s.sys.load 12 4 ∧ u8 r.payload 0 = 1 ∧
      s.sys.boot ≠ 2) ∧
    (∃ r : Req, ∃ s : State, accepted 0x0D42 0x10 r s = true ∧ r.payload = [] ∧ ((∃ k, s.sys.fwSlot = some k ∧ s.nv.active ≠ some k) ∨
      s.nv.rollback < s.sys.svn)) ∧
    (∃ r : Req, ∃ s : State, accepted 0x0E02 0x10 r s = true ∧ r.payload.length = 4 ∧ u8 r.payload 3 < 2 ∧ leAt r.payload 0 2 ≤ 4095 ∧ 1 ≤ u8
      r.payload 2 ∧ u8 r.payload 2 ≤ 127) ∧
    (∃ r : Req, ∃ s : State, accepted 0x0F01 0x10 r s = true ∧ r.payload.length = 4 ∧ u8 r.payload 1 < 2 ∧ leAt r.payload 2 2 = 0 ∧ zeroAt
      r.payload 2 2 = true ∧ u8 r.payload 0 < s.nv.cores) ∧
    (∃ r : Req, ∃ s : State, accepted 0x0F02 0x10 r s = true ∧ r.payload.length = 24 ∧ (u8 r.payload 0) ≤ 0x81 ∧ (0x80 ≤ (u8 r.payload 0) ∨ (u8
      r.payload 0) < s.nv.cores) ∧ u8 r.payload 17 = 0 ∧ (u8 r.payload 1 = 1 ∨ u8 r.payload 1 = 2) ∧ zeroAt r.payload 2 22 = true) ∧
    (∃ r : Req, ∃ s : State, accepted 0x0F02 0x10 r s = true ∧ r.payload.length = 24 ∧ (u8 r.payload 0) ≤ 0x81 ∧ (0x80 ≤ (u8 r.payload 0) ∨ (u8
      r.payload 0) < s.nv.cores) ∧ u8 r.payload 17 = 0 ∧ u8 r.payload 1 = 0 ∧ u8 r.payload 6 ≤ 1 ∧ logTypesBad (u8 r.payload 0) (leAt r.payload 2
      2) = false ∧ u8 r.payload 4 ≤ 20 ∧ u8 r.payload 5 ≤ 24 ∧ ((u8 r.payload 0) < 0x80 → u8 r.payload 4 = 0 ∧ u8 r.payload 5 = 0) ∧ (u8
      r.payload 6 = 0 → u8 r.payload 7 = 0 ∧ zeroAt r.payload 20 4 = true ∧ leAt r.payload 8 8 % 32 = 0 ∧ 16 ≤ u8 r.payload 16 ∧ u8 r.payload 16
      ≤ 32 ∧ (leAt r.payload 18 2 = chipId s → openHbm s (leAt r.payload 8 8) (2 ^ u8 r.payload 16) = true)) ∧ (u8 r.payload 6 = 1 → zeroAt
      r.payload 8 12 = true ∧ u8 r.payload 7 ≤ 3 ∧ (sess s (u8 r.payload 7)).opened = true)) ∧
    (∃ r : Req, ∃ s : State, (accepted 0x0F10 0x10 r s = true ∧ r.payload.length = 32 ∧ u8 r.payload 2 = 0 ∧ u8 r.payload 1 ≤ 3 ∧ u8 r.payload 3
      = 0 ∧ leAt r.payload 14 2 = 0 ∧ leAt r.payload 28 4 = 0 ∧ leAt r.payload 16 8 % 32 = 0 ∧ leAt r.payload 24 4 % 32 = 0 ∧ u8 r.payload 0 <
      s.nv.cores ∧ leAt r.payload 12 2 ≠ 0 ∧ 64 ≤ leAt r.payload 24 4 ∧ leAt r.payload 24 4 ≤ 2097184 ∧ dbgOpen s 0 = true ∧ mget (core s (physOf
      s (u8 r.payload 0))).dumps (u8 r.payload 1) = none) ∧ openHbm s (leAt r.payload 16 8) (leAt r.payload 12 2 * leAt r.payload 24 4) = true) ∧
    (∃ r : Req, ∃ s : State, accepted 0x0F10 0x10 r s = true ∧ r.payload.length = 32 ∧ u8 r.payload 2 = 1 ∧ u8 r.payload 1 ≤ 3 ∧ zeroAt r.payload
      3 29 = true ∧ u8 r.payload 0 < s.nv.cores ∧ dbgOpen s 0 = true ∧ (mget (core s (physOf s (u8 r.payload 0))).dumps (u8 r.payload 1)).isSome
      = true) ∧
    (∃ r : Req, ∃ s : State, accepted 0x0F20 0x10 r s = true ∧ r.payload.length = 16 ∧ zeroAt r.payload 1 3 = true ∧ dbgOpen s 1 = true ∧ u8
      r.payload 0 = 0 ∧ s.hv.st = 0 ∧ s.ch.pwr ≠ 1 ∧ now s + 10000 ≤ leAt r.payload 8 8 ∧ leAt r.payload 8 8 ≤ now s + 600000000000) ∧
    (∃ r : Req, ∃ s : State, accepted 0x0F20 0x10 r s = true ∧ r.payload.length = 16 ∧ zeroAt r.payload 1 3 = true ∧ dbgOpen s 1 = true ∧ u8
      r.payload 0 = 1 ∧ leAt r.payload 4 4 = 0 ∧ leAt r.payload 8 8 = 0 ∧ s.hv.st = 1) ∧
    (∃ r : Req, ∃ s : State, accepted 0x0F20 0x10 r s = true ∧ r.payload.length = 16 ∧ zeroAt r.payload 1 3 = true ∧ dbgOpen s 1 = true ∧ u8
      r.payload 0 = 2 ∧ leAt r.payload 4 4 = 0 ∧ s.hv.st = 2 ∧ now s + 10000 ≤ leAt r.payload 8 8 ∧ leAt r.payload 8 8 ≤ now s + 600000000000) ∧
    (∃ r : Req, ∃ s : State, ∃ b, accepted 0x0F21 0x10 r s = true ∧ r.payload.length = 12 ∧ u8 r.payload 0 ≤ 4 ∧ u8 r.payload 1 = 0 ∧ dbgOpen s 1
      = true ∧ holding s = true ∧ hvRecord s (u8 r.payload 0) (leAt r.payload 2 2) = some b ∧ leAt r.payload 4 4 < b.length ∧ 1 ≤ leAt r.payload
      8 4 ∧ leAt r.payload 8 4 ≤ 4064) :=
  ⟨⟨ask (le 4 4194272 ++ le 4 32 ++ zeros 8 ++ zeros 32), up, by decide +kernel⟩,
   ⟨ask (le 4 0 ++ le 4 4064 ++ zeros 8 ++ zeros 4064), up, by decide +kernel⟩,
   ⟨ask (bs [0, 0, 0, 0]), { up with sys := { up.sys with load := fwMem, loaded := 31 } }, by decide +kernel⟩,
   ⟨ask (bs [1, 0, 0, 0]), { up with sys := { up.sys with boot := 4, load := fwMem, loaded := 31 } }, by decide +kernel⟩,
   ⟨ask [], { up with sys := { up.sys with svn := 1 } }, by decide +kernel⟩,
   ⟨ask (le 2 4095 ++ bs [127, 1]), up, by decide +kernel⟩,
   ⟨ask (bs [127, 1, 0, 0]), up, by decide +kernel⟩,
   ⟨ask (bs [0x81, 2] ++ zeros 22), up, by decide +kernel⟩,
   ⟨ask (bs [0x81, 0, 0, 7, 20, 24, 1, 3] ++ zeros 16), up, by decide +kernel⟩,
   ⟨ask (bs [127, 3, 0, 0] ++ le 4 0 ++ le 4 0 ++ le 2 1 ++ le 2 0 ++ le 8 0x1000000000 ++ le 4 2097184 ++ zeros 4), up, by decide +kernel,
     open_mid (by decide +kernel) (by decide +kernel) (by decide +kernel)⟩,
   ⟨ask (bs [127, 3, 1] ++ zeros 29), withDump { symbol := 0, step := 0, count := 1, addr := 0, bytes := 64 }, by decide +kernel⟩,
   ⟨ask (bs [0, 0, 0, 0] ++ zeros 4 ++ le 8 600000000000), up, by decide +kernel⟩,
   ⟨ask (bs [1, 0, 0, 0] ++ zeros 12), { up with hv := { st := 1 } }, by decide +kernel⟩,
   ⟨ask (bs [2, 0, 0, 0] ++ zeros 4 ++ le 8 10000), { up with hv := { st := 2 } }, by decide +kernel⟩,
   ⟨ask (bs [0, 0, 0, 0] ++ le 4 0 ++ le 4 4064), { up with hv := { st := 2 } }, (hvRecord { up with hv := { st := 2 } } 0 0).getD [],
     by decide +kernel⟩⟩

/-- States and operands that meet the hypotheses of each clause of TableCommandsStart. -/
theorem witness_TableCommandsStart :
    (∃ u, ∃ v, ∃ s : State, u < 4 ∧ bit v 31 = true ∧ (tunit s u).busy = false ∧ v % 16 = 1) ∧
    (∃ u, ∃ v, ∃ s : State, u < 4 ∧ bit v 31 = true ∧ (tunit s u).busy = false ∧ v % 16 = 2) ∧
    (∃ u, ∃ v, ∃ s : State, u < 4 ∧ bit v 31 = true ∧ (tunit s u).busy = false ∧ v % 16 = 3) ∧
    (∃ u, ∃ v, ∃ s : State, u < 4 ∧ bit v 31 = true ∧ (tunit s u).busy = false ∧ v % 16 = 4) ∧
    (∃ u, ∃ v, ∃ s : State, u < 4 ∧ bit v 31 = true ∧ (tunit s u).busy = false ∧ v % 16 = 5) ∧
    (∃ u, ∃ v, ∃ s : State, u < 4 ∧ bit v 31 = true ∧ (tunit s u).busy = false ∧ v % 16 = 6) ∧
    (∃ u, ∃ s : State, ∃ r, frozen s = false ∧ (tunit s u).busy = true ∧ (tunit s u).run = some r) ∧
    (∃ u, ∃ s : State, u < 4 ∧ (tunit s u).busy = true) :=
  ⟨⟨3, 0x80000001, up, by decide +kernel⟩,
   ⟨3, 0x80000002, up, by decide +kernel⟩,
   ⟨3, 0x80000003, up, by decide +kernel⟩,
   ⟨3, 0x80000004, up, by decide +kernel⟩,
   ⟨3, 0x80000005, up, by decide +kernel⟩,
   ⟨3, 0x80000006, up, by decide +kernel⟩,
   ⟨3, { up with tunits := [(3, { busy := true, run := some { status := 0 } })] }, { status := 0 }, by decide +kernel⟩,
   ⟨3, { up with tunits := [(3, { busy := true })] }, by decide +kernel⟩⟩

/-- States and operands that meet the hypotheses of each clause of TableOperationsKeepTheirKind. -/
theorem witness_TableOperationsKeepTheirKind :
    (∃ c : TblOp, (c.op = 1 ∨ c.op = 5)) ∧
    (∃ c : TblOp, c.u < 2 ∧ c.view = false ∧ opRejected c.u c.op = false ∧ c.table ≤ 1 ∧ tblReserved c = false ∧ (c.op = 2 ∨ c.op = 3 ∨ c.op =
      4)) ∧
    (∃ c : TblOp, opRejected c.u c.op = true) ∧
    (∃ c : TblOp, c.u = 2 ∧ c.op = 1 ∧ c.table = 0 ∧ c.view = false ∧ c.arg < 2 ^ 20) ∧
    (∃ c : TblOp, c.u = 3 ∧ c.op = 1 ∧ c.table = 0 ∧ c.view = false ∧ c.arg < 2 ^ 27) ∧
    (∃ c : TblOp, ∃ s : State, ∃ r, c.u = 1 ∧ c.op = 2 ∧ c.table ≤ 7 ∧ c.view = true ∧ s.ver.round = some r ∧ c.arg ≤ 65535 ∧ tblReserved c =
      false) ∧
    (∃ c : TblOp, ∃ s : State, ∃ r, c.u = 1 ∧ c.op = 4 ∧ c.table ≤ 7 ∧ c.view = true ∧ s.ver.round = some r ∧ c.arg ≤ 65535) :=
  ⟨⟨{ u := 0, op := 1, view := false, die := 0, table := 0, arg := 0, key := 0, data := 0 }, by decide +kernel⟩,
   ⟨{ u := 1, op := 2, view := false, die := 0, table := 1, arg := 0, key := 0, data := 0 }, by decide +kernel⟩,
   ⟨{ u := 0, op := 6, view := false, die := 0, table := 0, arg := 0, key := 0, data := 0 }, by decide +kernel⟩,
   ⟨{ u := 2, op := 1, view := false, die := 0, table := 0, arg := 1048575, key := 0, data := 0 }, by decide +kernel⟩,
   ⟨{ u := 3, op := 1, view := false, die := 0, table := 0, arg := 134217727, key := 0, data := 0 }, by decide +kernel⟩,
   ⟨{ u := 1, op := 2, view := true, die := 0, table := 7, arg := 65535, key := 0, data := 0 }, staging { num := 1, objs := {} } up,
     { num := 1, objs := {} }, by decide +kernel⟩,
   ⟨{ u := 1, op := 4, view := true, die := 0, table := 7, arg := 65535, key := 0, data := 0 }, staging { num := 1, objs := {} } up,
     { num := 1, objs := {} }, by decide +kernel⟩⟩

/-- States and operands that meet the hypotheses of each clause of WindowCommandsComplete. -/
theorem witness_WindowCommandsComplete :
    (∃ i, ∃ s : State, i < 4 ∧ helmUp s = true ∧ (sess s i).opened = true) ∧
    (∃ i, ∃ m, ∃ s : State, i < 4 ∧ m < 32 ∧ helmUp s = true ∧ (sess s i).opened = true ∧ (mbx s m).st ≠ 1 ∧ (mbx s m).st ≠ 2 ∧ (mbx s m).resp =
      none) ∧
    (∃ s : State, helmUp s = true) ∧
    (∃ s : State, helmUp s = true ∧ dbgOpen s 1 = true ∧ s.hv.st = 0 ∧ s.ch.pwr ≠ 1) ∧
    (∃ s : State, helmUp s = true ∧ dbgOpen s 1 = true ∧ s.hv.st = 2) ∧
    (∃ s : State, helmUp s = true ∧ dbgOpen s 1 = true ∧ s.hv.st = 1) ∧
    (∃ s : State, helmUp s = true) :=
  ⟨⟨3, up, by decide +kernel⟩,
   ⟨3, 31, up, by decide +kernel⟩,
   ⟨up, by decide +kernel⟩,
   ⟨up, by decide +kernel⟩,
   ⟨{ up with hv := { st := 2 } }, by decide +kernel⟩,
   ⟨{ up with hv := { st := 1 } }, by decide +kernel⟩,
   ⟨up, by decide +kernel⟩⟩

/-- States and operands that meet the hypotheses of each clause of PortAndLinkControls. -/
theorem witness_PortAndLinkControls :
    (∃ q, ∃ s : State, q < 64 ∧ down s = false ∧ unusedPort s q = false ∧ (port s q).en = false) ∧
    (∃ q, ∃ s : State, q < 64 ∧ down s = false ∧ (port s q).en = true) ∧
    (∃ q, ∃ two, ∃ s : State, q < 64 ∧ down s = false ∧ q % 2 = 0 ∧ (port s q).en = false ∧ (port s (q + 1)).en = false ∧ (port s q).width ≠ two) ∧
    (∃ n, ∃ s : State, n < 8 ∧ helmUp s = true ∧ (link s n).en = false ∧ (link s n).st = 0) ∧
    (∃ n, ∃ s : State, n < 8 ∧ helmUp s = true ∧ (link s n).en = true ∧ 1 ≤ (link s n).st ∧ (link s n).st ≤ 4) ∧
    (∃ n, ∃ s : State, n < 8 ∧ helmUp s = true ∧ (link s n).en = true ∧ (link s n).st = 5) :=
  ⟨⟨63, { ports := [(62, { width := true })] }, by decide +kernel⟩,
   ⟨63, { ports := [(63, { en := true })] }, by decide +kernel⟩,
   ⟨62, true, State.reset, by decide +kernel⟩,
   ⟨7, { up with cl := { links := [(7, { en := false })] } }, by decide +kernel⟩,
   ⟨7, { up with cl := { links := [(7, { st := 4 })] } }, by decide +kernel⟩,
   ⟨7, { up with cl := { links := [(7, { st := 5 })] } }, by decide +kernel⟩⟩

/-- States and operands that meet the hypotheses of each clause of RegisterAccessesComplete. -/
theorem witness_RegisterAccessesComplete :
    (∃ acc, ∃ off, ∃ s : State, ∃ v, ∃ f, acc < 4 ∧ helmUp s = true ∧ (sess s acc).opened = true ∧ mapped s off = true ∧ wide s off = some (v,
      f)) ∧
    (∃ acc, ∃ off, ∃ s : State, acc < 4 ∧ helmUp s = true ∧ (sess s acc).opened = true ∧ (mapped s off = false ∨ wide s off = none)) ∧
    (∃ acc, ∃ off, ∃ s : State, acc < 4 ∧ helmUp s = true ∧ (sess s acc).opened = true ∧ mapped s off = true) ∧
    (∃ acc, ∃ s : State, acc < 4 ∧ helmUp s = true ∧ (sess s acc).opened = true) ∧
    (∃ acc, ∃ off, ∃ s : State, ∃ o, ∃ w, ∃ f, 4 ≤ acc ∧ accUp s acc = true ∧ windowOff s off = some o ∧ mapped s o = true ∧ wide s o = some (w,
      f)) ∧
    (∃ acc, ∃ off, ∃ s : State, ∃ o, 4 ≤ acc ∧ accUp s acc = true ∧ windowOff s off = some o ∧ mapped s o = true) ∧
    (∃ acc, ∃ off, ∃ s : State, 4 ≤ acc ∧ accUp s acc = true ∧ windowOff s off = none) ∧
    (∃ off, ∃ o, ∃ s : State, down s = false ∧ ctrAt off = some (.lo o)) ∧
    (∃ off, ∃ o, ∃ r, ∃ b, ∃ s : State, down s = false ∧ ctrAt off = some (.err o (some (r, b)))) :=
  ⟨⟨3, 0x60, up, 0, 0, by decide +kernel⟩,
   ⟨3, 0xFFFF0, up, by decide +kernel⟩,
   ⟨3, 0x88, up, by decide +kernel⟩,
   ⟨3, up, by decide +kernel⟩,
   ⟨4, 0x60, up, 0x60, 0, 0, by decide +kernel⟩,
   ⟨4, 0, up, 0, by decide +kernel⟩,
   ⟨4, 0x10000, up, by decide +kernel⟩,
   ⟨90848, 90848, State.reset, by decide +kernel⟩,
   ⟨0x310, 0x310, 0x32C, 0, up, by decide +kernel⟩⟩

/-- States and operands that meet the hypotheses of each clause of MailboxesStartAndComplete. -/
theorem witness_MailboxesStartAndComplete :
    (∃ m, ∃ s : State, ∃ q, m < 32 ∧ helmUp s = true ∧ (mbx s m).st = 1 ∧ fenceOpen s m = true ∧ (mbx s m).rq = some q ∧ (sess s (mbx s
      m).sess).opened = true ∧ (sess s (mbx s m).sess).gen = (mbx s m).gen ∧ (holding s = false ∨ islandOps.contains q.op = false) ∧ reqChecks s
      (sess s (mbx s m).sess).ifv (sess s (mbx s m).sess).anchored q = none) ∧
    (∃ m, ∃ s : State, ∃ q, ∃ n, m < 32 ∧ helmUp s = true ∧ (mbx s m).st = 1 ∧ fenceOpen s m = true ∧ (mbx s m).rq = some q ∧ (sess s (mbx s
      m).sess).opened = true ∧ (sess s (mbx s m).sess).gen = (mbx s m).gen ∧ (holding s = false ∨ islandOps.contains q.op = false) ∧ reqChecks s
      (sess s (mbx s m).sess).ifv (sess s (mbx s m).sess).anchored q = some n) ∧
    (∃ m, ∃ s : State, ∃ a, helmUp s = true ∧ (mbx s m).st = 2 ∧ (mbx s m).ready = some a ∧ (mbx s m).rq = none) ∧
    (∃ m, ∃ s : State, ∃ a, ∃ q, helmUp s = true ∧ (mbx s m).st = 2 ∧ (mbx s m).ready = some a ∧ (mbx s m).rq = some q ∧ a.status ≠ 0) ∧
    (∃ m, ∃ s : State, ∃ a, ∃ q, helmUp s = true ∧ (mbx s m).st = 2 ∧ (mbx s m).ready = some a ∧ (mbx s m).rq = some q ∧ a.status = 0) ∧
    (∃ m, ∃ s : State, helmUp s = true ∧ (mbx s m).ready = none) :=
  ⟨⟨31, rung { st := 1, sess := 3, gen := 1, rq := some okRq }, okRq, by decide +kernel⟩,
   ⟨31, rung { st := 1, sess := 3, gen := 1, rq := some { okRq with ifv := 0x10 } }, { okRq with ifv := 0x10 }, 7, by decide +kernel⟩,
   ⟨31, rung { st := 2, ready := some { op := 1, seq := 5, status := 0 } }, { op := 1, seq := 5, status := 0 }, by decide +kernel⟩,
   ⟨31, rung { st := 2, rq := some okRq, ready := some { op := 1, seq := 5, status := 9 } }, { op := 1, seq := 5, status := 9 }, okRq,
     by decide +kernel⟩,
   ⟨31, rung { st := 2, rq := some okRq, ready := some { op := 1, seq := 5, status := 0 } }, { op := 1, seq := 5, status := 0 }, okRq,
     by decide +kernel⟩,
   ⟨31, up, by decide +kernel⟩⟩

/-- States and operands that meet the hypotheses of each clause of BrixviaFramesComplete. -/
theorem witness_BrixviaFramesComplete :
    (∃ f : BxFrame, ∃ s : State, inSequence f s = true ∧ 8 ≤ f.body.length ∧ u8 f.body 0 ≤ 31 ∧ u8 f.body 1 ≤ 1 ∧ zeroAt f.body 2 2 = true ∧
      zeroAt f.body 6 2 = true ∧ beAt f.body 4 2 + (f.body.drop 8).length ≤ 4096 ∧ beAt f.body 4 2 < 4096) ∧
    (∃ f : BxFrame, ∃ s : State, inSequence f s = true ∧ f.body.length = 8 ∧ u8 f.body 0 ≤ 31 ∧ zeroAt f.body 1 7 = true) ∧
    (∃ f : BxFrame, ∃ s : State, (inSequence f s = true ∧ 16 ≤ f.body.length ∧ f.body.length ≤ 8192 ∧ zeroAt f.body 4 4 = true ∧ beAt f.body 8 8
      % 32 = 0 ∧ ((f.body.drop 16).length % 32 = 0 ∨ bit f.flags 0 = true) ∧ bulkBar (sequenced f s) f.sess = none ∧ holding (sequenced f s) =
      false ∧ hbmHeld s (beAt f.body 8 8) (f.body.length - 16) = false) ∧ (∀ b, bulkOf (sequenced f s) f.sess (beAt f.body 0 4) = some b →
      b.ended = false ∧ b.reading = false) ∧ openHbm (sequenced f s) (beAt f.body 8 8) (f.body.drop 16).length = true) ∧
    (∃ f : BxFrame, ∃ s : State, inSequence f s = true ∧ f.body.length = 24 ∧ zeroAt f.body 4 4 = true ∧ beAt f.body 8 8 % 32 = 0 ∧ bulkOf
      (sequenced f s) f.sess (beAt f.body 0 4) = none ∧ bulkBar (sequenced f s) f.sess = none ∧ 1 ≤ beAt f.body 16 8 ∧ beAt f.body 16 8 ≤ 2 ^ 32
      ∧ (inMem (sequenced f s) (beAt f.body 8 8) (beAt f.body 16 8) || inTbl (beAt f.body 8 8) (beAt f.body 16 8)) = true) ∧
    (∃ f : BxFrame, ∃ s : State, frameOk f s = true) ∧
    (∃ f, ∃ s : State, inSequence f s = true) ∧
    (∃ f : BxFrame, ∃ s : State, ∃ c, frameOk f s = true ∧ (sess (heardFrame f s) f.sess).opened = true ∧ hbmHeld s (beAt f.body 8 8)
      (f.body.length - 16) = false ∧ 2 ^ 31 ≤ (f.fseq + 2 ^ 32 - (sess (heardFrame f s) f.sess).fseqRx) % 2 ^ 32 ∧ c ∈ [Instr.mbxWrite f,
      .mbxRead f, .bulkWrite f, .bulkRead f, .close f]) ∧
    (∃ f : BxFrame, ∃ s : State, ∃ c, portUp s f.port = false ∧ c ∈ [Instr.mbxWrite f, .mbxRead f, .bulkWrite f, .bulkRead f, .close f]) :=
  ⟨⟨frame (bs [31, 1, 0, 0] ++ be 2 4095 ++ zeros 2 ++ bs [0xFF]), up, by decide +kernel⟩,
   ⟨frame (bs [31] ++ zeros 7), up, by decide +kernel⟩,
   ⟨frame (be 4 1 ++ zeros 4 ++ be 8 0x1000000000 ++ zeros 8160), up, by decide +kernel, nofun, open_mid (by decide +kernel) (by decide +kernel)
     (by decide +kernel)⟩,
   ⟨frame (be 4 1 ++ zeros 4 ++ be 8 0x200000000000 ++ be 8 0x20000000), up, by decide +kernel⟩,
   ⟨frame [], up, by decide +kernel⟩,
   ⟨frame [], up, by decide +kernel⟩,
   ⟨{ frame [] with fseq := 0xFFFFFFFF }, up, .close { frame [] with fseq := 0xFFFFFFFF }, by decide +kernel⟩,
   ⟨{ frame [] with port := 2 }, up, .close { frame [] with port := 2 }, by decide +kernel⟩⟩

/-- States and operands that meet the hypotheses of each clause of SessionTimersComplete. -/
theorem witness_SessionTimersComplete :
    (∃ i, ∃ s : State, helmUp s = true ∧ (sess s i).opened = true ∧ (sess s i).ackT + 250000 ≤ now s ∧ (sess s i).unacked ≠ []) ∧
    (∃ i, ∃ s : State, helmUp s = true ∧ (sess s i).opened = true ∧ (sess s i).ackDue.isSome = true ∧ (sess s i).pnTx + 1 < 2 ^ 48) ∧
    (∃ s : State, helmUp s = true) ∧
    (∃ i, ∃ s : State, helmUp s = true ∧ (sess s i).opened = true ∧ (∀ e ∈ (sess s i).heard, e.2 + 100000000 ≤ now s)) ∧
    (∃ i, ∃ s : State, helmUp s = true ∧ (sess s i).opened = true ∧ portFit s (sess s i) (sess s i).port = false ∧ portFit s (sess s i) (1 -
      (sess s i).port) = true) ∧
    (∃ i, ∃ s : State, ∃ e, ∃ l, helmUp s = true ∧ (sess s i).opened = true ∧ (sess s i).events = e :: l ∧ (sess s i).unacked.length < 4096 ∧
      (sess s i).waiting = []) :=
  ⟨⟨3, atNs 250000 (session { opened := true, unacked := [{ fseq := 0, type := 0x11, flags := 0, body := [] }] }), by decide +kernel⟩,
   ⟨3, session { opened := true, ackDue := some 0, pnTx := 2 ^ 48 - 2 }, by decide +kernel⟩,
   ⟨up, by decide +kernel⟩,
   ⟨3, atNs 100000000 (session { opened := true, heard := [(0, 0), (1, 0)] }), by decide +kernel⟩,
   ⟨3, { up with helm := { up.helm with sess := [(3, { opened := true, heard := [(1, 0)] })], ports := [(1, { lock := true })] } },
     by decide +kernel⟩,
   ⟨3, session { opened := true, events := [{ type := 1, stamp := 0, body := [] }] }, { type := 1, stamp := 0, body := [] }, [],
     by decide +kernel⟩⟩

/-- States and operands that meet the hypotheses of each clause of HandshakesAndTimeComplete. -/
theorem witness_HandshakesAndTimeComplete :
    (∃ port, ∃ body, ∃ s : State, ∃ i, portUp s port = true ∧ s.sys.idOk = true ∧ body.length = 100 ∧ zeroAt body 97 3 = true ∧ freeSess s = some
      i ∧ ((bxPort s port).inits.filter fun t => now s < t + 1000000000).length < 16) ∧
    (∃ port, ∃ i, ∃ body, ∃ cr : Crypto, ∃ s : State, portUp s port = true ∧ (s.helm.hs.any fun h => h.sess == i && decide (now s < h.start +
      100000000)) = true ∧ body.length = 68 + beAt body 0 2 ∧ 1 ≤ beAt body 0 2 ∧ beAt body 0 2 ≤ 1024 ∧ zeroAt body 2 2 = true ∧ cr.sigOk = true
      ∧ (s.nv.anchors = [] ∨ ((s.nv.anchors.map (·.1)).foldl (fun a k => if bit cr.chain k then setBit a k else a) 0) ≠ 0) ∧ (sess s i).opened =
      false) ∧
    (∃ port, ∃ i, ∃ s : State, portUp s port = true ∧ (∀ h ∈ s.helm.hs, h.sess = i → h.start + 100000000 ≤ now s)) ∧
    (∃ m : PtpMsg, ∃ s : State, portUp s (ptpPort s) = true ∧ s.ch.source = 2 ∧ m.barred = false ∧ m.domain = s.ch.domain ∧ m.kind = .pdelayReq ∧
      s.ch.profile = 1) ∧
    (∃ m : PtpMsg, ∃ s : State, ∃ d, portUp s (ptpPort s) = true ∧ s.ch.source = 2 ∧ m.barred = false ∧ m.domain = s.ch.domain ∧ m.kind =
      .announce ∧ m.ds = some d) ∧
    (∃ m : PtpMsg, ∃ s : State, portUp s (ptpPort s) = true ∧ s.ch.source = 2 ∧ m.barred = false ∧ m.domain = s.ch.domain ∧ (m.kind = .sync ∨
      m.kind = .followUp) ∧ followed s ≠ some m.src) ∧
    (∃ m : PtpMsg, ∃ s : State, portUp s (ptpPort s) = true ∧ s.ch.source = 2 ∧ m.barred = false ∧ m.domain = s.ch.domain ∧ m.kind = .sync ∧
      followed s = some m.src ∧ m.off = none) ∧
    (∃ m : PtpMsg, ∃ s : State, ∃ o, portUp s (ptpPort s) = true ∧ s.ch.source = 2 ∧ m.barred = false ∧ m.domain = s.ch.domain ∧ m.kind = .sync ∧
      followed s = some m.src ∧ m.off = some o ∧ servoUp s = true) ∧
    (∃ m : PtpMsg, ∃ s : State, ∃ o, portUp s (ptpPort s) = true ∧ s.ch.source = 2 ∧ m.barred = false ∧ m.domain = s.ch.domain ∧ m.kind =
      .followUp ∧ followed s = some m.src ∧ m.off = some o ∧ servoUp s = true) ∧
    (∃ m : PtpMsg, ∃ s : State, portUp s (ptpPort s) = true ∧ s.ch.source = 2 ∧ m.barred = false ∧ m.domain = s.ch.domain ∧ m.kind = .delayResp ∧
      s.ch.profile = 0) ∧
    (∃ m : PtpMsg, ∃ s : State, portUp s (ptpPort s) = true ∧ s.ch.source = 2 ∧ m.barred = false ∧ m.domain = s.ch.domain ∧ (m.kind = .pdelayResp
      ∨ m.kind = .pdelayRespFollowUp) ∧ s.ch.profile = 1) ∧
    (∃ port, ∃ m : PtpMsg, ∃ s : State, portUp s port = true ∧ (port ≠ ptpPort s ∨ s.ch.source ≠ 2 ∨ m.barred = true ∨ m.domain ≠ s.ch.domain ∨
      m.kind = .other)) :=
  ⟨⟨1, zeros 100, up, 0, by decide +kernel⟩,
   ⟨1, 2, be 2 1024 ++ zeros 1090, ⟨true, 0x80⟩,
     { up with nv := { anchors := [(7, (1, zeros 1))] }, helm := { up.helm with hs := [{ port := 1, start := 0, sess := 2, init := [], resp := [] }] } },
     by decide +kernel⟩,
   ⟨1, 2, atNs 100000000 { up with helm := { up.helm with hs := [{ port := 1, start := 0, sess := 2, init := [], resp := [] }] } },
     by decide +kernel⟩,
   ⟨ptp .pdelayReq none none, onPtp 1, by decide +kernel⟩,
   ⟨ptp .announce (some aDs) none, onPtp 0, aDs, by decide +kernel⟩,
   ⟨{ ptp .followUp none none with src := 2 }, onPtp 0, by decide +kernel⟩,
   ⟨ptp .sync none none, onPtp 0, by decide +kernel⟩,
   ⟨ptp .sync none (some (-1)), onPtp 0, -1, by decide +kernel⟩,
   ⟨ptp .followUp none (some (-1)), onPtp 0, -1, by decide +kernel⟩,
   ⟨ptp .delayResp none none, onPtp 0, by decide +kernel⟩,
   ⟨ptp .pdelayRespFollowUp none none, onPtp 1, by decide +kernel⟩,
   ⟨1, { ptp .sync none none with domain := 1 }, up, by decide +kernel⟩⟩

/-- States and operands that meet the hypotheses of each clause of HelmPairsComplete. -/
theorem witness_HelmPairsComplete :
    (∃ s : State, (s.helm.active) < 2 ∧ s.sys.rom = true ∧ s.sys.level < 2 ∧ s.ch.pwr ≠ 2 ∧ s.helm.standby = true) ∧
    (∃ s : State, (s.helm.active) < 2 ∧ s.sys.rom = true ∧ s.sys.level < 2 ∧ s.ch.pwr ≠ 2 ∧ s.helm.standby = false) ∧
    (∃ i, ∃ s : State, i < 2 ∧ s.sys.rom = true ∧ s.sys.level < 2 ∧ s.ch.pwr ≠ 2 ∧ i ≠ s.helm.active) ∧
    (∃ s : State, fwUp s = true ∧ s.ch.pwr ≠ 2 ∧ s.helm.standby = true) ∧
    (∃ s : State, fwUp s = true ∧ s.ch.pwr ≠ 2 ∧ s.helm.standby = false) ∧
    (∃ s : State, s.helm.stopped = true ∧ s.helm.standby = true ∧ s.sys.level < 2) ∧
    (∃ s : State, fwUp s = true ∧ s.helm.heldPair = none ∧ (blk s 5 (1 - s.helm.active)).st = 0) :=
  ⟨⟨up, by decide +kernel⟩,
   ⟨{ up with helm := { up.helm with active := 1, standby := false } }, by decide +kernel⟩,
   ⟨1, up, by decide +kernel⟩,
   ⟨up, by decide +kernel⟩,
   ⟨{ up with helm := {} }, by decide +kernel⟩,
   ⟨{ helm := { stopped := true, standby := true } }, by decide +kernel⟩,
   ⟨up, by decide +kernel⟩⟩

/-- States and operands that meet the hypotheses of each clause of SlicePortWordsComplete. -/
theorem witness_SlicePortWordsComplete :
    (∃ s : State, holding s = true) ∧
    (∃ s : State, holding s = false) ∧
    (∃ s : State, holding s = false) ∧
    (∃ q, ∃ w : SpWord, ∃ s : State, holding s = false ∧ trained (port s q) = true ∧ w.ty = 0 ∧ u8 w.data 0 = 0) ∧
    (∃ q, ∃ w : SpWord, ∃ s : State, holding s = false ∧ trained (port s q) = true ∧ (w.ty = 2 ∨ w.ty = 3)) ∧
    (∃ q, ∃ w : SpWord, ∃ s : State, holding s = false ∧ trained (port s q) = true ∧ w.ty = 1 ∧ (port s q).dcred = 0) ∧
    (∃ q, ∃ w : SpWord, ∃ s : State, holding s = false ∧ trained (port s q) = true ∧ w.ty = 1 ∧ 0 < (port s q).dcred ∧ (port s q).st ≠ 6 ∧ (port
      s q).lost = false) ∧
    (∃ q, ∃ w : SpWord, ∃ s : State, holding s = false ∧ trained (port s q) = true ∧ w.ty = 1 ∧ 0 < (port s q).dcred ∧ ((port s q).st = 6 ∨ (port
      s q).lost = true)) ∧
    (∃ q, ∃ s : State, holding s = false ∧ (port s q).st < 3) ∧
    (∃ q, ∃ w : SpWord, ∃ s : State, holding s = false ∧ ((port s q).st = 3 ∨ (port s q).st = 4) ∧ w.ty = 1) ∧
    (∃ q, ∃ w : SpWord, ∃ s : State, holding s = false ∧ ((port s q).st = 3 ∨ (port s q).st = 4) ∧ (w.ty = 2 ∨ w.ty = 3 ∨ w.ty = 0 ∧ 5 < u8
      w.data 0)) ∧
    (∃ q, ∃ w : SpWord, ∃ s : State, holding s = false ∧ ((port s q).st = 3 ∨ (port s q).st = 4) ∧ w.ty = 0 ∧ u8 w.data 0 = 2) ∧
    (∃ q, ∃ w : SpWord, ∃ s : State, holding s = false ∧ ((port s q).st = 3 ∨ (port s q).st = 4) ∧ w.ty = 0 ∧ u8 w.data 0 ≤ 5 ∧ u8 w.data 0 ≠ 2) ∧
    (∃ q, ∃ w, ∃ s : State, holding s = false ∧ trained (port s q) = true ∧ u8 w 0 = 5) ∧
    (∃ q, ∃ w, ∃ s : State, holding s = false ∧ trained (port s q) = true ∧ u8 w 0 = 1) :=
  ⟨⟨{ hv := { st := 3 } }, by decide +kernel⟩,
   ⟨State.reset, by decide +kernel⟩,
   ⟨State.reset, by decide +kernel⟩,
   ⟨63, ⟨0, zeros 64⟩, portIs { st := 5 }, by decide +kernel⟩,
   ⟨63, ⟨3, zeros 64⟩, portIs { st := 7 }, by decide +kernel⟩,
   ⟨63, ⟨1, zeros 64⟩, portIs { st := 7 }, by decide +kernel⟩,
   ⟨63, ⟨1, zeros 64⟩, portIs { st := 7, dcred := 1 }, by decide +kernel⟩,
   ⟨63, ⟨1, zeros 64⟩, portIs { st := 7, dcred := 1, lost := true }, by decide +kernel⟩,
   ⟨63, portIs { st := 2 }, by decide +kernel⟩,
   ⟨63, ⟨1, zeros 64⟩, portIs { st := 4 }, by decide +kernel⟩,
   ⟨63, ⟨0, bs [6] ++ zeros 63⟩, portIs { st := 4 }, by decide +kernel⟩,
   ⟨63, ⟨0, bs [2] ++ zeros 63⟩, portIs { st := 4 }, by decide +kernel⟩,
   ⟨63, ⟨0, bs [5] ++ zeros 63⟩, portIs { st := 3 }, by decide +kernel⟩,
   ⟨63, bs [5] ++ zeros 63, portIs { st := 7 }, by decide +kernel⟩,
   ⟨63, bs [1] ++ zeros 63, portIs { st := 7 }, by decide +kernel⟩⟩

/-- States and operands that meet the hypotheses of each clause of SlicePortTrainingCompletes. -/
theorem witness_SlicePortTrainingCompletes :
    (∃ q, ∃ s : State, frozen s = false ∧ (port s q).retryAt = none ∧ (port s q).st = 1) ∧
    (∃ q, ∃ s : State, frozen s = false ∧ (port s q).retryAt = none ∧ (port s q).st = 2) ∧
    (∃ q, ∃ w, ∃ s : State, holding s = false ∧ (port s q).retryAt = none ∧ (port s q).st = 3 ∧ u8 w 0 = 2 ∧ u8 w 1 = 1) ∧
    (∃ q, ∃ w, ∃ s : State, ∃ o, ∃ v, ∃ r, holding s = false ∧ (port s q).retryAt = none ∧ (port s q).st = 4 ∧ u8 w 0 = 2 ∧ u8 w 1 = 2 ∧ (port s
      q).offer = some (o, v, r)) ∧
    (∃ q, ∃ s : State, frozen s = false ∧ 1 ≤ (port s q).st ∧ (port s q).st ≤ 4 ∧ (port s q).retryAt = none ∧ (port s q).since + (if (port s
      q).st = 1 then 40000000 else 1000000) < now s) ∧
    (∃ q, ∃ s : State, ∃ t, frozen s = false ∧ (port s q).retryAt = some t ∧ t ≤ now s) ∧
    (∃ q, ∃ s : State, frozen s = false ∧ trained (port s q) = true) ∧
    (∃ s : State, frozen s = false) ∧
    (∃ q, ∃ s : State, trained (port s q) = true ∧ (port s q).timeSent < now s / 2 ^ 20 + 1) ∧
    (∃ s : State, frozen s = true) :=
  ⟨⟨63, portIs { st := 1 }, by decide +kernel⟩,
   ⟨63, portIs { st := 2 }, by decide +kernel⟩,
   ⟨63, bs [2, 1] ++ zeros 62, portIs { st := 3 }, by decide +kernel⟩,
   ⟨63, bs [2, 2] ++ zeros 62, portIs { st := 4, offer := some (2, 4096, 4096) }, 2, 4096, 4096, by decide +kernel⟩,
   ⟨63, atNs 1000001 (portIs { st := 4 }), by decide +kernel⟩,
   ⟨63, atNs 1 (portIs { retryAt := some 1 }), 1, by decide +kernel⟩,
   ⟨63, portIs { st := 7 }, by decide +kernel⟩,
   ⟨State.reset, by decide +kernel⟩,
   ⟨63, portIs { st := 7 }, by decide +kernel⟩,
   ⟨{ hv := { st := 2 } }, by decide +kernel⟩⟩

/-- States and operands that meet the hypotheses of each clause of SlicesPassThePacketSide. -/
theorem witness_SlicesPassThePacketSide :
    (∃ n, ∃ s : State, ∃ q, ∃ seq, ∃ x, ∃ l, frozen s = false ∧ (pipe s n).queue = (q, seq) :: l ∧ slice? s q seq = some x ∧ x.q = q ∧ x.seq =
      seq) ∧
    (∃ n, ∃ s : State, frozen s = false ∧ (pipe s n).queue = []) ∧
    (∃ n, ∃ s : State, ∃ q, ∃ seq, ∃ x, ∃ l, frozen s = false ∧ mwf s.slices = true ∧ (pipe s n).queue = (q, seq) :: l ∧ slice? s q seq = some x
      ∧ x.q = q ∧ x.seq = seq) ∧
    (∃ q, ∃ seq, ∃ s : State, ∃ x, frozen s = false ∧ slice? s q seq = some x ∧ x.stage = 1 ∧ x.q = q ∧ x.seq = seq) ∧
    (∃ u, ∃ q, ∃ seq, ∃ s : State, ∃ x, frozen s = false ∧ slice? s q seq = some x ∧ x.stage = 3 ∧ x.q = q ∧ x.seq = seq ∧ x.blk = 0 ∧ u / 16 = q
      / 32 ∧ cmpRuns s u = true ∧ reentryDue s u = false) ∧
    (∃ u, ∃ q, ∃ seq, ∃ s : State, ∃ x, frozen s = false ∧ slice? s q seq = some x ∧ x.stage = 3 ∧ x.q = q ∧ x.seq = seq ∧ x.blk ≠ 0 ∧ u / 16 = q
      / 32 ∧ cmpTakes s u x.unit = true) ∧
    (∃ q, ∃ seq, ∃ s : State, ∃ x, frozen s = false ∧ mwf s.slices = true ∧ slice? s q seq = some x ∧ x.stage = 4 ∧ x.q = q ∧ x.seq = seq) :=
  ⟨⟨0, { pipes := [(0, { queue := [(63, 1)] })], slices := [(sliceKey 63 1, aSlice)] }, 63, 1, aSlice, [], by decide +kernel⟩,
   ⟨0, State.reset, by decide +kernel⟩,
   ⟨0, { pipes := [(0, { queue := [(63, 1)] })], slices := [(sliceKey 63 1, aSlice)] }, 63, 1, aSlice, [], by decide +kernel⟩,
   ⟨63, 1, { slices := [(sliceKey 63 1, { aSlice with stage := 1 })] }, { aSlice with stage := 1 }, by decide +kernel⟩,
   ⟨31, 63, 1, { slices := [(sliceKey 63 1, { aSlice with stage := 3 })] }, { aSlice with stage := 3 }, by decide +kernel⟩,
   ⟨31, 63, 1, { slices := [(sliceKey 63 1, { aSlice with stage := 3, blk := 1, unit := 31 })] },
     { aSlice with stage := 3, blk := 1, unit := 31 }, by decide +kernel⟩,
   ⟨63, 1, { slices := [(sliceKey 63 1, { aSlice with stage := 4 })] }, { aSlice with stage := 4 }, by decide +kernel⟩⟩

/-- States and operands that meet the hypotheses of each clause of VerdictsLeaveInOrder. -/
theorem witness_VerdictsLeaveInOrder :
    (∃ q, ∃ s : State, frozen s = false ∧ (∀ e ∈ (port s q).pend, 10 * now256 s < e.fInst)) ∧
    (∃ q, ∃ s : State, ∃ e, ∃ l, frozen s = false ∧ (port s q).pend = e :: l ∧ e.ready = none ∧ e.fInst ≤ 10 * now256 s ∧ (∀ x ∈ l, 10 * now256 s
      < x.fInst)) ∧
    (∃ q, ∃ s : State, frozen s = false ∧ s.inlineOk = true ∧ trained (port s q) = true ∧ 1 ≤ (port s q).vcred ∧ leadingReady 4 (port s q).pend ≠
      []) ∧
    (∃ q, ∃ s : State, (frozen s = true ∨ leadingReady 4 (port s q).pend = [] ∨ (port s q).vcred = 0)) ∧
    (∃ q, ∃ s : State, ∃ f, ∃ l, ∃ b, frozen s = false ∧ s.inlineOk = true ∧ trained (port s q) = true ∧ 0 < (port s q).rcred ∧ ((port s q).resTx
      = [] ∧ (port s q).results = f :: l ∧ b = f.take 16 ++ be 8 (now s) ++ f.drop 24 ∨ (port s q).resTx ≠ [] ∧ (port s q).results = l ∧ b =
      (port s q).resTx)) ∧
    (∃ q, ∃ s : State, (frozen s = true ∨ s.inlineOk = false ∨ (port s q).rcred = 0)) :=
  ⟨⟨63, portIs { pend := [aPend] }, by decide +kernel⟩,
   ⟨63, portIs { pend := [{ aPend with fInst := 0 }, aPend] }, { aPend with fInst := 0 }, [aPend], by decide +kernel⟩,
   ⟨63, { portIs { st := 5, vcred := 1, pend := [{ aPend with ready := some [] }] } with inlineOk := true }, by decide +kernel⟩,
   ⟨63, portIs { st := 5, vcred := 1, pend := [aPend] }, by decide +kernel⟩,
   ⟨63, { inlineOk := true, ports := [(63, { st := 5, rcred := 1, results := [zeros 64] })] }, zeros 64, [], zeros 64, by decide +kernel⟩,
   ⟨63, State.reset, by decide +kernel⟩⟩

/-- States and operands that meet the hypotheses of each clause of LearningAndFlowsComplete. -/
theorem witness_LearningAndFlowsComplete :
    (∃ d, ∃ s : State, ∃ e, ∃ l, frozen s = false ∧ (die s d).learnQ = e :: l) ∧
    (∃ d, ∃ e : LEvt, ∃ s : State, ∃ w, findWay s d (learnBucket e.mac e.vlan) e.mac e.vlan [] = some w ∧ (learnEnt s (learnBucket e.mac e.vlan)
      w).port = e.port) ∧
    (∃ d, ∃ e : LEvt, ∃ s : State, ∃ w, findWay s d (learnBucket e.mac e.vlan) e.mac e.vlan [] = some w ∧ (learnEnt s (learnBucket e.mac e.vlan)
      w).port ≠ e.port ∧ (learnEnt s (learnBucket e.mac e.vlan) w).static = true) ∧
    (∃ d, ∃ s : State, frozen s = false ∧ (die s d).swept ≤ nowSec s ∧ ageS s ≠ 0) ∧
    (∃ d, ∃ s : State, frozen s = false ∧ (die s d).swept ≤ nowSec s ∧ ageS s = 0) ∧
    (∃ d, ∃ s : State, frozen s = false ∧ nowSec s < (die s d).swept) ∧
    (∃ d, ∃ b, ∃ g, ∃ s : State, ∃ m, ∃ i, frozen s = false ∧ (die s d).misses.find? (fun m => m.bucket == b && m.tag == g) = some m ∧
      ((List.range 4).map fun w => 4 * b + w).find? (fun i => (flowRec (die s d) i).tag == g && !flowFree (flowRec (die s d) i)) = some i) ∧
    (∃ d, ∃ b, ∃ g, ∃ s : State, ∃ m, ∃ i, ∃ e, frozen s = false ∧ (die s d).misses.find? (fun m => m.bucket == b && m.tag == g) = some m ∧
      ((List.range 4).map fun w => 4 * b + w).find? (fun i => (flowRec
      ({ die s d with misses := (die s d).misses.filter fun m => !(m.bucket == b && m.tag == g) }) i).tag == g && !flowFree (flowRec
      ({ die s d with misses := (die s d).misses.filter fun m => !(m.bucket == b && m.tag == g) }) i)) = none ∧ newWay
      ({ die s d with misses := (die s d).misses.filter fun m => !(m.bucket == b && m.tag == g) }) b (fun _ => false) = some (i, e)) ∧
    (∃ d, ∃ b, ∃ g, ∃ s : State, frozen s = false ∧ (die s d).misses.find? (fun m => m.bucket == b && m.tag == g) = none) ∧
    (∃ place, ∃ r, ∃ s : State, ∃ e, ∃ o, frozen s = false ∧ (s.failed.any fun e => e.place == place && e.ref == r) = true ∧ r = .comp e o) ∧
    (∃ place, ∃ r, ∃ s : State, (frozen s = false ∧ (s.failed.any fun e => e.place == place && e.ref == r) = true) ∧ (∀ e o, r ≠ .comp e o) ∧ (∀
      i, r ≠ .flow i)) ∧
    (∃ place, ∃ r, ∃ s : State, (frozen s = false ∧ (s.failed.any fun e => e.place == place && e.ref == r) = true) ∧ (∀ i, r ≠ .flow i)) ∧
    (∃ place, ∃ s : State, ∃ i, frozen s = false ∧ (s.failed.any fun e => e.place == place && e.ref == (.flow i)) = true) ∧
    (∃ place, ∃ r, ∃ s : State, (s.failed.any fun e => e.place == place && e.ref == r) = false) :=
  ⟨⟨1, { dies := [(1, { learnQ := [anEvt] })] }, anEvt, [], by decide +kernel⟩,
   ⟨1, anEvt, { learn := [(4 * learnBucket 0xFFFFFFFFFFFF 4095 + 3, anEnt)] }, 3, by decide +kernel⟩,
   ⟨1, { anEvt with port := 62 }, { learn := [(4 * learnBucket 0xFFFFFFFFFFFF 4095 + 3, { anEnt with static := true })] }, 3, by decide +kernel⟩,
   ⟨1, { ver := { newest := { num := 1, objs := { img := [(oidPlan, { len := 2112, data := [(2, 1)] })] } } } }, by decide +kernel⟩,
   ⟨1, up, by decide +kernel⟩,
   ⟨1, { dies := [(1, { swept := 1 })] }, by decide +kernel⟩,
   ⟨1, 0, 5, { dies := [(1, { misses := [{ bucket := 0, tag := 5, upd := [] }], flows := [(3, { tag := 5, pkts := 1 })] })] },
     { bucket := 0, tag := 5, upd := [] }, 3, by decide +kernel⟩,
   ⟨1, 262143, 7, { dies := [(1, { misses := [{ bucket := 262143, tag := 7, upd := [] }] })] }, { bucket := 262143, tag := 7, upd := [] },
     1048572, false, by decide +kernel⟩,
   ⟨1, 262143, 7, State.reset, by decide +kernel⟩,
   ⟨65, .comp 64 0, { failed := [{ place := 65, ref := .comp 64 0 }] }, 64, 0, by decide +kernel⟩,
   ⟨1, .learn 262143 3, { failed := [{ place := 1, ref := .learn 262143 3 }] }, by decide +kernel, nofun, nofun⟩,
   ⟨1, .learn 262143 3, { failed := [{ place := 1, ref := .learn 262143 3 }] }, by decide +kernel, nofun⟩,
   ⟨1, { failed := [{ place := 1, ref := .flow 1048575 }] }, 1048575, by decide +kernel⟩,
   ⟨1, .flow 0, State.reset, by decide +kernel⟩⟩

/-- States and operands that meet the hypotheses of each clause of ControlWordsComplete. -/
theorem witness_ControlWordsComplete :
    (∃ p, ∃ w, ∃ s : State, atWord s p w = true ∧ bits w 63 56 = 0x00) ∧
    (∃ p, ∃ w, ∃ s : State, atWord s p w = true ∧ bits w 63 56 = 0x02) ∧
    (∃ p, ∃ w, ∃ s : State, atWord s p w = true ∧ bits w 63 56 = 0x03) ∧
    (∃ p, ∃ w, ∃ s : State, atWord s p w = true ∧ bits w 63 56 = 0x04) ∧
    (∃ p, ∃ w, ∃ s : State, atWord s p w = true ∧ bits w 63 56 = 0x08) ∧
    (∃ p, ∃ w, ∃ s : State, atWord s p w = true ∧ bits w 63 56 = 0x09) ∧
    (∃ p, ∃ w, ∃ s : State, atWord s p w = true ∧ bits w 63 56 = 0x13) ∧
    (∃ p, ∃ w, ∃ s : State, atWord s p w = true ∧ bits w 63 56 = 0x15) ∧
    (∃ p, ∃ w, ∃ s : State, atWord s p w = true ∧ bits w 63 56 = 0x12) ∧
    (∃ p, ∃ w, ∃ s : State, atWord s p w = true ∧ bits w 63 56 = 0x19) ∧
    (∃ p, ∃ w, ∃ s : State, atWord s p w = true ∧ bits w 63 56 = 0x14 ∧ earlierLive (core s p) (bits w 14 0) (core s p).ord = false) ∧
    (∃ p, ∃ w, ∃ s : State, atWord s p w = true ∧ bits w 63 56 = 0x14 ∧ earlierLive (core s p) (bits w 14 0) (core s p).ord = true) ∧
    (∃ p, ∃ w, ∃ s : State, ∃ g, ∃ a, ∃ b, ∃ e, atWord s p w = true ∧ bits w 63 56 = 0x01 ∧ (core s p).prog = some g ∧ g.tpl[bits w 55 44]? =
      some a ∧ patch a (bits w 43 37) (kreg (core s p)) = some b ∧ patch b (bits w 36 30) (kreg (core s p)) = some e ∧ legalEi (bit (core s
      p).mode 0) (core s p).open_ e = true ∧ (queueAt (core s p) (eiQueue e)).length < queueDepth (eiQueue e)) ∧
    (∃ p, ∃ w, ∃ s : State, ∃ g, ∃ a, ∃ b, ∃ e, atWord s p w = true ∧ bits w 63 56 = 0x01 ∧ (core s p).prog = some g ∧ g.tpl[bits w 55 44]? =
      some a ∧ patch a (bits w 43 37) (kreg (core s p)) = some b ∧ patch b (bits w 36 30) (kreg (core s p)) = some e ∧ legalEi (bit (core s
      p).mode 0) (core s p).open_ e = false) ∧
    (∃ p, ∃ w, ∃ s : State, ∃ g, ∃ a, ∃ b, ∃ e, atWord s p w = true ∧ bits w 63 56 = 0x01 ∧ (core s p).prog = some g ∧ g.tpl[bits w 55 44]? =
      some a ∧ patch a (bits w 43 37) (kreg (core s p)) = some b ∧ patch b (bits w 36 30) (kreg (core s p)) = some e ∧ legalEi (bit (core s
      p).mode 0) (core s p).open_ e = true ∧ queueDepth (eiQueue e) ≤ (queueAt (core s p) (eiQueue e)).length) ∧
    (∃ p, ∃ s : State, ∃ w, ∃ c, canDecode s p = true ∧ (∀ b ∈ (core s p).brks, b.2.kind ≠ 1) ∧ (c, bits w 63 56) ∈ [(Instr.issue p, 0x01),
      (.setk p, 0x02), (.addk p, 0x03), (.alu p, 0x04), (.br p, 0x08), (.loopK p, 0x09), (.getj p, 0x15)] ∧ ((core s p).prog.bind fun g =>
      g.ctl[(core s p).pc]?) = some w ∧ legalCtl w = true ∧ (∃ r ∈ ctlRegs w, r ∈ (core s p).kpend)) ∧
    (∃ p, ∃ s : State, canDecode s p = true ∧ (∀ b ∈ (core s p).brks, b.2.kind ≠ 1) ∧ ((core s p).prog.bind fun g => g.ctl[(core s p).pc]?) =
      none) ∧
    (∃ p, ∃ s : State, ∃ w, ∃ c, canDecode s p = true ∧ (∀ b ∈ (core s p).brks, b.2.kind ≠ 1) ∧ ((core s p).prog.bind fun g => g.ctl[(core s
      p).pc]?) = some w ∧ legalCtl w = false ∧ c ∈ [Instr.nop p, .issue p, .setk p, .addk p, .alu p, .br p, .loopK p, .rbegin p, .rend p, .psafe
      p, .stepi p, .waitq p, .getj p, .endJob p, .brk p]) :=
  ⟨⟨131, 0, atCtl 0 {}, by decide +kernel⟩,
   ⟨131, fld 56 0x02, atCtl (fld 56 0x02) {}, by decide +kernel⟩,
   ⟨131, fld 56 0x03, atCtl (fld 56 0x03) {}, by decide +kernel⟩,
   ⟨131, fld 56 0x04 + fld 40 9, atCtl (fld 56 0x04 + fld 40 9) {}, by decide +kernel⟩,
   ⟨131, fld 56 0x08 + fld 45 6, atCtl (fld 56 0x08 + fld 45 6) {}, by decide +kernel⟩,
   ⟨131, fld 56 0x09, atCtl (fld 56 0x09) {}, by decide +kernel⟩,
   ⟨131, fld 56 0x13, atCtl (fld 56 0x13) {}, by decide +kernel⟩,
   ⟨131, fld 56 0x15 + 9, atCtl (fld 56 0x15 + 9) {}, by decide +kernel⟩,
   ⟨131, fld 56 0x12, atCtl (fld 56 0x12) {}, by decide +kernel⟩,
   ⟨131, fld 56 0x19, atCtl (fld 56 0x19) {}, by decide +kernel⟩,
   ⟨131, fld 56 0x14 + 0x7FFF, atCtl (fld 56 0x14 + 0x7FFF) {}, by decide +kernel⟩,
   ⟨131, fld 56 0x14 + 0x4000, atCtl (fld 56 0x14 + 0x4000) { ord := 1, queues := [(14, [{ w := ins 6 1 0 }])] }, by decide +kernel⟩,
   ⟨131, fld 56 0x01, withCore { st := 1, prog := some { oneWord (fld 56 0x01) with tpl := [ins 3 3 0] } },
     { oneWord (fld 56 0x01) with tpl := [ins 3 3 0] }, ins 3 3 0, ins 3 3 0, ins 3 3 0, by decide +kernel⟩,
   ⟨131, fld 56 0x01, withCore { st := 1, prog := some { oneWord (fld 56 0x01) with tpl := [ins 8 0 0] } },
     { oneWord (fld 56 0x01) with tpl := [ins 8 0 0] }, ins 8 0 0, ins 8 0 0, ins 8 0 0, by decide +kernel⟩,
   ⟨131, fld 56 0x01, withCore
     { st := 1, queues := [(10, List.replicate 32 { w := ins 3 3 0 })], prog := some { oneWord (fld 56 0x01) with tpl := [ins 3 3 0] } },
     { oneWord (fld 56 0x01) with tpl := [ins 3 3 0] }, ins 3 3 0, ins 3 3 0, ins 3 3 0, by decide +kernel⟩,
   ⟨131, atCtl (fld 56 0x03) { kpend := [0] }, fld 56 0x03, .addk 131, by decide +kernel⟩,
   ⟨131, atCtl 0 { pc := 1 }, by decide +kernel⟩,
   ⟨131, atCtl (fld 56 0xFF) {}, fld 56 0xFF, .brk 131, by decide +kernel⟩⟩

/-- States and operands that meet the hypotheses of each clause of RegionsAndJobEnds. -/
theorem witness_RegionsAndJobEnds :
    (∃ p, ∃ w, ∃ s : State, atWord s p w = true ∧ bits w 63 56 = 0x10 ∧ (core s p).open_ = false ∧ (core s p).preempt = true ∧ bit w 6 = false) ∧
    (∃ p, ∃ w, ∃ s : State, atWord s p w = true ∧ bits w 63 56 = 0x10 ∧ (core s p).open_ = false ∧ ((core s p).preempt = false ∨ bit w 6 = true)) ∧
    (∃ p, ∃ w, ∃ s : State, atWord s p w = true ∧ bits w 63 56 = 0x11 ∧ (core s p).open_ = true ∧ (core s p).rid = bits w 5 0) ∧
    (∃ p, ∃ w, ∃ s : State, atWord s p w = true ∧ bits w 63 56 = 0x18 ∧ (core s p).open_ = false ∧ allEmpty (core s p) = false) ∧
    (∃ p, ∃ w, ∃ s : State, ∃ i, ∃ x, atWord s p w = true ∧ bits w 63 56 = 0x18 ∧ (core s p).open_ = false ∧ allEmpty (core s p) = true ∧ (core s
      p).hw = false ∧ (core s p).inst = some i ∧ inst? s i = some x) ∧
    (∃ p, ∃ w, ∃ s : State, atWord s p w = true ∧ bits w 63 56 = 0x18 ∧ (core s p).open_ = true) ∧
    (∃ p, ∃ w, ∃ s : State, atWord s p w = true ∧ bits w 63 56 = 0x10 ∧ (core s p).open_ = true) ∧
    (∃ p, ∃ w, ∃ s : State, atWord s p w = true ∧ bits w 63 56 = 0x11 ∧ ((core s p).open_ = false ∨ (core s p).rid ≠ bits w 5 0)) ∧
    (∃ p, ∃ s : State, coreOn s p = true ∧ (core s p).closing = true ∧ (core s p).open_ = true ∧ (core s p).failed = false ∧ (core s p).stop =
      none ∧ (∀ q ∈ (core s p).queues, ∀ e ∈ q.2, e.region = false) ∧ (∀ q ∈ (core s p).run, ∀ e ∈ q.2, e.region = false)) ∧
    (∃ p, ∃ x, ∃ s : State, coreOn s p = true ∧ (core s p).failed = true ∧ runEmpty (core s p) = true ∧ (core s p).stop = none ∧ (core s p).snap
      = some x ∧ (core s p).att < 3) ∧
    (∃ p, ∃ x, ∃ s : State, coreOn s p = true ∧ (core s p).failed = true ∧ runEmpty (core s p) = true ∧ (core s p).stop = none ∧ (core s p).snap
      = some x ∧ 3 ≤ (core s p).att ∧ (core s p).halting = false ∧ (core s p).st ≠ 2) :=
  ⟨⟨131, fld 56 0x10 + 63, atCtl (fld 56 0x10 + 63) { preempt := true }, by decide +kernel⟩,
   ⟨131, fld 56 0x10 + 127, atCtl (fld 56 0x10 + 127) { preempt := true }, by decide +kernel⟩,
   ⟨131, fld 56 0x11 + 63, atCtl (fld 56 0x11 + 63) { open_ := true, rid := 63 }, by decide +kernel⟩,
   ⟨131, fld 56 0x18, atCtl (fld 56 0x18) { queues := [(14, [{ w := ins 6 1 0 }])] }, by decide +kernel⟩,
   ⟨131, fld 56 0x18, { atCtl (fld 56 0x18) { inst := some 127 } with insts := [(127, anInst)] }, 127, anInst, by decide +kernel⟩,
   ⟨131, fld 56 0x18, atCtl (fld 56 0x18) { open_ := true }, by decide +kernel⟩,
   ⟨131, 0x10 * 2 ^ 56, atCtl (0x10 * 2 ^ 56) { open_ := true }, by decide +kernel⟩,
   ⟨131, 0x11 * 2 ^ 56 + 63, atCtl (0x11 * 2 ^ 56 + 63) { open_ := true }, by decide +kernel⟩,
   ⟨131, withCore { st := 1, closing := true, open_ := true }, by decide +kernel⟩,
   ⟨131, { k := [], step := 0, s := [] }, withCore { st := 1, failed := true, snap := some { k := [], step := 0, s := [] }, att := 2 },
     by decide +kernel⟩,
   ⟨131, { k := [], step := 0, s := [] }, withCore
     { st := 1, open_ := true, failed := true, att := 3, snap := some { k := [], step := 0, s := [] } }, by decide +kernel⟩⟩

/-- States and operands that meet the hypotheses of each clause of InstructionsFlow. -/
theorem witness_InstructionsFlow :
    (∃ p, ∃ q, ∃ e, ∃ r, ∃ s : State, mayRelease s p = true ∧ queueAt (core s p) q = e :: r ∧ passes s p q e = true ∧ olderPasses s p q e = false
      ∧ (∀ b ∈ (core s p).brks, b.2.kind ≠ 3)) ∧
    (∃ p, ∃ q, ∃ e, ∃ r, ∃ s : State, queueAt (core s p) q = e :: r ∧ (mayRelease s p = false ∨ passes s p q e = false ∨ olderPasses s p q e =
      true)) ∧
    (∃ p, ∃ q, ∃ e, ∃ s : State, coreOn s p = true ∧ (runAt (core s p) q).find? (fun x => x.ph == 3) = some e ∧ (core s p).stop = none) ∧
    (∃ p, ∃ q, ∃ e, ∃ s : State, ∃ st, coreOn s p = true ∧ (runAt (core s p) q).find? (fun x => x.ph == 3) = some e ∧ (core s p).stop = some st ∧
      runEmpty (setRun q ((runAt (core s p) q).filter fun x => x.ord != e.ord) (core s p)) = true ∧ (core s p).halting = false ∧ (core s p).st ≠
      2) ∧
    (∃ p, ∃ q, ∃ s : State, (runAt (core s p) q).find? (fun x => x.ph == 3) = none) ∧
    (∃ p, ∃ s : State, coreOn s p = true ∧ (core s p).halting = true ∧ (core s p).failed = false ∧ (core s p).st = 1 ∧ runEmpty (core s p) = true
      ∧ (core s p).brkHit = 0xFF) ∧
    (∃ p, ∃ b, ∃ s : State, coreOn s p = true ∧ (core s p).halting = true ∧ (core s p).failed = false ∧ (core s p).st = 1 ∧ runEmpty (core s p) =
      true ∧ mget (core s p).brks (core s p).brkHit = some b) :=
  ⟨⟨131, 10, { w := ins 3 3 0 }, [], withCore { st := 1, queues := [(10, [{ w := ins 3 3 0 }])] }, by decide +kernel⟩,
   ⟨131, 10, { w := ins 3 3 0 }, [], withCore { queues := [(10, [{ w := ins 3 3 0 }])] }, by decide +kernel⟩,
   ⟨131, 14, { w := ins 6 1 0, ph := 3 }, withCore { st := 1, run := [(14, [{ w := ins 6 1 0, ph := 3 }])] }, by decide +kernel⟩,
   ⟨131, 14, { w := ins 6 1 0, ph := 3 }, withCore { st := 1, stop := some 5, run := [(14, [{ w := ins 6 1 0, ph := 3 }])] }, 5,
     by decide +kernel⟩,
   ⟨131, 14, State.reset, by decide +kernel⟩,
   ⟨131, withCore { st := 1, halting := true }, by decide +kernel⟩,
   ⟨131, { kind := 3 }, withCore { st := 1, halting := true, brkHit := 7, brks := [(7, { kind := 3 })] }, by decide +kernel⟩⟩

/-- States and operands that meet the hypotheses of each clause of ScalarInstructionsComplete. -/
theorem witness_ScalarInstructionsComplete :
    (∃ p, ∃ g, ∃ e, ∃ s : State, atEngine s p (10 + g % 2) 3 1 e = true) ∧
    (∃ p, ∃ g, ∃ e, ∃ s : State, atEngine s p (10 + g % 2) 3 2 e = true) ∧
    (∃ p, ∃ g, ∃ e, ∃ s : State, atEngine s p (10 + g % 2) 3 3 e = true) ∧
    (∃ p, ∃ g, ∃ e, ∃ s : State, atEngine s p (10 + g % 2) 3 6 e = true) ∧
    (∃ p, ∃ g, ∃ e, ∃ s : State, atEngine s p (10 + g % 2) 3 7 e = true) ∧
    (∃ p, ∃ g, ∃ e, ∃ s : State, atEngine s p (10 + g % 2) 3 4 e = true ∧ ((sreg (core s p) (g % 2) (bits e.w 105 101) + sext64 32 (bits e.w 95
      64)) % 2 ^ 64) % 8 = 0 ∧ localIn ((sreg (core s p) (g % 2) (bits e.w 105 101) + sext64 32 (bits e.w 95 64)) % 2 ^ 64) 8 = true ∧
      localPoison s p ((sreg (core s p) (g % 2) (bits e.w 105 101) + sext64 32 (bits e.w 95 64)) % 2 ^ 64) 8 = false) ∧
    (∃ p, ∃ g, ∃ e, ∃ s : State, atEngine s p (10 + g % 2) 3 5 e = true ∧ localIn ((sreg (core s p) (g % 2) (bits e.w 105 101) + sext64 32 (bits
      e.w 95 64)) % 2 ^ 64) 8 = true) ∧
    (∃ p, ∃ g, ∃ e, ∃ s : State, atEngine s p (10 + g % 2) 3 4 e = true ∧ (((sreg (core s p) (g % 2) (bits e.w 105 101) + sext64 32 (bits e.w 95
      64)) % 2 ^ 64) % 8 ≠ 0 ∨ localIn ((sreg (core s p) (g % 2) (bits e.w 105 101) + sext64 32 (bits e.w 95 64)) % 2 ^ 64) 8 = false)) ∧
    (∃ p, ∃ g, ∃ e, ∃ s : State, atEngine s p (10 + g % 2) 3 4 e = true ∧ ((sreg (core s p) (g % 2) (bits e.w 105 101) + sext64 32 (bits e.w 95
      64)) % 2 ^ 64) % 8 = 0 ∧ localIn ((sreg (core s p) (g % 2) (bits e.w 105 101) + sext64 32 (bits e.w 95 64)) % 2 ^ 64) 8 = true ∧
      localPoison s p ((sreg (core s p) (g % 2) (bits e.w 105 101) + sext64 32 (bits e.w 95 64)) % 2 ^ 64) 8 = true) ∧
    (∃ p, ∃ g, ∃ e, ∃ s : State, atEngine s p (10 + g % 2) 3 5 e = true ∧ localIn ((sreg (core s p) (g % 2) (bits e.w 105 101) + sext64 32 (bits
      e.w 95 64)) % 2 ^ 64) 8 = false) ∧
    (∃ i, i ≠ 0) ∧
    (∃ i, ∃ j, i < 32 ∧ j < 32 ∧ i ≠ j) :=
  ⟨⟨131, 1, { w := ins 3 1 0, ph := 1 }, atEng 11 (ins 3 1 0) {}, by decide +kernel⟩,
   ⟨131, 1, { w := ins 3 2 0, ph := 1 }, atEng 11 (ins 3 2 0) {}, by decide +kernel⟩,
   ⟨131, 1, { w := ins 3 3 0, ph := 1 }, atEng 11 (ins 3 3 0) {}, by decide +kernel⟩,
   ⟨131, 1, { w := ins 3 6 0, ph := 1 }, atEng 11 (ins 3 6 0) {}, by decide +kernel⟩,
   ⟨131, 1, { w := ins 3 7 0, ph := 1 }, atEng 11 (ins 3 7 0) {}, by decide +kernel⟩,
   ⟨131, 1, { w := ins 3 4 (fld 64 67108856), ph := 1 }, atEng 11 (ins 3 4 (fld 64 67108856)) {}, by decide +kernel⟩,
   ⟨131, 1, { w := ins 3 5 (fld 64 67108856), ph := 1 }, atEng 11 (ins 3 5 (fld 64 67108856)) {}, by decide +kernel⟩,
   ⟨131, 1, { w := ins 3 4 (fld 64 4), ph := 1 }, atEng 11 (ins 3 4 (fld 64 4)) {}, by decide +kernel⟩,
   ⟨131, 1, { w := ins 3 4 0, ph := 1 }, poisoned (atEng 11 (ins 3 4 0) {}), by decide +kernel⟩,
   ⟨131, 1, { w := ins 3 5 (fld 64 0x7FFFFFFF), ph := 1 }, atEng 11 (ins 3 5 (fld 64 0x7FFFFFFF)) {}, by decide +kernel⟩,
   ⟨31, by decide +kernel⟩,
   ⟨31, 0, by decide +kernel⟩⟩

/-- States and operands that meet the hypotheses of each clause of VectorInstructionsComplete. -/
theorem witness_VectorInstructionsComplete :
    (∃ p, ∃ g, ∃ e, ∃ s : State, atEngine s p (vq g) 2 3 e = true) ∧
    (∃ p, ∃ g, ∃ e, ∃ s : State, atEngine s p (vq g) 2 3 e = true) ∧
    (∃ p, ∃ g, ∃ e, ∃ s : State, atEngine s p (vq g) 2 5 e = true) ∧
    (∃ p, ∃ g, ∃ e, ∃ s : State, atEngine s p (vq g) 2 7 e = true) ∧
    (∃ p, ∃ g, ∃ e, ∃ s : State, atEngine s p (vq g) 2 7 e = true) ∧
    (∃ p, ∃ g, ∃ e, ∃ s : State, atEngine s p (vq g) 2 10 e = true) ∧
    (∃ p, ∃ g, ∃ e, ∃ s : State, atEngine s p (vq g) 2 11 e = true) ∧
    (∃ p, ∃ g, ∃ e, ∃ s : State, atEngine s p (vq g) 2 6 e = true) ∧
    (∃ p, ∃ g, ∃ e, ∃ s : State, atEngine s p (vq g) 2 6 e = true) ∧
    (∃ p, ∃ g, ∃ e, ∃ s : State, atEngine s p (vq g) 2 4 e = true) ∧
    (∃ p, ∃ g, ∃ e, ∃ s : State, atEngine s p (vq g) 2 1 e = true ∧ (∀ i, i < vCnt e.w → localPoison s p (bits e.w 75 55 * 32 + i * (bits e.w 54
      39 * 32)) (vGroupBytes e.w) = false)) ∧
    (∃ p, ∃ g, ∃ e, ∃ s : State, ∃ i, atEngine s p (vq g) 2 1 e = true ∧ i < vCnt e.w ∧ localPoison s p (bits e.w 75 55 * 32 + i * (bits e.w 54
      39 * 32)) (vGroupBytes e.w) = true) ∧
    (∃ p, ∃ g, ∃ e, ∃ s : State, atEngine s p (vq g) 2 2 e = true) ∧
    (∃ p, ∃ g, ∃ e, ∃ s : State, atEngine s p (vq g) 2 2 e = true ∧ vBf e.w = true ∧ bit e.w 113 = false ∧ vCnt e.w = 1) ∧
    (∃ p, ∃ g, ∃ e, ∃ s : State, atEngine s p (vq g) 2 8 e = true ∧ localPoison s p (bits e.w 65 45 * 32) 32 = false ∧ qRanges (qDesc s p e.w)
      e.w = false) ∧
    (∃ p, ∃ g, ∃ e, ∃ s : State, atEngine s p (vq g) 2 8 e = true ∧ localPoison s p (bits e.w 65 45 * 32) 32 = false ∧ qRanges (qDesc s p e.w)
      e.w = true ∧ (bit e.w 32 = true → localPoison s p (qDesc s p e.w).data ((vqH e.w * fmtWidth (bits e.w 68 66) + 7) / 8) = false ∧
      localPoison s p (qDesc s p e.w).scale (vqH e.w / 32) = false ∧ localPoison s p (qDesc s p e.w).ref 1 = false) ∧ (bit e.w 32 = true ∨ bit
      e.w 33 = true → localPoison s p (qDesc s p e.w).check (4 * vqH e.w) = false)) ∧
    (∃ p, ∃ g, ∃ e, ∃ s : State, atEngine s p (vq g) 2 9 e = true ∧ localPoison s p (bits e.w 65 45 * 32) 32 = false ∧ (qRanges (qDesc s p e.w)
      e.w = false ∨ (qDesc s p e.w).tile ≠ 0xFFFFFFFF ∧ localIn (qDesc s p e.w).tile (4 * ((vqH e.w + 2047) / 2048)) = false)) ∧
    (∃ p, ∃ g, ∃ e, ∃ s : State, atEngine s p (vq g) 2 9 e = true ∧ localPoison s p (bits e.w 65 45 * 32) 32 = false ∧ qRanges (qDesc s p e.w)
      e.w = true ∧ ((qDesc s p e.w).tile = 0xFFFFFFFF ∨ localIn (qDesc s p e.w).tile (4 * ((vqH e.w + 2047) / 2048)) = true ∧ localPoison s p
      (qDesc s p e.w).tile (4 * ((vqH e.w + 2047) / 2048)) = false) ∧ localPoison s p (qDesc s p e.w).data ((vqH e.w * fmtWidth (bits e.w 68 66)
      + 7) / 8) = false ∧ localPoison s p (qDesc s p e.w).scale (vqH e.w / 32) = false) ∧
    (∃ p, ∃ g, ∃ e, ∃ s : State, atEngine s p (vq g) 2 8 e = true ∧ localPoison s p (bits e.w 65 45 * 32) 32 = true) ∧
    (∃ p, ∃ g, ∃ e, ∃ s : State, atEngine s p (vq g) 2 9 e = true ∧ localPoison s p (bits e.w 65 45 * 32) 32 = true) :=
  ⟨⟨131, 7, { w := ins 2 3 0, ph := 1 }, atEng 9 (ins 2 3 0) {}, by decide +kernel⟩,
   ⟨131, 7, { w := ins 2 3 0, ph := 1 }, atEng 9 (ins 2 3 0) {}, by decide +kernel⟩,
   ⟨131, 7, { w := ins 2 5 0, ph := 1 }, atEng 9 (ins 2 5 0) {}, by decide +kernel⟩,
   ⟨131, 7, { w := ins 2 7 0, ph := 1 }, atEng 9 (ins 2 7 0) {}, by decide +kernel⟩,
   ⟨131, 7, { w := ins 2 7 0, ph := 1 }, atEng 9 (ins 2 7 0) {}, by decide +kernel⟩,
   ⟨131, 7, { w := ins 2 10 0, ph := 1 }, atEng 9 (ins 2 10 0) {}, by decide +kernel⟩,
   ⟨131, 7, { w := ins 2 11 0, ph := 1 }, atEng 9 (ins 2 11 0) {}, by decide +kernel⟩,
   ⟨131, 7, { w := ins 2 6 0, ph := 1 }, atEng 9 (ins 2 6 0) {}, by decide +kernel⟩,
   ⟨131, 7, { w := ins 2 6 0, ph := 1 }, atEng 9 (ins 2 6 0) {}, by decide +kernel⟩,
   ⟨131, 7, { w := ins 2 4 0, ph := 1 }, atEng 9 (ins 2 4 0) {}, by decide +kernel⟩,
   ⟨131, 7, { w := ins 2 1 0, ph := 1 }, atEng 9 (ins 2 1 0) {}, by decide +kernel⟩,
   ⟨131, 7, { w := ins 2 1 0, ph := 1 }, poisoned (atEng 9 (ins 2 1 0) {}), 0, by decide +kernel⟩,
   ⟨131, 7, { w := ins 2 2 0, ph := 1 }, atEng 9 (ins 2 2 0) {}, by decide +kernel⟩,
   ⟨131, 7, { w := ins 2 2 (fld 112 1), ph := 1 }, atEng 9 (ins 2 2 (fld 112 1)) {}, by decide +kernel⟩,
   ⟨131, 7, { w := ins 2 8 0, ph := 1 }, badDesc (atEng 9 (ins 2 8 0) {}), by decide +kernel⟩,
   ⟨131, 7, { w := ins 2 8 (fld 32 1), ph := 1 }, atEng 9 (ins 2 8 (fld 32 1)) {}, by decide +kernel⟩,
   ⟨131, 7, { w := ins 2 9 0, ph := 1 }, badDesc (atEng 9 (ins 2 9 0) {}), by decide +kernel⟩,
   ⟨131, 7, { w := ins 2 9 0, ph := 1 }, atEng 9 (ins 2 9 0) {}, by decide +kernel⟩,
   ⟨131, 7, { w := ins 2 8 0, ph := 1 }, poisoned (atEng 9 (ins 2 8 0) {}), by decide +kernel⟩,
   ⟨131, 7, { w := ins 2 9 0, ph := 1 }, poisoned (atEng 9 (ins 2 9 0) {}), by decide +kernel⟩⟩

/-- States and operands that meet the hypotheses of each clause of ArrayInstructionsComplete. -/
theorem witness_ArrayInstructionsComplete :
    (∃ p, ∃ e, ∃ s : State, ∃ skew : Option (Nat × Nat), (atEngine s p 0 0 1 e = true ∧ (∀ i, i < alLines e.w → localPoison s p (bits e.w 79 59 *
      32 + i * lineBytes (alK e.w) (fmtWidth (alFmt e.w))) ((alK e.w * fmtWidth (alFmt e.w) + 7) / 8) = false) ∧ (alScaled e.w = true →
      localPoison s p (bits e.w 37 17 * 32) (alLines e.w) = false ∧ ∀ i, i < alLines e.w → localPoison s p (bits e.w 58 38 * 32 + i * ((alK e.w +
      1023) / 1024 * 32)) (alK e.w / 32) = false)) ∧ (∀ i f, skew = some (i, f) → alScaled e.w = true → i < alK e.w / 32 → i % 65536 = f %
      65536)) ∧
    (∃ p, ∃ e, ∃ s : State, ∃ i, ∃ f, atEngine s p 0 0 1 e = true ∧ (∀ i, i < alLines e.w → localPoison s p (bits e.w 79 59 * 32 + i * lineBytes
      (alK e.w) (fmtWidth (alFmt e.w))) ((alK e.w * fmtWidth (alFmt e.w) + 7) / 8) = false) ∧ (alScaled e.w = true → localPoison s p (bits e.w 37
      17 * 32) (alLines e.w) = false ∧ ∀ i, i < alLines e.w → localPoison s p (bits e.w 58 38 * 32 + i * ((alK e.w + 1023) / 1024 * 32)) (alK e.w
      / 32) = false) ∧ alScaled e.w = true ∧ i < alK e.w / 32 ∧ i % 65536 ≠ f % 65536) ∧
    (∃ p, ∃ e, ∃ s : State, atEngine s p 0 0 2 e = true ∧ amK e.w = 0 ∧ (∀ a ∈ armed4 (bits e.w 111 108), amSame s p e.w a = true)) ∧
    (∃ p, ∃ e, ∃ s : State, ∃ a, atEngine s p 0 0 2 e = true ∧ amK e.w = 0 ∧ a ∈ armed4 (bits e.w 111 108) ∧ amSame s p e.w a = false) ∧
    (∃ p, ∃ k : Option (Nat × Nat × Nat), ∃ e, ∃ s : State, (atEngine s p 0 0 2 e = true ∧ amK e.w ≠ 0 ∧ (∀ a ∈ armed4 (bits e.w 111 108),
      amLegal s p e.w a = true) ∧ (∀ a ∈ armed4 (bits e.w 111 108), amPoison s p e.w a = false) ∧ (halfAt s p (bits e.w 105 105)).invalid = false
      ∧ (∀ a ∈ armed4 (bits e.w 111 108), (amDesc s p e.w a).scaled = true → (slotAt (eachSlot p e.w (amChained s p e) s) p (slotKey (eachSlot p
      e.w (amChained s p e) s) p a (bits e.w 107 106))).seq = (amDesc s p e.w a).seq0)) ∧ (∀ a i f, k = some (a, i, f) → a ∈ armed4 (bits e.w 111
      108) → (amDesc s p e.w a).scaled = true → i < amK e.w / 32 → ((amDesc s p e.w a).seq0 + i) % 65536 = f % 65536)) ∧
    (∃ p, ∃ e, ∃ s : State, ∃ a, atEngine s p 0 0 2 e = true ∧ amK e.w ≠ 0 ∧ a ∈ armed4 (bits e.w 111 108) ∧ amLegal s p e.w a = false) ∧
    (∃ p, ∃ e, ∃ s : State, ∃ a, atEngine s p 0 0 2 e = true ∧ amK e.w ≠ 0 ∧ (∀ a ∈ armed4 (bits e.w 111 108), amLegal s p e.w a = true) ∧ a ∈
      armed4 (bits e.w 111 108) ∧ amPoison s p e.w a = true) ∧
    (∃ p, ∃ e, ∃ s : State, atEngine s p 0 0 3 e = true ∧ localPoison s p (bits e.w 105 85 * 32) 64 = false ∧ drainLegal s p e = true ∧ (∀ a ∈
      drainLive s p e.w, drainPoison s p (drainDesc s p (bits e.w 105 85 * 32)) (drainSlot s p e.w a) a = false) ∧ (∀ a ∈ armed4 (bits e.w 111
      108), bit (arrMask s p) a = false) ∧ drainBad s p e.w = []) ∧
    (∃ p, ∃ e, ∃ s : State, atEngine s p 0 0 3 e = true ∧ localPoison s p (bits e.w 105 85 * 32) 64 = false ∧ drainLegal s p e = true ∧ (∀ a ∈
      drainLive s p e.w, drainPoison s p (drainDesc s p (bits e.w 105 85 * 32)) (drainSlot s p e.w a) a = false) ∧ (∀ a ∈ armed4 (bits e.w 111
      108), bit (arrMask s p) a = false) ∧ drainBad s p e.w ≠ []) ∧
    (∃ p, ∃ e, ∃ s : State, atEngine s p 0 0 3 e = true) ∧
    (∃ p, ∃ e, ∃ s : State, atEngine s p 0 0 3 e = true ∧ localPoison s p (bits e.w 105 85 * 32) 64 = true) ∧
    (∃ p, ∃ e, ∃ s : State, atEngine s p 0 0 3 e = true ∧ localPoison s p (bits e.w 105 85 * 32) 64 = false ∧ drainLegal s p e = false) ∧
    (∃ p, ∃ k : Option (Nat × Nat), ∃ e, ∃ s : State, ∃ f : List (Nat × Nat), (atEngine s p 1 1 1 e = true ∧ mvPoison s p e.w = false ∧ mvLegal s
      p e.w = true ∧ ((halfAt s p (bits e.w 111 111)).invalid = false ∨ mvK e.w = 0) ∧ gemvBad s p e.w (mvEdges s p e.w).1 (mvEdges s p e.w).2.1
      f = false ∧ mvFails s p (mvHeld s p (mvEdges s p e.w).1 (mvEdges s p e.w).2.1 f) = []) ∧ (∀ i f, k = some (i, f) → (mvDesc s p e.w).scaled
      = true → i < mvK e.w / 32 → ((mvDesc s p e.w).seq0 + i) % 65536 = f % 65536)) ∧
    (∃ p, ∃ k : Option (Nat × Nat), ∃ e, ∃ s : State, ∃ f : List (Nat × Nat), (atEngine s p 1 1 1 e = true ∧ mvPoison s p e.w = false ∧ mvLegal s
      p e.w = true ∧ ((halfAt s p (bits e.w 111 111)).invalid = false ∨ mvK e.w = 0) ∧ gemvBad s p e.w (mvEdges s p e.w).1 (mvEdges s p e.w).2.1
      f = true ∧ mvFails s p (mvHeld s p (mvEdges s p e.w).1 (mvEdges s p e.w).2.1 f) = []) ∧ (∀ i f, k = some (i, f) → (mvDesc s p e.w).scaled =
      true → i < mvK e.w / 32 → ((mvDesc s p e.w).seq0 + i) % 65536 = f % 65536)) ∧
    (∃ p, ∃ e, ∃ s : State, atEngine s p 1 1 1 e = true ∧ mvPoison s p e.w = true) ∧
    (∃ p, ∃ e, ∃ s : State, atEngine s p 1 1 1 e = true ∧ mvPoison s p e.w = false ∧ mvLegal s p e.w = false) :=
  ⟨⟨131, { w := ins 0 1 0, ph := 1 }, atEng 0 (ins 0 1 0) {}, none, by decide +kernel, nofun⟩,
   ⟨131, { w := ins 0 1 (fld 80 1 + fld 84 32), ph := 1 }, atEng 0 (ins 0 1 (fld 80 1 + fld 84 32)) {}, 0, 1, by decide +kernel⟩,
   ⟨131, { w := ins 0 2 (fld 112 1 + fld 111 1), ph := 1 }, atEng 0 (ins 0 2 (fld 112 1 + fld 111 1)) {}, by decide +kernel⟩,
   ⟨131, { w := ins 0 2 (fld 111 1), ph := 1 }, atEng 0 (ins 0 2 (fld 111 1))
     { slots := [(9, { chain := some { mode := 3, m := 8, n := 512, afmt := 0, ascaled := false, wfmt := 0, wscaled := false, arefs := [], wrefs := [] } })] },
     3, by decide +kernel⟩,
   ⟨131, none, { w := aMul, ph := 1 }, atEng 0 aMul { halves := [(0, { loaded := true, lines := 1, k := 1 })] }, by decide +kernel, nofun⟩,
   ⟨131, { w := aMul, ph := 1 }, atEng 0 aMul {}, 3, by decide +kernel⟩,
   ⟨131, { w := aMul, ph := 1 }, poisoned (atEng 0 aMul { halves := [(0, { loaded := true, lines := 1, k := 1 })] }), 3, by decide +kernel⟩,
   ⟨131, { w := ins 0 3 (fld 111 1), ph := 1 }, rescaled (atEng 0 (ins 0 3 (fld 111 1)) { slots := [(9, drainable)] }), by decide +kernel⟩,
   ⟨131, { w := ins 0 3 (fld 111 1), ph := 1 }, rescaled (atEng 0 (ins 0 3 (fld 111 1)) { slots := [(9, { drainable with cr := [(0, 1)] })] }),
     by decide +kernel⟩,
   ⟨131, { w := ins 0 3 0, ph := 1 }, atEng 0 (ins 0 3 0) {}, by decide +kernel⟩,
   ⟨131, { w := ins 0 3 0, ph := 1 }, poisoned (atEng 0 (ins 0 3 0) {}), by decide +kernel⟩,
   ⟨131, { w := ins 0 3 (fld 111 1), ph := 1 }, { atEng 0 (ins 0 3 (fld 111 1)) {} with mem := { cs := [(131 * 2 ^ 26 + 21, 0xFF)] } },
     by decide +kernel⟩,
   ⟨131, none, { w := ins 1 1 (fld 25 2), ph := 1 }, mvUp, [], by decide +kernel, nofun⟩,
   ⟨131, none, { w := ins 1 1 (fld 25 2), ph := 1 }, mvUp, [(0, 0)], by decide +kernel, nofun⟩,
   ⟨131, { w := ins 1 1 0, ph := 1 }, { atEng 1 (ins 1 1 0) {} with mem := { csPoison := [131 * 2 ^ 21] } }, by decide +kernel⟩,
   ⟨131, { w := ins 1 1 0, ph := 1 }, atEng 1 (ins 1 1 0) {}, by decide +kernel⟩⟩

/-- States and operands that meet the hypotheses of each clause of TransfersAndMarkersComplete. -/
theorem witness_TransfersAndMarkersComplete :
    (∃ p, ∃ e, ∃ s : State, atEngine s p 12 4 1 e = true ∧ (bit e.w 112 = false ∨ leAt (localBytes s p (bits e.w 111 91 * 32) 32) 22 2 = chipId
      s) ∧ localPoison s p (bits e.w 111 91 * 32) 32 = false ∧ copyOk s e.w false (localBytes s p (bits e.w 111 91 * 32) 32) = true ∧ (∀ x ∈
      copyPieces e.w (localBytes s p (bits e.w 111 91 * 32) 32), hbmHeld s x.1 x.2.1 = false ∧ hbmHeld s x.2.2 x.2.1 = false) ∧ (∀ x ∈ copyPieces
      e.w (localBytes s p (bits e.w 111 91 * 32) 32), firstPoison s x.1 x.2.1 = none)) ∧
    (∃ p, ∃ e, ∃ s : State, atEngine s p 12 4 1 e = true ∧ bit e.w 112 = true ∧ leAt (localBytes s p (bits e.w 111 91 * 32) 32) 22 2 ≠ chipId s ∧
      localPoison s p (bits e.w 111 91 * 32) 32 = false ∧ copyOk s e.w true (localBytes s p (bits e.w 111 91 * 32) 32) = true ∧ (∀ x ∈ copyPieces
      e.w (localBytes s p (bits e.w 111 91 * 32) 32), hbmHeld s x.1 x.2.1 = false) ∧ (∀ x ∈ copyPieces e.w (localBytes s p (bits e.w 111 91 * 32)
      32), firstPoison s x.1 x.2.1 = none) ∧ s.chip.isSome = true ∧ routeLost s (leAt (localBytes s p (bits e.w 111 91 * 32) 32) 22 2) = false) ∧
    (∃ p, ∃ e, ∃ s : State, atEngine s p 12 4 1 e = true ∧ bit e.w 112 = true ∧ leAt (localBytes s p (bits e.w 111 91 * 32) 32) 22 2 ≠ chipId s ∧
      localPoison s p (bits e.w 111 91 * 32) 32 = false ∧ copyOk s e.w true (localBytes s p (bits e.w 111 91 * 32) 32) = true ∧ (∀ x ∈ copyPieces
      e.w (localBytes s p (bits e.w 111 91 * 32) 32), hbmHeld s x.1 x.2.1 = false) ∧ (∀ x ∈ copyPieces e.w (localBytes s p (bits e.w 111 91 * 32)
      32), firstPoison s x.1 x.2.1 = none) ∧ (s.chip.isNone = true ∨ routeLost s (leAt (localBytes s p (bits e.w 111 91 * 32) 32) 22 2) = true)) ∧
    (∃ p, ∃ e, ∃ s : State, atEngine s p 12 4 1 e = true ∧ localPoison s p (bits e.w 111 91 * 32) 32 = true) ∧
    (∃ p, ∃ e, ∃ s : State, atEngine s p 12 4 1 e = true ∧ localPoison s p (bits e.w 111 91 * 32) 32 = false ∧ copyOk s e.w (bit e.w 112 && leAt
      (localBytes s p (bits e.w 111 91 * 32) 32) 22 2 != chipId s) (localBytes s p (bits e.w 111 91 * 32) 32) = false) ∧
    (∃ p, ∃ e, ∃ s : State, ∃ a, atEngine s p 12 4 1 e = true ∧ localPoison s p (bits e.w 111 91 * 32) 32 = false ∧ copyOk s e.w (bit e.w 112 &&
      leAt (localBytes s p (bits e.w 111 91 * 32) 32) 22 2 != chipId s) (localBytes s p (bits e.w 111 91 * 32) 32) = true ∧ (∀ x ∈ copyPieces e.w
      (localBytes s p (bits e.w 111 91 * 32) 32), hbmHeld s x.1 x.2.1 = false ∧ ((bit e.w 112 && leAt (localBytes s p (bits e.w 111 91 * 32) 32)
      22 2 != chipId s) = false → hbmHeld s x.2.2 x.2.1 = false)) ∧ (copyPieces e.w (localBytes s p (bits e.w 111 91 * 32) 32)).findSome? (fun x
      => firstPoison s x.1 x.2.1) = some a) ∧
    (∃ p, ∃ e, ∃ s : State, atEngine s p 12 4 2 e = true ∧ localPoison s p (bits e.w 111 91 * 32) 64 = false ∧ djobOk (localBytes s p (bits e.w
      111 91 * 32) 64) = true) ∧
    (∃ p, ∃ e, ∃ s : State, atEngine s p 12 4 2 e = true ∧ localPoison s p (bits e.w 111 91 * 32) 64 = true) ∧
    (∃ p, ∃ e, ∃ s : State, atEngine s p 12 4 2 e = true ∧ localPoison s p (bits e.w 111 91 * 32) 64 = false ∧ djobOk (localBytes s p (bits e.w
      111 91 * 32) 64) = false) ∧
    (∃ p, ∃ e, ∃ s : State, ∃ st, coreOn s p = true ∧ acceptStatus st = true ∧ (waitingDjobs s p).find? (fun x => x.chip != chipId s) = some e) ∧
    (∃ p, ∃ e, ∃ s : State, atEngine s p 14 6 1 e = true ∧ localPoison s p (bits e.w 111 91 * 32) 32 = true) ∧
    (∃ p, ∃ e, ∃ s : State, atEngine s p 14 6 1 e = true ∧ localPoison s p (bits e.w 111 91 * 32) 32 = false) ∧
    (∃ d, ∃ s : State, ∃ j, ∃ e, frozen s = false ∧ (cjobsOf s d).find? (·.finished) = some j ∧ (runAt (core s j.core) 14).find? (fun e => e.ord
      == j.id && e.ph == 2) = some e) ∧
    (∃ u, ∃ s : State, ∃ j, ∃ a, frozen s = false ∧ servedCjob s (u / 16) = some j ∧ cmpRuns s u = true ∧ reentryDue s u = false ∧ sliceWaits s
      (u / 16) = false ∧ j.blk = 0 ∧ hbmHeld s (j.inAddr + j.sample * j.stride) (2 * ensFeatures (imgMem (objsOf s j.version) (oidEns j.ens))) =
      false ∧ hbmHeld s (j.outAddr + j.sample * recSize j) (recSize j) = false ∧ firstPoison s (j.inAddr + j.sample * j.stride) (2 * ensFeatures
      (imgMem (objsOf s j.version) (oidEns j.ens))) = some a) ∧
    (∃ u, ∃ s : State, ∃ j, frozen s = false ∧ servedCjob s (u / 16) = some j ∧ cmpRuns s u = true ∧ reentryDue s u = false ∧ sliceWaits s (u /
      16) = false ∧ (j.blk = 0 → hbmHeld s (j.inAddr + j.sample * j.stride) (2 * ensFeatures (imgMem (objsOf s j.version) (oidEns j.ens))) =
      false ∧ firstPoison s (j.inAddr + j.sample * j.stride) (2 * ensFeatures (imgMem (objsOf s j.version) (oidEns j.ens))) = none) ∧ hbmHeld s
      (j.outAddr + j.sample * recSize j) (recSize j) = false) ∧
    (∃ u, ∃ s : State, (reentryDue s u = true ∨ sliceWaits s (u / 16) = true)) ∧
    (∃ p, ∃ q, ∃ e, ∃ s : State, atEngine s p q 7 1 e = true) ∧
    (∃ p, ∃ q, ∃ e, ∃ s : State, passes s p q e = true ∧ eiClass e.w = 7 ∧ eiOp e.w = 1) ∧
    (∃ p, ∃ q, ∃ e, ∃ s : State, atEngine s p q 7 2 e = true) ∧
    (∃ p, ∃ q, ∃ e, ∃ s : State, atEngine s p q 7 3 e = true ∧ dumpSlot (core s p) (bits e.w 107 76) = none) ∧
    (∃ p, ∃ q, ∃ e, ∃ s : State, ∃ i, ∃ d, atEngine s p q 7 3 e = true ∧ dumpSlot (core s p) (bits e.w 107 76) = some (i, d) ∧ (core s p).dumping
      ≠ []) ∧
    (∃ p, ∃ q, ∃ e, ∃ s : State, ∃ i, ∃ d, atEngine s p q 7 3 e = true ∧ dumpSlot (core s p) (bits e.w 107 76) = some (i, d) ∧ (core s p).dumping
      = [] ∧ localIn (bits e.w 75 55 * 32) (bits e.w 54 39 * 32) = false) ∧
    (∃ p, ∃ q, ∃ e, ∃ s : State, ∃ i, ∃ d, atEngine s p q 7 3 e = true ∧ dumpSlot (core s p) (bits e.w 107 76) = some (i, d) ∧ (core s p).dumping
      = [] ∧ localIn (bits e.w 75 55 * 32) (bits e.w 54 39 * 32) = true ∧ localPoison s p (bits e.w 75 55 * 32) (min (bits e.w 54 39 * 32)
      (d.bytes - 32)) = false) ∧
    (∃ p, ∃ s : State, ∃ d, ∃ r, coreOn s p = true ∧ (core s p).dumping = d :: r ∧ ((core s p).dumpCyc = 0 ∨ (core s p).dumpCyc + 1023 ≤ ctr s
      (islCtr p)) ∧ (min (min (d.entry.length - d.pos) 41920) (obsRoom s ((d.addr + d.pos) / 0x3600000000) / 32 * 32)) ≠ 0 ∧ hbmHeld s (d.addr +
      d.pos) (min (min (d.entry.length - d.pos) 41920) (obsRoom s ((d.addr + d.pos) / 0x3600000000) / 32 * 32)) = false ∧ d.pos + (min (min
      (d.entry.length - d.pos) 41920) (obsRoom s ((d.addr + d.pos) / 0x3600000000) / 32 * 32)) < d.entry.length) ∧
    (∃ p, ∃ s : State, ∃ d, ∃ r, coreOn s p = true ∧ (core s p).dumping = d :: r ∧ ((core s p).dumpCyc = 0 ∨ (core s p).dumpCyc + 1023 ≤ ctr s
      (islCtr p)) ∧ (min (min (d.entry.length - d.pos) 41920) (obsRoom s ((d.addr + d.pos) / 0x3600000000) / 32 * 32)) ≠ 0 ∧ hbmHeld s (d.addr +
      d.pos) (min (min (d.entry.length - d.pos) 41920) (obsRoom s ((d.addr + d.pos) / 0x3600000000) / 32 * 32)) = false ∧ d.pos + (min (min
      (d.entry.length - d.pos) 41920) (obsRoom s ((d.addr + d.pos) / 0x3600000000) / 32 * 32)) = d.entry.length ∧ d.trunc = false) :=
  ⟨⟨131, { w := ins 4 1 0, ph := 1 }, { atEng 12 (ins 4 1 0) {} with mem := { cs := copyAt } }, by decide +kernel⟩,
   ⟨131, { w := ins 4 1 (fld 112 1), ph := 1 },
     { atEng 12 (ins 4 1 (fld 112 1)) {} with chip := some 0xFFFF, cl := chainUp.cl, mem := { cs := copyAt } }, by decide +kernel⟩,
   ⟨131, { w := ins 4 1 (fld 112 1), ph := 1 }, { atEng 12 (ins 4 1 (fld 112 1)) {} with mem := { cs := copyAt } }, by decide +kernel⟩,
   ⟨131, { w := ins 4 1 0, ph := 1 }, poisoned (atEng 12 (ins 4 1 0) {}), by decide +kernel⟩,
   ⟨131, { w := ins 4 1 0, ph := 1 }, atEng 12 (ins 4 1 0) {}, by decide +kernel⟩,
   ⟨131, { w := ins 4 1 0, ph := 1 }, { atEng 12 (ins 4 1 0) {} with mem := { cs := copyAt, poison := [0] } }, 0, by decide +kernel⟩,
   ⟨131, { w := ins 4 2 0, ph := 1 }, { atEng 12 (ins 4 2 0) {} with mem := { cs := [(131 * 2 ^ 26, 1)] } }, by decide +kernel⟩,
   ⟨131, { w := ins 4 2 0, ph := 1 }, poisoned (atEng 12 (ins 4 2 0) {}), by decide +kernel⟩,
   ⟨131, { w := ins 4 2 0, ph := 1 }, atEng 12 (ins 4 2 0) {}, by decide +kernel⟩,
   ⟨131, { w := ins 4 2 0, ph := 2, chip := 5 }, withCore { st := 1, run := [(12, [{ w := ins 4 2 0, ph := 2, chip := 5 }])] }, 15,
     by decide +kernel⟩,
   ⟨131, { w := ins 6 1 0, ph := 1 }, poisoned (atEng 14 (ins 6 1 0) {}), by decide +kernel⟩,
   ⟨131, { w := ins 6 1 0, ph := 1 }, atEng 14 (ins 6 1 0) {}, by decide +kernel⟩,
   ⟨1, { withCore { st := 1, run := [(14, [{ w := ins 6 1 0, ph := 2 }])] } with cjobs := [(1, [{ aJob with finished := true }])] },
     { aJob with finished := true }, { w := ins 6 1 0, ph := 2 }, by decide +kernel⟩,
   ⟨31, { ensUp with mem := { poison := [0] } }, aJob, 0, by decide +kernel⟩,
   ⟨31, ensUp, aJob, by decide +kernel⟩,
   ⟨31, { slices := [(sliceKey 63 1, { aSlice with stage := 3 })] }, by decide +kernel⟩,
   ⟨131, 12, { w := ins 7 1 0, ph := 1 }, atEng 12 (ins 7 1 0) {}, by decide +kernel⟩,
   ⟨131, 12, { w := ins 7 1 0 }, withCore { st := 1 }, by decide +kernel⟩,
   ⟨131, 14, { w := ins 7 2 0, ph := 1 }, atEng 14 (ins 7 2 0) {}, by decide +kernel⟩,
   ⟨131, 14, { w := ins 7 3 0, ph := 1 }, atEng 14 (ins 7 3 0) {}, by decide +kernel⟩,
   ⟨131, 12, { w := ins 7 3 0, ph := 1 }, atEng 12 (ins 7 3 0)
     { dumps := [(3, aDump)], dumping := [{ addr := 0, entry := zeros 64, trunc := false }] }, 3, aDump, by decide +kernel⟩,
   ⟨131, 12, { w := ins 7 3 (fld 55 0x1FFFFF + fld 39 2), ph := 1 }, atEng 12 (ins 7 3 (fld 55 0x1FFFFF + fld 39 2)) { dumps := [(3, aDump)] },
     3, aDump, by decide +kernel⟩,
   ⟨131, 12, { w := ins 7 3 (fld 55 0x1FFFFF + fld 39 1), ph := 1 }, atEng 12 (ins 7 3 (fld 55 0x1FFFFF + fld 39 1)) { dumps := [(3, aDump)] },
     3, aDump, by decide +kernel⟩,
   ⟨131, withCore { st := 1, dumping := [{ addr := 0, entry := zeros 41984, trunc := false }] },
     { addr := 0, entry := zeros 41984, trunc := false }, [], by decide +kernel⟩,
   ⟨131, withCore { st := 1, dumping := [{ addr := 0, entry := zeros 64, trunc := false }] }, { addr := 0, entry := zeros 64, trunc := false },
     [], by decide +kernel⟩⟩

/-- States and operands that meet the hypotheses of each clause of SyncInstructionsComplete. -/
theorem witness_SyncInstructionsComplete :
    (∃ p, ∃ e : EI, ∃ s : State, atEngine s p 13 5 1 e = true ∧ (e.region = false ∨ (core s p).open_ = false) ∧ (∀ b ∈ (core s p).brks, b.2.kind
      ≠ 5) ∧ isRemote s e.w = false ∧ targetOf s p e.w = some (⟨false, p, bits e.w 111 104⟩ : ORef) ∧ (obj s (⟨false, p, bits e.w 111 104⟩ :
      ORef)).used = true ∧ (obj s (⟨false, p, bits e.w 111 104⟩ : ORef)).orphaned = false ∧ (obj s (⟨false, p, bits e.w 111 104⟩ : ORef)).barrier
      = false ∧ (obj s (⟨false, p, bits e.w 111 104⟩ : ORef)).value < 2 ^ 32) ∧
    (∃ p, ∃ e : EI, ∃ s : State, atEngine s p 13 5 1 e = true ∧ e.region = true ∧ (core s p).open_ = true ∧ (core s p).defer.length < 16) ∧
    (∃ p, ∃ e : EI, ∃ s : State, atEngine s p 13 5 1 e = true ∧ e.region = true ∧ (core s p).open_ = true ∧ 16 ≤ (core s p).defer.length) ∧
    (∃ p, ∃ e : EI, ∃ s : State, atEngine s p 13 5 3 e = true ∧ (∀ b ∈ (core s p).brks, b.2.kind ≠ 5) ∧ isRemote s e.w = false ∧ targetOf s p e.w
      = some (⟨false, p, bits e.w 111 104⟩ : ORef) ∧ (obj s (⟨false, p, bits e.w 111 104⟩ : ORef)).used = true ∧ (obj s (⟨false, p, bits e.w 111
      104⟩ : ORef)).orphaned = false ∧ (obj s (⟨false, p, bits e.w 111 104⟩ : ORef)).barrier = false) ∧
    (∃ p, ∃ e : EI, ∃ s : State, atEngine s p 13 5 2 e = true ∧ (∀ b ∈ (core s p).brks, b.2.kind ≠ 5) ∧ isRemote s e.w = false ∧ targetOf s p e.w
      = some (⟨false, p, bits e.w 111 104⟩ : ORef) ∧ (obj s (⟨false, p, bits e.w 111 104⟩ : ORef)).used = true ∧ (obj s (⟨false, p, bits e.w 111
      104⟩ : ORef)).orphaned = false) ∧
    (∃ r : ORef, ∃ w : Waiter, ∃ s : State, w.v ≤ (obj s r).value ∧ w.fresh = true) ∧
    (∃ p, ∃ e : EI, ∃ s : State, atEngine s p 13 5 4 e = true ∧ (∀ b ∈ (core s p).brks, b.2.kind ≠ 5) ∧ isRemote s e.w = false ∧ targetOf s p e.w
      = some (⟨false, p, bits e.w 111 104⟩ : ORef) ∧ (obj s (⟨false, p, bits e.w 111 104⟩ : ORef)).used = true ∧ (obj s (⟨false, p, bits e.w 111
      104⟩ : ORef)).orphaned = false ∧ (obj s (⟨false, p, bits e.w 111 104⟩ : ORef)).barrier = true ∧ (bits e.w 79 48 = 0 ∨ bits e.w 79 48 = (obj
      s (⟨false, p, bits e.w 111 104⟩ : ORef)).parties) ∧ (obj s (⟨false, p, bits e.w 111 104⟩ : ORef)).phase = 0 ∧ (obj s (⟨false, p, bits e.w
      111 104⟩ : ORef)).cur + 1 ≠ (obj s (⟨false, p, bits e.w 111 104⟩ : ORef)).parties) ∧
    (∃ p, ∃ e : EI, ∃ s : State, atEngine s p 13 5 4 e = true ∧ (∀ b ∈ (core s p).brks, b.2.kind ≠ 5) ∧ isRemote s e.w = false ∧ targetOf s p e.w
      = some (⟨false, p, bits e.w 111 104⟩ : ORef) ∧ (obj s (⟨false, p, bits e.w 111 104⟩ : ORef)).used = true ∧ (obj s (⟨false, p, bits e.w 111
      104⟩ : ORef)).orphaned = false ∧ (obj s (⟨false, p, bits e.w 111 104⟩ : ORef)).barrier = true ∧ (bits e.w 79 48 = 0 ∨ bits e.w 79 48 = (obj
      s (⟨false, p, bits e.w 111 104⟩ : ORef)).parties) ∧ (obj s (⟨false, p, bits e.w 111 104⟩ : ORef)).phase = 0 ∧ (obj s (⟨false, p, bits e.w
      111 104⟩ : ORef)).cur + 1 = (obj s (⟨false, p, bits e.w 111 104⟩ : ORef)).parties) ∧
    (∃ p, ∃ e : EI, ∃ s : State, atEngine s p 13 5 4 e = true ∧ (∀ b ∈ (core s p).brks, b.2.kind ≠ 5) ∧ isRemote s e.w = false ∧ targetOf s p e.w
      = some (⟨false, p, bits e.w 111 104⟩ : ORef) ∧ (obj s (⟨false, p, bits e.w 111 104⟩ : ORef)).used = true ∧ (obj s (⟨false, p, bits e.w 111
      104⟩ : ORef)).orphaned = false ∧ (obj s (⟨false, p, bits e.w 111 104⟩ : ORef)).barrier = true ∧ (bits e.w 79 48 = 0 ∨ bits e.w 79 48 = (obj
      s (⟨false, p, bits e.w 111 104⟩ : ORef)).parties) ∧ (obj s (⟨false, p, bits e.w 111 104⟩ : ORef)).phase = 1 ∧ (obj s (⟨false, p, bits e.w
      111 104⟩ : ORef)).next + 1 ≤ (obj s (⟨false, p, bits e.w 111 104⟩ : ORef)).parties - (obj s (⟨false, p, bits e.w 111 104⟩ : ORef)).leaving) ∧
    (∃ p, ∃ e : EI, ∃ s : State, atEngine s p 13 5 4 e = true ∧ (∀ b ∈ (core s p).brks, b.2.kind ≠ 5) ∧ isRemote s e.w = false ∧ targetOf s p e.w
      = some (⟨false, p, bits e.w 111 104⟩ : ORef) ∧ (obj s (⟨false, p, bits e.w 111 104⟩ : ORef)).used = true ∧ (obj s (⟨false, p, bits e.w 111
      104⟩ : ORef)).orphaned = false ∧ (obj s (⟨false, p, bits e.w 111 104⟩ : ORef)).barrier = true ∧ (bits e.w 79 48 = 0 ∨ bits e.w 79 48 = (obj
      s (⟨false, p, bits e.w 111 104⟩ : ORef)).parties) ∧ (2 ≤ (obj s (⟨false, p, bits e.w 111 104⟩ : ORef)).phase ∨ (obj s (⟨false, p, bits e.w
      111 104⟩ : ORef)).phase = 1 ∧ (obj s (⟨false, p, bits e.w 111 104⟩ : ORef)).parties - (obj s (⟨false, p, bits e.w 111 104⟩ : ORef)).leaving
      < (obj s (⟨false, p, bits e.w 111 104⟩ : ORef)).next + 1)) ∧
    (∃ p, ∃ e : EI, ∃ s : State, atEngine s p 13 5 5 e = true ∧ (∀ b ∈ (core s p).brks, b.2.kind ≠ 5) ∧ isRemote s e.w = false ∧ targetOf s p e.w
      = some (⟨false, p, bits e.w 111 104⟩ : ORef) ∧ ((obj s (⟨false, p, bits e.w 111 104⟩ : ORef)).used = true ∨ (obj s (⟨false, p, bits e.w 111
      104⟩ : ORef)).orphaned = true) ∧ (obj s (⟨false, p, bits e.w 111 104⟩ : ORef)).waiters = [] ∧ (obj s (⟨false, p, bits e.w 111 104⟩ :
      ORef)).cur = 0 ∧ (obj s (⟨false, p, bits e.w 111 104⟩ : ORef)).next = 0 ∧ (obj s (⟨false, p, bits e.w 111 104⟩ : ORef)).leaving = 0 ∧ (bit
      (bits e.w 79 48) 31 = false ∨ (bits e.w 79 48 % 65536 ≠ 0 ∧ bits (bits e.w 79 48) 30 16 = 0))) ∧
    (∃ p, ∃ e : EI, ∃ s : State, ∃ op, ∃ c, (c, op) ∈ [(Instr.signal p, 1), (.waitSync p, 2), (.decrement p, 3), (.barrier p, 4)] ∧ atEngine s p
      13 5 op e = true ∧ (e.region = false ∨ (core s p).open_ = false) ∧ (∀ b ∈ (core s p).brks, b.2.kind ≠ 5) ∧ isRemote s e.w = false ∧
      targetOf s p e.w = some (⟨false, p, bits e.w 111 104⟩ : ORef) ∧ ((obj s (⟨false, p, bits e.w 111 104⟩ : ORef)).orphaned = true ∨ (obj s
      (⟨false, p, bits e.w 111 104⟩ : ORef)).used = false ∨ op ≠ 2 ∧ (obj s (⟨false, p, bits e.w 111 104⟩ : ORef)).barrier = (op != 4))) ∧
    (∃ p, ∃ e : EI, ∃ s : State, ∃ op, ∃ c, ∃ dest, ∃ r, (c, op) ∈ [(Instr.signal p, 1), (.waitSync p, 2), (.decrement p, 3), (.barrier p, 4),
      (.initSync p, 5)] ∧ atEngine s p 13 5 op e = true ∧ (e.region = false ∨ (core s p).open_ = false) ∧ (isRemote s e.w = true ∧ s.chip.isSome
      = true ∧ routeLost s (bits e.w 95 80) = false ∧ dest = bits e.w 95 80 ∨ isRemote s e.w = false ∧ targetOf s p e.w = some r ∧ (r.hub = true
      ∨ r.p ≠ p) ∧ dest = chipId s)) :=
  ⟨⟨131, { w := syncW 1 1, ph := 1 }, atEng 13 (syncW 1 1) { sync := [(47, { flags := 32, value := 0xFFFFFFFF })] }, by decide +kernel⟩,
   ⟨131, { w := syncW 1 1, ph := 1, region := true }, withCore
     { st := 1, open_ := true, run := [(13, [{ w := syncW 1 1, ph := 1, region := true }])] }, by decide +kernel⟩,
   ⟨131, { w := syncW 1 1, ph := 1, region := true }, withCore
     { st := 1, open_ := true, defer := List.replicate 16 { w := 0 }, run := [(13, [{ w := syncW 1 1, ph := 1, region := true }])] },
     by decide +kernel⟩,
   ⟨131, { w := syncW 3 1, ph := 1 }, atEng 13 (syncW 3 1) { sync := [(47, { flags := 32 })] }, by decide +kernel⟩,
   ⟨131, { w := syncW 2 1, ph := 1 }, atEng 13 (syncW 2 1) { sync := [(47, { flags := 32 })] }, by decide +kernel⟩,
   ⟨⟨true, 0, 255⟩, aWait, State.reset, by decide +kernel⟩,
   ⟨131, { w := syncW 4 0, ph := 1 }, atEng 13 (syncW 4 0) { sync := [(47, { flags := 65536 * 2 + 48 })] }, by decide +kernel⟩,
   ⟨131, { w := syncW 4 1, ph := 1 }, atEng 13 (syncW 4 1) { sync := [(47, { flags := 65536 * 1 + 48 })] }, by decide +kernel⟩,
   ⟨131, { w := syncW 4 2, ph := 1 }, atEng 13 (syncW 4 2) { sync := [(47, { flags := 65536 * 2 + 64 + 48, leaving := 1 })] }, by decide +kernel⟩,
   ⟨131, { w := syncW 4 2, ph := 1 }, atEng 13 (syncW 4 2) { sync := [(47, { flags := 65536 * 2 + 64 + 48, leaving := 2 })] }, by decide +kernel⟩,
   ⟨131, { w := syncW 5 0x80000001, ph := 1 }, atEng 13 (syncW 5 0x80000001) { sync := [(47, { flags := 32 })] }, by decide +kernel⟩,
   ⟨131, { w := syncW 1 1, ph := 1 }, atEng 13 (syncW 1 1) {}, 1, .signal 131, by decide +kernel⟩,
   ⟨131, { w := ins 5 1 (fld 113 1), ph := 1 }, atEng 13 (ins 5 1 (fld 113 1)) {}, 1, .signal 131, chipId State.reset, ⟨true, 0, 0⟩,
     by decide +kernel⟩⟩

/-- States and operands that meet the hypotheses of each clause of SyncMessagesComplete. -/
theorem witness_SyncMessagesComplete :
    (∃ i, ∃ s : State, ∃ t, ∃ u, ∃ r, ∃ z, ∃ st, ∃ sat, ∃ ovr, ∃ v, frozen s = false ∧ takeSync i (fun op => decide (1 ≤ op) && decide (op ≤ 5))
      s = some (t, u) ∧ tagObj u (tagOf t.tag).workId = some r ∧ syncOp r (tagOp t) (beAt t.body 0 4)
      ({ unit := (tagOf t.tag).unit, chip := (tagOf t.tag).chip, remote := t.link != 8, wid := (tagOf t.tag).workId, version := (tagOf t.tag).version })
      u = (some (st, sat, ovr, v), z)) ∧
    (∃ i, ∃ s : State, ∃ t, ∃ u, ∃ r, ∃ z, frozen s = false ∧ takeSync i (fun op => decide (1 ≤ op) && decide (op ≤ 5)) s = some (t, u) ∧ tagObj
      u (tagOf t.tag).workId = some r ∧ syncOp r (tagOp t) (beAt t.body 0 4)
      ({ unit := (tagOf t.tag).unit, chip := (tagOf t.tag).chip, remote := t.link != 8, wid := (tagOf t.tag).workId, version := (tagOf t.tag).version })
      u = (none, z) ∧ tagOp t = 2) ∧
    (∃ i, ∃ s : State, ∃ t, ∃ u, ∃ r, ∃ z, frozen s = false ∧ takeSync i (fun op => decide (1 ≤ op) && decide (op ≤ 5)) s = some (t, u) ∧ tagObj
      u (tagOf t.tag).workId = some r ∧ syncOp r (tagOp t) (beAt t.body 0 4)
      ({ unit := (tagOf t.tag).unit, chip := (tagOf t.tag).chip, remote := t.link != 8, wid := (tagOf t.tag).workId, version := (tagOf t.tag).version })
      u = (none, z) ∧ tagOp t ≠ 2 ∧ bit (tagOf t.tag).workId 28 = false) ∧
    (∃ i, ∃ s : State, ∃ t, ∃ u, frozen s = false ∧ takeSync i (fun op => decide (1 ≤ op) && decide (op ≤ 5)) s = some (t, u) ∧ tagObj u (tagOf
      t.tag).workId = none ∧ bit (tagOf t.tag).workId 28 = false) ∧
    (∃ i, ∃ s : State, ∃ t, ∃ u, ∃ e, frozen s = false ∧ takeSync i (fun op => op == 6) s = some (t, u) ∧ waitingSync u (bits (tagOf
      t.tag).workId 27 20) (tagOf t.tag).chip (tagOf t.tag).workId = some e) ∧
    (∃ i, ∃ s : State, ∃ t, ∃ u, frozen s = false ∧ takeSync i (fun op => op == 7) s = some (t, u)) ∧
    (∃ i, ∃ s : State, ∃ t, ∃ u, ∃ r, frozen s = false ∧ takeSync i (fun op => op == 8) s = some (t, u) ∧ tagObj u (tagOf t.tag).workId = some r
      ∧ (if (tagOf t.tag).unit = 0xE6 ∧ t.link ≠ 8 then (65536 + t.link, 0xE6) else ((tagOf t.tag).chip, (tagOf t.tag).unit)) ∈ (obj u r).due) ∧
    (∃ i, ∃ s : State, ∃ t, ∃ u, ∃ r, frozen s = false ∧ takeSync i (fun op => op == 8) s = some (t, u) ∧ tagObj u (tagOf t.tag).workId = some r
      ∧ (if (tagOf t.tag).unit = 0xE6 ∧ t.link ≠ 8 then (65536 + t.link, 0xE6) else ((tagOf t.tag).chip, (tagOf t.tag).unit)) ∉ (obj u r).due) ∧
    (∃ i, ∃ s : State, ∃ t, ∃ u, frozen s = false ∧ takeSync i (fun op => op == 9) s = some (t, u) ∧ (obj u (⟨true, 0, (tagOf t.tag).workId %
      256⟩ : ORef)).used = true ∧ (obj u (⟨true, 0, (tagOf t.tag).workId % 256⟩ : ORef)).barrier = true ∧ (obj u (⟨true, 0, (tagOf t.tag).workId
      % 256⟩ : ORef)).orphaned = false ∧ bit (obj u (⟨true, 0, (tagOf t.tag).workId % 256⟩ : ORef)).children t.link = true) ∧
    (∃ i, ∃ s : State, ∃ t, ∃ u, frozen s = false ∧ takeSync i (fun op => op == 10) s = some (t, u) ∧ (obj u (⟨true, 0, (tagOf t.tag).workId %
      256⟩ : ORef)).used = true ∧ (obj u (⟨true, 0, (tagOf t.tag).workId % 256⟩ : ORef)).orphaned = false ∧ (obj u (⟨true, 0, (tagOf
      t.tag).workId % 256⟩ : ORef)).phase = 2 ∧ (obj u (⟨true, 0, (tagOf t.tag).workId % 256⟩ : ORef)).parent = t.link + 1) ∧
    (∃ i, ∃ s : State, ∃ t, ∃ u, frozen s = false ∧ takeSync i (fun op => op == 11) s = some (t, u) ∧ (bit (obj u (⟨true, 0, (tagOf t.tag).workId
      % 256⟩ : ORef)).children t.link = true ∨ (obj u (⟨true, 0, (tagOf t.tag).workId % 256⟩ : ORef)).parent = t.link + 1) ∧ (obj u (⟨true, 0,
      (tagOf t.tag).workId % 256⟩ : ORef)).used = true ∧ (obj u (⟨true, 0, (tagOf t.tag).workId % 256⟩ : ORef)).orphaned = false) ∧
    (∃ i, ∃ s : State, ∃ t, ∃ u, ∃ r, frozen s = false ∧ takeSync i (fun op => op == 12) s = some (t, u) ∧ tagObj u (tagOf t.tag).workId = some
      r) ∧
    (∃ p, ∃ s : State, ∃ e, frozen s = false ∧ (runAt (core s p) 13).find? (fun e => e.ph == 2 && !e.held && e.chip != chipId s && decide (e.sent
      + 100000 ≤ now s)) = some e) :=
  ⟨⟨0, inboxed (syncTag 1 0xFFFF) [(255, { flags := 32 })], syncTag 1 0xFFFF, inboxless [(255, { flags := 32 })], ⟨true, 0, 255⟩, (onHub 1 0x1000000
  { flags := 32 }).2, 0, false, false, 0x1000000, by decide +kernel⟩,
   ⟨0, inboxed (syncTag 2 0xFFFF) [(255, { flags := 32 })], syncTag 2 0xFFFF, inboxless [(255, { flags := 32 })], ⟨true, 0, 255⟩, (onHub 2
     0x1000000 { flags := 32 }).2, by decide +kernel⟩,
   ⟨0, inboxed { syncTag 4 0xFFFF with body := zeros 8 } [(255, { flags := 0x20030 })], { syncTag 4 0xFFFF with body := zeros 8 }, inboxless
     [(255, { flags := 0x20030 })], ⟨true, 0, 255⟩, (onHub 4 0 { flags := 0x20030 }).2, by decide +kernel⟩,
   ⟨0, inboxed (syncTag 1 0xFEFF) [], syncTag 1 0xFEFF, inboxless [], by decide +kernel⟩,
   ⟨0,
     { withCore { st := 1, run := [(13, [{ w := 0, ph := 2, chip := 5, wid := 131 * 2 ^ 20 + 6 * 65536 }])] } with inbox := [syncTag 6 (131 * 2 ^ 20)] },
     syncTag 6 (131 * 2 ^ 20), withCore { st := 1, run := [(13, [{ w := 0, ph := 2, chip := 5, wid := 131 * 2 ^ 20 + 6 * 65536 }])] },
     { w := 0, ph := 2, chip := 5, wid := 131 * 2 ^ 20 + 6 * 65536 }, by decide +kernel⟩,
   ⟨0, inboxed (syncTag 7 0) [], syncTag 7 0, inboxless [], by decide +kernel⟩,
   ⟨0, inboxed (syncTag 8 0xFFFF) [(255, { due := [(5, 0)] })], syncTag 8 0xFFFF, inboxless [(255, { due := [(5, 0)] })], ⟨true, 0, 255⟩,
     by decide +kernel⟩,
   ⟨0, inboxed (syncTag 8 0xFFFF) [], syncTag 8 0xFFFF, inboxless [], ⟨true, 0, 255⟩, by decide +kernel⟩,
   ⟨0, inboxed (syncTag 9 0xFFFF) [(255, { flags := 48, children := 128 })], syncTag 9 0xFFFF, inboxless [(255,
     { flags := 48, children := 128 })], by decide +kernel⟩,
   ⟨0, inboxed (syncTag 10 0xFFFF) [(255, { flags := 32 + 128, parent := 8 })], syncTag 10 0xFFFF, inboxless [(255,
     { flags := 32 + 128, parent := 8 })], by decide +kernel⟩,
   ⟨0, inboxed (syncTag 11 0xFFFF) [(255, { flags := 32, children := 128 })], syncTag 11 0xFFFF, inboxless [(255,
     { flags := 32, children := 128 })], by decide +kernel⟩,
   ⟨0, inboxed (syncTag 12 0xFFFF) [], syncTag 12 0xFFFF, inboxless [], ⟨true, 0, 255⟩, by decide +kernel⟩,
   ⟨131, atNs 100000 (withCore { st := 1, run := [(13, [{ w := 0, ph := 2, chip := 5 }])] }), { w := 0, ph := 2, chip := 5 }, by decide +kernel⟩⟩

/-- States and operands that meet the hypotheses of each clause of RecordsAndCadencesComplete. -/
theorem witness_RecordsAndCadencesComplete :
    (∃ d, ∃ s : State, (frozen s = true ∨ mgetD s.records d [] = [])) ∧
    (∃ d, ∃ s : State, ∃ a, ∃ r, ∃ l, frozen s = false ∧ mgetD s.records d [] = (a, r) :: l ∧ (recordHeld s r = true ∨ recordReady s a = false ∨
      ∃ e ∈ s.records, ∃ y ∈ e.2, y.1 < a)) ∧
    (∃ d, ∃ s : State, ∃ a, ∃ r, ∃ l, ∃ i, frozen s = false ∧ mgetD s.records d [] = (a, r) :: l ∧ recordHeld s r = false ∧ recordReady s a =
      true ∧ (∀ e ∈ s.records, ∀ y ∈ e.2, a ≤ y.1) ∧ resolve ({ s with records := msetD s.records d l [] }) r = some i ∧ recordRow
      ({ s with records := msetD s.records d l [] }) (some i) r = 4) ∧
    (∃ d, ∃ s : State, ∃ a, ∃ r, ∃ l, frozen s = false ∧ mgetD s.records d [] = (a, r) :: l ∧ recordHeld s r = false ∧ recordReady s a = true ∧
      (∀ e ∈ s.records, ∀ y ∈ e.2, a ≤ y.1) ∧ (resolve ({ s with records := msetD s.records d l [] }) r = none ∨ recordRow
      ({ s with records := msetD s.records d l [] }) (resolve ({ s with records := msetD s.records d l [] }) r) r = 0)) ∧
    (∃ d, ∃ s : State, ∃ a, ∃ r, ∃ l, ∃ i, frozen s = false ∧ mgetD s.records d [] = (a, r) :: l ∧ recordHeld s r = false ∧ recordReady s a =
      true ∧ (∀ e ∈ s.records, ∀ y ∈ e.2, a ≤ y.1) ∧ resolve ({ s with records := msetD s.records d l [] }) r = some i ∧ (recordRow
      ({ s with records := msetD s.records d l [] }) (some i) r = 1 ∨ recordRow ({ s with records := msetD s.records d l [] }) (some i) r = 2)) ∧
    (∃ i, ∃ s : State, ∃ k, i < 65536 ∧ scValid s.ver.newest.objs i = true ∧ (ctxOf s i).st ≠ 0 ∧ (tplCadMode (scTpl s.ver.newest.objs i) = 2 ∨
      tplCadMode (scTpl s.ver.newest.objs i) = 3 ∧ (ctxOf s i).since ≠ 0) ∧ lastTick (scTpl s.ver.newest.objs i) (now s) = some k ∧ now s ≤ k +
      50 ∧ (ctxOf s i).tick ≤ k ∧ (ctxOf s i).evt ≠ now s + 1 ∧ (holding s = true ∨ recordWaits s (tplHome (scTpl s.ver.newest.objs i)) i =
      false)) ∧
    (∃ i, ∃ s : State, ∃ k, i < 65536 ∧ scValid s.ver.newest.objs i = true ∧ (ctxOf s i).st ≠ 0 ∧ (tplCadMode (scTpl s.ver.newest.objs i) = 3 ∧
      (ctxOf s i).since = 0 ∨ (tplCadMode (scTpl s.ver.newest.objs i) = 2 ∨ tplCadMode (scTpl s.ver.newest.objs i) = 3) ∧ (ctxOf s i).evt = now s
      + 1) ∧ lastTick (scTpl s.ver.newest.objs i) (now s) = some k ∧ now s ≤ k + 50 ∧ (ctxOf s i).tick ≤ k ∧ (holding s = true ∨ recordWaits s
      (tplHome (scTpl s.ver.newest.objs i)) i = false)) ∧
    (∃ i, ∃ s : State, (65536 ≤ i ∨ scValid s.ver.newest.objs i = false ∨ (ctxOf s i).st = 0 ∨ tplCadMode (scTpl s.ver.newest.objs i) < 2 ∨
      lastTick (scTpl s.ver.newest.objs i) (now s) = none ∨ (∃ k, lastTick (scTpl s.ver.newest.objs i) (now s) = some k ∧ (50 < now s - k ∨ k <
      (ctxOf s i).tick ∨ holding s = false ∧ recordWaits s (tplHome (scTpl s.ver.newest.objs i)) i = true)))) ∧
    (∃ t : Bytes, ∃ s : State, pickInst s s.ver.newest.objs (tplModel t) (tplInst t) = none) ∧
    (∃ i, ∃ t : Bytes, ∃ s : State, ∃ k, pickInst s s.ver.newest.objs (tplModel t) (tplInst t) = some k ∧ ((inst? s k).isSome = false ∨ 1024 ≤
      queuedJobs s k ∨ ctxState s i ≠ 1 ∨ u8 t 7 ≤ (ctxOf s i).inflight)) ∧
    (∃ i, ∃ t : Bytes, ∃ s : State, ∃ k, pickInst s s.ver.newest.objs (tplModel t) (tplInst t) = some k ∧ (inst? s k).isSome = true ∧ queuedJobs
      s k < 1024 ∧ ctxState s i = 1 ∧ (ctxOf s i).inflight < u8 t 7) :=
  ⟨⟨1, State.reset, by decide +kernel⟩,
   ⟨1, { streamUp 0 with slices := [(sliceKey 63 1, aSlice)] }, 1, aRecord, [], by decide +kernel⟩,
   ⟨1, streamUp 0, 1, aRecord, [], 65535, by decide +kernel⟩,
   ⟨1, { records := [(1, [(1, aRecord)])] }, 1, aRecord, [], by decide +kernel⟩,
   ⟨1, { streamUp 0 with records := [(1, [(1, longRecord)])] }, 1, longRecord, [], 65535, by decide +kernel⟩,
   ⟨65535, atNs 1050 { streamUp 4 with records := [] }, 1000, by decide +kernel⟩,
   ⟨65535, atNs 1050 { streamUp 4 with records := [], ctx := [(65535, { st := 1, evt := 1051 })] }, 1000, by decide +kernel⟩,
   ⟨65535, State.reset, .inr (.inl rfl)⟩,
   ⟨zeros 64, State.reset, by decide +kernel⟩,
   ⟨65535, bs [0, 0, 0, 1, 127, 0, 0, 0], modelUp, 127, by decide +kernel⟩,
   ⟨65535, bs [0, 0, 0, 1, 127, 0, 0, 1],
     { modelUp with ver := { newest := { (streamUp 0).ver.newest with objs := { (streamUp 0).ver.newest.objs with models := modelUp.ver.newest.objs.models } } }, ctx := [(65535, { st := 1 })] },
     127, by decide +kernel⟩⟩

/-- States and operands that meet the hypotheses of each clause of JobsComplete. -/
theorem witness_JobsComplete :
    (∃ i, ∃ s : State, ∃ t, ∃ u, ∃ k, frozen s = false ∧ takeTag i (fun t => t.kind == 2) s = some (t, u) ∧ (liveObjs u (tagOf
      t.tag).version).isSome = true ∧ pickInst u (objsOf u (tagOf t.tag).version) (u8 t.body 0) (u8 t.body 1) = some k ∧ (inst? u k).isSome =
      true ∧ (isLate (tagOf t.tag).deadline (now u) = false ∨ (tagOf t.tag).lateOk = true) ∧ queuedJobs u k < 1024) ∧
    (∃ i, ∃ s : State, ∃ t, ∃ u, ∃ k, frozen s = false ∧ takeTag i (fun t => t.kind == 2) s = some (t, u) ∧ (liveObjs u (tagOf
      t.tag).version).isSome = true ∧ pickInst u (objsOf u (tagOf t.tag).version) (u8 t.body 0) (u8 t.body 1) = some k ∧ (inst? u k).isSome =
      true ∧ isLate (tagOf t.tag).deadline (now u) = true ∧ (tagOf t.tag).lateOk = false) ∧
    (∃ i, ∃ s : State, ∃ t, ∃ u, ∃ k, frozen s = false ∧ takeTag i (fun t => t.kind == 2) s = some (t, u) ∧ (liveObjs u (tagOf
      t.tag).version).isSome = true ∧ pickInst u (objsOf u (tagOf t.tag).version) (u8 t.body 0) (u8 t.body 1) = some k ∧ (inst? u k).isSome =
      true ∧ (isLate (tagOf t.tag).deadline (now u) = false ∨ (tagOf t.tag).lateOk = true) ∧ 1024 ≤ queuedJobs u k) ∧
    (∃ i, ∃ s : State, ∃ t, ∃ u, frozen s = false ∧ takeTag i (fun t => t.kind == 2) s = some (t, u) ∧ liveObjs u (tagOf t.tag).version = none) ∧
    (∃ i, ∃ s : State, ∃ t, ∃ u, frozen s = false ∧ takeTag i (fun t => t.kind == 2) s = some (t, u) ∧ (liveObjs u (tagOf t.tag).version).isSome
      = true ∧ pickInst u (objsOf u (tagOf t.tag).version) (u8 t.body 0) (u8 t.body 1) = none) ∧
    (∃ i, ∃ s : State, (frozen s = true ∨ takeTag i (fun t => t.kind == 2) s = none)) ∧
    (∃ i, ∃ s : State, ∃ x, ∃ j, ∃ f, ∃ n, frozen s = false ∧ inst? s i = some x ∧ headJob x = some j ∧ x.running = none ∧ j.saved = [] ∧ jobsRun
      s = true ∧ x.out = false ∧ placeOf (objsOf s j.version) i = (f, n) ∧ n ≠ 0 ∧ coresIdle s f n = true ∧ refuses s (objsOf s j.version) i =
      false ∧ (isLate j.deadline (now s) = false ∨ j.lateOk = true)) ∧
    (∃ i, ∃ s : State, ∃ x, ∃ j, ∃ f, ∃ n, frozen s = false ∧ inst? s i = some x ∧ headJob x = some j ∧ x.running = none ∧ j.saved = [] ∧ jobsRun
      s = true ∧ x.out = false ∧ placeOf (objsOf s j.version) i = (f, n) ∧ (refuses s (objsOf s j.version) i = true ∨ n ≠ 0 ∧ coresIdle s f n =
      true) ∧ isLate j.deadline (now s) = true ∧ j.lateOk = false) ∧
    (∃ i, ∃ s : State, ∃ x, ∃ j, ∃ k, frozen s = false ∧ inst? s i = some x ∧ headJob x = some j ∧ x.running = none ∧ j.saved = [] ∧ jobsRun s =
      true ∧ x.out = false ∧ refuses s (objsOf s j.version) i = true ∧ (isLate j.deadline (now s) = false ∨ j.lateOk = true) ∧ otherInst s
      (objsOf s j.version) i j = some k) ∧
    (∃ i, ∃ s : State, ∃ x, ∃ j, frozen s = false ∧ inst? s i = some x ∧ headJob x = some j ∧ x.running = none ∧ j.saved = [] ∧ jobsRun s = true
      ∧ x.out = true) ∧
    (∃ i, ∃ s : State, (frozen s = true ∨ inst? s i = none ∨ (∃ x, inst? s i = some x ∧ (headJob x = none ∨ x.running.isSome = true)))) ∧
    (∃ p, ∃ a, ∃ s : State, ∃ i, ∃ x, ∃ j, ∃ st, coreOn s p = true ∧ ((core s p).st = 3 ∨ (core s p).st = 2 ∧ (core s p).preempt = true) ∧ (core
      s p).open_ = false ∧ allEmpty (core s p) = true ∧ inHbm s a saveLen = true ∧ (core s p).inst = some i ∧ inst? s i = some x ∧ x.running =
      some j ∧ (core s p).stop = some st) ∧
    (∃ p, ∃ a, ∃ s : State, ∃ i, ∃ x, ∃ j, coreOn s p = true ∧ ((core s p).st = 3 ∨ (core s p).st = 2 ∧ (core s p).preempt = true) ∧ (core s
      p).open_ = false ∧ allEmpty (core s p) = true ∧ inHbm s a saveLen = true ∧ (core s p).inst = some i ∧ inst? s i = some x ∧ x.running = some
      j ∧ (core s p).stop = none) ∧
    (∃ i, ∃ s : State, ∃ x, ∃ j, ∃ f, ∃ sv, frozen s = false ∧ inst? s i = some x ∧ headJob x = some j ∧ x.running = none ∧ j.saved = [(0, sv)] ∧
      x.out = false ∧ jobsRun s = true ∧ placeOf (objsOf s j.version) i = (f, 1) ∧ coresIdle s f 1 = true ∧ contextPoison s sv.area = none) ∧
    (∃ i, ∃ s : State, ∃ x, ∃ j, ∃ f, ∃ sv, ∃ a, frozen s = false ∧ inst? s i = some x ∧ headJob x = some j ∧ x.running = none ∧ j.saved = [(0,
      sv)] ∧ x.out = false ∧ jobsRun s = true ∧ placeOf (objsOf s j.version) i = (f, 1) ∧ coresIdle s f 1 = true ∧ contextPoison s sv.area = some
      a) ∧
    (∃ i, ∃ s : State, ∃ x, ∃ j, frozen s = false ∧ inst? s i = some x ∧ x.running = some j ∧ (∀ r, r < x.ranks → (mget j.ended r).isSome =
      true)) ∧
    (∃ i, ∃ s : State, ∃ x, frozen s = false ∧ inst? s i = some x ∧ x.loading = true ∧ s.sys.level = 0 ∧ s.ch.pwr = 0) ∧
    (∃ i, ∃ s : State, ∃ x, frozen s = false ∧ inst? s i = some x ∧ x.loading = false ∧ x.swap ≠ 0 ∧ s.ch.pwr ≠ 1 ∧ x.running = none ∧ (∀ j ∈
      x.queue, j.version = x.swap)) :=
  ⟨⟨0, { modelUp with inbox := [jobTag] }, jobTag, modelUp, 127, by decide +kernel⟩,
   ⟨0, { modelUp with inbox := [jobLate] }, jobLate, modelUp, 127, by decide +kernel⟩,
   ⟨0, { jobUp { anInst with queue := List.replicate 1024 theJob } with inbox := [jobTag] }, jobTag, jobUp
     { anInst with queue := List.replicate 1024 theJob }, 127, by decide +kernel⟩,
   ⟨0, { inbox := [jobTag] }, jobTag, State.reset, by decide +kernel⟩,
   ⟨0, { streamUp 0 with inbox := [jobTag] }, jobTag, streamUp 0, by decide +kernel⟩,
   ⟨0, State.reset, by decide +kernel⟩,
   ⟨127, jobUp { anInst with queue := [theJob] }, { anInst with queue := [theJob] }, theJob, 0, 1, by decide +kernel⟩,
   ⟨127, jobUp { anInst with queue := [lateJob] }, { anInst with queue := [lateJob] }, lateJob, 0, 1, by decide +kernel⟩,
   ⟨127, twoUp, { anInst with queue := [anyJob] }, anyJob, 126, by decide +kernel⟩,
   ⟨127, jobUp { anInst with queue := [theJob], out := true }, { anInst with queue := [theJob], out := true }, theJob, by decide +kernel⟩,
   ⟨127, State.reset, .inr (.inl rfl)⟩,
   ⟨131, 0, saving { st := 3, inst := some 127, stop := some 5 }, 127, { anInst with running := some theJob }, theJob, 5, by decide +kernel⟩,
   ⟨131, 0, saving { st := 3, inst := some 127 }, 127, { anInst with running := some theJob }, theJob, by decide +kernel⟩,
   ⟨127, jobUp { anInst with queue := [{ theJob with saved := [(0, aSave)] }] },
     { anInst with queue := [{ theJob with saved := [(0, aSave)] }] }, { theJob with saved := [(0, aSave)] }, 0, aSave, by decide +kernel⟩,
   ⟨127, { jobUp { anInst with queue := [{ theJob with saved := [(0, aSave)] }] } with mem := { poison := [0] } },
     { anInst with queue := [{ theJob with saved := [(0, aSave)] }] }, { theJob with saved := [(0, aSave)] }, 0, aSave, 0, by decide +kernel⟩,
   ⟨127, jobUp { anInst with running := some { theJob with ended := [(0, 0)] } },
     { anInst with running := some { theJob with ended := [(0, 0)] } }, { theJob with ended := [(0, 0)] }, by decide +kernel⟩,
   ⟨127, jobUp { anInst with loading := true }, { anInst with loading := true }, by decide +kernel⟩,
   ⟨127, jobUp { anInst with swap := 1, queue := [theJob] }, { anInst with swap := 1, queue := [theJob] }, by decide +kernel⟩⟩

/-- States and operands that meet the hypotheses of each clause of ResultsComplete. -/
theorem witness_ResultsComplete :
    (∃ d, ∃ s : State, ∃ x, resultNext s d = some x ∧ x ∈ s.results ∧ x.job.die s = d ∧ ∀ y ∈ s.results, y.job.die s = d) ∧
    (∃ d, ∃ s : State, (frozen s = true ∨ resultNext s d = none)) ∧
    (∃ d, ∃ s : State, ∃ x, frozen s = false ∧ resultNext s d = some x ∧ x.status = 0 ∧ isLate x.job.deadline (now s) = false) ∧
    (∃ d, ∃ s : State, ∃ x, frozen s = false ∧ resultNext s d = some x ∧ x.status = 0 ∧ isLate x.job.deadline (now s) = true ∧ x.job.lateOk =
      true ∧ x.job.stream = 0xFFFF) ∧
    (∃ d, ∃ s : State, ∃ x, frozen s = false ∧ resultNext s d = some x ∧ x.status = 0 ∧ isLate x.job.deadline (now s) = true ∧ x.job.lateOk =
      true ∧ x.job.stream ≠ 0xFFFF) ∧
    (∃ d, ∃ s : State, ∃ x, frozen s = false ∧ resultNext s d = some x ∧ x.status = 0 ∧ isLate x.job.deadline (now s) = true ∧ x.job.lateOk =
      false) ∧
    (∃ d, ∃ s : State, ∃ x, frozen s = false ∧ resultNext s d = some x ∧ x.status ≠ 0) ∧
    (∃ i, ∃ s : State, (frozen s = true ∨ takeTag i (fun t => t.kind == 3 && (t.unit == 0xE4 || t.unit == 0xEC)) s = none)) ∧
    (∃ i, ∃ s : State, ∃ t, ∃ u, frozen s = false ∧ takeTag i (fun t => t.kind == 3 && (t.unit == 0xE4 || t.unit == 0xEC)) s = some (t, u) ∧
      (isLate (tagOf t.tag).deadline (now u) = false ∨ (tagOf t.tag).lateOk = true) ∧ (bit (beAt t.body 0 8) 62 = false ∨ t.body.length ≤ 8)) ∧
    (∃ i, ∃ s : State, ∃ t, ∃ u, frozen s = false ∧ takeTag i (fun t => t.kind == 3 && (t.unit == 0xE4 || t.unit == 0xEC)) s = some (t, u) ∧ 8 <
      t.body.length ∧ bit (beAt t.body 0 8) 62 = true ∧ (isLate (tagOf t.tag).deadline (now u) = false ∨ (tagOf t.tag).lateOk = true ∧ u8
      (t.body.drop 8) 8 % 2 = 1)) ∧
    (∃ i, ∃ s : State, ∃ t, ∃ u, frozen s = false ∧ takeTag i (fun t => t.kind == 3 && (t.unit == 0xE4 || t.unit == 0xEC)) s = some (t, u) ∧ 8 <
      t.body.length ∧ bit (beAt t.body 0 8) 62 = true ∧ isLate (tagOf t.tag).deadline (now u) = true ∧ (tagOf t.tag).lateOk = true ∧ u8
      (t.body.drop 8) 8 % 2 = 0) ∧
    (∃ i, ∃ s : State, ∃ t, ∃ u, frozen s = false ∧ takeTag i (fun t => t.kind == 3 && (t.unit == 0xE4 || t.unit == 0xEC)) s = some (t, u) ∧
      isLate (tagOf t.tag).deadline (now u) = true ∧ (tagOf t.tag).lateOk = false ∧ bit (beAt t.body 0 8) 62 = false) ∧
    (∃ i, ∃ s : State, ∃ t, ∃ u, frozen s = false ∧ takeTag i (fun t => t.kind == 3 && (t.unit == 0xE4 || t.unit == 0xEC)) s = some (t, u) ∧ 8 <
      t.body.length ∧ bit (beAt t.body 0 8) 62 = true ∧ isLate (tagOf t.tag).deadline (now u) = true ∧ (tagOf t.tag).lateOk = false) :=
  ⟨⟨0, { results := [aRes] }, aRes, by decide +kernel⟩,
   ⟨0, State.reset, by decide +kernel⟩,
   ⟨0, { results := [aRes] }, aRes, by decide +kernel⟩,
   ⟨0, { results := [{ aRes with job := okLate 0xFF }] }, { aRes with job := okLate 0xFF }, by decide +kernel⟩,
   ⟨0, { results := [{ aRes with job := okLate 0xFE }] }, { aRes with job := okLate 0xFE }, by decide +kernel⟩,
   ⟨0, { results := [{ aRes with job := lateJob }] }, { aRes with job := lateJob }, by decide +kernel⟩,
   ⟨0, { results := [{ aRes with status := 7 }] }, { aRes with status := 7 }, by decide +kernel⟩,
   ⟨0, State.reset, by decide +kernel⟩,
   ⟨0, { inbox := [retTag 0] }, retTag 0, State.reset, by decide +kernel⟩,
   ⟨0, { inbox := [retTag 0x40] }, retTag 0x40, State.reset, by decide +kernel⟩,
   ⟨0, { inbox := [retLate 0x40 true] }, retLate 0x40 true, State.reset, by decide +kernel⟩,
   ⟨0, { inbox := [retLate 0 false] }, retLate 0 false, State.reset, by decide +kernel⟩,
   ⟨0, { inbox := [retLate 0xC0 false] }, retLate 0xC0 false, State.reset, by decide +kernel⟩⟩

/-- States and operands that meet the hypotheses of each clause of MemoryEventsComplete. -/
theorem witness_MemoryEventsComplete :
    (∃ i j : Nat, i ≠ j) ∧
    (∃ a, ∃ e1, ∃ w1, ∃ s : State, (down s = true ∨ inHbm s a 1 = false ∨ a / 64 ∉ s.mem.poison ∧ rsRead e1 w1 = 0)) ∧
    (∃ a, ∃ s : State, down s = false ∧ inHbm s a 1 = true ∧ a / 64 ∈ s.mem.poison) ∧
    (∃ a, ∃ e1, ∃ w1, ∃ s : State, down s = false ∧ inHbm s a 1 = true ∧ a / 64 ∉ s.mem.poison ∧ rsRead e1 w1 = 1) ∧
    (∃ a, ∃ e1, ∃ w1, ∃ s : State, down s = false ∧ inHbm s a 1 = true ∧ a / 64 ∉ s.mem.poison ∧ rsRead e1 w1 = 3) ∧
    (∃ a, ∃ e1, ∃ e2, ∃ w1, ∃ w2, ∃ s : State, down s = false ∧ inHbm s a 1 = true ∧ a / 64 ∉ s.mem.poison ∧ rsRead e1 w1 = 2 ∧ rsRead e2 w2 ≠ 2) ∧
    (∃ a, ∃ e1, ∃ e2, ∃ w1, ∃ w2, ∃ s : State, down s = false ∧ inHbm s a 1 = true ∧ a / 64 ∉ s.mem.poison ∧ rsRead e1 w1 = 2 ∧ rsRead e2 w2 = 2) ∧
    (∃ p, ∃ row, ∃ s : State, down s = false ∧ (p, row) ∈ s.mem.repairs) ∧
    (∃ p, ∃ row, ∃ s : State, down s = false ∧ (p, row) ∈ s.mem.repairs) ∧
    (∃ p, ∃ row, ∃ s : State, (down s = true ∨ (p, row) ∉ s.mem.repairs)) ∧
    (∃ h, ∃ p, ∃ s : State, down s = false ∧ mget s.mem.migrate h = some p ∧ (∀ q ∈ s.mem.queued, halfOf q ≠ h)) ∧
    (∃ h, ∃ p, ∃ q, ∃ s : State, down s = false ∧ mget s.mem.migrate h = some p ∧ s.mem.queued.find? (fun p => halfOf p == h) = some q) ∧
    (∃ h, ∃ s : State, (down s = true ∨ mget s.mem.migrate h = none)) ∧
    (∃ s : State, down s = false) ∧
    (∃ p, ∃ o, ∃ k, ∃ s : State, (frozen s = true ∨ s.ch.pwr = 1 ∨ k = 0 ∨ (p * 2 ^ 26 + o) / 32 ∈ s.mem.csPoison)) ∧
    (∃ p, ∃ o, ∃ s : State, frozen s = false ∧ s.ch.pwr ≠ 1 ∧ p < 132 ∧ o < 2 ^ 26 ∧ (p * 2 ^ 26 + o) / 32 ∉ s.mem.csPoison) ∧
    (∃ p, ∃ o, ∃ k, ∃ s : State, frozen s = false ∧ s.ch.pwr ≠ 1 ∧ p < 132 ∧ o < 2 ^ 26 ∧ 2 ≤ k ∧ (p * 2 ^ 26 + o) / 32 ∉ s.mem.csPoison) ∧
    (∃ p, ∃ b, ∃ r, ∃ s : State, frozen s = false ∧ s.ch.pwr ≠ 1 ∧ mgetD s.mem.copying p [] = b :: r) ∧
    (∃ p, ∃ s : State, (frozen s = true ∨ s.ch.pwr = 1 ∨ mgetD s.mem.copying p [] = [])) ∧
    (∃ p, ∃ o, ∃ s : State, ∃ r, (frozen s = false ∧ s.ch.pwr ≠ 1 ∧ (p * 2 ^ 26 + (o / 32 * 32)) / 32 ∈ s.mem.csPoison ∧ (core s p).regions.find?
      (fun r => (wordIn (r.dst / 2 ^ 26) (r.dst % 2 ^ 26) r.len (o / 32 * 32)).2) = some r) ∧ (∀ i k, i < 32 → localIndex r.dst r.len ((o / 32 *
      32) + i) = some k → devPoison s (r.src + k) = false)) ∧
    (∃ p, ∃ o, ∃ s : State, ∃ r, ∃ i, ∃ k, frozen s = false ∧ s.ch.pwr ≠ 1 ∧ (p * 2 ^ 26 + (o / 32 * 32)) / 32 ∈ s.mem.csPoison ∧ (core s
      p).regions.find? (fun r => (wordIn (r.dst / 2 ^ 26) (r.dst % 2 ^ 26) r.len (o / 32 * 32)).2) = some r ∧ i < 32 ∧ localIndex r.dst r.len ((o
      / 32 * 32) + i) = some k ∧ devPoison s (r.src + k) = true) ∧
    (∃ p, ∃ o, ∃ s : State, (frozen s = true ∨ s.ch.pwr = 1 ∨ (p * 2 ^ 26 + o / 32 * 32) / 32 ∉ s.mem.csPoison)) :=
  ⟨⟨1, 0, by decide⟩,
   ⟨0, [], false, State.reset, by decide +kernel⟩,
   ⟨0x6BFFFFFFFF, { mem := { poison := [0x1AFFFFFFF] } }, by decide +kernel⟩,
   ⟨0, [31], false, State.reset, by decide +kernel⟩,
   ⟨0, [0, 1, 2], true, State.reset, by decide +kernel⟩,
   ⟨0, [0, 1], [0], false, false, State.reset, by decide +kernel⟩,
   ⟨0, [0, 1], [0, 1], false, false, State.reset, by decide +kernel⟩,
   ⟨383, 1, { mem := { repairs := [(383, 1)] } }, by decide +kernel⟩,
   ⟨383, 1, { mem := { repairs := [(383, 1)] } }, by decide +kernel⟩,
   ⟨383, 0, State.reset, by decide +kernel⟩,
   ⟨1, 383, { mem := { migrate := [(1, 383)] } }, by decide +kernel⟩,
   ⟨1, 383, 382, { mem := { migrate := [(1, 383)], queued := [382] } }, by decide +kernel⟩,
   ⟨1, State.reset, by decide +kernel⟩,
   ⟨State.reset, by decide +kernel⟩,
   ⟨131, 0, 0, State.reset, by decide +kernel⟩,
   ⟨131, 67108863, State.reset, by decide +kernel⟩,
   ⟨131, 67108863, 2, State.reset, by decide +kernel⟩,
   ⟨131, 5, [], { mem := { copying := [(131, [5])] } }, by decide +kernel⟩,
   ⟨131, State.reset, by decide +kernel⟩,
   ⟨131, 0, atRegion, aRegion, by decide +kernel, region_clean⟩,
   ⟨131, 0, { withCore { regions := [aRegion] } with mem := { csPoison := [131 * 2 ^ 21], poison := [0] } }, aRegion, 0, 0, by decide +kernel⟩,
   ⟨131, 0, State.reset, by decide +kernel⟩⟩

/-- States and operands that meet the hypotheses of each clause of TimeEventsComplete. -/
theorem witness_TimeEventsComplete :
    (∃ s : State, (servoUp s = false ∨ s.ch.source = 0)) ∧
    (∃ s : State, servoUp s = true ∧ s.ch.source ≠ 0) ∧
    (∃ s : State, servoUp s = true ∧ s.ch.source ≠ 0 ∧ s.ch.st = 1 ∧ s.ch.first = true ∧ verLive s = false) ∧
    (∃ o : Int, ∃ s : State, servoUp s = true ∧ s.ch.source ≠ 0 ∧ s.ch.st = 1 ∧ (s.ch.first = false ∨ verLive s = true) ∧ within (o + delay256 s)
      off2ns = true) ∧
    (∃ o : Int, ∃ s : State, servoUp s = true ∧ s.ch.source ≠ 0 ∧ s.ch.st = 1 ∧ (s.ch.first = false ∨ verLive s = true) ∧ within (o + delay256 s)
      off2ns = false ∧ (verLive s = false ∨ within (o + delay256 s) off10ms = true)) ∧
    (∃ o : Int, ∃ s : State, servoUp s = true ∧ s.ch.source ≠ 0 ∧ (s.ch.st = 1 ∨ s.ch.st = 2) ∧ verLive s = true ∧ within (o + delay256 s)
      off10ms = false) ∧
    (∃ o : Int, ∃ s : State, servoUp s = true ∧ s.ch.source ≠ 0 ∧ s.ch.st = 2 ∧ (verLive s = false ∨ within (o + delay256 s) off10ms = true)) ∧
    (∃ s : State, servoUp s = true ∧ s.ch.source ≠ 0 ∧ s.ch.st = 3) ∧
    (∃ s : State, ∃ w, s.ch.setWait = some w ∧ verLive s = false) ∧
    (∃ s : State, ∃ w, s.ch.setWait = some w ∧ verLive s = true) ∧
    (∃ s : State, ∃ w, s.ch.setWait = some w) ∧
    (∃ s : State, s.ch.setWait = none) ∧
    (∃ n, ∃ s : State, n < 4 ∧ bit s.ch.alEn n = true ∧ s.ch.vbk = true ∧ mgetD s.ch.alarm n 0 ≤ now s) ∧
    (∃ n, ∃ s : State, (4 ≤ n ∨ bit s.ch.alEn n = false ∨ s.ch.vbk = false ∨ now s < mgetD s.ch.alarm n 0)) ∧
    (∃ s : State, (s.ch.pwr = 2 ∨ s.sys.level = 3) ∧ s.ch.ref10 = false) ∧
    (∃ s : State, (s.ch.pwr ≠ 2 ∧ s.sys.level ≠ 3 ∨ s.ch.ref10 = true)) :=
  ⟨⟨{ ch := { source := 0 } }, by decide +kernel⟩,
   ⟨up, by decide +kernel⟩,
   ⟨State.reset, by decide +kernel⟩,
   ⟨512, { ch := { st := 1, first := false } }, by decide +kernel⟩,
   ⟨513, { ch := { st := 1, first := false } }, by decide +kernel⟩,
   ⟨2560000001, { modelUp with ch := { st := 2, first := false } }, by decide +kernel⟩,
   ⟨0, { ch := { st := 2 } }, by decide +kernel⟩,
   ⟨{ ch := { st := 3 } }, by decide +kernel⟩,
   ⟨{ ch := { setWait := some { who := 0, value := 0, limit := 0 } } }, { who := 0, value := 0, limit := 0 }, by decide +kernel⟩,
   ⟨{ modelUp with ch := { setWait := some { who := 0, value := 0, limit := 0 } } }, { who := 0, value := 0, limit := 0 }, by decide +kernel⟩,
   ⟨{ ch := { setWait := some { who := 31, value := 0, limit := 0 } } }, { who := 31, value := 0, limit := 0 }, by decide +kernel⟩,
   ⟨up, by decide +kernel⟩,
   ⟨3, { ch := { alEn := 8 } }, by decide +kernel⟩,
   ⟨4, State.reset, by decide +kernel⟩,
   ⟨{ ch := { pwr := 2, ref10 := false } }, by decide +kernel⟩,
   ⟨State.reset, by decide +kernel⟩⟩

/-- States and operands that meet the hypotheses of each clause of PowerEventsComplete. -/
theorem witness_PowerEventsComplete :
    (∃ n, ∃ s : State, n < 2 ∧ s.ch.vbk = true) ∧
    (∃ n, ∃ s : State, wakePol s n = false) ∧
    (∃ n, ∃ s : State, wakePol s n = true) ∧
    (∃ n, ∃ s : State, (2 ≤ n ∨ s.ch.vbk = false)) ∧
    (∃ s : State, s.ch.pwr ≠ 2 ∧ s.ch.toSleep = false) ∧
    (∃ s : State, s.ch.pwr ≠ 2 ∧ s.ch.toSleep = true) ∧
    (∃ b, ∃ s : State, s.ch.pwr = 2 ∧ bit s.ch.wakeMask b = false) ∧
    (∃ b, ∃ s : State, s.ch.pwr = 2 ∧ bit s.ch.wakeMask b = true) ∧
    (∃ p, ∃ s : State, p < 2 ∧ s.ch.vbk = true) ∧
    (∃ p, ∃ s : State, p < 2 ∧ s.ch.vbk = true) ∧
    (∃ p, ∃ s : State, (2 ≤ p ∨ s.ch.vbk = false)) ∧
    (∃ s : State, s.ch.pwr = 3 ∧ s.ch.toSleep = false ∧ allIdle s = true ∧ frozen s = false) ∧
    (∃ s : State, (s.ch.pwr ≠ 3 ∨ s.ch.toSleep = true ∨ allIdle s = false ∨ frozen s = true)) ∧
    (∃ k, ∃ v, ∃ s : State, down s = false ∧ k < 48 ∧ 1520 ≤ toSigned 16 v) ∧
    (∃ k, ∃ v, ∃ s : State, (down s = true ∨ 48 ≤ k ∨ toSigned 16 v < 1520)) ∧
    (∃ l : List Nat, ∃ s : State, down s = false ∧ l.length = 48 ∧ (∀ v ∈ l, toSigned 16 v < 1440)) ∧
    (∃ l : List Nat, ∃ s : State, down s = false ∧ l.length = 48) ∧
    (∃ r, ∃ m, ∃ s : State, down s = false ∧ 1000 * (measure r m s).pw.work < (measure r m s).pw.avg) ∧
    (∃ r, ∃ m, ∃ s : State, down s = false ∧ 970 * (measure r m s).pw.work ≤ (measure r m s).pw.avg ∧ (measure r m s).pw.avg ≤ 1000 * (measure r
      m s).pw.work) ∧
    (∃ r, ∃ m, ∃ s : State, ∃ t, down s = false ∧ (measure r m s).pw.avg < 970 * (measure r m s).pw.work ∧ (measure r m s).pw.below = some t) ∧
    (∃ r, ∃ m, ∃ s : State, down s = false ∧ (measure r m s).pw.avg < 970 * (measure r m s).pw.work ∧ (measure r m s).pw.below = none) :=
  ⟨⟨1, State.reset, by decide +kernel⟩,
   ⟨1, State.reset, by decide +kernel⟩,
   ⟨1, { ch := { wakeCtl := 0x1F0F } }, by decide +kernel⟩,
   ⟨2, State.reset, by decide +kernel⟩,
   ⟨up, by decide +kernel⟩,
   ⟨{ ch := { pwr := 3, toSleep := true } }, by decide +kernel⟩,
   ⟨5, { ch := { pwr := 2 } }, by decide +kernel⟩,
   ⟨5, { ch := { pwr := 2, wakeMask := 32 } }, by decide +kernel⟩,
   ⟨1, State.reset, by decide +kernel⟩,
   ⟨1, State.reset, by decide +kernel⟩,
   ⟨2, State.reset, by decide +kernel⟩,
   ⟨{ ch := { pwr := 3 } }, by decide +kernel⟩,
   ⟨State.reset, by decide +kernel⟩,
   ⟨47, 1520, State.reset, by decide +kernel⟩,
   ⟨48, 0, State.reset, by decide +kernel⟩,
   ⟨List.replicate 48 1439, State.reset, by decide +kernel⟩,
   ⟨List.replicate 48 0, State.reset, by decide +kernel⟩,
   ⟨[], 1850001, State.reset, by decide +kernel⟩,
   ⟨[], 1850000, State.reset, by decide +kernel⟩,
   ⟨[], 0, { pw := { below := some 0 } }, 0, by decide +kernel⟩,
   ⟨[], 1794499, State.reset, by decide +kernel⟩⟩

/-- States and operands that meet the hypotheses of each clause of LinkTrainingCompletes. -/
theorem witness_LinkTrainingCompletes :
    (∃ n, ∃ bad, ∃ s : State, n < 8 ∧ fwUp s = true ∧ (link s n).retryAt = none ∧ (link s n).st = 1 ∧ (∀ i, i < 8 → bit bad i = true → bit
      (usableLanes s n) i = false)) ∧
    (∃ n, ∃ bad, ∃ s : State, n < 8 ∧ fwUp s = true ∧ (link s n).retryAt = none ∧ (link s n).st = 1 ∧ (((List.range 8).filter fun i => bit bad i
      && bit (usableLanes s n) i)) ≠ [] ∧ (((List.range 8).filter fun i => bit bad i && bit (usableLanes s n) i)).length = popcount (usableLanes
      s n) 8) ∧
    (∃ n, ∃ bad, ∃ s : State, n < 8 ∧ fwUp s = true ∧ (link s n).retryAt = none ∧ (link s n).st = 1 ∧ (((List.range 8).filter fun i => bit bad i
      && bit (usableLanes s n) i)) ≠ [] ∧ (((List.range 8).filter fun i => bit bad i && bit (usableLanes s n) i)).length ≠ popcount (usableLanes
      s n) 8) ∧
    (∃ n, ∃ s : State, n < 8 ∧ fwUp s = true ∧ (link s n).retryAt = none ∧ (link s n).st = 2) ∧
    (∃ n, ∃ s : State, (8 ≤ n ∨ (link s n).retryAt.isSome = true ∨ fwUp s = false)) ∧
    (∃ n, ∃ f : Bytes, ∃ s : State, n < 8 ∧ s.sys.level < 2 ∧ crcOk f = true ∧ u8 f 0 = 1 ∧ (link s n).retryAt = none ∧ (link s n).st = 3 ∧ u8 f
      1 = 1 ∧ usableLanes s n &&&
      ({ ver := u8 f 2, mask := u8 f 3, chip := beAt f 4 2, link := u8 f 6 % 8, valid := bit (u8 f 6) 3, cred := [beAt f 8 2, beAt f 10 2, beAt f 12 2] }
      : ClOffer).mask ≠ 0 ∧ linkVer (link s n)
      ({ ver := u8 f 2, mask := u8 f 3, chip := beAt f 4 2, link := u8 f 6 % 8, valid := bit (u8 f 6) 3, cred := [beAt f 8 2, beAt f 10 2, beAt f 12 2] }
      : ClOffer).ver ≠ 0) ∧
    (∃ n, ∃ f : Bytes, ∃ s : State, n < 8 ∧ s.sys.level < 2 ∧ crcOk f = true ∧ u8 f 0 = 1 ∧ (link s n).retryAt = none ∧ (link s n).st = 3 ∧ u8 f
      1 = 1 ∧ usableLanes s n &&&
      ({ ver := u8 f 2, mask := u8 f 3, chip := beAt f 4 2, link := u8 f 6 % 8, valid := bit (u8 f 6) 3, cred := [beAt f 8 2, beAt f 10 2, beAt f 12 2] }
      : ClOffer).mask = 0) ∧
    (∃ n, ∃ f : Bytes, ∃ s : State, n < 8 ∧ s.sys.level < 2 ∧ crcOk f = true ∧ u8 f 0 = 1 ∧ (link s n).retryAt = none ∧ (link s n).st = 3 ∧ u8 f
      1 = 1 ∧ usableLanes s n &&&
      ({ ver := u8 f 2, mask := u8 f 3, chip := beAt f 4 2, link := u8 f 6 % 8, valid := bit (u8 f 6) 3, cred := [beAt f 8 2, beAt f 10 2, beAt f 12 2] }
      : ClOffer).mask ≠ 0 ∧ linkVer (link s n)
      ({ ver := u8 f 2, mask := u8 f 3, chip := beAt f 4 2, link := u8 f 6 % 8, valid := bit (u8 f 6) 3, cred := [beAt f 8 2, beAt f 10 2, beAt f 12 2] }
      : ClOffer).ver = 0) ∧
    (∃ n, ∃ f : Bytes, ∃ s : State, ∃ o, n < 8 ∧ s.sys.level < 2 ∧ crcOk f = true ∧ u8 f 0 = 1 ∧ (link s n).retryAt = none ∧ (link s n).st = 4 ∧
      u8 f 1 = 2 ∧ (link s n).offer = some o ∧ u8 f 2 = linkVer (link s n) o.ver) ∧
    (∃ n, ∃ f : Bytes, ∃ s : State, ∃ o, n < 8 ∧ s.sys.level < 2 ∧ crcOk f = true ∧ u8 f 0 = 1 ∧ (link s n).retryAt = none ∧ (link s n).st = 4 ∧
      u8 f 1 = 2 ∧ (link s n).offer = some o ∧ u8 f 2 ≠ linkVer (link s n) o.ver) ∧
    (∃ n, ∃ s : State, ∃ t, (link s n).retryAt = some t) ∧
    (∃ n, ∃ s : State, (link s n).retryAt = none) ∧
    (∃ n, ∃ f : Bytes, ∃ s : State, flitsRun s n = true ∧ crcOk f = true ∧ u8 f 0 = 8) ∧
    (∃ n, ∃ f : Bytes, ∃ s : State, ∃ m, ∃ e, (flitsRun s n = true ∧ crcOk f = true ∧ u8 f 0 = 4 ∧ m ≠ 0) ∧ ((link s n).laneReq = none ∧ m = u8 f
      1 &&& (link s n).active ∧ e = u8 f 2 ∨ ∃ a t, (link s n).laneReq = some (a, t) ∧ m = u8 f 1 &&& a ∧ e = max (link s n).epoch (u8 f 2))) ∧
    (∃ n, ∃ f : Bytes, ∃ s : State, ∃ m, ∃ e, (flitsRun s n = true ∧ crcOk f = true ∧ u8 f 0 = 4 ∧ m = 0) ∧ ((link s n).laneReq = none ∧ m = u8 f
      1 &&& (link s n).active ∧ e = u8 f 2 ∨ ∃ a t, (link s n).laneReq = some (a, t) ∧ m = u8 f 1 &&& a ∧ e = max (link s n).epoch (u8 f 2))) ∧
    (∃ n, ∃ f : Bytes, ∃ s : State, ∃ m, ∃ t, flitsRun s n = true ∧ crcOk f = true ∧ u8 f 0 = 5 ∧ (link s n).laneReq = some (m, t)) ∧
    (∃ n, ∃ f : Bytes, ∃ s : State, (link s n).laneReq = none ∧ crcOk f = true) ∧
    (∃ n, ∃ s : State, ∃ m, ∃ t, (link s n).laneReq = some (m, t)) ∧
    (∃ n, ∃ s : State, (link s n).laneReq = none) ∧
    (∃ q, ∃ k, ∃ s : State, q < 64 ∧ 3 ≤ (port s q).st ∧ down s = false ∧ 1 ≤ k) ∧
    (∃ n, ∃ l, ∃ k, ∃ s : State, laneRuns s n l = true ∧ 15 < k) ∧
    (∃ n, ∃ l, ∃ k, ∃ s : State, laneRuns s n l = true ∧ 1 ≤ k ∧ k ≤ 15) ∧
    (∃ b, ∃ n, ∃ l, ∃ k, ∃ s : State, (k = 0 ∨ b = false ∧ (64 ≤ n ∨ (port s n).st < 3 ∨ down s = true) ∨ b = true ∧ laneRuns s n l = false)) :=
  ⟨⟨7, 0, linkIs { st := 1 }, by decide +kernel⟩,
   ⟨7, 255, linkIs { st := 1 }, by decide +kernel⟩,
   ⟨7, 127, linkIs { st := 1 }, by decide +kernel⟩,
   ⟨7, linkIs { st := 2 }, by decide +kernel⟩,
   ⟨8, State.reset, by decide +kernel⟩,
   ⟨7, flitOf [1, 1, 2, 0xFF], linkIs { st := 3 }, by decide +kernel⟩,
   ⟨7, flitOf [1, 1, 2, 0], linkIs { st := 3 }, by decide +kernel⟩,
   ⟨7, flitOf [1, 1, 0, 0xFF], linkIs { st := 3 }, by decide +kernel⟩,
   ⟨7, flitOf [1, 2, 1], linkIs { st := 4, offer := some { ver := 2, mask := 255, chip := 5, link := 0, valid := true, cred := [1, 1, 1] } },
     { ver := 2, mask := 255, chip := 5, link := 0, valid := true, cred := [1, 1, 1] }, by decide +kernel⟩,
   ⟨7, flitOf [1, 2, 2], linkIs { st := 4, offer := some anOffer }, anOffer, by decide +kernel⟩,
   ⟨7, linkIs { retryAt := some 1 }, 1, by decide +kernel⟩,
   ⟨7, up, by decide +kernel⟩,
   ⟨7, flitOf [8], linkIs { st := 5 }, by decide +kernel⟩,
   ⟨7, flitOf [4, 0x81, 9], linkIs { st := 5, active := 0xFF }, 0x81, 9, by decide +kernel, .inl (by decide +kernel)⟩,
   ⟨7, flitOf [4, 0x80, 9], linkIs { st := 5, active := 0x7F }, 0, 9, by decide +kernel, .inl (by decide +kernel)⟩,
   ⟨7, flitOf [5], linkIs { st := 5, laneReq := some (1, 0) }, 1, 0, by decide +kernel⟩,
   ⟨7, flitOf [5], up, by decide +kernel⟩,
   ⟨7, linkIs { laneReq := some (1, 0) }, 1, 0, by decide +kernel⟩,
   ⟨7, up, by decide +kernel⟩,
   ⟨63, 16, portIs { st := 3 }, by decide +kernel⟩,
   ⟨7, 7, 16, linkIs { st := 6, active := 128 }, by decide +kernel⟩,
   ⟨7, 7, 15, linkIs { st := 3 }, by decide +kernel⟩,
   ⟨true, 7, 7, 1, up, by decide +kernel⟩⟩

/-- States and operands that meet the hypotheses of each clause of LinkFlitsComplete. -/
theorem witness_LinkFlitsComplete :
    (∃ n, ∃ f : Bytes, ∃ s : State, flitsRun s n = true ∧ crcOk f = true ∧ beAt f 0 2 = (link (ackLink n (beAt f 2 2) s) n).rx ∧ (u8 (sub f 4 56)
      0 / 16 % 4) < 3 ∧ (isMarker (link (ackLink n (beAt f 2 2) s) n) (sub f 4 56) = true ∨ (link (ackLink n (beAt f 2 2) s) n).grant.getD (u8
      (sub f 4 56) 0 / 16 % 4) 0 ≠ 0)) ∧
    (∃ n, ∃ f : Bytes, ∃ s : State, flitsRun s n = true ∧ crcOk f = true ∧ beAt f 0 2 = (link (ackLink n (beAt f 2 2) s) n).rx ∧ u8 (sub f 4 56)
      0 / 16 % 4 = 3) ∧
    (∃ n, ∃ f : Bytes, ∃ s : State, flitsRun s n = true ∧ crcOk f = true ∧ beAt f 0 2 = (link (ackLink n (beAt f 2 2) s) n).rx ∧ (u8 (sub f 4 56)
      0 / 16 % 4) < 3 ∧ isMarker (link (ackLink n (beAt f 2 2) s) n) (sub f 4 56) = false ∧ (link (ackLink n (beAt f 2 2) s) n).grant.getD (u8
      (sub f 4 56) 0 / 16 % 4) 0 = 0) ∧
    (∃ n, ∃ f : Bytes, ∃ s : State, flitsRun s n = true ∧ crcOk f = true ∧ beAt f 0 2 ≠ (link (ackLink n (beAt f 2 2) s) n).rx) ∧
    (∃ n, ∃ f : Bytes, ∃ s : State, flitsRun s n = true ∧ f.length = 64 ∧ crcOk f = false) ∧
    (∃ n, ∃ k, ∃ f : Bytes, ∃ s : State, flitsRun s n = true ∧ f.length = 64 ∧ 2 ≤ k) ∧
    (∃ n, ∃ k, ∃ f : Bytes, ∃ s : State, (flitsRun s n = false ∨ f.length ≠ 64 ∨ k = 0 ∧ crcOk f = true)) ∧
    (∃ n, ∃ f : Bytes, ∃ s : State, isMarker (link (perf (clLink n + 0x28) 1 s) n) (sub f 4 56) = true) ∧
    (∃ n, ∃ r, ∃ s : State, ∃ u, (sub r 2 (u8 r 1)).length = 44 ∧ beAt (sub r 2 (u8 r 1)) 10 2 = 8 ∧ (link s n).miswired = false ∧ s.chip.isSome
      = true ∧ checkTag n false (tagOf (sub (sub r 2 (u8 r 1)) 12 24)) ((sub r 2 (u8 r 1)).drop 36) s = (some false, u)) ∧
    (∃ n, ∃ f : Bytes, ∃ s : State, flitsRun s n = true ∧ crcOk f = true ∧ u8 f 0 = 3) ∧
    (∃ n, ∃ f : Bytes, ∃ s : State, flitsRun s n = true ∧ f.length = 64 ∧ crcOk f = false) ∧
    (∃ n, ∃ f : Bytes, ∃ s : State, flitsRun s n = true ∧ crcOk f = true ∧ u8 f 0 = 2) ∧
    (∃ n, ∃ s : State, flitsRun s n = true) ∧
    (∃ n, ∃ f : Bytes, ∃ s : State, flitsRun s n = true ∧ crcOk f = true ∧ u8 f 0 = 6) ∧
    (∃ n, ∃ f : Bytes, ∃ s : State, ∃ t, flitsRun s n = true ∧ crcOk f = true ∧ u8 f 0 = 7 ∧ (link s n).timeReq = some t ∧ beAt f 40 8 = t / 256
      ∧ s.ch.source = 3 ∧ s.ch.link = n) ∧
    (∃ n, ∃ f : Bytes, ∃ s : State, crcOk f = true ∧ ((link s n).timeReq = none ∨ s.ch.source ≠ 3 ∨ s.ch.link ≠ n)) ∧
    (∃ s : State, s.ch.source = 3 ∧ flitsRun s s.ch.link = true ∧ (link s s.ch.link).timeSent ≤ now s / 2 ^ 20) ∧
    (∃ s : State, (s.ch.source ≠ 3 ∨ flitsRun s s.ch.link = false ∨ now s / 2 ^ 20 < (link s s.ch.link).timeSent)) :=
  ⟨⟨7, flitOf [0, 0, 0, 0, 0xE0], linkIs { st := 5, grant := [0, 0, 1] }, by decide +kernel⟩,
   ⟨7, flitOf [0, 0, 0, 0, 0x30], linkIs { st := 5 }, by decide +kernel⟩,
   ⟨7, flitOf [0, 0, 0, 0, 0xE0], linkIs { st := 5 }, by decide +kernel⟩,
   ⟨7, flitOf [0, 2], linkIs { st := 5, rx := 1 }, by decide +kernel⟩,
   ⟨7, zeros 64, linkIs { st := 5 }, by decide +kernel⟩,
   ⟨7, 2, zeros 64, linkIs { st := 5 }, by decide +kernel⟩,
   ⟨7, 0, [], linkIs { st := 5 }, by decide +kernel⟩,
   ⟨7, bs [0, 0, 0, 0, 0xC0] ++ zeros 16 ++ bs [7] ++ zeros 42, linkIs { st := 5, ver := 2 }, by decide +kernel⟩,
   ⟨7, aMarker, atMarker, (checkTag 7 false (tagOf (sub (sub aMarker 2 44) 12 24)) ((sub aMarker 2 44).drop 36) atMarker).2, by decide +kernel⟩,
   ⟨7, flitOf [3], linkIs { st := 5 }, by decide +kernel⟩,
   ⟨7, zeros 64, linkIs { st := 5 }, by decide +kernel⟩,
   ⟨7, flitOf [2], linkIs { st := 5 }, by decide +kernel⟩,
   ⟨7, linkIs { st := 5 }, by decide +kernel⟩,
   ⟨7, flitOf [6], linkIs { st := 5 }, by decide +kernel⟩,
   ⟨7, flitOf [7], { linkIs { st := 5, timeReq := some 0 } with ch := { source := 3, link := 7 } }, 0, by decide +kernel⟩,
   ⟨7, flitOf [7], State.reset, by decide +kernel⟩,
   ⟨{ linkIs { st := 5 } with ch := { source := 3, link := 7 } }, by decide +kernel⟩,
   ⟨State.reset, by decide +kernel⟩⟩

/-- States and operands that meet the hypotheses of each clause of ChainFramesComplete. -/
theorem witness_ChainFramesComplete :
    (∃ n, ∃ s : State, ∃ c, ∃ m, (link s n).partner = some (c, m, true) ∧ linkUp s n = true ∧ s.chip.isSome = true ∧ (link s n).exch ≤ now s / 2
      ^ 30 ∧ holding s = false ∧ s.sys.level < 2 ∧ ((link s n).ver = 1 → helmUp s = true)) ∧
    (∃ n, ∃ s : State, ((∀ c m, (link s n).partner ≠ some (c, m, true)) ∨ linkUp s n = false ∨ s.chip = none ∨ now s / 2 ^ 30 < (link s n).exch ∨
      holding s = true)) ∧
    (∃ i, ∃ s : State, ∃ t, ∃ u, takeIn i (fun t => ((tagOf t.tag).kind == 8 && t.body.length == 72) || plainCtl 72 t) s = some (t, u) ∧
      bearingDiffers u t.body = none) ∧
    (∃ i, ∃ s : State, ∃ t, ∃ u, ∃ a, ∃ b, takeIn i (fun t => ((tagOf t.tag).kind == 8 && t.body.length == 72) || plainCtl 72 t) s = some (t, u)
      ∧ bearingDiffers u t.body = some (a, b)) ∧
    (∃ s : State, ∃ got, helmUp s = true ∧ s.ver.aggSent ≤ (now s / 2 ^ 30) ∧ 1000000 ≤ now s % 2 ^ 30 ∧ got = (s.ver.reports.filter fun r => r.1
      == (now s / 2 ^ 30) && ((List.range 8).filter (bit s.ver.children)).contains r.2.1) ∧ (1000000 + 2000000 * s.ver.height ≤ now s % 2 ^ 30 ∨
      ∀ n ∈ ((List.range 8).filter (bit s.ver.children)), ∃ r ∈ got, r.2.1 = n) ∧ s.ver.parent = 0xFF) ∧
    (∃ s : State, ∃ got, helmUp s = true ∧ s.ver.aggSent ≤ (now s / 2 ^ 30) ∧ 1000000 ≤ now s % 2 ^ 30 ∧ got = (s.ver.reports.filter fun r => r.1
      == (now s / 2 ^ 30) && ((List.range 8).filter (bit s.ver.children)).contains r.2.1) ∧ (1000000 + 2000000 * s.ver.height ≤ now s % 2 ^ 30 ∨
      ∀ n ∈ ((List.range 8).filter (bit s.ver.children)), ∃ r ∈ got, r.2.1 = n) ∧ s.ver.parent ≠ 0xFF ∧ s.chip = none) ∧
    (∃ s : State, ∃ got, ∃ c, ∃ m, ∃ b, helmUp s = true ∧ s.ver.aggSent ≤ (now s / 2 ^ 30) ∧ 1000000 ≤ now s % 2 ^ 30 ∧ got =
      (s.ver.reports.filter fun r => r.1 == (now s / 2 ^ 30) && ((List.range 8).filter (bit s.ver.children)).contains r.2.1) ∧ (1000000 + 2000000
      * s.ver.height ≤ now s % 2 ^ 30 ∨ ∀ n ∈ ((List.range 8).filter (bit s.ver.children)), ∃ r ∈ got, r.2.1 = n) ∧ s.ver.parent ≠ 0xFF ∧
      s.chip.isSome = true ∧ (link s s.ver.parent).partner = some (c, m, b)) ∧
    (∃ s : State, (helmUp s = false ∨ now s / 2 ^ 30 < s.ver.aggSent ∨ now s % 2 ^ 30 < 1000000)) ∧
    (∃ i, ∃ s : State, ∃ t, ∃ u, takeIn i (plainCtl 40) s = some (t, u)) ∧
    (∃ i, ∃ s : State, ∃ t, ∃ u, takeIn i (plainCtl 2) s = some (t, u)) ∧
    (∃ i, ∃ s : State, ∃ t, ∃ u, helmUp s = true ∧ takeIn i (fun t => ctlWhat t == 1 || ctlWhat t == 2) s = some (t, u) ∧ ctlWhat t = 2) ∧
    (∃ i, ∃ s : State, ∃ t, ∃ u, helmUp s = true ∧ takeIn i (fun t => ctlWhat t == 1 || ctlWhat t == 2) s = some (t, u) ∧ ctlWhat t = 1 ∧
      (holding s = false ∨ (innerRq (t.body.drop 8)).op ∉ islandOps)) ∧
    (∃ i, ∃ s : State, ∃ t, ∃ u, helmUp s = true ∧ takeIn i (fun t => ctlWhat t == 1 || ctlWhat t == 2) s = some (t, u) ∧ ctlWhat t = 1 ∧ holding
      s = true ∧ (innerRq (t.body.drop 8)).op ∈ islandOps) ∧
    (∃ m, ∃ s : State, (∃ r ∈ s.cl.relays, r.mbx = m ∧ r.ends ≤ now s)) ∧
    (∃ m, ∃ s : State, (∀ r ∈ s.cl.relays, r.mbx = m → now s < r.ends)) ∧
    (∃ i, ∃ s : State, ∃ t, ∃ u, ∃ p, ∃ e, takeIn i (fun t => (tagOf t.tag).kind == 3 && t.body.isEmpty) s = some (t, u) ∧ oldestCopy (copiesTo u
      (tagOf t.tag).chip (tagOf t.tag).workId) = some (p, e)) ∧
    (∃ i, ∃ s : State, ∃ t, ∃ u, takeIn i (fun t => (tagOf t.tag).kind == 3 && t.body.isEmpty) s = some (t, u) ∧ oldestCopy (copiesTo u (tagOf
      t.tag).chip (tagOf t.tag).workId) = none) ∧
    (∃ i, ∃ s : State, ∃ t, ∃ u, takeIn i (fun t => ctlWhat t == 3) s = some (t, u)) ∧
    (∃ i, ∃ s : State, (∀ f, takeIn i f s = none)) :=
  ⟨⟨7, chainUp, 0xFFFE, 0, by decide +kernel⟩,
   ⟨7, State.reset, .inr (.inl rfl)⟩,
   ⟨0, { inbox := [ctlTag 8 (zeros 72)] }, ctlTag 8 (zeros 72), State.reset, by decide +kernel⟩,
   ⟨0, { ver := { newest := { num := 1, bearing := zeros 32 } }, inbox := [ctlTag 8 (be 2 1 ++ zeros 6 ++ bs [1] ++ zeros 63)] }, ctlTag 8 (be 2
     1 ++ zeros 6 ++ bs [1] ++ zeros 63), { ver := { newest := { num := 1, bearing := zeros 32 } } }, 1, 0, by decide +kernel⟩,
   ⟨atNs 1000000 up, [], by decide +kernel⟩,
   ⟨atNs 1000000 { up with ver := { parent := 7 } }, [], by decide +kernel⟩,
   ⟨atNs 1000000 { chainUp with ver := { parent := 7 } }, [], 0xFFFE, 0, true, by decide +kernel⟩,
   ⟨up, by decide +kernel⟩,
   ⟨0, { inbox := [ctlTag 5 (zeros 40)] }, ctlTag 5 (zeros 40), State.reset, by decide +kernel⟩,
   ⟨0, { inbox := [ctlTag 5 (zeros 2)] }, ctlTag 5 (zeros 2), State.reset, by decide +kernel⟩,
   ⟨0, { up with inbox := [ctlTag 5 (bs [2, 0, 0, 0, 0, 0, 0, 0xFF])] }, ctlTag 5 (bs [2, 0, 0, 0, 0, 0, 0, 0xFF]), up, by decide +kernel⟩,
   ⟨0, { up with inbox := [ctlTag 5 (bs [1, 0, 0, 0, 0, 0, 0, 0xFF])] }, ctlTag 5 (bs [1, 0, 0, 0, 0, 0, 0, 0xFF]), up, by decide +kernel⟩,
   ⟨0, { up with inbox := [ctlTag 5 (bs [1, 0, 0, 0, 0, 0, 0, 0xFF, 1, 6])], hv := { st := 2 } }, ctlTag 5 (bs [1, 0, 0, 0, 0, 0, 0, 0xFF, 1,
     6]), { up with hv := { st := 2 } }, by decide +kernel⟩,
   ⟨31, { cl := { relays := [{ mbx := 31, wid := 1, ends := 0, chip := 5 }] } }, by decide +kernel⟩,
   ⟨31, State.reset, by decide +kernel⟩,
   ⟨0, { withCore { st := 1, run := [(12, [aCopy])] } with inbox := [ctlTag 3 []] }, ctlTag 3 [], withCore { st := 1, run := [(12, [aCopy])] },
     131, aCopy, by decide +kernel⟩,
   ⟨0, { inbox := [ctlTag 3 []] }, ctlTag 3 [], State.reset, by decide +kernel⟩,
   ⟨0, { inbox := [ctlTag 5 (bs [3, 0, 0, 0, 0, 0, 0, 0xFF])] }, ctlTag 5 (bs [3, 0, 0, 0, 0, 0, 0, 0xFF]), State.reset, by decide +kernel⟩,
   ⟨0, State.reset, fun _ => rfl⟩⟩

/-- States and operands that meet the hypotheses of each clause of VersionsCommitAndRetire. -/
theorem witness_VersionsCommitAndRetire :
    (∃ s : State, ∃ r, ∃ t, s.ver.round = some r ∧ r.armed = some t ∧ t ≤ now s ∧ s.sys.level < 2 ∧ holding s = false ∧ r.complete s = true) ∧
    (∃ s : State, ∃ r, ∃ j, ∃ t, s.ver.round = some r ∧ r.armed = some t ∧ t ≤ now s ∧ s.sys.level < 2 ∧ holding s = true ∧ s.hv.round = some j ∧
      j.num = r.num ∧ j.complete s = true) ∧
    (∃ s : State, ∃ r, ∃ t, (s.ver.round = some r ∧ r.armed = some t ∧ t ≤ now s ∧ s.sys.level < 2) ∧ (∀ j, (if holding s then s.hv.round else
      some r) = some j → j.num ≠ r.num ∨ j.complete s = false)) ∧
    (∃ s : State, (s.ver.round = none ∨ (∃ r, s.ver.round = some r ∧ (r.armed = none ∨ ∃ t, r.armed = some t ∧ now s < t)) ∨ 2 ≤ s.sys.level)) ∧
    (∃ s : State, ∃ l, ∃ t, s.ver.older = some (l, t) ∧ inFlight s l.num = 0 ∧ t + s.ver.retainMs * 1000000 ≤ now s) ∧
    (∃ s : State, (s.ver.older = none ∨ (∃ l t, s.ver.older = some (l, t) ∧ (inFlight s l.num ≠ 0 ∨ now s < t + s.ver.retainMs * 1000000)))) ∧
    (∃ s : State, ∃ r, s.ver.round = some r) ∧
    (∃ s : State, s.ver.round = none) ∧
    (∃ c, ∃ k, ∃ s : State, (∃ p ∈ s.flt.periods, p.code = c ∧ p.chan = k ∧ p.ends ≤ now s)) ∧
    (∃ c, ∃ k, ∃ s : State, (∀ p ∈ s.flt.periods, p.code = c → p.chan = k → now s < p.ends)) ∧
    (∃ c, ∃ k, ∃ s : State, ∃ p, s.flt.periods.find? (fun p => p.code == c && p.chan == k) = some p ∧ p.ends ≤ now s ∧ p.pending = 0) :=
  ⟨⟨staging fullRound modelUp, fullRound, 0, by decide +kernel⟩,
   ⟨{ staging fullRound modelUp with hv := { st := 2, round := some fullRound } }, fullRound, fullRound, 0, by decide +kernel⟩,
   ⟨armed, bareRound, 0, by decide +kernel, armed_bare⟩,
   ⟨State.reset, .inl rfl⟩,
   ⟨atNs 10000000 { ver := { older := some ({ num := 1 }, 0) } }, { num := 1 }, 0, by decide +kernel⟩,
   ⟨State.reset, .inl rfl⟩,
   ⟨staging fullRound modelUp, fullRound, by decide +kernel⟩,
   ⟨State.reset, by decide +kernel⟩,
   ⟨0x0601, 0, { flt := { periods := [aPeriod] } }, by decide +kernel⟩,
   ⟨0x0601, 0, State.reset, by decide +kernel⟩,
   ⟨0x0601, 0, { flt := { periods := [aPeriod] } }, aPeriod, by decide +kernel⟩⟩

/-- States and operands that meet the hypotheses of each clause of ResetSourcesAct. -/
theorem witness_ResetSourcesAct :
    (∃ s : State, s.sys.level < 3) ∧
    (∃ k, ∃ s : State, k < 10 ∧ s.sys.level < 3) ∧
    (∃ s : State, s.sys.level < 3) ∧
    (∃ s : State, s.sys.level < 2) ∧
    (∃ s : State, s.sys.level < 2 ∧ s.ch.pwr ≠ 2) ∧
    (∃ k, ∃ s : State, s.ch.pwr = 2 ∧ 10 ≤ k) ∧
    (∃ s : State, s.ch.pwr ≠ 2 ∧ 2 ≤ s.sys.level) ∧
    (∃ s : State, s.ch.pwr ≠ 2 ∧ 1 ≤ s.sys.level) ∧
    (∃ s : State, s.sys.level = 3 ∧ s.ch.pwr ≠ 2) ∧
    (∃ s : State, s.sys.level = 0 ∧ s.ch.pwr ≠ 2 ∧ holding s = true) ∧
    (∃ s : State, s.sys.level = 0 ∧ s.ch.pwr ≠ 2 ∧ holding s = false) ∧
    (∃ s : State, ∃ t, s.sys.rstAt = some t ∧ t ≤ now s ∧ s.sys.level < 2) ∧
    (∃ s : State, (s.sys.rstAt = none ∨ (∃ t, s.sys.rstAt = some t ∧ now s < t))) ∧
    (∃ k, ∃ s : State, bit s.sys.srcs k = true ∧ timedSrc k = false) ∧
    (∃ k, ∃ s : State, bit s.sys.srcs k = true ∧ timedSrc k = true ∧ mgetD s.sys.srcT k 0 + 10000 ≤ now s) ∧
    (∃ k, ∃ s : State, (bit s.sys.srcs k = false ∨ timedSrc k = true ∧ now s < mgetD s.sys.srcT k 0 + 10000)) ∧
    (∃ s : State, s.ch.vbk = true) ∧
    (∃ s : State, s.ch.vbk = false) :=
  ⟨⟨{ sys := { level := 2 } }, by decide +kernel⟩,
   ⟨9, { sys := { level := 2 } }, by decide +kernel⟩,
   ⟨{ sys := { level := 2 } }, by decide +kernel⟩,
   ⟨State.reset, by decide +kernel⟩,
   ⟨{ sys := { level := 1 } }, by decide +kernel⟩,
   ⟨10, { ch := { pwr := 2 } }, by decide +kernel⟩,
   ⟨{ sys := { level := 2 } }, by decide +kernel⟩,
   ⟨{ sys := { level := 1 } }, by decide +kernel⟩,
   ⟨{ sys := { level := 3 } }, by decide +kernel⟩,
   ⟨{ hv := { st := 2 } }, by decide +kernel⟩,
   ⟨State.reset, by decide +kernel⟩,
   ⟨{ sys := { rstAt := some 0 } }, 0, by decide +kernel⟩,
   ⟨State.reset, .inl rfl⟩,
   ⟨2, { sys := { srcs := 4 } }, by decide +kernel⟩,
   ⟨9, atNs 10000 { sys := { srcs := 512 } }, by decide +kernel⟩,
   ⟨0, State.reset, by decide +kernel⟩,
   ⟨State.reset, by decide +kernel⟩,
   ⟨{ ch := { vbk := false } }, by decide +kernel⟩⟩

/-- States and operands that meet the hypotheses of each clause of QuiesceAndBootComplete. -/
theorem witness_QuiesceAndBootComplete :
    (∃ u, ∃ i, ∃ s : State, (blk s u i).st = 1 ∧ (blk s u i).op ≠ some 4 ∧ drained s u i = true ∧ (holding s = false ∨ 3 ≤ u)) ∧
    (∃ u, ∃ i, ∃ s : State, ((blk s u i).st ≠ 1 ∨ (blk s u i).op = some 4 ∨ drained s u i = false ∨ holding s = true ∧ u < 3)) ∧
    (∃ u, ∃ i, ∃ s : State, ((blk s u i).st ≠ 1 ∨ now s < (blk s u i).since + (blk s u i).limit ∨ u = 1 ∨ holding s = true ∧ u < 3)) ∧
    (∃ u, ∃ i, ∃ s : State, (blk s u i).st = 1 ∧ (blk s u i).since + (blk s u i).limit ≤ now s ∧ u ≠ 1 ∧ (holding s = false ∨ 3 ≤ u) ∧ (blk s u
      i).op ≠ some 4) ∧
    (∃ i, ∃ s : State, (blk s 0 i).st = 1 ∧ (blk s 0 i).since + (blk s 0 i).limit ≤ now s ∧ holding s = false ∧ (blk s 0 i).op = some 4) ∧
    (∃ u, ∃ i, ∃ s : State, (blk s u i).st = 4 ∧ (holding s = false ∨ 3 ≤ u) ∧ (u = 0 ∨ u = 1)) ∧
    (∃ u, ∃ i, ∃ s : State, (blk s u i).st = 4 ∧ (holding s = false ∨ 3 ≤ u) ∧ u = 2) ∧
    (∃ u, ∃ i, ∃ s : State, (blk s u i).st = 4 ∧ (holding s = false ∨ 3 ≤ u) ∧ u = 3) ∧
    (∃ u, ∃ i, ∃ s : State, (blk s u i).st = 4 ∧ (holding s = false ∨ 3 ≤ u) ∧ u = 4) ∧
    (∃ u, ∃ i, ∃ s : State, (blk s u i).st = 4 ∧ (holding s = false ∨ 3 ≤ u) ∧ u = 5) ∧
    (∃ u, ∃ i, ∃ s : State, ((blk s u i).st ≠ 4 ∨ holding s = true ∧ u < 3)) ∧
    (∃ l : List Nat, ∃ s : State, s.sys.rom = false ∧ s.sys.level < 2 ∧ s.ch.pwr ≠ 2 ∧ l.length = 16 ∧ (∀ x ∈ l, x ≤ 255)) ∧
    (∃ l : List Nat, ∃ s : State, (s.sys.rom = true ∨ 2 ≤ s.sys.level ∨ s.ch.pwr = 2 ∨ l.length ≠ 16)) ∧
    (∃ v, ∃ s : State, ∃ k, s.sys.rom = true ∧ s.sys.level < 2 ∧ s.sys.boot = 1 ∧ bootSrc s = 0 ∧ (slotOrder s).find? (fun k => bit v k && (match
      mget s.nv.slots k with | some i => imageOk s i.data | none => false)) = some k) ∧
    (∃ v, ∃ s : State, (s.sys.rom = true ∧ s.sys.level < 2 ∧ s.sys.boot = 1 ∧ bootSrc s = 0) ∧ (∀ k ∈ slotOrder s, bit v k = true → ∀ i, mget
      s.nv.slots k = some i → imageOk s i.data = false)) ∧
    (∃ s : State, (s.sys.rom = false ∨ 2 ≤ s.sys.level ∨ s.sys.boot ≠ 1 ∨ bootSrc s ≠ 0)) ∧
    (∃ s : State, fwUp s = true ∧ s.ch.pwr ≠ 2) ∧
    (∃ s : State, (fwUp s = false ∨ s.ch.pwr = 2)) ∧
    (∃ s : State, ∃ t, s.sys.dbgExp = some t ∧ t ≤ now s) ∧
    (∃ s : State, (s.sys.dbgExp = none ∨ (∃ t, s.sys.dbgExp = some t ∧ now s < t))) :=
  ⟨⟨0, 131, { sys := { blocks := [(131, { st := 1, op := some 0 })] } }, by decide +kernel⟩,
   ⟨5, 1, State.reset, by decide +kernel⟩,
   ⟨5, 1, State.reset, by decide +kernel⟩,
   ⟨0, 131, atNs 100000 { sys := { blocks := [(131, { st := 1, op := some 3 })] } }, by decide +kernel⟩,
   ⟨131, atNs 100000 { sys := { blocks := [(131, { st := 1, op := some 4 })] } }, by decide +kernel⟩,
   ⟨1, 31, inReset 1 31, by decide +kernel⟩,
   ⟨2, 63, inReset 2 63, by decide +kernel⟩,
   ⟨3, 7, inReset 3 7, by decide +kernel⟩,
   ⟨4, 11, inReset 4 11, by decide +kernel⟩,
   ⟨5, 1, inReset 5 1, by decide +kernel⟩,
   ⟨5, 1, State.reset, by decide +kernel⟩,
   ⟨List.replicate 16 255, State.reset, by decide +kernel⟩,
   ⟨[], State.reset, by decide +kernel⟩,
   ⟨1, { sys := { rom := true, boot := 1 }, nv := { slots := [(0, { len := 129, data := fwMem })] } }, 0, by decide +kernel⟩,
   ⟨0, { sys := { rom := true, boot := 1 } }, by decide +kernel, fun k _ h => by simp [bit] at h⟩,
   ⟨State.reset, by decide +kernel⟩,
   ⟨up, by decide +kernel⟩,
   ⟨State.reset, by decide +kernel⟩,
   ⟨{ sys := { dbgExp := some 0 } }, 0, by decide +kernel⟩,
   ⟨State.reset, .inl rfl⟩⟩

/-- States and operands that meet the hypotheses of each clause of StopsAndReadsComplete. -/
theorem witness_StopsAndReadsComplete :
    (∃ s : State, s.hv.st = 1 ∧ s.hv.t ≤ now s) ∧
    (∃ s : State, s.hv.st = 3 ∧ s.hv.r ≤ now s) ∧
    (∃ s : State, (s.hv.st ≠ 1 ∨ now s < s.hv.t)) ∧
    (∃ s : State, (s.hv.st ≠ 3 ∨ now s < s.hv.r)) ∧
    (∃ n, ∃ s : State, (link s n).marker = none) ∧
    (∃ n, ∃ s : State, ∃ k, ∃ t, (link s n).marker = some (k, t) ∧ holding s = true) ∧
    (∃ n, ∃ s : State, ∃ k, ∃ t, (link s n).marker = some (k, t) ∧ holding s = false ∧ s.hv.ever = true ∧ s.hv.num = k) ∧
    (∃ n, ∃ s : State, ∃ k, ∃ t, (link s n).marker = some (k, t) ∧ holding s = false ∧ (s.hv.ever = false ∨ s.hv.num ≠ k)) ∧
    (∃ k, ∃ s : State, (drainDue s k = false ∨ holding s = true ∨ 2 ≤ s.sys.level)) ∧
    (∃ k, ∃ s : State, drainDue s k = true ∧ (logbook s k).brixvia = false ∧ (drainRoom s (logbook s k) = 0 ∨ (logbook s k).chip = chipId s ∧
      hbmHeld s (logbook s k).addr (2 ^ (logbook s k).size) = true)) ∧
    (∃ k, ∃ s : State, drainDue s k = true ∧ holding s = false ∧ s.sys.level < 2 ∧ (logbook s k).brixvia = false ∧ (drainRoom s (logbook s k)) ≠
      0 ∧ ((logbook s k).chip ≠ chipId s ∨ hbmHeld s (logbook s k).addr (2 ^ (logbook s k).size) = false)) ∧
    (∃ k, ∃ s : State, drainDue s k = true ∧ holding s = false ∧ s.sys.level < 2 ∧ (logbook s k).brixvia = true ∧ (sess s (logbook s
      k).sess).opened = true ∧ (sess s (logbook s k).sess).gen = (logbook s k).gen) ∧
    (∃ k, ∃ s : State, drainDue s k = true ∧ holding s = false ∧ s.sys.level < 2 ∧ (logbook s k).brixvia = true ∧ ((sess s (logbook s
      k).sess).opened = false ∨ (sess s (logbook s k).sess).gen ≠ (logbook s k).gen)) ∧
    (∃ c, ∃ s : State, (s.sys.rom = false ∨ down s = true ∨ c ≠ 0x10 ∧ smbusWord s c = none)) ∧
    (∃ c, ∃ s : State, ∃ v, s.sys.rom = true ∧ down s = false ∧ c ≠ 0x10 ∧ smbusWord s c = some v) ∧
    (∃ s : State, s.sys.rom = true ∧ down s = false) ∧
    (∃ s : State, s.sys.level ≠ 3 ∧ s.ch.pwr ≠ 2) ∧
    (∃ o : JtagOp, ∃ s : State, s.sys.level ≠ 3 ∧ s.ch.pwr ≠ 2 ∧ (o = .samplePreload ∨ o = .ac ∨ ((o = .extest ∨ o = .extestPulse ∨ o =
      .extestTrain) ∧ s.inlineOk = false))) ∧
    (∃ s : State, s.sys.level ≠ 3 ∧ s.ch.pwr ≠ 2 ∧ dbgOpen s 2 = true) ∧
    (∃ s : State, s.sys.level ≠ 3 ∧ s.ch.pwr ≠ 2 ∧ dbgOpen s 2 = true) ∧
    (∃ o : JtagOp, ∃ s : State, (jtagMay s o = false ∨ s.sys.level = 3 ∨ s.ch.pwr = 2)) ∧
    (∃ s : State, s.sys.level ≠ 3 ∧ s.ch.pwr ≠ 2 ∧ dbgOpen s 2 = true) :=
  ⟨⟨{ hv := { st := 1 } }, by decide +kernel⟩,
   ⟨{ hv := { st := 3 } }, by decide +kernel⟩,
   ⟨State.reset, by decide +kernel⟩,
   ⟨State.reset, by decide +kernel⟩,
   ⟨7, State.reset, by decide +kernel⟩,
   ⟨7, { linkIs { marker := some (1, 0) } with hv := { st := 2 } }, 1, 0, by decide +kernel⟩,
   ⟨7, { linkIs { marker := some (1, 0) } with hv := { ever := true, num := 1 } }, 1, 0, by decide +kernel⟩,
   ⟨7, linkIs { marker := some (1, 0) }, 1, 0, by decide +kernel⟩,
   ⟨0x81, State.reset, by decide +kernel⟩,
   ⟨0x81, { logIs aLog with obsW := [(0, [(0, 192 * 13200)])] }, by decide +kernel⟩,
   ⟨0x81, logIs aLog, by decide +kernel⟩,
   ⟨0x81, logIs { aLog with brixvia := true, sess := 3, gen := 1 }, by decide +kernel⟩,
   ⟨0x81, logIs { aLog with brixvia := true, sess := 3, gen := 2 }, by decide +kernel⟩,
   ⟨0, State.reset, by decide +kernel⟩,
   ⟨0x04, { sys := { rom := true } }, 0, by decide +kernel⟩,
   ⟨{ sys := { rom := true } }, by decide +kernel⟩,
   ⟨State.reset, by decide +kernel⟩,
   ⟨.extestTrain, State.reset, by decide +kernel⟩,
   ⟨up, by decide +kernel⟩,
   ⟨up, by decide +kernel⟩,
   ⟨.vendor, State.reset, by decide +kernel⟩,
   ⟨up, by decide +kernel⟩⟩

/-- States and operands that meet the hypotheses of each clause of FirstRoundNeedsItsObjects. -/
theorem witness_FirstRoundNeedsItsObjects :
    (∃ s : State, ∃ r : Round, ∃ id, s.ver.newest.num = 0 ∧ id ∈ [oidPg, oidSel, oidPlan] ++ (List.range 8).map oidDlc ∧ mget r.written id =
      none) ∧
    (∃ s : State, ∃ r, ∃ t, ∃ id, s.ver.newest.num = 0 ∧ s.ver.round = some r ∧ r.armed = some t ∧ (holding s = true → s.hv.round = some r) ∧ id
      ∈ [oidPg, oidSel, oidPlan] ++ (List.range 8).map oidDlc ∧ mget r.written id = none) :=
  ⟨⟨State.reset, { num := 1, objs := {}, bearingReady := true }, oidDlc 7, by decide +kernel⟩,
   ⟨staging { fullRound with written := [(oidPg, 1)] } State.reset, { fullRound with written := [(oidPg, 1)] }, 0, oidDlc 7, by decide +kernel⟩⟩

/-- States and operands that meet the hypotheses of each clause of ChipIdAndRoutesAreLinkState. -/
theorem witness_ChipIdAndRoutesAreLinkState :
    (∃ s : State, s.sys.level < 2) ∧
    (∃ s : State, s.sys.level = 0 ∧ s.ch.pwr ≠ 2 ∧ holding s = false) :=
  ⟨⟨State.reset, by decide +kernel⟩,
   ⟨State.reset, by decide +kernel⟩⟩

/-- States and operands that meet the hypotheses of each clause of AccumulationSaturates. -/
theorem witness_AccumulationSaturates :
    ∃ mode, ∃ j, ∃ la : List (List Int), ∃ lw : List (List Int), ∃ x : Slot, ∃ i, ∃ n, mode < 4 ∧ j < modeP mode ∧ la.length ≤ [64, 32, 16,
      8].getD mode 0 ∧ lw.length ≤ [64, 32, 16, 512].getD mode 0 ∧ mwf x.acc = true ∧ i < la.length ∧ n < lw.length :=
  ⟨3, 0, List.replicate 8 [1], List.replicate 512 [1], {}, 7, 511, by decide +kernel⟩

/-- States and operands that meet the hypotheses of each clause of SameRequestIsReplayed. -/
theorem witness_SameRequestIsReplayed :
    (∃ m, ∃ q : Rq, ∃ r, ∃ s : State, (mbx s m).st ≠ 1 ∧ (mbx s m).st ≠ 2 ∧ (mbx s m).resp = some r ∧ r.op = q.op ∧ r.seq = q.seq) ∧
    (∃ m, ∃ i, ∃ r, ∃ s : State, i < 4 ∧ m < 32 ∧ helmUp s = true ∧ (sess s i).opened = true ∧ (mbx s m).st ≠ 1 ∧ (mbx s m).st ≠ 2 ∧ (mbx s
      m).resp = some r ∧ r.op = (areaRq s m).op ∧ r.seq = (areaRq s m).seq) :=
  ⟨⟨31, okRq, { op := 0x0C02, seq := 5, status := 0 }, rung { st := 3, resp := some { op := 0x0C02, seq := 5, status := 0 } }, by decide +kernel⟩,
   ⟨31, 3, { op := 0, seq := 0, status := 0 }, rung { st := 3, resp := some { op := 0, seq := 0, status := 0 } }, by decide +kernel⟩⟩

/-! ### Well-formed commands: each check refuses a term that breaks it -/

theorem test_wellFormed_takes : [Instr.hello (ask []), .tblRead 3 (2 ^ 32 - 1), .spPortEnable 63, .clLinkEnable 7, .nop 131, .qwait 131 14,
    .sliceArrival 63 [⟨3, zeros 64⟩], .quiesceAck 5 131, .smbusRead 255, .jtagInstruction (.access 0 none) []].all wellFormed = true := by
  decide +kernel
theorem test_wellFormed_refuses_requests : [Instr.hello { ask [] with mbx := 32 }, .hello { ask [] with sess := 4 },
    .hello { ask [] with seq := 2 ^ 32 }, .hello { ask [] with ifv := 256 }, .hello { ask [] with flags := 256 },
    .hello { ask [] with rsvd := 2 ^ 48 }, .hello { ask [] with payload := zeros 4081 }, .hello { ask [] with cr := ⟨true, 512⟩ }].all
    (fun c => !wellFormed c) = true := by decide +kernel
theorem test_wellFormed_refuses_registers : [Instr.tblRead 4 0, .tblRead 0 (2 ^ 32), .tblCmdComplete 4, .tblRegCollide 4 0 0,
    .tblRegCollide 0 256 0, .tblRegCollide 0 0 (2 ^ 32), .cwMbxDbRing 4 0, .cwMbxDbRing 0 (2 ^ 32), .cwMbxDoneClear (2 ^ 32),
    .spPortEnable 64, .clLinkEnable 8, .counterClear (2 ^ 24), .lowWordReadLatch 0x301 0, .lowWordReadLatch 0 (2 ^ 24),
    .registerWrite 0x301 0 0, .registerWrite 0 (2 ^ 24) 0, .registerWrite 0 0 (2 ^ 32), .mbxStart 32 ⟨true, 0⟩, .mbxStart 0 ⟨true, 512⟩,
    .mbxComplete 32].all (fun c => !wellFormed c) = true := by decide +kernel
theorem test_wellFormed_refuses_frames : [Instr.hsInit 2 [], .hsInit 0 (zeros 9217), .hsFin 2 0 [] 0 ⟨true, 0⟩, .hsFin 0 4 [] 0 ⟨true, 0⟩,
    .hsFin 0 0 (zeros 9217) 0 ⟨true, 0⟩, .hsFin 0 0 [] (2 ^ 32) ⟨true, 0⟩, .hsFin 0 0 [] 0 ⟨true, 512⟩, .mbxWrite { frame [] with port := 2 },
    .mbxWrite { frame [] with sess := 4 }, .mbxWrite { frame [] with pn := 2 ^ 64 }, .mbxWrite { frame [] with fseq := 2 ^ 32 },
    .mbxWrite { frame [] with fack := 2 ^ 32 }, .mbxWrite { frame [] with flags := 256 }, .mbxWrite (frame (zeros 9217)),
    .ptpMessage 2 (ptp .sync none none),
    .ptpMessage 0 { ptp .sync none none with domain := 256 }, .ptpMessage 0 { ptp .sync none none with src := 2 ^ 80 },
    .ptpMessage 0 { ptp .sync none none with ttl := 2 ^ 64 }, .ptpMessage 0 (ptp .announce (some { aDs with prio1 := 256 }) none), .bxAckSend 4, .helmLockstepStop 2,
    .sliceArrival 64 [], .sliceArrival 0 [⟨4, zeros 64⟩], .sliceArrival 0 [⟨0, zeros 63⟩], .resync 64 (zeros 64), .resync 0 (zeros 63),
    .spLockLoss 64].all (fun c => !wellFormed c) = true := by decide +kernel
theorem test_wellFormed_refuses_events : [Instr.parseWalk 32 false, .sliceLookup 64 0 [], .sliceLookup 0 (2 ^ 24) [],
    .sliceLookup 0 0 [.exact 8 0], .learnAgeSweep 2, .flowFetchReturn 2 0 0 0, .flowFetchReturn 0 (2 ^ 32) 0 0,
    .flowFetchReturn 0 0 (2 ^ 48) 0, .flowFetchReturn 0 0 0 16, .tableRepair 34 (.learn 0 0) false, .tableRepair 0 (.learn 262144 0) false,
    .compassBlockEval 32 .job [] [], .compassBlockEval 0 (.slice 64 0) [] [], .compassBlockEval 0 .job [.flow (2 ^ 32)] [],
    .compassBlockEval 0 .job [] [4096], .verdictWordSend 64, .cadenceTick 65536, .jobStart 256, .jobResume 256 0, .contextSave ⟨132, 0⟩, .contextSave ⟨0, 2 ^ 48⟩, .djob ⟨132, none⟩,
    .djob ⟨0, some 1⟩,
    .nop 132, .instrRelease 132 0, .instrRelease 0 15, .aload 132 none, .aload 0 (some (2 ^ 32, 0)), .adrain 132 [], .adrain 0 [(4, 0, 0)],
    .adrain 0 [(0, 8192, 0)], .adrain 0 [(0, 0, 64)], .mvmul 132 none [], .mvmul 0 none [(4096, 0)], .mvmul 0 none [(0, 64)], .vld 132 0,
    .vld 0 8, .varith 0 0 (some 64), .salu 132 0, .salu 0 2].all (fun c => !wellFormed c) = true := by decide +kernel
theorem test_wellFormed_refuses_system : [Instr.hbmReread (2 ^ 48) 0 ⟨[], [], false, false⟩, .hbmReread 0 (2 ^ 32) ⟨[], [], false, false⟩,
    .hbmReread 0 0 ⟨[36], [], false, false⟩, .hbmReread 0 0 ⟨[], [36], false, false⟩, .hbmRowRepair 384 0 [] false,
    .migrationComplete 2 [], .migrationComplete 0 [2 ^ 48], .hbmTempRead [] [] [], .patrolScrub 0 (2 ^ 26) 0, .bankSpared 132 [],
    .alarmFire 4, .wakeComparatorFire 2 0, .wakeComparatorFire 0 65536, .lightDetect 2 true 0, .clDataFlit 8 ⟨0, zeros 64⟩, .clDataFlit 0 ⟨4, zeros 64⟩, .clTrain 8 (zeros 64), .clTrain 0 (zeros 63),
    .clLockLoss ⟨8, false⟩, .clLaneLock 0 false false 256, .uncorrectableCodeword true 8 ⟨0, 1⟩,
    .uncorrectableCodeword false 64 ⟨0, 1⟩, .uncorrectableCodeword true 0 ⟨0, 545⟩, .controlFrame 0 ⟨true, 512⟩, .clRelayTimeout (2 ^ 17), .faultPeriodEnd 65536 0, .quiesceAck 6 0, .quiesceAck 0 132,
    .quiesceTimeout 0 0 0 [2 ^ 48], .supplyTrip 11, .thermalWarning 48 0, .thermalWarning 0 65536, .resetRelease 11,
    .bootRomStart [4096] true [], .bootRomStart [] true [2 ^ 24],
    .firmwareStart 256, .damperMeasure [] 0 0, .workingCapStep [], .logbookDrain 0x82, .smbusRead 256,
    .jtagInstruction (.access (2 ^ 24) none) [], .jtagInstruction (.access 0 (some (2 ^ 32))) [], .spLaneLock 64 false true].all
    (fun c => !wellFormed c) = true := by decide +kernel

/-! ### Worked examples of the spec -/

/-- Chapter 06, sample A: the sum 320 (1.25) under the logistic link scores 50,941; sample B: 512 scores 57,724. -/
theorem test_logistic_scores : linkScore 1 [320] = 0xC6FD ∧ linkScore 1 [512] = 0xE17C := by decide +kernel
/-- Chapter 06: 1,800 and 2,500 as FP16 are 0x6708 and 0x68E2. -/
theorem test_uint_fp16 : uintFp16 1800 = 0x6708 ∧ uintFp16 2500 = 0x68E2 := by decide +kernel
/-- Chapter 07: the accumulators and both checksums of the 2 x 2 tile with K = 3. -/
theorem test_tile : (let x := feedProblem 0 0 3 [[3, -1, 2], [0, 4, -5]] [[2, -3, 1], [1, 0, 6]] {};
    x.acc = [(0, 11), (1, 15), (64, -17), (65, -30)] ∧ x.cr = [(0, 2 ^ 64 - 6), (1, 2 ^ 64 - 15)] ∧
    x.cc = [(0, 26), (1, 2 ^ 64 - 47)] ∧ x.accSat = false) := by decide +kernel
/-- R208: 2^47 - 1 plus 1 stays and marks the cell, and one less afterwards comes from the clamped value. -/
theorem test_clamp : accLine [1] [1] (2 ^ 47 - 1) = (2 ^ 47 - 1, true) ∧ accLine [1, -1] [1, 1] (2 ^ 47 - 1) = (2 ^ 47 - 2, true) ∧
    accLine [1] [-1] (-2 ^ 47) = (-2 ^ 47, true) := by decide +kernel
/-- Chapter 07: 2.5 in E4M3 under scale code 116 and reference 4 is the edge integer 240. -/
theorem test_edge_e4m3 : (edgeLine 3 true 4 (fun _ => 0x42) (fun _ => 116) 0 1 { free := 0 }).1 = [240] := by decide +kernel
/-- Chapter 08: 6.0 in FP4 under scale code 108 and reference -3 is 36,864; a constant block of 50.0 with reference 6 gives 1,600. -/
theorem test_edge_fp4 : (edgeLine 2 true (-3) (fun _ => 7) (fun _ => 0x6C) 0 1 { free := 0 }).1 = [36864] ∧
    (edgeLine 2 true 6 (fun j => [8, 4, 2, 4].getD j 0) (fun _ => 0) 0 2 { free := 0 }).1 = [1600, 1600] := by decide +kernel
/-- VER_OPEN: 0xFFFF is followed by 0x0001. -/
theorem test_next_version : nextVersion 0xFFFF = 1 ∧ nextVersion 0 = 1 := by decide
/-- Chapter 16: the same SEQ and OPCODE rung again by another session is not run again. -/
theorem test_replay_keeps_the_round :
    (match exec (.cwMbxDbRing 3 8) (staging fullRound { rung {} with helm := { (rung {}).helm with
        mbx := [(3, { st := 3, resp := some { op := 0, seq := 0, status := 0 } })] } }) with
      | .next t => decide (t.ver.round = some fullRound ∧ (mbx t 3).st = 3 ∧ t.out.length = 1)
      | _ => false) = true := by decide +kernel

/-! ### One step each -/

/-- SETK writes its immediate, and decode goes on (R264). -/
theorem test_setk :
    (match exec (.setk 131) (atCtl (fld 56 0x02 + fld 52 15 + 0xFFFF) {}) with
      | .next t => decide ((core t 131).pc = 1 ∧ kreg (core t 131) 15 = 0xFFFF) | _ => false) = true := by decide +kernel
/-- SALU 9 multiplies modulo 2^64 (R264, R280). -/
theorem test_alu_mul : alu64 9 (2 ^ 63) 3 = 2 ^ 63 ∧ alu64 1 0 1 = 2 ^ 64 - 1 ∧ alu64 5 1 64 = 1 := by decide +kernel
/-- A SIGNAL of 0xFFFFFFFF to a value of 1 saturates (R326). -/
theorem test_signal_saturates :
    (match exec (.signal 131) (atEng 13 (syncW 1 0xFFFFFFFF) { sync := [(47, { flags := 32, value := 1 })] }) with
      | .next t => decide ((obj t ⟨false, 131, 47⟩).value = 0xFFFFFFFF ∧ bit (obj t ⟨false, 131, 47⟩).flags 0 = true) | _ => false) = true := by
  decide +kernel
/-- HELLO with MIN above MAX is a field error and changes no session (R466). -/
theorem test_hello_fields :
    (match exec (.hello (ask (bs [0x14, 0x10, 0, 0, 0, 0, 0, 0]))) up with
      | .next t => decide ((sess t 3).ifv = 0x14 ∧ ((mbx t 31).ready.map (·.status)) ≠ some 0) | _ => false) = true := by decide +kernel
/-- The chip id and the routes are cleared by SYS_RST_N (R413). -/
theorem test_chip_id_resets :
    (match exec .sysRstN chainUp with
      | .next t => decide (t.chip = none ∧ t.cl.route = [])
      | _ => false) = true := by decide +kernel
/-- An instruction of the vendor's test logic is refused; BYPASS is answered (R558). -/
theorem test_jtag : exec (.jtagInstruction .vendor []) up = .refused .vendorTest ∧
    (match exec (.jtagInstruction .bypass []) up with | .next _ => true | _ => false) = true := ⟨rfl, by decide +kernel⟩
/-- The damper's cap, in range, is set at once (R550). -/
theorem test_pwr_cap :
    (match exec (.pwrCap (ask (le 2 900 ++ le 2 0))) up with | .next t => decide (t.pw.cap = 900) | _ => false) = true := by decide +kernel
/-- The front command runs and leaves the queue. -/
theorem test_step_takes_the_front :
    (match step { pending := [.sysRstN, .coreRstN] } with | .next t => decide (t.pending = [.coreRstN] ∧ t.sys.level = 2) | _ => false) = true := by
  decide +kernel
/-- CRC-32C of nine digits, the check value of the polynomial that R138 names. -/
theorem test_crc32c : crc32c (bs [0x31, 0x32, 0x33, 0x34, 0x35, 0x36, 0x37, 0x38, 0x39]) = 0xE3069283 := by decide +kernel

end Tests
end

section
/-! PROOFS. Register accesses (R9, R10, R14, R452, R454): which register an accessor reaches, what a read leaves in its latches,
what a write and a clear do; O24. -/

namespace Sys2Proof.Machine

open Sys2Proof

section RegisterRules
variable {acc off o v f : Nat} {s : State}

/-! ### The rows -/

/-- The row of a read, for an accessor that is up. -/
theorem exec_lowWordReadLatch (h : accUp s acc = true) : exec (.lowWordReadLatch acc off) s = .next (accRead acc off s).2 := by
  simp only [exec, execLowWordReadLatch, h, if_true]

/-- The row of a write, for an accessor that is up. -/
theorem exec_registerWrite (h : accUp s acc = true) :
    exec (.registerWrite acc off v) s = .next (accWrite acc off (v % 2 ^ 32) s) := by
  simp only [exec, execRegisterWrite, h, if_true]

/-- The row of a counter clear, outside a reset and SLEEP. -/
theorem exec_counterClear (h : down s = false) : exec (.counterClear off) s = .next (ctrClear off s) := by
  simp [exec, execCounterClear, h]

/-! ### What an accessor reaches (R452, R454) -/

/-- An open session reaches the registers while the helm is up. -/
theorem accUp_of_session (ha : acc < 4) (hh : helmUp s = true) (hs : (sess s acc).opened = true) : accUp s acc = true := by
  simp [accUp, ha, hh, hs]

/-- The offset that accessor `acc` reaches with `off`: a session every one as it stands, any other accessor through the window. -/
def reached (acc off : Nat) (s : State) : Option Nat := if acc < 4 then some off else windowOff s off

theorem reached_session (h : acc < 4) : reached acc off s = some off := if_pos h
theorem reached_window (h : 4 ≤ acc) : reached acc off s = windowOff s off := if_neg (by omega)

theorem accRead_eq : accRead acc off s =
    match reached acc off s with
    | some o => if mapped s o then regRead acc o s else (0, s)
    | none => (0, s) := rfl
theorem accWrite_eq : accWrite acc off v s =
    match reached acc off s with
    | some o => if mapped s o then regWrite acc o v s else s
    | none => s := rfl

theorem accRead_of_reached (hr : reached acc off s = some o) (hm : mapped s o = true) : accRead acc off s = regRead acc o s := by
  rw [accRead_eq, hr]; exact if_pos hm
theorem accRead_of_unmapped (hr : reached acc off s = some o) (hm : mapped s o = false) : accRead acc off s = (0, s) := by
  rw [accRead_eq, hr]; simp [hm]
theorem accRead_of_nothing (hr : reached acc off s = none) : accRead acc off s = (0, s) := by rw [accRead_eq, hr]

theorem accWrite_of_reached (hr : reached acc off s = some o) (hm : mapped s o = true) :
    accWrite acc off v s = regWrite acc o v s := by
  rw [accWrite_eq, hr]; exact if_pos hm
theorem accWrite_of_nothing (hr : reached acc off s = none) : accWrite acc off v s = s := by rw [accWrite_eq, hr]

/-! ### Reads and their latches (R9) -/

theorem regRead_latches (h : wide s off = some (v, f)) :
    (regRead acc off s).2 = { s with latch := mset s.latch (latchKey acc off) (v / 2 ^ 32, f) } := by
  simp only [regRead, h]

/-- A read changes nothing unless it is of the low word of a 64-bit register. -/
theorem regRead_keeps (h : wide s off = none) : (regRead acc off s).2 = s := by
  unfold regRead
  rw [h]
  cases wideOf off <;> rfl

/-! ### Writes to single registers (R10) -/

/-- Below the table units stands the control window (R452). -/
theorem regWrite_controlWindow (hc : ctrAt off = none) (ha : off % 4 = 0) (hb : off < baseTbl) :
    regWrite acc off v s = cwWrite acc off v s := by
  simp [regWrite, hc, ha, hb]

theorem mapped_controlWindow (hc : ctrAt off = none) (ha : off % 4 = 0) (hb : off < baseTbl) (hv : (cwVal s off).isSome = true) :
    mapped s off = true := by
  have h24 : ¬ 2 ^ 24 ≤ off := not_le.mpr (hb.trans (by decide))
  simp only [mapped, regVal, hc, ha, h24, hb]
  cases (wide s off).isSome || (wideOf off).isSome <;> simp [hv]

theorem mapped_cwAperture : mapped s 0x30 = true :=
  mapped_controlWindow (by decide +kernel) (by decide) (by decide) rfl

/-- CW_APERTURE takes its page (R454). -/
theorem regWrite_cwAperture : regWrite acc 0x30 v s = { s with helm := { s.helm with page := v % 512 } } := by
  rw [regWrite_controlWindow (by decide +kernel) (by decide) (by decide)]; rfl

theorem mapped_faultRingRead : mapped s 0x4C = true :=
  mapped_controlWindow (by decide +kernel) (by decide) (by decide) rfl

/-- CW_FLT_RD takes the read index of the fault ring (R455). -/
theorem regWrite_faultRingRead : regWrite acc 0x4C v s = { s with flt := { s.flt with rd := v % 4096 } } := by
  rw [regWrite_controlWindow (by decide +kernel) (by decide) (by decide)]; rfl

theorem ctrAt_alarmStat : ctrAt (baseFlt + 4) = none := by decide +kernel

theorem mapped_alarmStat : mapped s (baseFlt + 4) = true := by
  simp only [mapped, regVal, ctrAt_alarmStat]
  cases (wide s (baseFlt + 4)).isSome || (wideOf (baseFlt + 4)).isSome <;> rfl

/-- A bit written as 1 to FLT_ALARM_STAT clears that pending bit. -/
theorem regWrite_alarmStat :
    regWrite acc (baseFlt + 4) v s = { s with flt := { s.flt with pend := clrMask s.flt.pend (v % 256) } } := by
  simp only [regWrite, ctrAt_alarmStat]
  rfl

/-- An open session's write of a mapped register has that register's effect. -/
theorem exec_registerWrite_session (ha : acc < 4) (hh : helmUp s = true) (hs : (sess s acc).opened = true) (hm : mapped s off = true) :
    exec (.registerWrite acc off v) s = .next (regWrite acc off (v % 2 ^ 32) s) := by
  rw [exec_registerWrite (accUp_of_session ha hh hs), accWrite_of_reached (reached_session ha) hm]

/-! ### Clears (R14) -/

theorem ctrClear_performance (h : ctrAt off = some (.lo o)) :
    ctrClear off s = { s with ctrs := if pinCtr o then msetD s.ctrs o (now s) 0 else mdel s.ctrs o } := by
  simp only [ctrClear, h]

theorem ctrClear_error {r b : Nat} (h : ctrAt off = some (.err o (some (r, b)))) :
    ctrClear off s = { s with ctrs := mdel s.ctrs o, ovf := msetD s.ovf r (clrBit (mgetD s.ovf r 0) b) 0 } := by
  simp only [ctrClear, h]

end RegisterRules

/-- Settles O24: every clause is the row's equation, then what the accessor reaches, then the effect at that register. -/
theorem registerAccessesComplete : Obligations.RegisterAccessesComplete := by
  unfold Obligations.RegisterAccessesComplete
  refine ⟨?latch, ?keep, ?write, ?named, ?window, ?performance, ?error⟩
  case latch =>
    intro acc off s v f ha hh hs hm hw
    rw [exec_lowWordReadLatch (accUp_of_session ha hh hs), accRead_of_reached (reached_session ha) hm, regRead_latches hw]
  case keep =>
    intro acc off s ha hh hs h
    rw [exec_lowWordReadLatch (accUp_of_session ha hh hs)]
    cases hm : mapped s off with
    | false => rw [accRead_of_unmapped (reached_session ha) hm]
    | true =>
      have hw : wide s off = none := h.resolve_left (by simp [hm])
      rw [accRead_of_reached (reached_session ha) hm, regRead_keeps hw]
  case write =>
    intro acc off v s ha hh hs hm
    exact exec_registerWrite_session ha hh hs hm
  case named =>
    intro acc v s ha hh hs
    refine ⟨?_, ?_, ?_⟩
    · rw [exec_registerWrite_session ha hh hs mapped_cwAperture, regWrite_cwAperture, Nat.mod_mod_of_dvd v (by decide)]
    · rw [exec_registerWrite_session ha hh hs mapped_faultRingRead, regWrite_faultRingRead, Nat.mod_mod_of_dvd v (by decide)]
    · rw [exec_registerWrite_session ha hh hs mapped_alarmStat, regWrite_alarmStat, Nat.mod_mod_of_dvd v (by decide)]
  case window =>
    intro acc off v s ha hu
    have hr : reached acc off s = windowOff s off := reached_window ha
    refine ⟨?_, ?_, ?_⟩
    · intro o w f ho hm hw
      rw [exec_lowWordReadLatch hu, accRead_of_reached (hr.trans ho) hm, regRead_latches hw]
    · intro o ho hm
      rw [exec_registerWrite hu, accWrite_of_reached (hr.trans ho) hm]
    · intro ho
      constructor
      · rw [exec_lowWordReadLatch hu, accRead_of_nothing (hr.trans ho)]
      · rw [exec_registerWrite hu, accWrite_of_nothing (hr.trans ho)]
  case performance =>
    intro off o s hd hc
    rw [exec_counterClear hd, ctrClear_performance hc]
  case error =>
    intro off o r b s hd hc
    rw [exec_counterClear hd, ctrClear_error hc]

end Sys2Proof.Machine
end

section
/-! PROOFS. The reset state, and the commands that submit a job, stage a model and control a context (R300, R310, R321); O4 and O12. -/

namespace Sys2Proof.Machine
open Sys2Proof

/-! ### The reset state -/

/-- Settles O4: every value is read off the reset state; its maps of mailboxes and sessions list nothing. -/
theorem resetHoldsItsValues : Obligations.ResetHoldsItsValues := by
  unfold Obligations.ResetHoldsItsValues
  refine ⟨rfl, rfl, rfl, rfl, rfl, rfl, rfl, rfl, rfl, rfl, rfl, rfl, ?mailboxes, ?sessions, rfl, rfl, rfl⟩
  case mailboxes => exact fun m => rfl
  case sessions => exact fun i => rfl

section SubmitRules
variable {r : Req} {s : State}

/-! ### The rows of accepted commands -/

theorem exec_jobSubmit (ha : accepted 0x0601 0x10 r s = true) :
    exec (.jobSubmit r) s = .next (settled 0x0601 r (jobSubmit (callOf r s) (busy 0x0601 r s))) :=
  congrArg _ (mbxRow_accepted (by decide) (by decide) ha)

theorem exec_modelStage (ha : accepted 0x0610 0x10 r s = true) :
    exec (.modelStage r) s = .next (settled 0x0610 r (modelStage (callOf r s) (busy 0x0610 r s))) :=
  congrArg _ (mbxRow_accepted (by decide) (by decide) ha)

theorem exec_scCtl (ha : accepted 0x0703 0x10 r s = true) :
    exec (.scCtl r) s = .next (settled 0x0703 r (scCtl (callOf r s) (busy 0x0703 r s))) :=
  congrArg _ (mbxRow_accepted (by decide) (by decide) ha)

/-! ### JOB_SUBMIT (R310) -/

/-- The job that a call of JOB_SUBMIT describes, numbered by the next WORK_ID (R31, R310). -/
def submittedJob (c : Call) (s : State) : Job :=
  { desc := c.p.take 4 ++ le 4 s.workId ++ c.p.drop 8, wid := s.workId, version := newestNum s,
    deadline := if leAt c.p 8 4 = 0 then 0xFFFFFFFF else deadlineOf (now s + leAt c.p 8 4), origin := 2, sess := c.sess, gen := c.gen }

/-- A descriptor that no row of R310 refuses is queued under the next WORK_ID. -/
theorem jobSubmit_queues {c : Call} {k : Nat} (hr : c.relayed = false) (hlen : c.p.length = 64) (hv : newestNum s ≠ 0)
    (hk : pickInst s s.ver.newest.objs (u8 c.p 0) (u8 c.p 1) = some k) (hi : (inst? s k).isSome = true) (hq : queuedJobs s k < 1024)
    (h12 : bit (u8 c.p 12) 7 = false) (h13 : u8 c.p 13 = 0) (h28 : zeroAt c.p 28 12 = true) (h56 : zeroAt c.p 56 8 = true)
    (hs : leAt c.p 2 2 = 0xFFFF ∨ scValid s.ver.newest.objs (leAt c.p 2 2) = true)
    (hb : leAt c.p 8 4 = 0 ∨ 1000 ≤ leAt c.p 8 4) :
    jobSubmit c s =
      { detail := s.workId, s := queueJob k (submittedJob c s) { s with workId := (s.workId + 1) % 2 ^ 32 } } := by
  have hpick : (pickInst s s.ver.newest.objs (u8 c.p 0) (u8 c.p 1)).filter (fun k => (inst? s k).isSome) = some k := by
    rw [hk]; exact Option.filter_some_pos hi
  have hbudget : (leAt c.p 8 4 != 0 && decide (leAt c.p 8 4 < 1000)) = false := by
    rcases hb with hb | hb
    · simp [hb]
    · simp [not_lt.mpr hb]
  have hstream : (leAt c.p 2 2 != 0xFFFF && !scValid s.ver.newest.objs (leAt c.p 2 2)) = false := by
    rcases hs with hs | hs
    · simp [hs]
    · simp [hs]
  unfold jobSubmit
  simp only [hpick]
  rw [rows_pass]
  · simp only [newWorkId, hr, Bool.false_eq_true, if_false]
    rfl
  · simp [hlen, h12, h13, h28, h56, hstream, hbudget, hv, not_le.mpr hq]

/-! ### SC_CTL (R300) -/

/-- What OP of SC_CTL makes of context `i` (R300): nothing, ARMED, PAUSED, its state cleared, its counters cleared. -/
def scCtlEffect (op i : Nat) (s : State) : State → State :=
  let x := ctxOf s i
  match op with
  | 0 => id
  | 1 => setCtx i { x with st := 1 }
  | 2 => setCtx i { x with st := 2 }
  | 3 => setCtx i { st := x.st, tick := x.tick, evt := x.evt, tickEvt := x.tickEvt, fresh := x.fresh }
  | _ => setCtx i { x with jobs := 0, late := 0, dropped := 0, skipped := 0, failed := 0, ovf := 0 }

theorem scCtl_runs {c : Call} (hlen : c.p.length = 8) (hop : u8 c.p 2 ≤ 4) (hz : zeroAt c.p 3 5 = true)
    (harm : u8 c.p 2 = 1 ∨ u8 c.p 2 = 2 → ctxState s (leAt c.p 0 2) ≠ 0 ∧ ctxState s (leAt c.p 0 2) ≠ 3)
    (hreset : u8 c.p 2 = 3 → (ctxOf s (leAt c.p 0 2)).inflight = 0) :
    scCtl c s = reply (if u8 c.p 2 = 0 then scTpl s.ver.newest.objs (leAt c.p 0 2) ++ ctxBytes s (leAt c.p 0 2) else [])
      (scCtlEffect (u8 c.p 2) (leAt c.p 0 2) s s) := by
  unfold scCtl
  rw [rows_pass]
  · obtain h | h | h | h | h : u8 c.p 2 = 0 ∨ u8 c.p 2 = 1 ∨ u8 c.p 2 = 2 ∨ u8 c.p 2 = 3 ∨ u8 c.p 2 = 4 := by omega
    all_goals simp only [h]; rfl
  · have hlow : ((u8 c.p 2 == 1 || u8 c.p 2 == 2) && (ctxState s (leAt c.p 0 2) == 0 || ctxState s (leAt c.p 0 2) == 3)) = false := by
      by_cases h : u8 c.p 2 = 1 ∨ u8 c.p 2 = 2
      · simp [harm h]
      · simp [not_or.mp h]
    have hidle : (u8 c.p 2 == 3 && (ctxOf s (leAt c.p 0 2)).inflight != 0) = false := by
      by_cases h : u8 c.p 2 = 3
      · simp [hreset h]
      · simp [h]
    simp [hlen, hz, hlow, hidle, not_lt.mpr hop]

end SubmitRules

/-- Settles O12: no row of the command's table refuses the request, so its effect is the handler's last line. -/
theorem jobAndModelCommandsComplete : Obligations.JobAndModelCommandsComplete := by
  unfold Obligations.JobAndModelCommandsComplete
  refine ⟨?submit, ?stage, ?control⟩
  case submit =>
    intro r s k x ha hlen hv hk hi hq h12 h13 h28 h56 hs hb
    have hinst : (inst? (busy 0x0601 r s) k).isSome = true := by rw [instAt_busy, hi]; rfl
    rw [exec_jobSubmit ha, jobSubmit_queues (c := callOf r s) (s := busy 0x0601 r s) rfl hlen hv hk hinst hq h12 h13 h28 h56 hs hb]
    rfl
  case stage =>
    intro r s x ha hround hlen hmodel hplace hz4 hz24 halign hhead h64 hhbm hfmt hgood hclean hsects hin h1 h128 hcores hnums hfits
    have hsections : sectOut (busy 0x0610 r s) (leAt r.payload 8 8) (leAt r.payload 16 8) =
        sectOut s (leAt r.payload 8 8) (leAt r.payload 16 8) := funext fun y => sectOut_busy ..
    have hformat : leAt (devBytes s (leAt r.payload 8 8) 64) 0 2 ≠ 2 → leAt (devBytes s (leAt r.payload 8 8) 64) 0 2 = 3 := hfmt.resolve_left
    have hsome : u8 r.payload 2 ≠ 0 := Nat.one_le_iff_ne_zero.mp h1
    rw [exec_modelStage ha]
    unfold modelStage
    rw [rows_pass]
    · simp only [callOf_p, inHbm_busy, devBytes_busy, containerBad_busy, firstPoison_busy, busy_ver, hhead, h64, hhbm, hgood, hclean,
        hround, decide_true, Bool.and_self, if_true, firstFail, List.foldl_nil]
      rw [rows_pass]
      · simp only [onRound, busy_ver, hround, instNums_busy]
        rfl
      · simp only [modelOf] at hfits
        simp only [List.any_eq_false] at hin
        simpa [hsections, hfits, not_lt.mpr hsects, not_lt.mpr h128, not_lt.mpr hcores, not_lt.mpr hnums, noRound, hround, hsome] using hin
    · simpa [hlen, hmodel, not_lt.mpr hplace, hz4, hz24, halign] using fun _ _ => hformat
  case control =>
    intro r s ha hlen hop hz harm hreset
    rw [exec_scCtl ha, scCtl_runs hlen hop hz harm hreset, settled_reply]
    rfl

end Sys2Proof.Machine
end

section
/-! PROOFS. Table operations (R148 to R151): what each unit reads, writes and leaves alone; O21. -/

namespace Sys2Proof.Machine
open Sys2Proof

/-! ### What a table operation may change (R46, R149) -/

/-- `t` differs from `s` at most in the open round, the learning table, the dies, failure marks, counters and their flags. -/
def TableFrame (s t : State) : Prop :=
  ∃ r l d f k o, t = { s with ver := { s.ver with round := r }, learn := l, dies := d, failed := f, ctrs := k, ovf := o }

namespace TableFrame
variable {s t u : State}

theorem refl (s : State) : TableFrame s s := ⟨s.ver.round, s.learn, s.dies, s.failed, s.ctrs, s.ovf, rfl⟩

theorem trans (h : TableFrame s t) (g : TableFrame t u) : TableFrame s u := by
  obtain ⟨_, _, _, _, _, _, rfl⟩ := h
  obtain ⟨r, l, d, f, k, o, rfl⟩ := g
  exact ⟨r, l, d, f, k, o, rfl⟩

theorem onRound (f : Round → Round) (s : State) : TableFrame s (onRound f s) := by
  unfold Machine.onRound
  split
  · exact ⟨_, s.learn, s.dies, s.failed, s.ctrs, s.ovf, rfl⟩
  · exact refl s

theorem setLearn (b w : Nat) (e : LEnt) (s : State) : TableFrame s (setLearn b w e s) :=
  ⟨s.ver.round, _, s.dies, s.failed, s.ctrs, s.ovf, rfl⟩
theorem ageLearn (own : Nat → Bool) (a : Nat) (s : State) : TableFrame s (ageLearn own a s).2 :=
  ⟨s.ver.round, _, s.dies, s.failed, s.ctrs, s.ovf, rfl⟩
theorem setDie (d : Nat) (x : Die) (s : State) : TableFrame s (setDie d x s) :=
  ⟨s.ver.round, s.learn, _, s.failed, s.ctrs, s.ovf, rfl⟩
theorem rewritten (f : Nat → Bool) (r : PRef) (s : State) : TableFrame s (rewritten f r s) :=
  ⟨s.ver.round, s.learn, s.dies, _, s.ctrs, s.ovf, rfl⟩
theorem perf (off n : Nat) (s : State) : TableFrame s (perf off n s) :=
  ⟨s.ver.round, s.learn, s.dies, s.failed, _, s.ovf, rfl⟩
theorem errc (off v b n : Nat) (s : State) : TableFrame s (errc off v b n s) := by
  unfold Machine.errc
  dsimp only
  split
  · exact ⟨s.ver.round, s.learn, s.dies, s.failed, _, _, rfl⟩
  · exact ⟨s.ver.round, s.learn, s.dies, s.failed, _, s.ovf, rfl⟩
theorem tblErr (d k n : Nat) (s : State) : TableFrame s (tblErr d k n s) := errc _ _ _ _ _
theorem dropFlow (d i : Nat) (s : State) : TableFrame s (dropFlow d i s) := setDie _ _ _
theorem changeTables (o : Objs) (s : State) : TableFrame s (changeTables o s) := onRound _ _

theorem ite {p : Prop} [Decidable p] {a b : TblRes × State} (ha : TableFrame s a.2) (hb : TableFrame s b.2) :
    TableFrame s (if p then a else b).2 := by
  split
  · exact ha
  · exact hb

/-- Removing flow records one after another stays within the frame. -/
theorem dropFlows (d : Nat) (l : List Nat) : ∀ s, TableFrame s (l.foldl (fun s i => Machine.dropFlow d i s) s) := by
  induction l with
  | nil => exact refl
  | cons i l ih => exact fun s => (dropFlow d i s).trans (ih _)

end TableFrame

/-! ### The units -/

section UnitRules
variable (c : TblOp) (s : State)

theorem tblPrefix_frame : TableFrame s (tblPrefix c s).2 := by
  unfold tblPrefix
  dsimp only
  split
  · exact .refl s
  · split
    · split <;> exact .refl s
    · exact .ite (.refl s) ((TableFrame.changeTables _ s).trans (.onRound _ _))
    · split
      · exact .refl s
      · exact (TableFrame.changeTables _ s).trans (.onRound _ _)
    · split <;> exact .refl s

theorem tblExact_frame : TableFrame s (tblExact c s).2 := by
  unfold tblExact
  dsimp only
  split
  · exact .refl s
  · split
    · exact .refl s
    · exact (TableFrame.changeTables _ s).trans (.onRound _ _)
    · exact (TableFrame.changeTables _ s).trans (.onRound _ _)

theorem tblLearn_frame : TableFrame s (tblLearn c s).2 := by
  unfold tblLearn
  dsimp only
  split
  · split <;> exact .refl s
  · split
    · exact .refl s
    · dsimp only
      exact (TableFrame.setLearn ..).trans (.rewritten ..)
  · split
    · exact .refl s
    · exact .refl s
    · exact .setLearn ..
  · split
    · exact .refl s
    · exact .ite (.refl s) (((TableFrame.ageLearn ..).trans (.perf ..)).trans (.perf ..))
  · split
    · exact .refl s
    · split
      · exact .setLearn ..
      · exact .refl s

theorem tblFlow_frame : TableFrame s (tblFlow c s).2 := by
  unfold tblFlow
  dsimp only
  split
  · split <;> exact .refl s
  · split
    · exact .refl s
    · split
      · exact .tblErr ..
      · split
        · exact .setDie ..
        · dsimp only
          exact (TableFrame.setDie ..).trans (.rewritten ..)
  · split
    · exact .refl s
    · exact .dropFlows ..
  · split
    · exact .refl s
    · split
      · exact .dropFlow ..
      · exact .refl s

/-! ### The checks before the operation (R149, R150) -/

/-- The command names a table or a view that its unit does not have. -/
def tblUnknown (c : TblOp) : Bool :=
  match c.u with
  | 0 => decide (1 < c.table)
  | 1 => decide (7 < c.table)
  | _ => c.table != 0 || c.view
/-- The command is refused with BAD_FIELD. -/
def tblBadField (c : TblOp) : Bool := opRejected c.u c.op || tblUnknown c || tblReserved c
/-- The command is refused with STATE: a staged view with no round, or a change of a live LPM or exact table. -/
def tblBadState (c : TblOp) (s : State) : Bool :=
  (c.view && noRound s) || (decide (c.u < 2) && !c.view && (c.op == 2 || c.op == 3 || c.op == 4))
/-- The operation of the command's unit. -/
def tblUnit (c : TblOp) (s : State) : TblRes × State :=
  match c.u with
  | 0 => tblPrefix c s
  | 1 => tblExact c s
  | 2 => tblLearn c s
  | _ => tblFlow c s

theorem tblRun_eq : tblRun c s = if tblBadField c then tblRej 3 s else if tblBadState c s then tblRej 9 s else tblUnit c s := rfl

variable {c s}

theorem tblRun_of_unit (hf : tblBadField c = false) (hs : tblBadState c s = false) : tblRun c s = tblUnit c s := by
  simp [tblRun_eq, hf, hs]

theorem tblUnit_exact (h : c.u = 1) : tblUnit c s = tblExact c s := by simp [tblUnit, h]
theorem tblUnit_learn (h : c.u = 2) : tblUnit c s = tblLearn c s := by simp [tblUnit, h]
theorem tblUnit_flow (h : c.u = 3) : tblUnit c s = tblFlow c s := by simp [tblUnit, h]

theorem tblRun_frame : TableFrame s (tblRun c s).2 := by
  rw [tblRun_eq]
  refine .ite (.refl s) (.ite (.refl s) ?_)
  unfold tblUnit
  split
  · exact tblPrefix_frame c s
  · exact tblExact_frame c s
  · exact tblLearn_frame c s
  · exact tblFlow_frame c s

/-! ### READ and SEARCH -/

theorem tblPrefix_reads (h : c.op = 1 ∨ c.op = 5) : (tblPrefix c s).2 = s := by
  unfold tblPrefix
  rcases h with h | h
  · simp only [h]
    split
    · rfl
    · split <;> rfl
  · simp only [h]
    split
    · rfl
    · split <;> rfl

theorem tblExact_reads (h : c.op = 1) : (tblExact c s).2 = s := by
  unfold tblExact
  simp only [h]
  split <;> rfl

theorem tblLearn_reads (h : c.op = 1 ∨ c.op = 5) : (tblLearn c s).2 = s := by
  unfold tblLearn
  rcases h with h | h
  · simp only [h]
    split <;> rfl
  · simp only [h]
    split <;> rfl

theorem tblFlow_reads (h : c.op = 1 ∨ c.op = 5) : (tblFlow c s).2 = s := by
  unfold tblFlow
  rcases h with h | h
  · simp only [h]
    split <;> rfl
  · simp only [h]
    split <;> rfl

/-- READ and SEARCH change nothing; the exact unit, which has no SEARCH, refuses it. -/
theorem tblRun_reads (h : c.op = 1 ∨ c.op = 5) : (tblRun c s).2 = s := by
  rw [tblRun_eq]
  split
  · rfl
  next hf =>
    split
    · rfl
    · unfold tblUnit
      split
      · exact tblPrefix_reads h
      next hu =>
        refine tblExact_reads (h.resolve_right fun h5 => hf ?_)
        simp [tblBadField, opRejected, hu, h5]
      · exact tblLearn_reads h
      · exact tblFlow_reads h

end UnitRules

/-- Settles O21: the checks first, then the unit that the command names. -/
theorem tableOperationsKeepTheirKind : Obligations.TableOperationsKeepTheirKind := by
  unfold Obligations.TableOperationsKeepTheirKind
  refine ⟨fun c s => tblRun_reads, ?live, ?refused, ?learn, ?flow, ?write, ?delete, fun c s => tblRun_frame⟩
  case live =>
    intro c s hu hv hop ht hr hc
    have hf : tblBadField c = false := by
      have : tblUnknown c = false := by
        obtain h | h : c.u = 0 ∨ c.u = 1 := by omega
        all_goals simp only [tblUnknown, h, decide_eq_false_iff_not]; omega
      simp [tblBadField, hop, this, hr]
    have hs : tblBadState c s = true := by
      rcases hc with h | h | h <;> simp [tblBadState, hu, hv, h]
    rw [tblRun_eq, hf, hs]
    rfl
  case refused =>
    intro c s h
    have hf : tblBadField c = true := by simp [tblBadField, h]
    rw [tblRun_eq, hf]
    rfl
  case learn =>
    intro c s hu hop ht hv ha
    have hf : tblBadField c = false := by simp [tblBadField, opRejected, tblUnknown, tblReserved, hu, hop, ht, hv]
    have hs : tblBadState c s = false := by simp [tblBadState, hu, hv]
    rw [tblRun_of_unit hf hs, tblUnit_learn hu]
    simp only [tblLearn, hop, if_neg (not_le.mpr ha)]
  case flow =>
    intro c s hu hop ht hv ha
    have hf : tblBadField c = false := by simp [tblBadField, opRejected, tblUnknown, tblReserved, hu, hop, ht, hv]
    have hs : tblBadState c s = false := by simp [tblBadState, hu, hv]
    rw [tblRun_of_unit hf hs, tblUnit_flow hu]
    simp only [tblFlow, hop, if_neg (not_le.mpr ha)]
  case write =>
    intro c s r hu hop ht hv hround ha hr
    have hf : tblBadField c = false := by simp [tblBadField, opRejected, tblUnknown, hu, hop, not_lt.mpr ht, hr]
    have hs : tblBadState c s = false := by simp [tblBadState, hv, noRound, hround]
    rw [tblRun_of_unit hf hs, tblUnit_exact hu]
    simp only [tblExact, hop, not_lt.mpr ha, if_false, viewObjs, hv, if_true, hround, wroteExact, changeTables, onRound, setRound]
    rfl
  case delete =>
    intro c s r hu hop ht hv hround ha
    have hf : tblBadField c = false := by simp [tblBadField, opRejected, tblUnknown, tblReserved, hu, hop, not_lt.mpr ht]
    have hs : tblBadState c s = false := by simp [tblBadState, hv, noRound, hround]
    rw [tblRun_of_unit hf hs, tblUnit_exact hu]
    simp only [tblExact, hop, not_lt.mpr ha, if_false, viewObjs, hv, if_true, hround, wroteExact, changeTables, onRound, setRound]
    rfl

end Sys2Proof.Machine
end

section
/-! PROOFS. Flits of a chain link (R396 to R409, R422): a data flit's fate, markers, control flits and time transfer; O51. -/

namespace Sys2Proof.Machine
open Sys2Proof

section FlitRules
variable {n code : Nat} {f : Bytes} {s t : State} {g : State → State}

/-! ### Data flits (R398, R404, R409) -/

theorem crcOk_length (h : crcOk f = true) : f.length = 64 := by
  simp only [crcOk, Bool.and_eq_true, beq_iff_eq] at h
  exact h.1

/-- A flit of a reserved type is a frame error (R396). -/
theorem exec_clDataFlit_reserved {k : Nat} (hr : flitsRun s n = true) (hl : f.length = 64) (hk : 2 ≤ k) :
    exec (.clDataFlit n ⟨k, f⟩) s = .next (frameErr n s) := by
  simp [exec, execClDataFlit, hr, hl, hk]

/-- A flit without a right CRC is counted, and a data flit among them answered with NACK (R397). -/
theorem exec_clDataFlit_badCrc (hr : flitsRun s n = true) (hl : f.length = 64) (hc : crcOk f = false) :
    exec (.clDataFlit n ⟨1, f⟩) s = .next (sendNack n (clErr n 1 1 s)) ∧ exec (.clDataFlit n ⟨0, f⟩) s = .next (clErr n 1 1 s) := by
  constructor
  · simp [exec, execClDataFlit, hr, hl, hc]
  · simp [exec, execClDataFlit, hr, hl, hc]

theorem exec_clDataFlit_keeps {k : Nat} (h : flitsRun s n = false ∨ f.length ≠ 64 ∨ k = 0 ∧ crcOk f = true) :
    exec (.clDataFlit n ⟨k, f⟩) s = .next s := by
  rcases h with h | h | ⟨rfl, h⟩
  · simp [exec, execClDataFlit, h]
  · simp [exec, execClDataFlit, h]
  · simp [exec, execClDataFlit, h]

/-- A data flit whose SEQ is not the one expected is answered with NACK once its ACK has acted (R409). -/
theorem exec_clDataFlit_outOfOrder (hr : flitsRun s n = true) (hc : crcOk f = true) (ht : t = ackLink n (beAt f 2 2) s)
    (hq : beAt f 0 2 ≠ (link t n).rx) : exec (.clDataFlit n ⟨1, f⟩) s = .next (sendNack n t) := by
  subst ht
  simp [exec, execClDataFlit, hr, crcOk_length hc, hc, hq]

/-- A data flit with the expected SEQ, once its ACK has acted: it lacks credit, is of the reserved channel, or is taken (R398, R404). -/
theorem exec_clDataFlit_inOrder (hr : flitsRun s n = true) (hc : crcOk f = true) (ht : t = ackLink n (beAt f 2 2) s)
    (hq : beAt f 0 2 = (link t n).rx) :
    exec (.clDataFlit n ⟨1, f⟩) s = .next (
      if u8 (sub f 4 56) 0 / 16 % 4 < 3 ∧ isMarker (link t n) (sub f 4 56) = false ∧
          (link t n).grant.getD (u8 (sub f 4 56) 0 / 16 % 4) 0 = 0 then retrainLink n (frameErr n t)
      else if u8 (sub f 4 56) 0 / 16 % 4 = 3
        then frameErr n (setLink n { link t n with rx := ((link t n).rx + 1) % 65536, nacked := false } t)
        else acceptFlit n f (setLink n { link t n with rx := ((link t n).rx + 1) % 65536, nacked := false } t)) := by
  subst ht
  simp [exec, execClDataFlit, hr, crcOk_length hc, hc, hq, and_assoc]

/-! ### Markers (R402, R408) -/

theorem acceptFlit_marker (h : isMarker (link (perf (clLink n + 0x28) 1 s) n) (sub f 4 56) = true) :
    acceptFlit n f s = takeMarker n (sub f 4 56) (perf (clLink n + 0x28) 1 s) := by
  simp only [acceptFlit, h, if_true]

/-! ### Control flits (R399) -/

theorem flitsRun_iff : flitsRun s n = true ↔
    n < 8 ∧ ((link s n).st = 5 ∨ (link s n).st = 6) ∧ s.sys.level < 2 ∧ s.ch.pwr ≠ 2 := by
  simp [flitsRun, and_assoc]

/-- A control flit of its row's code acts on a link on which flits run. -/
theorem rxCtl_runs (hr : flitsRun s n = true) (hc : crcOk f = true) (hu : u8 f 0 = code) : rxCtl code n f g s = g s := by
  obtain ⟨hn, hst, hl, -⟩ := flitsRun_iff.mp hr
  have h0 : (link s n).st ≠ 0 ∧ (link s n).st ≠ 7 := by omega
  simp [rxCtl, hn, h0, hl, crcOk_length hc, hc, hu]

theorem rxCtl_badCrc (hr : flitsRun s n = true) (hl : f.length = 64) (hc : crcOk f = false) : rxCtl code n f g s = clErr n 1 1 s := by
  obtain ⟨hn, hst, hlev, -⟩ := flitsRun_iff.mp hr
  have h0 : (link s n).st ≠ 0 ∧ (link s n).st ≠ 7 := by omega
  simp [rxCtl, hn, h0, hlev, hl, hc]

/-- A control flit with a right CRC changes nothing where its row would not. -/
theorem rxCtl_keeps (hc : crcOk f = true) (hg : g s = s) : rxCtl code n f g s = s := by
  simp [rxCtl, hc, hg]

end FlitRules

/-- Settles O51: a data flit's clauses from its two equations, the control flits' from what `rxCtl` lets act. -/
theorem linkFlitsComplete : Obligations.LinkFlitsComplete := by
  unfold Obligations.LinkFlitsComplete
  refine ⟨?taken, ?channel, ?credit, ?order, ?crc, ?type, ?nothing, ?marker, ?waits, ?nack, ?nackCrc, ?credits, ?grants, ?timeout,
    ?request, ?answer, ?noRequest, ?asks, ?asksNot⟩
  case taken =>
    rintro n f s t v hr hc ht hq rfl hv hm
    have hcredit : ¬(isMarker (link t n) (sub f 4 56) = false ∧ (link t n).grant.getD (u8 (sub f 4 56) 0 / 16 % 4) 0 = 0) :=
      fun h => hm.elim (by simp [h.1]) fun hg => hg h.2
    rw [exec_clDataFlit_inOrder hr hc ht hq, if_neg fun h => hcredit h.2, if_neg hv.ne]
  case channel =>
    intro n f s t hr hc ht hq hv
    rw [exec_clDataFlit_inOrder hr hc ht hq, if_neg fun h => h.1.ne hv, if_pos hv]
  case credit =>
    rintro n f s t v hr hc ht hq rfl hv hm hg
    rw [exec_clDataFlit_inOrder hr hc ht hq, if_pos ⟨hv, hm, hg⟩]
  case order => exact fun n f s t hr hc ht hq => exec_clDataFlit_outOfOrder hr hc ht hq
  case crc => exact fun n f s hr hl hc => exec_clDataFlit_badCrc hr hl hc
  case type => exact fun n k f s hr hl hk => exec_clDataFlit_reserved hr hl hk
  case nothing => exact fun n k f s h => exec_clDataFlit_keeps h
  case marker =>
    rintro n f s u r rfl rfl hm
    exact acceptFlit_marker hm
  case waits =>
    rintro n r s g u rfl hl hlen hw hchip hcheck
    simp only [takeMarker, hl, hlen, hw, Option.isNone_eq_false_iff.mpr hchip, hcheck]
    rfl
  case nack =>
    intro n f s hr hc hu
    simp only [exec, execNack, rxCtl_runs hr hc hu, hr, if_true]
  case nackCrc =>
    intro n f s hr hl hc
    simp only [exec, execNack, rxCtl_badCrc hr hl hc]
  case credits =>
    rintro n f s t hr hc hu rfl
    simp only [exec, execCredit, rxCtl_runs hr hc hu, hr, Bool.not_true, Bool.false_eq_true, if_false]
  case grants =>
    rintro n s c hr rfl
    simp only [exec, execClCreditSend, hr, Bool.not_true, Bool.false_eq_true, if_false]
  case timeout =>
    intro n s
    simp [exec, execClReplayTimeout, and_assoc]
  case request =>
    rintro n f s t hr hc hu rfl
    simp only [exec, execTimeReq, rxCtl_runs hr hc hu, hr, Bool.not_true, Bool.false_eq_true, if_false]
  case answer =>
    intro n f s t hr hc hu ht he hsrc hl
    simp [exec, execTimeResp, rxCtl_runs hr hc hu, ht, hr, he, hsrc, hl]
  case noRequest =>
    intro n f s hc h
    refine congrArg _ (rxCtl_keeps hc ?_)
    rcases h with h | h | h
    · simp only [h]
    · cases ht : (link s n).timeReq <;> simp [ht, h]
    · cases ht : (link s n).timeReq <;> simp [ht, h]
  case asks =>
    intro s hsrc hr hk
    have hdue : ¬now s / 2 ^ 20 + 1 ≤ (link s s.ch.link).timeSent := by omega
    simp only [exec, execTimeReqSend, hsrc, hr, decide_eq_false hdue, ne_eq, not_true_eq_false, decide_false, Bool.not_true, Bool.or_self,
      Bool.false_eq_true, if_false]
  case asksNot =>
    intro s h
    refine congrArg _ (if_pos ?_)
    rcases h with h | h | h
    · simp [h]
    · simp [h]
    · simp only [decide_eq_true (Nat.succ_le_of_lt h), Bool.or_true]

end Sys2Proof.Machine
end

section
/-! PROOFS. Results and returns (R39, R315, R316): the result served next, what is delivered of it, and what a return writes; O46. -/

namespace Sys2Proof.Machine
open Sys2Proof

/-! ### The result served next (R39) -/

/-- The running maximum is at least what it started from and every value met. -/
theorem le_foldl_max_prio (l : List Res) (m : Nat) :
    m ≤ l.foldl (fun m x => max m x.job.prio) m ∧ ∀ y ∈ l, y.job.prio ≤ l.foldl (fun m x => max m x.job.prio) m := by
  induction l generalizing m with
  | nil => simp
  | cons a l ih =>
    obtain ⟨hm, hl⟩ := ih (max m a.job.prio)
    refine ⟨(le_max_left _ _).trans hm, fun y hy => ?_⟩
    rcases List.mem_cons.mp hy with rfl | hy
    · exact (le_max_right _ _).trans hm
    · exact hl y hy

section ResultRules
variable {d i : Nat} {s u : State} {x : Res} {t : InTag}

theorem resultNext_spec (h : resultNext s d = some x) :
    x ∈ s.results ∧ x.job.die s = d ∧ ∀ y ∈ s.results, y.job.die s = d → y.job.prio ≤ x.job.prio := by
  have hx := List.mem_of_find?_eq_some h
  have hp := List.find?_some h
  simp only [List.mem_filter, beq_iff_eq] at hx hp
  refine ⟨hx.1, hx.2, fun y hy hd => ?_⟩
  rw [hp]
  exact (le_foldl_max_prio _ 0).2 y (List.mem_filter.mpr ⟨hy, by simpa using hd⟩)

/-! ### The router (R315, R316) -/

/-- A failed result tells its session and gives its return. -/
theorem exec_resultRoute_failed (hf : frozen s = false) (hx : resultNext s d = some x) (hu : u = { s with results := s.results.erase x })
    (hst : x.status ≠ 0) : exec (.resultRoute d) s = .next (giveReturn x.job x.inst x.status (isLate x.job.deadline (now s)) []
      (if x.job.isHost then (resultEvent 2 x.job (resultBody x.job x.inst x.status (isLate x.job.deadline (now s)) false []) u).2
        else u)) := by
  subst hu
  simp only [exec, execResultRoute, hf, hx, ne_eq, hst, not_false_eq_true, if_true, Bool.false_eq_true, if_false]
  rfl

/-- A result with status OK that comes in time is delivered and counted. -/
theorem exec_resultRoute_inTime (hf : frozen s = false) (hx : resultNext s d = some x) (hu : u = { s with results := s.results.erase x })
    (hst : x.status = 0) (hl : isLate x.job.deadline (now s) = false) : exec (.resultRoute d) s = .next (deliverParts x false
      (if x.job.stream = 0xFFFF then perf (scCtr d + 0x10) 1 u
        else setCtx x.job.stream { ctxOf u x.job.stream with lastResult := now s } (perf (scCtr d + 0x10) 1 u))) := by
  have hlu : isLate x.job.deadline (now { s with results := s.results.erase x }) = false := hl
  subst hu
  simp only [exec, execResultRoute, hf, hx, ne_eq, hst, not_true_eq_false, hlu, Bool.false_and, Bool.false_eq_true, if_false]
  rfl

/-- A late result whose class allows no lateness is counted and reported, and nothing of it delivered. -/
theorem exec_resultRoute_late (hf : frozen s = false) (hx : resultNext s d = some x) (hu : u = { s with results := s.results.erase x })
    (hst : x.status = 0) (hl : isLate x.job.deadline (now s) = true) (ho : x.job.lateOk = false) : exec (.resultRoute d) s =
      .next (notify x.job x.inst 15 true true (failed_ x.job (scErr d 4 (jobMiss (0xE4 + 8 * d) d x.job u)))) := by
  have hlu : isLate x.job.deadline (now { s with results := s.results.erase x }) = true := hl
  subst hu
  simp only [exec, execResultRoute, hf, hx, ne_eq, hst, not_true_eq_false, hlu, ho, Bool.not_false, Bool.and_self, Bool.false_eq_true,
    if_true, if_false]

/-- A late result with LATE_OK is counted as late and delivered. -/
theorem exec_resultRoute_lateOk (hf : frozen s = false) (hx : resultNext s d = some x) (hu : u = { s with results := s.results.erase x })
    (hst : x.status = 0) (hl : isLate x.job.deadline (now s) = true) (ho : x.job.lateOk = true) {v : State}
    (hv : v = scErr d 3 (jobMiss (0xE4 + 8 * d) d x.job u)) : exec (.resultRoute d) s = .next (deliverParts x true
      (if x.job.stream = 0xFFFF then perf (scCtr d + 0x10) 1 v else
        setCtx x.job.stream { ctxOf (perf (scCtr d + 0x10) 1 (ctxCount x.job.stream 1 v)) x.job.stream with
          lastResult := now (perf (scCtr d + 0x10) 1 (ctxCount x.job.stream 1 v)) } (perf (scCtr d + 0x10) 1 (ctxCount x.job.stream 1 v)))) := by
  have hlu : isLate x.job.deadline (now { s with results := s.results.erase x }) = true := hl
  subst hu hv
  simp only [exec, execResultRoute, hf, hx, ne_eq, hst, not_true_eq_false, hlu, ho, Bool.not_true, Bool.and_false, Bool.false_eq_true,
    if_true, if_false]
  split <;> rfl

/-! ### Returns (R316, R403) -/

/-- The state in which a return's copy word has acted: its last frame ends the flight, its first one answers the DJOB (R310). -/
def returnTaken (t : InTag) (u : State) : State :=
  let g := tagOf t.tag
  let v := if bit (beAt t.body 0 8) 63 then dropAway g.chip g.workId u else u
  if bit (beAt t.body 0 8) 62 && !(t.body.drop 8).isEmpty then returnAccept g.chip g.workId (leAt (t.body.drop 8) 0 2) v else v
/-- DEADLINE_MISS of a late return. -/
def returnMiss (t : InTag) (s : State) : State :=
  let g := tagOf t.tag
  raiseF { code := 0x0401, unit := g.unit, index := (g.unit - 0xE4) / 8, version := g.version, detail := g.workId + 2 ^ 32 * g.dl } s
/-- The return writes `data` where its copy word says; a first frame that misses memory is counted. -/
def returnWritten (t : InTag) (data : Bytes) (s : State) : State :=
  if inMem s (beAt t.body 0 8 % 2 ^ 48) data.length then devWrite (beAt t.body 0 8 % 2 ^ 48) data s
  else if bit (beAt t.body 0 8) 62 then scErr (((tagOf t.tag).unit - 0xE4) / 8) 5 s else s

/-- A first frame is marked late by the device itself: it comes late, and its header does not say so yet (R316). -/
def returnFresh (t : InTag) (u : State) : Bool :=
  bit (beAt t.body 0 8) 62 && isLate (tagOf t.tag).deadline (now u) && u8 (t.body.drop 8) 8 % 2 == 0

theorem exec_returnArrive_takes (hf : frozen s = false)
    (ht : takeTag i (fun t => t.kind == 3 && (t.unit == 0xE4 || t.unit == 0xEC)) s = some (t, u)) :
    exec (.returnArrive i) s = .next (
      if isLate (tagOf t.tag).deadline (now u) && !(tagOf t.tag).lateOk then
        if bit (beAt t.body 0 8) 62 then returnMiss t (scErr (((tagOf t.tag).unit - 0xE4) / 8) 4 (returnTaken t u)) else returnTaken t u
      else if (t.body.drop 8).isEmpty then returnTaken t u
      else if returnFresh t u then
        returnWritten t ((t.body.drop 8).set 8 1) (returnMiss t (scErr (((tagOf t.tag).unit - 0xE4) / 8) 3 (returnTaken t u)))
      else returnWritten t (t.body.drop 8) (returnTaken t u)) := by
  cases hfresh : returnFresh t u with
  | false =>
    unfold returnFresh at hfresh
    simp only [exec, execReturnArrive, hf, ht, hfresh, returnTaken, returnMiss, returnWritten, Bool.false_eq_true, if_false]
    rfl
  | true =>
    unfold returnFresh at hfresh
    simp only [exec, execReturnArrive, hf, ht, hfresh, returnTaken, returnMiss, returnWritten, Bool.false_eq_true, if_false, if_true]
    rfl

theorem inTime_not_late {l o : Bool} (h : l = false ∨ o = true) : ¬(l && !o) = true := by
  rcases h with rfl | rfl <;> simp

theorem returnTaken_first (hb : bit (beAt t.body 0 8) 62 = true) (hl : 8 < t.body.length) : returnTaken t u =
    returnAccept (tagOf t.tag).chip (tagOf t.tag).workId (leAt (t.body.drop 8) 0 2)
      (if bit (beAt t.body 0 8) 63 then dropAway (tagOf t.tag).chip (tagOf t.tag).workId u else u) := by
  simp [returnTaken, hb, hl]
theorem returnTaken_rest (h : bit (beAt t.body 0 8) 62 = false ∨ t.body.length ≤ 8) : returnTaken t u =
    if bit (beAt t.body 0 8) 63 then dropAway (tagOf t.tag).chip (tagOf t.tag).workId u else u := by
  rcases h with h | h
  · simp [returnTaken, h]
  · simp [returnTaken, h]

end ResultRules

/-- Settles O46: the router's clauses from the four outcomes of a result, those of a return from what its copy word does. -/
theorem resultsComplete : Obligations.ResultsComplete := by
  unfold Obligations.ResultsComplete
  refine ⟨fun d s x => resultNext_spec, ?noResult, ?inTime, ?lateHost, ?lateStream, ?late, ?failed, ?noReturn, ?next, ?first, ?fresh, ?lateNext,
    ?lateFirst⟩
  case noResult =>
    rintro d s (h | h)
    · simp only [exec, execResultRoute, h, if_true]
    · simp only [exec, execResultRoute, h, ite_self]
  case inTime => exact fun d s x u hf hx hu hst hl => exec_resultRoute_inTime hf hx hu hst hl
  case lateHost =>
    intro d s x u hf hx hu hst hl ho hs
    rw [exec_resultRoute_lateOk hf hx hu hst hl ho rfl, if_pos hs]
  case lateStream =>
    rintro d s x u v hf hx hu hst hl ho hs rfl
    rw [exec_resultRoute_lateOk hf hx hu hst hl ho rfl, if_neg hs]
  case late => exact fun d s x u hf hx hu hst hl ho => exec_resultRoute_late hf hx hu hst hl ho
  case failed =>
    rintro d s x u l hf hx hu hst rfl
    exact exec_resultRoute_failed hf hx hu hst
  case noReturn =>
    rintro i s (h | h)
    · simp only [exec, execReturnArrive, h, if_true]
    · simp only [exec, execReturnArrive, h, ite_self]
  case next =>
    rintro i s t u g w v hf ht rfl rfl rfl hl hb
    rw [exec_returnArrive_takes hf ht, returnTaken_rest hb, if_neg (inTime_not_late hl)]
    rcases hb with hb | hb
    · have hfresh : returnFresh t u = false := by simp [returnFresh, hb]
      by_cases hlen : 8 < t.body.length
      · simp [hfresh, returnWritten, hb, hlen]
      · simp [hlen, not_lt.mp hlen]
    · simp [hb]
  case first =>
    rintro i s t u g w v y hf ht rfl rfl rfl hlen hb rfl hl
    have hfresh : returnFresh t u = false := by
      rcases hl with hl | ⟨-, hl⟩
      · simp [returnFresh, hl]
      · simp [returnFresh, hl]
    rw [exec_returnArrive_takes hf ht, returnTaken_first hb hlen, if_neg (inTime_not_late (hl.imp_right And.left))]
    simp [hfresh, hlen, returnWritten, hb]
  case fresh =>
    rintro i s t u g w v y z hf ht rfl rfl rfl hlen hb rfl hl ho hu rfl
    have hfresh : returnFresh t u = true := by simp [returnFresh, hb, hl, hu]
    rw [exec_returnArrive_takes hf ht, returnTaken_first hb hlen, if_neg (inTime_not_late (.inr ho))]
    simp [hfresh, hlen, returnWritten, hb, returnMiss]
  case lateNext =>
    rintro i s t u g w v hf ht rfl rfl rfl hl ho hb
    rw [exec_returnArrive_takes hf ht, returnTaken_rest (.inl hb)]
    simp [hl, ho, hb]
  case lateFirst =>
    rintro i s t u g w v y hf ht rfl rfl rfl hlen hb rfl hl ho
    rw [exec_returnArrive_takes hf ht, returnTaken_first hb hlen]
    simp [hl, ho, hb, returnMiss]

end Sys2Proof.Machine
end

section
/-! PROOFS. What operations leave of the cores, the placements and HBM: counting, logging, faults and sending leave every core as it is;
answers to held sync operations change only engines and K registers; placing a program leaves a core's state of work. -/

namespace Sys2Proof.Machine
open Sys2Proof

/-! ### The frame -/

/-- From `s` to `t` every core looks the same to `view`, and the queues and placements, HBM with its poison, the retirements and the
versions are as they were. -/
structure Keeps {α : Type} (view : Core → α) (s t : State) : Prop where
  insts : t.insts = s.insts
  hbm : t.mem.hbm = s.mem.hbm
  poison : t.mem.poison = s.mem.poison
  nv : t.nv = s.nv
  ver : t.ver = s.ver
  look : ∀ p, view (core t p) = view (core s p)

namespace Keeps
variable {α β : Type} {view : Core → α} {s t u : State}

theorem refl (s : State) : Keeps view s s := ⟨rfl, rfl, rfl, rfl, rfl, fun _ => rfl⟩

theorem trans (h : Keeps view s t) (g : Keeps view t u) : Keeps view s u :=
  ⟨g.insts.trans h.insts, g.hbm.trans h.hbm, g.poison.trans h.poison, g.nv.trans h.nv, g.ver.trans h.ver,
    fun p => (g.look p).trans (h.look p)⟩

/-- A further step that does not touch the cores at all. -/
theorem aside (h : Keeps view s t) (hc : u.cores = t.cores := by rfl) (hi : u.insts = t.insts := by rfl)
    (hh : u.mem.hbm = t.mem.hbm := by rfl) (hp : u.mem.poison = t.mem.poison := by rfl) (hn : u.nv = t.nv := by rfl)
    (hv : u.ver = t.ver := by rfl) : Keeps view s u :=
  h.trans ⟨hi, hh, hp, hn, hv, fun p => congrArg view (by unfold core; rw [hc])⟩

/-- A view that sees less is kept too. -/
theorem weaken (g : α → β) (h : Keeps view s t) : Keeps (fun c => g (view c)) s t :=
  ⟨h.insts, h.hbm, h.poison, h.nv, h.ver, fun p => congrArg g (h.look p)⟩

theorem foldl {ι : Type} {f : State → ι → State} (hf : ∀ t x, Keeps view s t → Keeps view s (f t x)) (l : List ι) (h : Keeps view s t) :
    Keeps view s (l.foldl f t) := by
  induction l generalizing t with
  | nil => exact h
  | cons x l ih => exact ih (hf t x h)

theorem ite {p : Prop} [Decidable p] (ht : Keeps view s t) (hu : Keeps view s u) : Keeps view s (if p then t else u) := by
  split
  · exact ht
  · exact hu

/-- A core is replaced by one that looks the same. -/
theorem setCore {p : Nat} {c : Core} (h : Keeps view s t) (hc : view c = view (core t p)) : Keeps view s (setCore p c t) := by
  refine h.trans ⟨rfl, rfl, rfl, rfl, rfl, fun q => ?_⟩
  by_cases hq : q = p
  · rw [hq, core_setCore_same, hc]
  · rw [core_setCore_other t c hq]

theorem physOf (h : Keeps view s t) (l : Nat) : physOf t l = physOf s l := by
  unfold Machine.physOf; rw [h.nv]

/-! ### Counting, logging and faults -/

section Reports
variable (h : Keeps view s t)
include h

theorem perf (off n : Nat) : Keeps view s (perf off n t) := h.aside
theorem util (p o n : Nat) : Keeps view s (util p o n t) := h.aside
theorem errc (off v b n : Nat) : Keeps view s (errc off v b n t) := by
  unfold Machine.errc
  dsimp only
  exact ite h.aside h.aside
theorem ccErr (p k : Nat) : Keeps view s (ccErr p k t) := h.errc ..
theorem syncErrAt (b k : Nat) : Keeps view s (syncErrAt b k t) := h.errc ..
theorem setSess (i : Nat) (x : Sess) : Keeps view s (setSess i x t) := h.aside
theorem setLink (n : Nat) (x : Lnk) : Keeps view s (setLink n x t) := h.aside
theorem setBlk (u i : Nat) (x : Blk) : Keeps view s (setBlk u i x t) := h.aside
theorem emit (o : Out) : Keeps view s (emit o t) := h.aside
theorem noteSeq (g : Tag) : Keeps view s (noteSeq g t) := h.aside
theorem startQuiesce (u i : Nat) (op who : Option Nat) : Keeps view s (startQuiesce u i op who t) := h.setBlk ..

theorem logRecAt (k type unit flags t256 : Nat) (body : Bytes) : Keeps view s (logRecAt k type unit flags t256 body t) := by
  unfold Machine.logRecAt
  dsimp only
  refine ite h (ite ?lost ?made)
  case lost => exact ite (.errc h.aside ..) (.errc h.aside ..)
  case made => exact ite (.perf h.aside ..) (.util h.aside ..)

theorem coreLog (p type : Nat) (body : Bytes) : Keeps view s (coreLog p type body t) := by
  unfold Machine.coreLog
  split
  · exact h.logRecAt ..
  · exact h

theorem linkMark (n dir flags t256 : Nat) (g : Tag) : Keeps view s (linkMark n dir flags t256 g t) := by
  unfold Machine.linkMark
  exact ite h (h.logRecAt ..)

theorem queueEvent (e : Event) (i : Nat) : Keeps view s (queueEvent e i t) := by
  unfold Machine.queueEvent
  exact ite (h.setSess ..) (.errc (h.setSess ..) ..)

theorem sendEvent (type cls : Nat) (body : Bytes) : Keeps view s (sendEvent type cls body t) :=
  foldl (fun _ _ h => ite (h.queueEvent ..) h) _ h

theorem writeFault (f : FltRec) : Keeps view s (writeFault f t) := by
  unfold Machine.writeFault
  dsimp only
  exact .sendEvent (ite (.errc h.aside ..) h.aside) ..

theorem openPeriod (f : FltRec) (limit : Nat) : Keeps view s (openPeriod f limit t) := h.aside

theorem endPeriod (code chan : Nat) : Keeps view s (endPeriod code chan t) := by
  unfold Machine.endPeriod
  split
  · exact h
  · dsimp only
    exact ite h.aside (.openPeriod (.writeFault h.aside ..) ..)

theorem raiseLim (limit : Nat) (f : FltRec) : Keeps view s (raiseLim limit f t) := by
  unfold Machine.raiseLim
  extract_lets c f' s1 src s2 k s3
  have h2 : Keeps view s s2 := .aside (h.errc ..)
  have h3 : Keeps view s s3 := by
    unfold s3
    split
    · exact ite (h2.endPeriod ..) h2
    · exact h2
  split
  · exact h3.aside
  · exact .openPeriod (h3.writeFault ..) ..

theorem raiseF (f : FltRec) : Keeps view s (raiseF f t) := h.raiseLim ..

theorem channelEvent (cls idx cell : Nat) : Keeps view s (channelEvent cls idx cell t).2 := by
  unfold Machine.channelEvent
  dsimp only
  split
  · exact h
  · exact h.aside

theorem retireCore (p : Nat) : Keeps view s (retireCore p t) := by
  unfold Machine.retireCore
  exact ite h (h.startQuiesce ..)

theorem poisonRead (a : Nat) : Keeps view s (poisonRead a t) := by
  unfold Machine.poisonRead
  split
  · exact h.errc ..
  · exact h

theorem dropPreempt (p : Nat) : Keeps view s (dropPreempt p t) := by
  unfold Machine.dropPreempt
  exact ite (h.setBlk ..) h

/-! ### Sending on links (chapter 14) -/

theorem sendFlit (n : Nat) : Keeps view s (sendFlit n t) := by
  unfold Machine.sendFlit
  extract_lets x
  split
  · exact h
  · split
    · exact h
    · extract_lets start
      split
      extract_lets last pos rest x' s'
      have h' : Keeps view s s' := .perf (.emit (h.setLink ..) ..) ..
      exact ite (h'.linkMark ..) h'

theorem pump (fuel n : Nat) : Keeps view s (pump fuel n t) := by
  induction fuel generalizing t with
  | zero => exact h
  | succ fuel ih => exact ite (h.sendFlit n) (ih (h.sendFlit n))

theorem enqueue (n : Nat) (f : Bytes) : Keeps view s (enqueue n f t) := .pump (h.setLink ..) ..

theorem sendRouted (dest : Nat) (f : Bytes) : Keeps view s (sendRouted dest f t) := by
  unfold Machine.sendRouted
  split
  · exact h.enqueue ..
  · extract_lets t' org
    have h' : Keeps view s t' := h.errc ..
    refine ite h' ?_
    split
    · exact h'
    · exact ite h' (.enqueue h'.aside ..)

theorem sendTag (dest : Nat) (tag : Tag) (body : Bytes) : Keeps view s (sendTag dest tag body t) := by
  unfold Machine.sendTag
  exact ite (.noteSeq h.aside ..) (ite h (h.sendRouted ..))

theorem sendSync (unit dest wid version : Nat) (pay : Bytes) : Keeps view s (sendSync unit dest wid version pay t) := by
  unfold Machine.sendSync
  exact .sendTag h.aside ..

/-! ### Core store -/

theorem csWrite (p o : Nat) (b : Bytes) : Keeps view s (csWrite p o b t) := h.aside

theorem copyToCs (p dst src n : Nat) : Keeps view s (copyToCs p dst src n t) := by
  unfold Machine.copyToCs
  exact foldl (fun _ _ h => h.poisonRead _) _ h.aside

end Reports
end Keeps

/-! ### Answers to held sync operations (R334, R339) -/

/-- Of a core: its state of work, its job's placement, a wish to pre-empt it and a reload that is due. -/
def Core.seat (c : Core) : Nat × Option Nat × Bool × Bool := (c.st, c.inst, c.preempt, c.reload)
/-- Its seat, and the program that it holds. -/
def Core.station (c : Core) : (Nat × Option Nat × Bool × Bool) × Option Prog := (c.seat, c.prog)

theorem Keeps.seat {s t : State} (h : Keeps Core.station s t) : Keeps Core.seat s t := h.weaken Prod.fst

@[simp] theorem writeK_station (i v : Nat) (c : Core) : (writeK i v c).station = c.station := by
  unfold writeK setK
  split <;> rfl

namespace Keeps
section Answers
variable {s t : State} (h : Keeps Core.station s t)
include h

theorem setObj (r : ORef) (x : SObj) : Keeps Core.station s (setObj r x t) := by
  unfold Machine.setObj
  exact ite h.aside (h.setCore rfl)

theorem doneEi (p q : Nat) (e : EI) : Keeps Core.station s (doneEi p q e t) := h.setCore rfl

theorem finishSync (p : Nat) (e : EI) (word : Nat) : Keeps Core.station s (finishSync p e word t) := by
  unfold Machine.finishSync
  extract_lets kd c t'
  have h' : Keeps Core.station s t' := h.coreLog ..
  refine .util (.doneEi (h'.setCore ?_) ..) ..
  have hc : c.station = (core t' p).station := by rw [h'.look, ← h.look]
  split
  · exact hc
  · rw [writeK_station, hc]

theorem answerHeld (r : ORef) (w : Waiter) (status value : Nat) : Keeps Core.station s (answerHeld r w status value t) := by
  unfold Machine.answerHeld
  extract_lets t'
  have h' : Keeps Core.station s t' := ite (h.syncErrAt ..) h
  split
  · split
    · exact h'.finishSync ..
    · exact h'
  · exact h'.sendSync ..

theorem answerAll (l : List Waiter) (r : ORef) (status value : Nat) :
    Keeps Core.station s (l.foldl (fun s w => Machine.answerHeld r w status value s) t) :=
  foldl (fun _ _ h => h.answerHeld ..) l h

theorem loadObjects (p : Nat) (g : Prog) : Keeps Core.station s (loadObjects p g t) :=
  foldl (fun _ _ h => .answerAll (h.setObj ..) ..) _ h

theorem orphanObj (r : ORef) (f : SObj → SObj) : Keeps Core.station s (orphanObj r f t).2 := .answerAll (h.setObj ..) ..

/-- Orphaning the objects of a list of references one after another, with a count. -/
theorem orphanObjs {ι : Type} (r : ι → ORef) (f : SObj → SObj) (l : List ι) (n : Nat) : Keeps Core.station s
    (l.foldl (fun (a : Nat × State) k => (a.1 + (Machine.orphanObj (r k) f a.2).1, (Machine.orphanObj (r k) f a.2).2)) (n, t)).2 := by
  induction l generalizing n t with
  | nil => exact h
  | cons k l ih => exact ih (h.orphanObj (r k) f) _

theorem orphanCore (p : Nat) (f : SObj → SObj) : Keeps Core.station s (orphanCore p f t) := by
  have h1 := h.orphanObjs (fun k => ⟨false, p, k⟩) f (List.range 48) 0
  have h2 := fun l n => h1.orphanObjs (fun k => ⟨true, 0, k⟩) orphanKeep l n
  unfold Machine.orphanCore
  dsimp only
  exact ite (h2 _ _) (.raiseF (h2 _ _) _)

end Answers

/-! ### Placing programs (R261, R307, R308) -/

section Placement
variable {s t : State} (h : Keeps Core.seat s t)
include h

theorem placeProgram (p : Nat) (g : Option Prog) : Keeps Core.seat s (placeProgram p g t) := by
  have hset : Keeps Core.seat s (Machine.setCore p (if (core t p).prog = g then { core t p with progDue := false }
      else { core t p with prog := g, progDue := false, s := [], v := [], p := [] }) t) := by
    refine h.setCore ?_
    split <;> rfl
  unfold Machine.placeProgram
  cases g with
  | none => exact hset
  | some g => exact hset.trans (Keeps.seat (.loadObjects (.refl _) p g))

theorem haveProgram (p model r : Nat) (m : Model) : Keeps Core.seat s (haveProgram p model r m t) := by
  unfold Machine.haveProgram
  exact ite h (h.placeProgram ..)

theorem loadRank (p model r : Nat) (m : Model) : Keeps Core.seat s (loadRank p model r m t) := by
  unfold Machine.loadRank
  extract_lets l t1 c new t2
  have h1 : Keeps Core.seat s t1 := by
    refine foldl (fun u x hu => ?_) l h
    exact hu.copyToCs ..
  clear_value t1
  have h2 : Keeps Core.seat s t2 := h1.setCore rfl
  exact ite (h2.placeProgram ..) h2

theorem loadCore (o : Objs) (l : Nat) : Keeps Core.seat s (loadCore o l t) := by
  refine foldl (fun u e hu => ?_) _ h
  dsimp only
  exact ite (hu.loadRank ..) hu

end Placement

end Keeps
end Sys2Proof.Machine
end

section
/-! PROOFS. The arrival of jobs (R38, R42, R310) and the scan for pre-emptions (R313). -/

namespace Sys2Proof.Machine
open Sys2Proof

/-! ### Folds -/

/-- A fold over steps that keep `inv`, each of which establishes `P` of its own entry and keeps it of every other. -/
theorem foldl_establishes {ι : Type} {f : State → ι → State} {inv : State → Prop} {P : ι → State → Prop}
    (hinv : ∀ s x, inv s → inv (f s x)) (hnew : ∀ s x, inv s → P x (f s x)) (hkeep : ∀ s x y, inv s → P y s → P y (f s x)) (l : List ι) :
    ∀ s, inv s → inv (l.foldl f s) ∧ ∀ x, x ∈ l ∨ P x s → P x (l.foldl f s) := by
  induction l with
  | nil => exact fun s hs => ⟨hs, fun x hx => hx.resolve_left (by simp)⟩
  | cons a l ih =>
    intro s hs
    obtain ⟨hi, hl⟩ := ih (f s a) (hinv s a hs)
    refine ⟨hi, fun x hx => hl x ?_⟩
    rcases hx with hx | hx
    · rcases List.mem_cons.mp hx with rfl | hx
      · exact .inr (hnew s x hs)
      · exact .inl hx
    · exact .inr (hkeep s a x hs hx)

/-! ### The queues of placements -/

section QueueRules
variable {s t : State} {i p : Nat} {x : Inst} {j : Job}

theorem Keeps.setInst {α : Type} {view : Core → α} (h : Keeps view s t) (i : Nat) (x : Inst) : Keeps view (setInst i x s) (setInst i x t) :=
  ⟨congrArg (mset · i x) h.insts, h.hbm, h.poison, h.nv, h.ver, h.look⟩

theorem Keeps.inst {α : Type} {view : Core → α} (h : Keeps view s t) (i : Nat) : inst? t i = inst? s i := congrArg (mget · i) h.insts

/-- A job none of whose ranks was saved stays where it runs. -/
theorem requeueSaved_unsaved (hx : inst? s i = some x) (hj : x.running = some j) (hs : j.saved = []) : requeueSaved i s = s := by
  simp [requeueSaved, hx, hj, hs]

/-- A return to the queue changes no core and no memory. -/
theorem requeueSaved_parts : (requeueSaved i s).cores = s.cores ∧ (requeueSaved i s).mem = s.mem := by
  unfold requeueSaved
  split
  · exact ⟨rfl, rfl⟩
  · split
    · exact ⟨rfl, rfl⟩
    · split
      · exact ⟨rfl, rfl⟩
      · exact ⟨rfl, rfl⟩

/-- A core but for the wish to pre-empt it. -/
def Core.unasked (c : Core) : Core := { c with preempt := false }

theorem askPreempt_keeps (i : Nat) (h : Keeps Core.unasked s t) : Keeps Core.unasked s (askPreempt i t) := by
  unfold askPreempt
  split
  · exact h
  · refine .foldl (fun u l hu => ?_) _ h
    exact .ite hu (.startQuiesce (hu.setCore (by rfl)) ..)

/-- The scan for pre-emptions only asks cores (R313). -/
theorem preemptScan_keeps (s : State) : Keeps Core.unasked s (preemptScan s) := by
  refine Keeps.foldl (fun t e ht => ?_) _ (.refl s)
  split
  · exact ht
  · dsimp only
    refine Keeps.foldl (fun u r hu => ?_) _ ht
    split
    · exact hu
    · exact .ite (askPreempt_keeps _ hu) hu

end QueueRules

/-! ### Arrival (R310) -/

section ArrivalRules
variable {s u : State} {i k : Nat} {t : InTag}

/-- The job that a waiting kind 2 tag describes. -/
def arrivedJob (t : InTag) : Job :=
  let g := tagOf t.tag
  { desc := padTo 64 (t.body.take 4 ++ le 4 g.workId ++ t.body.drop 8), wid := g.workId, version := g.version,
    deadline := g.deadline, origin := if t.link = 8 then 3 else 4, chip := g.chip, unit := g.unit, bmis := t.bmis }

/-- A job of this chip tells its DJOB the acceptance status (R310). -/
def arrivalTold (t : InTag) (status : Nat) (u : State) : State :=
  if t.link = 8 then djobStatus (tagOf t.tag).unit (chipId u) (tagOf t.tag).workId status u else u
/-- A refused job: its DJOB is told, or the chip that it came from has a return (R42, R310). -/
def arrivalRefused (t : InTag) (status : Nat) (u : State) : State :=
  if t.link = 8 then djobStatus (tagOf t.tag).unit (chipId u) (tagOf t.tag).workId status u else sendReturn (arrivedJob t) status false [] u

variable (hf : frozen s = false) (ht : takeTag i (fun t => t.kind == 2) s = some (t, u))
include hf ht

/-- A job of no live version is refused with VERSION (R42). -/
theorem exec_jobArrive_version (hv : liveObjs u (tagOf t.tag).version = none) :
    exec (.jobArrive i) s = .next (arrivalRefused t 7 u) := by
  by_cases hl : t.link = 8
  · simp [exec, execJobArrive, hf, ht, hv, hl, arrivalRefused]
  · simp [exec, execJobArrive, hf, ht, hv, hl, arrivalRefused, arrivedJob]

variable (hv : (liveObjs u (tagOf t.tag).version).isSome = true)
include hv

/-- A job that names no placement is refused with NOT_FOUND (R310). -/
theorem exec_jobArrive_notFound (hp : pickInst u (objsOf u (tagOf t.tag).version) (u8 t.body 0) (u8 t.body 1) = none) :
    exec (.jobArrive i) s = .next (arrivalRefused t 13 u) := by
  have hn : (liveObjs u (tagOf t.tag).version).isNone = false := Option.isNone_eq_false_iff.mpr hv
  by_cases hl : t.link = 8
  · simp [exec, execJobArrive, hf, ht, hn, hp, hl, arrivalRefused]
  · simp [exec, execJobArrive, hf, ht, hn, hp, hl, arrivalRefused, arrivedJob]

variable (hp : pickInst u (objsOf u (tagOf t.tag).version) (u8 t.body 0) (u8 t.body 1) = some k) (hi : (inst? u k).isSome = true)
include hp hi

omit hf ht hv in
theorem arrival_picks :
    (pickInst u (objsOf u (tagOf t.tag).version) (u8 t.body 0) (u8 t.body 1)).filter (fun k => (inst? u k).isSome) = some k := by
  rw [hp]; exact Option.filter_some_pos hi

/-- A job that is late already is discarded (R38). -/
theorem exec_jobArrive_late (hl : isLate (tagOf t.tag).deadline (now u) = true) (ho : (tagOf t.tag).lateOk = false) :
    exec (.jobArrive i) s = .next (discardLate k (arrivedJob t) (arrivalTold t 15 u)) := by
  have hn : (liveObjs u (tagOf t.tag).version).isNone = false := Option.isNone_eq_false_iff.mpr hv
  simp [exec, execJobArrive, hf, ht, hn, arrival_picks hp hi, hl, ho, arrivedJob, arrivalTold]

variable (hl : isLate (tagOf t.tag).deadline (now u) = false ∨ (tagOf t.tag).lateOk = true)
include hl

theorem exec_jobArrive_queued (hq : queuedJobs u k < 1024) :
    exec (.jobArrive i) s = .next (queueJob k (arrivedJob t) (arrivalTold t 0 u)) := by
  have hn : (liveObjs u (tagOf t.tag).version).isNone = false := Option.isNone_eq_false_iff.mpr hv
  have hl' : (isLate (tagOf t.tag).deadline (now u) && !(tagOf t.tag).lateOk) = false := by rcases hl with h | h <;> simp [h]
  simp [-Bool.and_eq_true, exec, execJobArrive, hf, ht, hn, arrival_picks hp hi, hl', hq, arrivedJob, arrivalTold]

/-- A job for a full queue is refused with BUSY. -/
theorem exec_jobArrive_busy (hq : 1024 ≤ queuedJobs u k) : exec (.jobArrive i) s = .next (arrivalRefused t 6 u) := by
  have hn : (liveObjs u (tagOf t.tag).version).isNone = false := Option.isNone_eq_false_iff.mpr hv
  have hl' : (isLate (tagOf t.tag).deadline (now u) && !(tagOf t.tag).lateOk) = false := by rcases hl with h | h <;> simp [h]
  by_cases hlink : t.link = 8
  · simp [-Bool.and_eq_true, exec, execJobArrive, hf, ht, hn, arrival_picks hp hi, hl', not_lt.mpr hq, hlink, arrivalRefused]
  · simp [-Bool.and_eq_true, exec, execJobArrive, hf, ht, hn, arrival_picks hp hi, hl', not_lt.mpr hq, hlink, arrivalRefused, arrivedJob]

end ArrivalRules
end Sys2Proof.Machine
end

section
/-! PROOFS. The start and the end of ranks (R261, R291, R292, R311, R355), and what a program without poison leaves. -/

namespace Sys2Proof.Machine
open Sys2Proof

/-! ### The end of a rank (R292, R312) -/

section RankRules
variable {s t : State} {i p st : Nat} {x : Inst} {j k : Job}

/-- Placement `i` runs a job that is `j` by number, version and descriptor, and none of whose ranks is saved. -/
def RunsAs (i : Nat) (j : Job) (s : State) : Prop :=
  ∃ x k, inst? s i = some x ∧ x.running = some k ∧ k.wid = j.wid ∧ k.version = j.version ∧ k.desc = j.desc ∧ k.saved = []

theorem Keeps.runsAs {α : Type} {view : Core → α} (h : Keeps view s t) (hs : RunsAs i j s) : RunsAs i j t := by
  obtain ⟨x, k, hx, hk⟩ := hs
  exact ⟨x, k, (h.inst i).trans hx, hk⟩

/-- A core whose rank has ended: idle, with its kept registers and its program. -/
def endedCore (c : Core) : Core :=
  { c with st := 0, stop := none, failed := false, open_ := false, closing := false, defer := [], kpend := [], halting := false,
           single := false, preempt := false, queues := [], run := [], hw := false, snap := none, att := 0 }

/-- A rank that ends leaves its core idle and its job running, with its status noted. -/
theorem endRank_spec (hc : (core s p).inst = some i) (hx : inst? s i = some x) (hk : x.running = some k) (hs : k.saved = []) :
    ∃ e a, Keeps id (setInst i { x with running := some { k with ended := e, area := a } } (setCore p (endedCore (core s p)) s))
      (endRank p st s) := by
  unfold endRank
  extract_lets c hw s1 s2
  have hx1 : inst? s1 i = some x := hx
  have h2 : ∃ e a, Keeps id (setInst i { x with running := some { k with ended := e, area := a } } s1) s2 := by
    simp only [s2, c, hc, hx1, hk, Option.map_some]
    rw [requeueSaved_unsaved (instOf_setInst_same ..) rfl (by exact hs)]
    exact ⟨_, _, .setInst (.dropPreempt (.coreLog (.refl s1) ..) _) ..⟩
  clear_value s2
  obtain ⟨e, a, h2⟩ := h2
  exact ⟨e, a, .ite (.ite (.retireCore (h2.channelEvent ..) _) (h2.channelEvent ..)) h2⟩

/-- A working core with nothing in flight ends its job at once (R291). -/
theorem stopJob_ends {hw : Bool} (hst : (core s p).st = 1) (hrun : runEmpty (core s p) = true) (hh : (core s p).halting = false)
    (hn : (core s p).stop = none) : stopJob p st hw s = endRank p st (setCore p { core s p with
      queues := [], defer := [], stop := some st, hw := (core s p).hw || hw } s) := by
  have hempty : ∀ c : Core, runEmpty c = c.run.all fun e => e.2.isEmpty := fun _ => rfl
  rw [hempty] at hrun
  simp [stopJob, settle, hst, hempty, hrun, hh, hn]

/-! ### The start of a rank (R261, R311) -/

/-- A core on which a rank of placement `i` begins. -/
def begunCore (i : Nat) (c : Core) : Core :=
  { c with
    st := 1, pc := (c.prog.map (·.entry)).getD 0, k := [], kpend := [], step := 0, mode := (c.prog.map (·.mode)).getD 0, open_ := false,
    rid := 0, att := 0, snap := none, closing := false, failed := false, stop := none, hw := false, defer := [], sb := [],
    queues := [], run := [], inst := some i, jobStatus := none, halting := false, pass := false, single := false,
    preempt := false, brkHit := 0xFF }
/-- The rank has begun: its descriptor stands in the job area, and the logbook has it. -/
def begun (p i : Nat) (j : Job) (s : State) : State :=
  coreLog p 2 (le 4 j.wid ++ le 2 j.version ++ le 1 (u8 j.desc 0) ++ [0]) (csWrite p jobArea j.desc (setCore p (begunCore i (core s p)) s))

theorem startRank_eq : startRank p i j s = if (core s p).prog.any (·.poison) then stopJob p 12 true (begun p i j s) else begun p i j s := rfl

theorem begun_keeps : Keeps id (setCore p (begunCore i (core s p)) s) (begun p i j s) := .coreLog (.csWrite (.refl _) ..) ..

theorem core_begun : core (begun p i j s) p = begunCore i (core s p) := (begun_keeps.look p).trans (core_setCore_same ..)

/-- The cores of a state that differs from `s` in core `p` only. -/
theorem Keeps.core_eq {c : Core} (h : Keeps id (Machine.setCore p c s) t) (q : Nat) : core t q = if q = p then c else core s q := by
  refine (h.look q).trans ?_
  by_cases hq : q = p
  · rw [hq, if_pos rfl]; exact core_setCore_same ..
  · rw [if_neg hq]; exact core_setCore_other s c hq

/-- A core that begins a rank only to end it FAULTED. -/
def doomedCore (i : Nat) (c : Core) : Core := { begunCore i c with queues := [], defer := [], stop := some 12, hw := true }

/-- A rank whose image read as poison begins and ends (R355). -/
theorem startRank_of_poison (hp : (core s p).prog.any (·.poison) = true) :
    startRank p i j s = endRank p 12 (setCore p (doomedCore i (core s p)) (begun p i j s)) := by
  have hb : core (begun p i j s) p = begunCore i (core s p) := core_begun
  rw [startRank_eq, if_pos hp, stopJob_ends (by rw [hb]; rfl) (by rw [hb]; rfl) (by rw [hb]; rfl) (by rw [hb]; rfl), hb]
  rfl

theorem startRank_poisoned (hr : RunsAs i k s) (hp : (core s p).prog.any (·.poison) = true) : RunsAs i k (startRank p i j s) ∧
    (startRank p i j s).mem.poison = s.mem.poison ∧ ∃ c, c.inst = some i ∧ c.k = [] ∧
      ∀ q, core (startRank p i j s) q = if q = p then c else core s q := by
  have hbegun : Keeps id (setCore p (begunCore i (core s p)) s) (begun p i j s) := begun_keeps
  obtain ⟨x, l, hx, hl, hwid, hver, hdesc, hsaved⟩ := hbegun.runsAs hr
  rw [startRank_of_poison hp]
  generalize begun p i j s = u at hbegun hx
  have hc : core (setCore p (doomedCore i (core s p)) u) p = doomedCore i (core s p) := core_setCore_same ..
  obtain ⟨e, a, hend⟩ := endRank_spec (st := 12) (s := setCore p (doomedCore i (core s p)) u) (by rw [hc]; rfl) hx hl hsaved
  rw [hc, setCore_setCore] at hend
  refine ⟨⟨_, _, (hend.inst i).trans (instOf_setInst_same ..), rfl, hwid, hver, hdesc, hsaved⟩, hend.poison.trans hbegun.poison,
    endedCore (doomedCore i (core s p)), rfl, rfl, fun q => ?_⟩
  have hq : core (endRank p 12 (setCore p (doomedCore i (core s p)) u)) q = core (setCore p (endedCore (doomedCore i (core s p))) u) q :=
    hend.look q
  rw [hq, (Keeps.refl (view := id) _).core_eq]
  split
  · rfl
  next hne => rw [hbegun.core_eq, if_neg hne]

/-- A rank that starts has its core to itself, with a clean K file. -/
theorem startRank_spec (hr : RunsAs i k s) : RunsAs i k (startRank p i j s) ∧ (startRank p i j s).mem.poison = s.mem.poison ∧
    ∃ c, c.inst = some i ∧ c.k = [] ∧ ∀ q, core (startRank p i j s) q = if q = p then c else core s q := by
  cases hp : (core s p).prog.any (·.poison) with
  | true => exact startRank_poisoned hr hp
  | false =>
    rw [startRank_eq, if_neg (by simp [hp])]
    exact ⟨begun_keeps.runsAs hr, begun_keeps.poison, begunCore i (core s p), rfl, rfl, begun_keeps.core_eq⟩

/-! ### Programs without poison (R355) -/

/-- No line of HBM is poisoned, and no core holds a program that read as poison. -/
def Clean (s : State) : Prop := s.mem.poison = [] ∧ ∀ l g, (core s l).prog = some g → g.poison = false

theorem Keeps.clean (h : Keeps Core.station s t) (hs : Clean s) : Clean t :=
  ⟨h.poison.trans hs.1, fun l g hg => hs.2 l g ((congrArg Prod.snd (h.look l)).symm.trans hg)⟩

theorem Clean.prog (hs : Clean s) (p : Nat) : (core s p).prog.any (·.poison) = false := by
  cases hg : (core s p).prog with
  | none => rfl
  | some g => exact hs.2 p g hg

theorem rankProg_clean {model r : Nat} {m : Model} {g : Prog} (hs : s.mem.poison = []) (hg : rankProg s model m r = some g) :
    g.poison = false := by
  obtain ⟨y, -, rfl⟩ := Option.map_eq_some_iff.mp hg
  simp [progAt, hs]

theorem setCore_clean {c : Core} (hs : Clean s) (hc : ∀ g, c.prog = some g → g.poison = false) : Clean (setCore p c s) := by
  refine ⟨hs.1, fun l g hg => ?_⟩
  rw [(Keeps.refl (view := id) _).core_eq] at hg
  split at hg
  · exact hc g hg
  · exact hs.2 l g hg

theorem placeProgram_clean {g : Option Prog} (hs : Clean s) (hg : ∀ g', g = some g' → g'.poison = false) : Clean (placeProgram p g s) := by
  have hset : Clean (setCore p (if (core s p).prog = g then { core s p with progDue := false }
      else { core s p with prog := g, progDue := false, s := [], v := [], p := [] }) s) := by
    refine setCore_clean hs fun g' h' => ?_
    split at h'
    · exact hs.2 p g' h'
    · exact hg g' h'
  unfold placeProgram
  cases g with
  | none => exact hset
  | some g => exact (Keeps.loadObjects (.refl _) p g).clean hset

theorem haveProgram_clean {model r : Nat} {m : Model} (hs : Clean s) : Clean (haveProgram p model r m s) := by
  unfold haveProgram
  dsimp only
  split
  · exact hs
  · exact placeProgram_clean hs fun g => rankProg_clean hs.1

/-! ### The start of a job (R311) -/

/-- Every rank's core holds the rank's program, with its objects as the program's entries have them. -/
def placedRanks (m : Nat × Model) (l : List (Nat × Nat)) (s : State) : State :=
  l.foldl (fun s e => match (core s e.2).prog with | some g => loadObjects e.2 g s | none => s)
    (l.foldl (fun s e => haveProgram e.2 m.1 e.1 m.2 s) s)

theorem reloaded_keeps (l : List (Nat × Nat)) (s : State) : Keeps Core.station s
    (l.foldl (fun s e => match (core s e.2).prog with | some g => loadObjects e.2 g s | none => s) s) := by
  refine Keeps.foldl (fun u e hu => ?_) l (.refl s)
  split
  · exact hu.loadObjects ..
  · exact hu

theorem placedRanks_keeps (m : Nat × Model) (l : List (Nat × Nat)) (s : State) : Keeps Core.seat s (placedRanks m l s) := by
  have hprogs : Keeps Core.seat s (l.foldl (fun s e => haveProgram e.2 m.1 e.1 m.2 s) s) :=
    Keeps.foldl (fun u e hu => hu.haveProgram ..) l (.refl s)
  exact hprogs.trans (Keeps.seat (reloaded_keeps ..))

theorem placedRanks_clean (m : Nat × Model) (l : List (Nat × Nat)) (hs : Clean s) : Clean (placedRanks m l s) := by
  refine (reloaded_keeps ..).clean ?_
  induction l generalizing s with
  | nil => exact hs
  | cons e l ih => exact ih (haveProgram_clean hs)

/-- The ranks of a job started one after another: the job runs, and each of their cores is its placement's with a clean K file. -/
theorem startRanks_begin (l : List (Nat × Nat)) (hr : RunsAs i k s) :
    RunsAs i k (l.foldl (fun s e => startRank e.2 i j s) s) ∧
    ∀ e ∈ l, (core (l.foldl (fun s e => startRank e.2 i j s) s) e.2).inst = some i ∧ (core (l.foldl (fun s e => startRank e.2 i j s) s) e.2).k = [] := by
  have hown : ∀ (s : State) (e : Nat × Nat), RunsAs i k s →
      (core (startRank e.2 i j s) e.2).inst = some i ∧ (core (startRank e.2 i j s) e.2).k = [] := by
    intro s e hs
    obtain ⟨-, -, c, hc, hk, hq⟩ := startRank_spec (p := e.2) (j := j) hs
    rw [hq, if_pos rfl]
    exact ⟨hc, hk⟩
  have hother : ∀ (s : State) (e y : Nat × Nat), RunsAs i k s → (core s y.2).inst = some i ∧ (core s y.2).k = [] →
      (core (startRank e.2 i j s) y.2).inst = some i ∧ (core (startRank e.2 i j s) y.2).k = [] := by
    intro s e y hs hy
    obtain ⟨-, -, c, hc, hk, hq⟩ := startRank_spec (p := e.2) (j := j) hs
    rw [hq]
    split
    · exact ⟨hc, hk⟩
    · exact hy
  obtain ⟨h, hl⟩ := foldl_establishes (f := fun s e => startRank e.2 i j s) (inv := RunsAs i k)
    (P := fun e s => (core s e.2).inst = some i ∧ (core s e.2).k = []) (fun s e hs => (startRank_spec hs).1) hown hother l s hr
  exact ⟨h, fun e he => hl e (.inl he)⟩

/-- Without poison every one of these cores works. -/
theorem startRanks_work (l : List (Nat × Nat)) (hs : Clean s) :
    ∀ e ∈ l, (core (l.foldl (fun s e => startRank e.2 i j s) s) e.2).st = 1 := by
  have hone : ∀ (s : State) (p : Nat), Clean s → startRank p i j s = begun p i j s := fun s p hs => by
    rw [startRank_eq, if_neg (by simp [hs.prog p])]
  have hclean : ∀ (s : State) (e : Nat × Nat), Clean s → Clean (startRank e.2 i j s) := by
    intro s e hs
    rw [hone s e.2 hs]
    exact (begun_keeps.weaken Core.station).clean (setCore_clean hs (hs.2 e.2))
  have hown : ∀ (s : State) (e : Nat × Nat), Clean s → (core (startRank e.2 i j s) e.2).st = 1 := by
    intro s e hs
    rw [hone s e.2 hs, core_begun]
    rfl
  have hother : ∀ (s : State) (e y : Nat × Nat), Clean s → (core s y.2).st = 1 → (core (startRank e.2 i j s) y.2).st = 1 := by
    intro s e y hs hy
    rw [hone s e.2 hs, begun_keeps.core_eq]
    split
    · rfl
    · exact hy
  obtain ⟨-, hl⟩ := foldl_establishes (f := fun s e => startRank e.2 i j s) (inv := Clean) (P := fun e s => (core s e.2).st = 1)
    hclean hown hother l s hs
  exact fun e he => hl e (.inl he)

end RankRules
end Sys2Proof.Machine
end

section
/-! PROOFS. The start of jobs (R47, R311, R517). -/

namespace Sys2Proof.Machine
open Sys2Proof

section StartRules
variable {s : State} {i f n k w : Nat} {x : Inst} {j : Job}

/-- Job `j` heads the queue of placement `i`, whose record is `x` and which runs no job (R310). -/
structure Heads (s : State) (i : Nat) (x : Inst) (j : Job) : Prop where
  awake : frozen s = false
  inst : inst? s i = some x
  head : headJob x = some j
  idle : x.running = none

/-- Nothing starts or resumes where no job heads the queue of an idle placement. -/
theorem exec_start_keeps (h : frozen s = true ∨ inst? s i = none ∨ ∃ x, inst? s i = some x ∧ (headJob x = none ∨ x.running.isSome = true)) :
    exec (.jobStart i) s = .next s ∧ ∀ w, exec (.jobResume i w) s = .next s := by
  rcases h with h | h | ⟨x, hx, h | h⟩
  · simp [exec, execJobStart, execJobResume, h]
  · simp [exec, execJobStart, execJobResume, h]
  · simp [exec, execJobStart, execJobResume, hx, h]
  · obtain ⟨r, hr⟩ := Option.isSome_iff_exists.mp h
    simp [exec, execJobStart, execJobResume, hx, hr]

/-- The model of a placement in a version, for what starts on it. -/
def startModel (o : Objs) (i : Nat) : Nat × Model :=
  (modelOfInst o i).getD (0, { addr := 0, length := 0, place := 0, instances := 0, firstCore := 0, ranks := 0, kvBytes := 0, nums := [],
                               digest := [] })
/-- The ranks of a placement with their physical cores. -/
def ranksOf (s : State) (f n : Nat) : List (Nat × Nat) := (List.range n).map fun r => (r, physOf s (f + r))
/-- The placement as it runs job `j`. -/
def runningInst (m : Nat × Model) (f n : Nat) (j : Job) (x : Inst) : Inst :=
  { unqueue j x with
    model := m.1, addr := m.2.addr, first := f, ranks := n, running := some { j with ended := [], saved := [], area := [] } }

theorem mem_ranksOf {r : Nat} (h : r < n) : (r, physOf s (f + r)) ∈ ranksOf s f n :=
  List.mem_map_of_mem (List.mem_range.mpr h)

section Start
variable (h : Heads s i x j) (hsv : j.saved = []) (hj : jobsRun s = true)
include h hsv hj

/-- The head of a queue ends as RETIRED on a placement out of service (R517). -/
theorem exec_jobStart_out (ho : x.out = true) :
    exec (.jobStart i) s = .next (preemptScan (finishJob i j 11 (setInst i (unqueue j x) s))) := by
  obtain ⟨hf, hx, hh, hr⟩ := h
  simp [exec, execJobStart, hf, hx, hh, hr, hsv, hj, ho]

variable (ho : x.out = false) (hp : placeOf (objsOf s j.version) i = (f, n))
include ho hp

theorem exec_jobStart_late (hc : refuses s (objsOf s j.version) i = true ∨ n ≠ 0 ∧ coresIdle s f n = true)
    (hl : isLate j.deadline (now s) = true) (hlo : j.lateOk = false) :
    exec (.jobStart i) s = .next (preemptScan (discardLate i j (setInst i (unqueue j x) s))) := by
  obtain ⟨hf, hx, hh, hr⟩ := h
  simp [exec, execJobStart, hf, hx, hh, hr, hsv, hj, ho, hp, hc, hl, hlo]

variable (hl : isLate j.deadline (now s) = false ∨ j.lateOk = true)
include hl

theorem exec_jobStart_starts (hn : n ≠ 0) (hi : coresIdle s f n = true) (hr : refuses s (objsOf s j.version) i = false) :
    exec (.jobStart i) s = .next (preemptScan ((ranksOf s f n).foldl (fun s e => startRank e.2 i j s)
      (placedRanks (startModel (objsOf s j.version) i) (ranksOf s f n)
        (setInst i (runningInst (startModel (objsOf s j.version) i) f n j x) s)))) := by
  have hlate : (isLate j.deadline (now s) && !j.lateOk) = false := by rcases hl with h | h <;> simp [h]
  obtain ⟨hf, hx, hh, hrun⟩ := h
  simp only [exec, execJobStart, hf, hx, hh, hrun, hsv, hj, ho, hp, hlate, hr, hi, hn, List.isEmpty_nil, Bool.not_true, Bool.or_self,
    Bool.false_and, Bool.false_eq_true, if_false, decide_false]
  rfl

end Start

/-- A job that a core refuses goes to another placement (R47). -/
theorem exec_jobStart_refused (h : Heads s i x j) (hsv : j.saved = []) (hj : jobsRun s = true) (ho : x.out = false)
    (hl : isLate j.deadline (now s) = false ∨ j.lateOk = true) (hr : refuses s (objsOf s j.version) i = true)
    (hk : otherInst s (objsOf s j.version) i j = some k) : exec (.jobStart i) s = .next (queueJob k j (setInst i (unqueue j x) s)) := by
  have hlate : (isLate j.deadline (now s) && !j.lateOk) = false := by rcases hl with h | h <;> simp [h]
  obtain ⟨hf, hx, hh, hrun⟩ := h
  simp only [exec, execJobStart, hf, hx, hh, hrun, hsv, hj, ho, hlate, hr, hk, List.isEmpty_nil, Bool.not_true, Bool.or_self,
    Bool.false_and, Bool.false_eq_true, if_false, if_true]

/-- The head of a free placement's queue starts on every rank (R311). -/
theorem jobStart_runs (h : Heads s i x j) (hsv : j.saved = []) (hj : jobsRun s = true) (ho : x.out = false)
    (hp : placeOf (objsOf s j.version) i = (f, n)) (hl : isLate j.deadline (now s) = false ∨ j.lateOk = true) (hn : n ≠ 0)
    (hi : coresIdle s f n = true) (hr : refuses s (objsOf s j.version) i = false) :
    ∃ t y k, exec (.jobStart i) s = .next t ∧ inst? t i = some y ∧ y.running = some k ∧ k.wid = j.wid ∧ k.version = j.version ∧
      k.desc = j.desc ∧ ∀ r, r < n → (core t (physOf s (f + r))).inst = some i ∧ (core t (physOf s (f + r))).k = [] ∧
        (Clean s → (core t (physOf s (f + r))).st = 1) := by
  rw [exec_jobStart_starts h hsv hj ho hp hl hn hi hr]
  generalize startModel (objsOf s j.version) i = m
  have hset : RunsAs i j (setInst i (runningInst m f n j x) s) :=
    ⟨_, _, instOf_setInst_same .., rfl, rfl, rfl, rfl, rfl⟩
  have hplaced := (placedRanks_keeps m (ranksOf s f n) _).runsAs hset
  obtain ⟨hruns, hbegin⟩ := startRanks_begin (j := j) (ranksOf s f n) hplaced
  have hscan := preemptScan_keeps ((ranksOf s f n).foldl (fun s e => startRank e.2 i j s)
    (placedRanks m (ranksOf s f n) (setInst i (runningInst m f n j x) s)))
  obtain ⟨y, k, hy, hk, hwid, hver, hdesc, -⟩ := hscan.runsAs hruns
  refine ⟨_, y, k, rfl, hy, hk, hwid, hver, hdesc, fun r hlt => ?_⟩
  have hlook := hscan.look (physOf s (f + r))
  obtain ⟨hinst, hkreg⟩ := hbegin _ (mem_ranksOf hlt)
  refine ⟨(congrArg Core.inst hlook).trans hinst, (congrArg Core.k hlook).trans hkreg, fun hclean => ?_⟩
  have hwork := startRanks_work (i := i) (j := j) (ranksOf s f n)
    (placedRanks_clean m (ranksOf s f n) (s := setInst i (runningInst m f n j x) s) hclean) _ (mem_ranksOf hlt)
  exact (congrArg Core.st hlook).trans hwork

end StartRules
end Sys2Proof.Machine
end

section
/-! PROOFS. Jobs under way (R293 to R295, R308, R309, R312, R355): contexts saved and restored, the end of a job, and placements loaded
again. -/

namespace Sys2Proof.Machine
open Sys2Proof

/-! ### Saving a context (R293, R294) -/

section SaveRules
variable {s : State} {p a i st : Nat} {x : Inst} {j : Job}

/-- Core `p` stands where its context can be saved to `a`, with job `j` on its placement `x`. -/
structure Savable (s : State) (p a i : Nat) (x : Inst) (j : Job) : Prop where
  on : coreOn s p = true
  point : (core s p).st = 3 ∨ (core s p).st = 2 ∧ (core s p).preempt = true
  closed : (core s p).open_ = false
  empty : allEmpty (core s p) = true
  area : inHbm s a saveLen = true
  owner : (core s p).inst = some i
  inst : inst? s i = some x
  runs : x.running = some j

/-- A core that its job has left. -/
def freedCore (c : Core) : Core :=
  { c with st := 0, preempt := false, halting := false, single := false, inst := none, queues := [], run := [] }
/-- What the helm keeps of a rank whose context went to `a`. -/
def savedRank (s : State) (p a : Nat) : Saved :=
  { core := p, area := a, hub := (hubOf s p).map fun k => let y := mgetD s.hub k {}; (k, (y.value, y.flags)) }
/-- The context is written and the core freed. -/
def contextSaved (p a i : Nat) (x : Inst) (j : Job) (s : State) : State :=
  setCore p (freedCore (core s p)) (setInst i
    { x with running := some { j with saved := mset j.saved (lcore s p - x.first) (savedRank s p a) } }
    (writeContext a (contextCells s p j (oidModel x.model)) s))
/-- What follows: the objects are orphaned, the pre-emption is counted and logged, and the core is no longer asked for. -/
def saveNoted (p : Nat) (j : Job) (s : State) : State :=
  dropPreempt p (coreLog p 5 (zeros 4 ++ le 4 j.wid) (ccErr p 3 (orphanCore p orphanKeep s)))

theorem Savable.ready (h : Savable s p a i x j) :
    (!coreOn s p || !((core s p).st == 3 || ((core s p).st == 2 && (core s p).preempt)) || (core s p).open_ || !allEmpty (core s p)
      || !inHbm s a saveLen) = false := by
  obtain ⟨hon, hpoint, hclosed, hempty, harea, -, -, -⟩ := h
  rcases hpoint with hst | ⟨hst, hpre⟩
  · simp [hon, hst, hclosed, hempty, harea]
  · simp [hon, hst, hpre, hclosed, hempty, harea]

/-- A job that was to end ends instead (R294). -/
theorem exec_contextSave_stopped (h : Savable s p a i x j) (hs : (core s p).stop = some st) :
    exec (.contextSave ⟨p, a⟩) s = .next (endRank p st s) := by
  simp only [exec, execContextSave, h.owner, Option.bind_some, h.inst, h.ready, h.runs, hs, Bool.false_eq_true, if_false]

theorem exec_contextSave_saved (h : Savable s p a i x j) (hs : (core s p).stop = none) :
    exec (.contextSave ⟨p, a⟩) s = .next (requeueSaved i (saveNoted p j (contextSaved p a i x j s))) := by
  simp only [exec, execContextSave, h.owner, Option.bind_some, h.inst, h.ready, h.runs, hs, Bool.false_eq_true, if_false,
    saveNoted, contextSaved, freedCore, savedRank]

theorem saveNoted_keeps : Keeps Core.station s (saveNoted p j s) :=
  .dropPreempt (.coreLog (.ccErr (.orphanCore (.refl s) ..) ..) ..) _

/-- A saved rank's core is free, and its context stands in HBM. -/
theorem contextSave_frees (h : Savable s p a i x j) (hs : (core s p).stop = none) :
    ∃ t, exec (.contextSave ⟨p, a⟩) s = .next t ∧ (core t p).st = 0 ∧ (core t p).inst = none ∧ (core t p).preempt = false ∧
      t.mem.hbm = (writeContext a (contextCells s p j (oidModel x.model)) s).mem.hbm := by
  have hkeep : Keeps Core.station (contextSaved p a i x j s) (saveNoted p j (contextSaved p a i x j s)) := saveNoted_keeps
  obtain ⟨hcores, hmem⟩ := requeueSaved_parts (s := saveNoted p j (contextSaved p a i x j s)) (i := i)
  have hcore : core (requeueSaved i (saveNoted p j (contextSaved p a i x j s))) p = core (saveNoted p j (contextSaved p a i x j s)) p := by
    unfold core; rw [hcores]
  have hfreed : core (contextSaved p a i x j s) p = freedCore (core s p) := core_setCore_same ..
  have hseat : (core (requeueSaved i (saveNoted p j (contextSaved p a i x j s))) p).seat = (0, none, false, (core s p).reload) := by
    rw [hcore, hkeep.seat.look, hfreed]; rfl
  simp only [Core.seat, Prod.mk.injEq] at hseat
  obtain ⟨hst, hinst, hpre, -⟩ := hseat
  exact ⟨_, exec_contextSave_saved h hs, hst, hinst, hpre, by rw [hmem, hkeep.hbm]; rfl⟩

end SaveRules

/-! ### Resuming a job (R295, R355) -/

section ResumeRules
variable {s t : State} {i f p w a : Nat} {x : Inst} {j : Job} {sv : Saved}

/-- A core on which the context in `sv` goes on. -/
def restoredCore (m : Mem) (i : Nat) (sv : Saved) (c : Core) : Core :=
  { readContext m sv.area c with
    st := 1, kpend := [], mode := (c.prog.map (·.mode)).getD 0, open_ := false, snap := none, closing := false, failed := false, stop := none,
    hw := false, defer := [], sb := [], queues := [], run := [], inst := some i, preempt := false, halting := false, single := false,
    pass := false }

theorem restoreRank_core : ∃ c, core (restoreRank p i w sv s) p = restoredCore s.mem.hbm i sv c :=
  ⟨_, core_setCore_same ..⟩

/-- The placement as it goes on with job `j`, of whose ranks `bad` ended with their contexts. -/
def resumedInst (f : Nat) (ended : Map Nat) (j : Job) (x : Inst) : Inst :=
  { unqueue j x with first := f, ranks := 1, running := some { j with saved := [], ended := ended } }

/-- Another job than the head of the queue does not resume. -/
theorem exec_jobResume_other (h : Heads s i x j) (hw : w ≠ j.wid) : exec (.jobResume i w) s = .next s := by
  obtain ⟨hf, hx, hh, hr⟩ := h
  simp [exec, execJobResume, hf, hx, hh, hr, hw.symm]

variable (h : Heads s i x j) (hsv : j.saved = [(0, sv)]) (ho : x.out = false) (hj : jobsRun s = true)
  (hp : placeOf (objsOf s j.version) i = (f, 1)) (hi : coresIdle s f 1 = true)
include h hsv ho hj hp hi

/-- A rank whose context reads as poison ends FAULTED (R355). -/
theorem exec_jobResume_poisoned (hc : contextPoison s sv.area = some a) : exec (.jobResume i j.wid) s =
    .next (preemptScan (poisonRead a (setInst i (resumedInst f (mset j.ended 0 12) j x) s))) := by
  have hc' : contextPoison (setInst i (resumedInst f (mset j.ended 0 12) j x) s) sv.area = some a := hc
  simp only [resumedInst] at hc'
  obtain ⟨hf, hx, hh, hr⟩ := h
  simp [exec, execJobResume, hf, hx, hh, hr, hsv, ho, hj, hp, hi, hc, hc', resumedInst]

/-- The core of a job of one rank holds the job's program. -/
def withProgram (o : Objs) (i p : Nat) (s : State) : State :=
  match modelOfInst o i with
  | some m => haveProgram p m.1 0 m.2 s
  | none => s

omit h hsv ho hj hp hi in
theorem withProgram_keeps {o : Objs} : Keeps Core.seat s (withProgram o i p s) := by
  unfold withProgram
  split
  · exact .haveProgram (.refl s) ..
  · exact .refl s

theorem exec_jobResume_resumes (hc : contextPoison s sv.area = none) : exec (.jobResume i j.wid) s =
    .next (preemptScan (restoreRank (physOf s f) i j.wid sv
      (withProgram (objsOf s j.version) i (physOf s f) (setInst i (resumedInst f j.ended j x) s)))) := by
  obtain ⟨hf, hx, hh, hr⟩ := h
  simp [exec, execJobResume, hf, hx, hh, hr, hsv, ho, hj, hp, hi, hc, resumedInst, withProgram]
  rfl

/-- A saved rank resumes where it stood (R295). -/
theorem jobResume_restores (hc : contextPoison s sv.area = none) :
    ∃ t c, exec (.jobResume i j.wid) s = .next t ∧ core t (physOf s f) = c ∧ c.st = 1 ∧ c.inst = some i ∧
      c.pc = Mem.leAt s.mem.hbm (sv.area + 4) 4 % 8192 ∧ c.step = Mem.leAt s.mem.hbm (sv.area + 8) 4 ∧
      c.v = cellMap s.mem.hbm (sv.area + 2048) 4 32768 := by
  rw [exec_jobResume_resumes h hsv ho hj hp hi hc]
  have hprog : Keeps Core.seat (setInst i (resumedInst f j.ended j x) s)
      (withProgram (objsOf s j.version) i (physOf s f) (setInst i (resumedInst f j.ended j x) s)) := withProgram_keeps
  have hhbm := hprog.hbm
  generalize withProgram (objsOf s j.version) i (physOf s f) (setInst i (resumedInst f j.ended j x) s) = u at hhbm
  obtain ⟨c, hcore⟩ := restoreRank_core (p := physOf s f) (i := i) (w := j.wid) (sv := sv) (s := u)
  have hlook := (preemptScan_keeps (restoreRank (physOf s f) i j.wid sv u)).look (physOf s f)
  rw [hcore, hhbm] at hlook
  exact ⟨_, _, rfl, rfl, (congrArg Core.st hlook :), (congrArg Core.inst hlook :), (congrArg Core.pc hlook :), (congrArg Core.step hlook :),
    (congrArg Core.v hlook :)⟩

end ResumeRules

/-! ### The end of a job (R312) -/

section EndRules
variable {s : State} {i : Nat} {x : Inst} {j : Job}

/-- The worst status of the ranks, and of a result area outside its limits (R312, R314). -/
def worstStatus (j : Job) : Nat :=
  if ∃ e ∈ j.ended, e.2 = 3 then 3 else if ∃ e ∈ j.ended, e.2 ≠ 0 then 12 else if areaOk j.area then 0 else 3

theorem worstStatus_eq (j : Job) : worstStatus j =
    let st := if j.ended.any (·.2 == 3) then 3 else if j.ended.any (·.2 != 0) then 12 else 0
    if st = 0 && !areaOk j.area then 3 else st := by
  simp only [worstStatus, List.any_eq_true, beq_iff_eq, bne_iff_ne]
  by_cases h3 : ∃ e ∈ j.ended, e.2 = 3
  · simp only [h3, if_true]; rfl
  · by_cases h0 : ∃ e ∈ j.ended, e.2 ≠ 0
    · simp only [h3, h0, if_false, if_true]; rfl
    · cases ha : areaOk j.area <;> simp only [h3, h0, if_false, if_true] <;> rfl

theorem exec_jobComplete (hf : frozen s = false) (hx : inst? s i = some x) (hj : x.running = some j)
    (hr : ∀ r, r < x.ranks → (mget j.ended r).isSome = true) :
    exec (.jobComplete i) s = .next (preemptScan (finishJob i j (worstStatus j) (setInst i { x with running := none } s))) := by
  have hall : ((List.range x.ranks).all fun r => (mget j.ended r).isSome) = true :=
    List.all_eq_true.mpr fun r h => hr r (List.mem_range.mp h)
  rw [worstStatus_eq]
  simp only [exec, execJobComplete, hf, hx, hj, hall, Bool.not_true, Bool.false_eq_true, if_false]

end EndRules

/-! ### Placements loaded again (R308, R309) -/

section ReloadRules
variable {s t : State} {i l : Nat} {x : Inst}

/-- Every placement on logical core `l` is loaded again, those of an older version first. -/
def reloadCore (l : Nat) (s : State) : State :=
  let s := match s.ver.older with | some (v, _) => loadCore v.objs l s | none => s
  let s := loadCore s.ver.newest.objs l s
  setCore (physOf s l) { core s (physOf s l) with reload := false } s
/-- The logical cores of a placement that wait to be loaded again. -/
def waitingCores (s : State) (i : Nat) : List Nat :=
  (instCores s i).filter fun l => l < s.nv.cores && (core s (physOf s l)).reload
/-- Every placement none of whose cores waits is loaded. -/
def loadsNoted (s : State) : Map Inst :=
  s.insts.map fun e => (e.1, { e.2 with
    loading := e.2.loading && (instCores s e.1).any fun l => decide (l < s.nv.cores) && (core s (physOf s l)).reload })

/-- The placements, the retirements and the versions are as they were, and no core newly waits to be loaded. -/
structure Reloading (s t : State) : Prop where
  insts : t.insts = s.insts
  nv : t.nv = s.nv
  ver : t.ver = s.ver
  loaded : ∀ p, (core s p).reload = false → (core t p).reload = false

theorem Keeps.reloading (h : Keeps Core.seat s t) : Reloading s t :=
  ⟨h.insts, h.nv, h.ver, fun p hp => (congrArg (·.2.2.2) (h.look p)).trans hp⟩

theorem Reloading.trans {u : State} (h : Reloading s t) (g : Reloading t u) : Reloading s u :=
  ⟨g.insts.trans h.insts, g.nv.trans h.nv, g.ver.trans h.ver, fun p hp => g.loaded p (h.loaded p hp)⟩

theorem physOf_of_nv (h : t.nv = s.nv) (l : Nat) : physOf t l = physOf s l := by unfold physOf; rw [h]

theorem instCores_of_ver (h : t.ver = s.ver) (i : Nat) : instCores t i = instCores s i := by unfold instCores; rw [h]

theorem reloadCore_spec (l : Nat) (s : State) : Reloading s (reloadCore l s) ∧ (core (reloadCore l s) (physOf s l)).reload = false := by
  unfold reloadCore
  extract_lets s1 s2
  have h1 : Keeps Core.seat s s1 := by
    unfold s1
    split
    · exact .loadCore (.refl s) ..
    · exact .refl s
  have h2 : Keeps Core.seat s s2 := h1.loadCore ..
  clear_value s2
  have hset : Reloading s2 (setCore (physOf s2 l) { core s2 (physOf s2 l) with reload := false } s2) := by
    refine ⟨rfl, rfl, rfl, fun p hp => ?_⟩
    rw [(Keeps.refl (view := id) _).core_eq]
    split
    · rfl
    · exact hp
  refine ⟨h2.reloading.trans hset, ?_⟩
  rw [← h2.physOf l, core_setCore_same]

/-- Loading a list of cores again leaves none of them, and no core that did not wait, waiting. -/
theorem reloadCores_spec (l : List Nat) (s : State) : Reloading s (l.foldl (fun s l => reloadCore l s) s) ∧
    ∀ k ∈ l, (core (l.foldl (fun s l => reloadCore l s) s) (physOf s k)).reload = false := by
  obtain ⟨h, hl⟩ := foldl_establishes (f := fun s l => reloadCore l s) (inv := Reloading s)
    (P := fun k t => (core t (physOf s k)).reload = false) (fun t k ht => ht.trans (reloadCore_spec k t).1)
    (fun t k ht => by rw [← physOf_of_nv ht.nv k]; exact (reloadCore_spec k t).2)
    (fun t k q ht hq => (reloadCore_spec k t).1.loaded _ hq) l s ⟨rfl, rfl, rfl, fun _ h => h⟩
  exact ⟨h, fun k hk => hl k (.inl hk)⟩

/-- None of a placement's cores waits once those that did are loaded. -/
theorem waitingCores_loaded (hl : l ∈ instCores s i) (hn : l < s.nv.cores) :
    (core ((waitingCores s i).foldl (fun s l => reloadCore l s) s) (physOf s l)).reload = false := by
  obtain ⟨hkeep, hnew⟩ := reloadCores_spec (waitingCores s i) s
  cases hw : (core s (physOf s l)).reload with
  | false => exact hkeep.loaded _ hw
  | true => exact hnew l (List.mem_filter.mpr ⟨hl, by simp [hn, hw]⟩)

theorem mget_map {α β : Type} (g : Nat → α → β) (m : Map α) (k : Nat) : mget (m.map fun e => (e.1, g e.1 e.2)) k = (mget m k).map (g k) := by
  induction m with
  | nil => rfl
  | cons e m ih =>
    simp only [List.map_cons, mget]
    split
    · next h => rw [← h]; rfl
    · exact ih

/-- A placement none of whose cores waits is no longer loading. -/
theorem loadsNoted_loaded (hx : inst? s i = some x) (hw : ∀ l ∈ instCores s i, l < s.nv.cores → (core s (physOf s l)).reload = false) :
    mget (loadsNoted s) i = some { x with loading := false } := by
  have hnone : ((instCores s i).any fun l => decide (l < s.nv.cores) && (core s (physOf s l)).reload) = false :=
    List.any_eq_false.mpr fun l hl => by simpa using hw l hl
  have hmap := mget_map (fun i (x : Inst) => { x with
    loading := x.loading && (instCores s i).any fun l => decide (l < s.nv.cores) && (core s (physOf s l)).reload }) s.insts i
  rw [show mget s.insts i = some x from hx, Option.map_some, hnone, Bool.and_false] at hmap
  exact hmap

variable (hf : frozen s = false) (hx : inst? s i = some x)
include hf hx

theorem exec_reload (hl : x.loading = true) (hv : s.sys.level = 0) (hp : s.ch.pwr = 0) : exec (.placementReloadComplete i) s =
    .next (let t := (waitingCores s i).foldl (fun s l => reloadCore l s) s
      { t with insts := loadsNoted t, reloading := t.reloading && (loadsNoted t).any (·.2.loading) }) := by
  simp only [exec, execPlacementReloadComplete, hf, hx, hl, hv, hp, Bool.false_eq_true, if_false, beq_self_eq_true, Bool.and_self, if_true]
  rfl

/-- A reload ends with the placements in place (R309). -/
theorem reload_loads (hl : x.loading = true) (hv : s.sys.level = 0) (hp : s.ch.pwr = 0) : ∃ t y,
    exec (.placementReloadComplete i) s = .next t ∧ inst? t i = some y ∧ y.loading = false ∧
    ∀ l ∈ instCores s i, l < s.nv.cores → (core t (physOf s l)).reload = false := by
  obtain ⟨⟨hinsts, hnv, hver, -⟩, -⟩ := reloadCores_spec (waitingCores s i) s
  have hloaded : ∀ l ∈ instCores s i, l < s.nv.cores →
      (core ((waitingCores s i).foldl (fun s l => reloadCore l s) s) (physOf s l)).reload = false :=
    fun l hl hn => waitingCores_loaded hl hn
  have hexec := exec_reload hf hx hl hv hp
  generalize (waitingCores s i).foldl (fun s l => reloadCore l s) s = t at hinsts hnv hver hloaded hexec
  refine ⟨_, { x with loading := false }, hexec, loadsNoted_loaded ((congrArg (mget · i) hinsts).trans hx) ?_, rfl, hloaded⟩
  intro l hl hn
  rw [instCores_of_ver hver] at hl
  rw [hnv] at hn
  rw [physOf_of_nv hnv]
  exact hloaded l hl hn

/-- Regions of a new version are loaded once the old version's jobs are done (R308). -/
theorem exec_swap (hl : x.loading = false) (hs : x.swap ≠ 0) (hp : s.ch.pwr ≠ 1) (hr : x.running = none)
    (hq : ∀ j ∈ x.queue, j.version = x.swap) :
    exec (.placementReloadComplete i) s = .next (setInst i { x with swap := 0 } (loadInst (objsOf s x.swap) i s)) := by
  have hall : (x.queue.all fun j => j.version == x.swap) = true := List.all_eq_true.mpr fun j hj => beq_iff_eq.mpr (hq j hj)
  simp [exec, execPlacementReloadComplete, hf, hx, hl, hs, hp, hr, -List.all_eq_true, hall]

end ReloadRules
end Sys2Proof.Machine
end

section
/-! PROOFS. O45: arrival, start, saving, resumption and end of jobs. -/

namespace Sys2Proof.Machine
open Sys2Proof

/-- An arrival is held while the chip is frozen or no job tag is served. -/
theorem exec_jobArrive_none {i : Nat} {s : State} (h : frozen s = true ∨ takeTag i (fun t => t.kind == 2) s = none) :
    exec (.jobArrive i) s = .next s := by
  rcases h with h | h
  · simp [exec, execJobArrive, h]
  · simp [exec, execJobArrive, h]

/-- Settles O45: every case of an arrival, a start, a save, a resumption, an end and a reload by its own rule; what a rank's start leaves is
carried over the ranks, the placing of programs and the scan for pre-emptions by the frame `Keeps`. -/
theorem jobsComplete : Obligations.JobsComplete := by
  unfold Obligations.JobsComplete
  refine ⟨?arrives, ?refused, fun _ _ => exec_jobArrive_none, ?starts, ?late, ?elsewhere, ?out, fun _ _ => exec_start_keeps, ?saves,
    ?resumes, ?poisoned, ?ends, ?reloads, ?swaps⟩
  case arrives =>
    rintro i s t u g o k j hf ht rfl rfl hv hp hi rfl
    exact ⟨exec_jobArrive_queued hf ht hv hp hi, exec_jobArrive_late hf ht hv hp hi, exec_jobArrive_busy hf ht hv hp hi⟩
  case refused =>
    rintro i s t u g j hf ht rfl rfl
    exact ⟨exec_jobArrive_version hf ht, exec_jobArrive_notFound hf ht⟩
  case starts =>
    intro i s x j f n hf hx hh hr hsv hj ho hp hn hi hrf hl
    obtain ⟨t, y, k, ht, hy, hk, hwid, hver, hdesc, hcores⟩ := jobStart_runs ⟨hf, hx, hh, hr⟩ hsv hj ho hp hl hn hi hrf
    refine ⟨t, y, k, ht, hy, hk, hwid, hver, hdesc, fun r hlt => ?_⟩
    obtain ⟨hinst, hkreg, hst⟩ := hcores r hlt
    exact ⟨hinst, hkreg, fun hpoison hprog => hst ⟨hpoison, hprog⟩⟩
  case late =>
    intro i s x j f n hf hx hh hr hsv hj ho hp hc hl hlo
    exact exec_jobStart_late ⟨hf, hx, hh, hr⟩ hsv hj ho hp hc hl hlo
  case elsewhere =>
    intro i s x j k hf hx hh hr hsv hj ho hrf hl hk
    exact exec_jobStart_refused ⟨hf, hx, hh, hr⟩ hsv hj ho hl hrf hk
  case out =>
    intro i s x j hf hx hh hr hsv hj ho
    exact exec_jobStart_out ⟨hf, hx, hh, hr⟩ hsv hj ho
  case saves =>
    intro p a s i x j hon hpoint hclosed hempty harea howner hx hj
    have hsave : Savable s p a i x j := ⟨hon, hpoint, hclosed, hempty, harea, howner, hx, hj⟩
    exact ⟨fun st => exec_contextSave_stopped hsave, contextSave_frees hsave⟩
  case resumes =>
    intro i s x j f sv hf hx hh hr hsv ho hj hp hi hc
    have hhead : Heads s i x j := ⟨hf, hx, hh, hr⟩
    exact ⟨fun w => exec_jobResume_other hhead, jobResume_restores hhead hsv ho hj hp hi hc⟩
  case poisoned =>
    intro i s x j f sv a hf hx hh hr hsv ho hj hp hi hc
    exact exec_jobResume_poisoned ⟨hf, hx, hh, hr⟩ hsv ho hj hp hi hc
  case ends => exact fun i s x j => exec_jobComplete
  case reloads => exact fun i s x => reload_loads
  case swaps => exact fun i s x => exec_swap

end Sys2Proof.Machine
end

section
/-! PROOFS. Commands that stage objects (R73, R105, R127, R128, R154, R184, R185, R308, R322, R514): no row of the command's table refuses
the request, and its effect is one change of the open round; O10. -/

namespace Sys2Proof.Machine
open Sys2Proof

section StagingRules
variable {op since o limit : Nat} {r : Req} {s : State} {x : Round} {f : Round → Round} {h : Call → State → CmdRes} {l : List (Nat × Bool)}
  {b : Bytes} {more : Bool}

theorem noRound_of_open (hx : s.ver.round = some x) : noRound s = false := by simp [noRound, hx]

theorem onRound_of_open (hx : s.ver.round = some x) : onRound f s = setRound (f x) s := by simp [onRound, hx]

/-- A command whose handler only changes the open round completes with that change where none of its rows refuses it (R437, R463). -/
theorem mbxRow_stages (ho : opSince op = some since) (hs : since ≠ 0) (ha : accepted op since r s = true) (hx : s.ver.round = some x)
    (hh : h (callOf r s) (busy op r s) = rows l (busy op r s) (okay (onRound f (busy op r s)))) (hl : ∀ e ∈ l, e.2 = false) :
    .next (mbxRow op h r s) = okNext op r [] (setRound (f x)) s := by
  rw [mbxRow_accepted ho hs ha, hh, rows_pass hl, onRound_of_open (by rw [busy_ver, hx]), settled_okay]
  rfl

/-- Bytes that are all zero: the first of them, and the rest. -/
theorem zeroAt_succ {n : Nat} (hz : zeroAt b o (n + 1) = true) : u8 b o = 0 ∧ zeroAt b (o + 1) n = true := by
  unfold zeroAt sub at hz
  unfold u8 zeroAt sub
  rw [← List.drop_drop]
  rw [List.getD_eq_getElem?_getD, ← List.head?_drop]
  cases hd : b.drop o with
  | nil => simp
  | cons y ys => simpa [hd, ← BitVec.toNat_inj] using hz

/-- The rows that the staging of a part shares refuse no part within the image (R105). -/
theorem stageRows_pass (hp : partOk r o limit = true) (hm : more = false) : ∀ e ∈ stageRows (callOf r s) o limit more, e.2 = false := by
  simp only [partOk, Bool.and_eq_true, decide_eq_true_eq, beq_iff_eq] at hp
  obtain ⟨⟨⟨⟨⟨hlen, hoff⟩, hmul⟩, hmin⟩, hmax⟩, hfit⟩ := hp
  simp [stageRows, hlen, hoff, hmul, hm, not_lt.mpr hmax, not_lt.mpr hfit, Nat.one_le_iff_ne_zero.mp hmin]

/-- So do they with the row of a round that is open. -/
theorem partRows_pass (hp : partOk r o limit = true) (hm : more = false) (hx : s.ver.round = some x) :
    ∀ e ∈ stageRows (callOf r s) o limit more ++ [(9, noRound (busy op r s))], e.2 = false := by
  have hround : noRound (busy op r s) = false := noRound_of_open (by rw [busy_ver, hx])
  exact List.forall_mem_append.mpr ⟨stageRows_pass hp hm, by simp [hround]⟩

end StagingRules

/-- Settles O10: each command's rows pass, whole objects and removals by their fields, parts of images by `partRows_pass`. -/
theorem stagingCommandsWriteTheRound : Obligations.StagingCommandsWriteTheRound := by
  unfold Obligations.StagingCommandsWriteTheRound
  refine ⟨?deadlines, ?thresholds, ?graph, ?rules, ?ruleDelete, ?plan, ?ensemble, ?ensembleDelete, ?templates, ?modelDelete⟩
  case deadlines =>
    intro r s x ha hx hlen hcls hz1 hz12 hlo hhi
    refine mbxRow_stages (by decide) (by decide) ha hx rfl ?_
    simp [hlen, not_lt.mpr hcls, hz1, hz12, not_lt.mpr hlo, not_lt.mpr hhi, noRound, hx]
  case thresholds =>
    intro r s x ha hx hlen hk
    have hzero : ((List.range 10).any fun k => !zeroAt r.payload (8 * k + 1) 3) = false :=
      List.any_eq_false.mpr fun k hmem => by simp [(hk k (List.mem_range.mp hmem)).1]
    have hrange : ((List.range 10).any fun k => u8 r.payload (8 * k) == 0 || leAt r.payload (8 * k + 4) 4 == 0 ||
        decide (604800000 < leAt r.payload (8 * k + 4) 4)) = false := by
      refine List.any_eq_false.mpr fun k hmem => ?_
      obtain ⟨-, hthresh, hwindow, hmax⟩ := hk k (List.mem_range.mp hmem)
      simp [hthresh, hwindow, not_lt.mpr hmax]
    exact mbxRow_stages (by decide) (by decide) ha hx rfl <| List.forall_mem_cons.mpr ⟨by simp [hlen],
      List.forall_mem_cons.mpr ⟨hzero, List.forall_mem_cons.mpr ⟨hrange, by simp [noRound, hx]⟩⟩⟩
  case graph =>
    intro r s x ha hx hp hz
    exact mbxRow_stages (by decide) (by decide) ha hx rfl (partRows_pass hp (by simp [hz]) hx)
  case rules =>
    intro r s x ha hx hobj hnum hp hz2 hz12
    exact mbxRow_stages (by decide) (by decide) ha hx rfl (partRows_pass hp (by simp [not_lt.mpr hobj, hnum, hz2, hz12]) hx)
  case ruleDelete =>
    intro r s x ha hx hlen hobj hnum hz
    refine mbxRow_stages (by decide) (by decide) ha hx rfl ?_
    have hkind : (u8 r.payload 0 != 0 && u8 r.payload 0 != 2) = false := by rcases hobj with h | h <;> simp [h]
    simp [hlen, hkind, hnum, hz, noRound, hx]
  case plan =>
    intro r s x ha hx hp hz
    exact mbxRow_stages (by decide) (by decide) ha hx rfl (partRows_pass hp (by simp [hz]) hx)
  case ensemble =>
    intro r s x ha hx h1 h64 hp hz1 hz12
    have hens : ensBad (u8 r.payload 0) = false := by simp [ensBad, not_lt.mpr h64, Nat.one_le_iff_ne_zero.mp h1]
    exact mbxRow_stages (by decide) (by decide) ha hx rfl (partRows_pass hp (by simp [hens, hz1, hz12]) hx)
  case ensembleDelete =>
    intro r s x ha hx hlen h1 h64 hz
    have hens : ensBad (u8 r.payload 0) = false := by simp [ensBad, not_lt.mpr h64, Nat.one_le_iff_ne_zero.mp h1]
    refine mbxRow_stages (by decide) (by decide) ha hx rfl ?_
    simp [hlen, hens, hz, noRound, hx]
  case templates =>
    intro r s x ha hx hobj hz1 hz12 hp
    obtain ⟨hb1, hz2⟩ := zeroAt_succ hz1
    exact mbxRow_stages (h := scStage) (by decide) (by decide) ha hx rfl
      (partRows_pass hp (by simp [not_lt.mpr hobj, hb1, hz2, hz12]) hx)
  case modelDelete =>
    intro r s x ha hx hlen hmodel hz
    refine mbxRow_stages (h := modelDelete) (by decide) (by decide) ha hx rfl ?_
    simp [hlen, hmodel, hz, noRound, hx]

end Sys2Proof.Machine
end

section
/-! PROOFS. Enabling and disabling slice ports and chain links (R80, R82, R83, R404, R430); O23. -/

namespace Sys2Proof.Machine
open Sys2Proof

section ControlRules
variable {q n : Nat} {two : Bool} {s : State}

/-! ### Slice ports (R82, R83) -/

theorem exec_spPortEnable (hq : q < 64) (hd : down s = false) : exec (.spPortEnable q) s = .next (setPortEn q s) := by
  simp [exec, execSpPortEnable, hq, hd]
theorem exec_spPortDisable (hq : q < 64) (hd : down s = false) : exec (.spPortDisable q) s = .next (clrPortEn q s) := by
  simp [exec, execSpPortDisable, hq, hd]
theorem exec_spPortWidthSet (hq : q < 64) (hd : down s = false) :
    exec (.spPortWidthSet q two) s = .next (setPortWidth q two s) := by
  simp [exec, execSpPortWidthSet, hq, hd]

/-- EN of a used port that was off is set, and an idle one trains where a version is live (R67, R82). -/
theorem setPortEn_off (hu : unusedPort s q = false) (he : (port s q).en = false) :
    setPortEn q s = if (port s q).st = 0 ∧ newestNum s ≠ 0
      then setPort q { port s q with en := true, st := 1, ver := 0, since := now s, retryAt := none, offer := none } s
      else setPort q { port s q with en := true } s := by
  unfold newestNum
  split
  next h => simp [setPortEn, startTraining, hu, he, h.1, h.2]
  next h => simp [setPortEn, hu, he, h]

/-- EN of a port that was on is cleared: a trained port quiesces, any other one is idle at once (R82). -/
theorem clrPortEn_on (he : (port s q).en = true) :
    clrPortEn q s = if 5 ≤ (port s q).st
      then startQuiesce 2 q (blk s 2 q).op (blk s 2 q).who (setPort q { port s q with en := false, st := 7, since := now s } s)
      else inlineRise (setPort q { port s q with en := false, st := 0, ver := 0, offer := none, retryAt := none } s) := by
  simp [clrPortEn, trained, he]

/-- The width of a group changes while both its ports are off (R83). -/
theorem setPortWidth_off (hq : q % 2 = 0) (he : (port s q).en = false) (ho : (port s (q + 1)).en = false) (hw : (port s q).width ≠ two) :
    setPortWidth q two s = clearPortCtrs (q + 1) (setPort (q + 1) {} (setPort q { port s q with width := two } s)) := by
  simp [setPortWidth, hq, he, ho, hw]

/-! ### Chain links (R404, R430) -/

theorem exec_clLinkEnable (hn : n < 8) (hh : helmUp s = true) : exec (.clLinkEnable n) s = .next (setLinkEn n s) := by
  simp [exec, execClLinkEnable, hn, hh]
theorem exec_clLinkDisable (hn : n < 8) (hh : helmUp s = true) : exec (.clLinkDisable n) s = .next (clrLinkEn n s) := by
  simp [exec, execClLinkDisable, hn, hh]

@[simp] theorem fwUp_setLink (x : Lnk) : fwUp (setLink n x s) = fwUp s := rfl

/-- EN of an idle link is set, and it trains unless it is retired (R405). -/
theorem setLinkEn_idle (he : (link s n).en = false) (hst : (link s n).st = 0) :
    setLinkEn n s = setLink n { link s n with
      en := true, st := if bit s.nv.linkRetired n then 7 else if fwUp s then 1 else 0, ver := 0, fast := false, since := now s,
      retryAt := none, offer := none } s := by
  simp [setLinkEn, startLink, he, hst]

/-- A link in training is idle at once where its EN is cleared. -/
theorem clrLinkEn_training (he : (link s n).en = true) (h1 : 1 ≤ (link s n).st) (h4 : (link s n).st ≤ 4) :
    clrLinkEn n s = setLink n { link s n with en := false, st := 0, ver := 0, offer := none, retryAt := none } s := by
  have h5 : (link s n).st ≠ 5 := by omega
  simp [clrLinkEn, he, h1, h4, h5]

/-- A link that is up quiesces where its EN is cleared. -/
theorem clrLinkEn_up (he : (link s n).en = true) (h5 : (link s n).st = 5) :
    clrLinkEn n s = quiesceLink n (setLink n { link s n with en := false } s) := by
  simp [clrLinkEn, he, h5]

end ControlRules

/-- Settles O23: each row by its gate, then by what setting or clearing EN does in the case. -/
theorem portAndLinkControls : Obligations.PortAndLinkControls := by
  unfold Obligations.PortAndLinkControls
  refine ⟨?portOn, ?portOff, ?width, ?linkOn, ?linkTraining, ?linkUp⟩
  case portOn =>
    intro q s hq hd hu he
    rw [exec_spPortEnable hq hd, setPortEn_off hu he]
  case portOff =>
    intro q s hq hd he
    rw [exec_spPortDisable hq hd, clrPortEn_on he]
  case width =>
    intro q two s hq hd heven he ho hw
    rw [exec_spPortWidthSet hq hd, setPortWidth_off heven he ho hw]
  case linkOn =>
    intro n s hn hh he hst
    rw [exec_clLinkEnable hn hh, setLinkEn_idle he hst]
  case linkTraining =>
    intro n s hn hh he h1 h4
    rw [exec_clLinkDisable hn hh, clrLinkEn_training he h1 h4]
  case linkUp =>
    intro n s hn hh he h5
    rw [exec_clLinkDisable hn hh, clrLinkEn_up he h5]

end Sys2Proof.Machine
end

section
/-! PROOFS. Words on a slice port (R52, R55, R62 to R65, R383, R537): what one word does on a port in each of its states; O30. -/

namespace Sys2Proof.Machine
open Sys2Proof

section WordRules
variable {q code : Nat} {w : SpWord} {b : Bytes} {s : State}

/-! ### The rows -/

theorem exec_sliceArrival_running (hh : holding s = false) (ws : List SpWord) :
    exec (.sliceArrival q ws) s = .next (ws.foldl (rxWord q) s) := by
  simp [exec, execSliceArrival, wordsIn, hh]

theorem exec_sliceArrival_held (hh : holding s = true) (ws : List SpWord) :
    exec (.sliceArrival q ws) s = .next (setPort q { port s q with held := (port s q).held ++ ws } s) := by
  simp [exec, execSliceArrival, wordsIn, hh]

/-- A single word acts at once. -/
theorem exec_sliceArrival_one (hh : holding s = false) : exec (.sliceArrival q [w]) s = .next (rxWord q s w) :=
  exec_sliceArrival_running hh [w]

/-- A control word under its own code acts like any control word that arrives (R62). -/
theorem ctlIn_running (hh : holding s = false) (hc : u8 b 0 = code) : ctlIn q code b s = rxWord q s { ty := 0, data := b } := by
  simp [ctlIn, wordsIn, hh, hc]

/-! ### A trained port -/

@[simp] theorem now256_setPort (x : Port) : now256 (setPort q x s) = now256 s := rfl

section Trained
variable (ht : trained (port s q) = true)
include ht

theorem rxWord_idle (hty : w.ty = 0) (hu : u8 w.data 0 = 0) : rxWord q s w = s := by
  simp only [rxWord, ht, hty, hu, Bool.not_true, Bool.false_eq_true, if_false]

/-- RESYNC ends a loss of framing (R55). -/
theorem rxWord_resync (hty : w.ty = 0) (hu : u8 w.data 0 = 5) :
    rxWord q s w = setPort q { port s q with st := if (port s q).st = 6 then 5 else (port s q).st, lost := false, buf := [] } s := by
  simp only [rxWord, rxResync, ht, hty, hu, Bool.not_true, Bool.false_eq_true, if_false, if_true]

/-- CREDIT adds verdict and result credits (R64). -/
theorem rxWord_credit (hty : w.ty = 0) (hu : u8 w.data 0 = 1) :
    rxWord q s w = setPort q { port s q with
      vcred := (port s q).vcred + beAt w.data 2 2, rcred := (port s q).rcred + beAt w.data 4 2 } s := by
  simp only [rxWord, rxCredit, ht, hty, hu, Bool.not_true, Bool.false_eq_true, if_false, if_true]

theorem rxWord_reserved (hty : w.ty = 2 ∨ w.ty = 3) : rxWord q s w = spErr q 1 1 s := by
  rcases hty with hty | hty
  · simp only [rxWord, ht, hty, Bool.not_true, Bool.false_eq_true, if_false]
  · simp only [rxWord, ht, hty, Bool.not_true, Bool.false_eq_true, if_false]

/-- A slice-data word without a credit is counted, and framing is lost (R65). -/
theorem rxWord_uncredited (hty : w.ty = 1) (hc : (port s q).dcred = 0) : rxWord q s w = loseFraming q (spErr q 2 1 s) := by
  simp only [rxWord, ht, hty, hc, Bool.not_true, Bool.false_eq_true, if_false, if_true]

/-- A slice-data word with a credit joins the stream, or is discarded where framing is lost (R53, R55, R64). -/
theorem rxWord_credited (hty : w.ty = 1) (hc : 0 < (port s q).dcred) :
    rxWord q s w = if (port s q).st = 6 ∨ (port s q).lost = true
      then holdWords q ((port s q).rxWords + 1)
        (setPort q { port s q with dcred := (port s q).dcred - 1, rxWords := (port s q).rxWords + 1 } s)
      else cutSlices q 66 (setPort q { port s q with
        dcred := (port s q).dcred - 1, rxWords := (port s q).rxWords + 1, buf := (port s q).buf ++ padTo 64 w.data,
        bufT := if (port s q).buf = [] then now256 s else (port s q).bufT } s) := by
  have hne : (port s q).dcred ≠ 0 := hc.ne'
  split
  next h => simp [rxWord, ht, hty, hne, h]
  next h => simp [rxWord, ht, hty, hne, h]

end Trained

/-! ### A port in training -/

theorem not_trained_iff {p : Port} : trained p = false ↔ p.st < 5 := by simp [trained]

theorem rxWord_untrained (hst : (port s q).st < 5) : rxWord q s w = rxTraining q w s := by
  simp only [rxWord, not_trained_iff.mpr hst, Bool.not_false, if_true]

/-- Before the offer no word has an effect. -/
theorem rxTraining_early (hst : (port s q).st < 3) : rxTraining q w s = s := by simp only [rxTraining, hst, if_true]

section Offering
variable (h3 : 3 ≤ (port s q).st)
include h3

theorem rxTraining_data (hty : w.ty = 1) : rxTraining q w s = spErr q 2 1 s := by
  simp only [rxTraining, not_lt.mpr h3, if_false, hty]

theorem rxTraining_reserved (hty : w.ty = 2 ∨ w.ty = 3) : rxTraining q w s = spErr q 1 1 s := by
  rcases hty with hty | hty
  · simp only [rxTraining, not_lt.mpr h3, if_false, hty]
  · simp only [rxTraining, not_lt.mpr h3, if_false, hty]

/-- Of the control words TRAIN counts, and a reserved code is counted. -/
theorem rxTraining_control (hty : w.ty = 0) :
    rxTraining q w s = if u8 w.data 0 = 2 then rxTrain q w.data s else if 5 < u8 w.data 0 then spErr q 1 1 s else s := by
  simp only [rxTraining, not_lt.mpr h3, if_false, hty]

end Offering
end WordRules

/-- Settles O30: each row gives its word to `rxWord`, and the word acts by the port's state and its own type and code. -/
theorem slicePortWordsComplete : Obligations.SlicePortWordsComplete := by
  unfold Obligations.SlicePortWordsComplete
  refine ⟨?held, ?none, ?inTurn, ?idle, ?reserved, ?uncredited, ?credited, ?early, ?offering, ?resync, ?credit⟩
  case held => exact fun q ws s hh => exec_sliceArrival_held hh ws
  case none => exact fun q s hh => exec_sliceArrival_running hh []
  case inTurn => exact fun q w ws s hh => exec_sliceArrival_running hh (w :: ws)
  case idle =>
    intro q w s hh ht hty hu
    rw [exec_sliceArrival_one hh, rxWord_idle ht hty hu]
  case reserved =>
    intro q w s hh ht hty
    rw [exec_sliceArrival_one hh, rxWord_reserved ht hty]
  case uncredited =>
    intro q w s hh ht hty hc
    rw [exec_sliceArrival_one hh, rxWord_uncredited ht hty hc]
  case credited =>
    intro q w s hh ht hty hc
    rw [exec_sliceArrival_one hh, rxWord_credited ht hty hc]
    constructor
    · intro hst hl
      rw [if_neg (by simp [hst, hl])]
    · intro hlost
      rw [if_pos hlost]
  case early =>
    intro q w s hh hst
    rw [exec_sliceArrival_one hh, rxWord_untrained (by omega), rxTraining_early hst]
  case offering =>
    intro q w s hh hst
    have h3 : 3 ≤ (port s q).st := by omega
    rw [exec_sliceArrival_one hh, rxWord_untrained (by omega)]
    refine ⟨fun hty => ?data, fun hw => ?unknown, fun hty hu => ?train, fun hty hle hu => ?other⟩
    case data => rw [rxTraining_data h3 hty]
    case unknown =>
      rcases hw with hty | hty | ⟨hty, hu⟩
      · rw [rxTraining_reserved h3 (.inl hty)]
      · rw [rxTraining_reserved h3 (.inr hty)]
      · rw [rxTraining_control h3 hty, if_neg (by omega), if_pos hu]
    case train => rw [rxTraining_control h3 hty, if_pos hu]
    case other => rw [rxTraining_control h3 hty, if_neg hu, if_neg (not_lt.mpr hle)]
  case resync =>
    intro q w s hh ht hu
    have hrow : exec (.resync q w) s = .next (ctlIn q 5 w s) := rfl
    rw [hrow, ctlIn_running hh hu, rxWord_resync ht rfl hu]
  case credit =>
    intro q w s hh ht hu
    have hrow : exec (.spCredit q w) s = .next (ctlIn q 1 w s) := rfl
    rw [hrow, ctlIn_running hh hu, rxWord_credit ht rfl hu]

end Sys2Proof.Machine
end

section
/-! PROOFS. The training of slice ports and their TIME words (R63, R67, R68, R383); O31. -/

namespace Sys2Proof.Machine
open Sys2Proof

section TrainingRules
variable {q : Nat} {fast : Bool} {w : Bytes} {s : State}

/-! ### The rows, while nothing holds the part still -/

section Rows
variable (hf : frozen s = false)
include hf

theorem exec_spLaneLock_lanes (hr : (port s q).retryAt = none) (hst : (port s q).st = 1) :
    exec (.spLaneLock q fast false) s = .next (setPort q { port s q with st := 2, fast := fast, since := now s } s) := by
  simp [exec, execSpLaneLock, hf, hr, hst]

theorem exec_spLaneLock_codewords (hr : (port s q).retryAt = none) (hst : (port s q).st = 2) :
    exec (.spLaneLock q fast true) s =
      .next (sendTrain q 1 (port s q).maxVer (setPort q { port s q with st := 3, since := now s } s)) := by
  simp [exec, execSpLaneLock, hf, hr, hst]

theorem exec_spTrainTimeout_late (h1 : 1 ≤ (port s q).st) (h4 : (port s q).st ≤ 4) (hr : (port s q).retryAt = none)
    (hl : (port s q).since + stepLimit (port s q).st < now s) : exec (.spTrainTimeout q) s = .next (trainFail q s) := by
  simp [exec, execSpTrainTimeout, hf, h1, h4, hr, hl]

theorem exec_spTrainRetry_due {t : Nat} (hr : (port s q).retryAt = some t) (hd : t ≤ now s) :
    exec (.spTrainRetry q) s = .next (startTraining q s) := by
  simp [exec, execSpTrainRetry, hf, hr, hd]

theorem exec_spLockLoss_trained (ht : trained (port s q) = true) :
    exec (.spLockLoss q) s = .next (portDown q (if (port s q).en then 1 else 0) s) := by
  simp [exec, execSpLockLoss, hf, ht]

theorem exec_spTimeSend_running : exec .spTimeSend s = .next ((List.range 64).foldl (fun s q => sendTime q s) s) := by
  simp [exec, execSpTimeSend, hf]

end Rows

/-- None of these rows acts while the part stands still (R383). -/
theorem exec_spTraining_frozen {codeword : Bool} (hf : frozen s = true) :
    exec (.spLaneLock q fast codeword) s = .next s ∧ exec (.spTrainTimeout q) s = .next s ∧ exec (.spTrainRetry q) s = .next s ∧
      exec (.spLockLoss q) s = .next s ∧ exec .spTimeSend s = .next s := by
  refine ⟨?lock, ?timeout, ?retry, ?loss, ?time⟩
  case lock => simp [exec, execSpLaneLock, hf]
  case timeout => simp [exec, execSpTrainTimeout, hf]
  case retry => cases hr : (port s q).retryAt <;> simp [exec, execSpTrainRetry, hf, hr]
  case loss => simp [exec, execSpLockLoss, hf]
  case time => simp [exec, execSpTimeSend, hf]

/-! ### TRAIN (R62, R67) -/

/-- TRAIN acts on a port in offer or accept. -/
theorem exec_spTrain_offering (hh : holding s = false) (hst : (port s q).st = 3 ∨ (port s q).st = 4) (hu : u8 w 0 = 2) :
    exec (.spTrain q w) s = .next (rxTrain q w s) := by
  have hrow : exec (.spTrain q w) s = .next (ctlIn q 2 w s) := rfl
  rw [hrow, ctlIn_running hh hu, rxWord_untrained (by omega), rxTraining_control (by omega) rfl, if_pos hu]

/-- The switch's offer is accepted where lanes and version agree, and fails the attempt where they do not. -/
theorem rxTrain_offer (hr : (port s q).retryAt = none) (hst : (port s q).st = 3) (hu : u8 w 1 = 1) :
    rxTrain q w s = if u8 w 3 = lanes s q ∧ negotiate (port s q) (u8 w 2) ≠ 0
      then sendTrain q 2 (negotiate (port s q) (u8 w 2)) (setPort q { port s q with
        st := 4, offer := some (u8 w 2, beAt w 4 2, beAt w 6 2), swStamps := bit (u8 w 8) 0, since := now s } s)
      else trainFail q s := by
  split
  next h => simp [rxTrain, hr, hst, hu, h.1, h.2]
  next h =>
    have hbad : u8 w 3 ≠ lanes s q ∨ negotiate (port s q) (u8 w 2) = 0 := by tauto
    simp [rxTrain, hr, hst, hu, hbad]

/-- The switch's agreement to the version offered trains the port; any other one fails the attempt. -/
theorem rxTrain_accept {o v r : Nat} (hr : (port s q).retryAt = none) (hst : (port s q).st = 4) (hu : u8 w 1 = 2)
    (ho : (port s q).offer = some (o, v, r)) :
    rxTrain q w s = if u8 w 2 = negotiate (port s q) o then portTrained q (u8 w 2) v r s else trainFail q s := by
  split
  next h => simp [rxTrain, hr, hst, hu, ho, h]
  next h => simp [rxTrain, hr, hst, hu, ho, h]

/-! ### TIME (R63) -/

theorem sendTime_due (ht : trained (port s q) = true) (hd : (port s q).timeSent < now s / 2 ^ 20 + 1) :
    sendTime q s = ctlWord q ([0x03] ++ zeros 7 ++ be 8 (now s) ++ be 1 (now256 s % 256))
      (setPort q { port s q with timeSent := now s / 2 ^ 20 + 1 } s) := by
  simp only [sendTime, ht, hd, decide_true, Bool.and_self, if_true]

end TrainingRules

/-- Settles O31: the rows of lock, limit, retry and loss by their gates, and TRAIN by the step that the port is in. -/
theorem slicePortTrainingCompletes : Obligations.SlicePortTrainingCompletes := by
  unfold Obligations.SlicePortTrainingCompletes
  refine ⟨?lanes, ?codewords, ?offer, ?accept, ?late, ?again, ?loss, ?time, ?due, ?held⟩
  case lanes => exact fun q fast s hf hr hst => exec_spLaneLock_lanes hf hr hst
  case codewords => exact fun q fast s hf hr hst => exec_spLaneLock_codewords hf hr hst
  case offer =>
    intro q w s hh hr hst hu hstep
    rw [exec_spTrain_offering hh (.inl hst) hu, rxTrain_offer hr hst hstep]
  case accept =>
    intro q w s o v r hh hr hst hu hstep ho
    rw [exec_spTrain_offering hh (.inr hst) hu, rxTrain_accept hr hst hstep ho]
    rfl
  case late => exact fun q s hf h1 h4 hr hl => exec_spTrainTimeout_late hf h1 h4 hr hl
  case again => exact fun q s t hf hr hd => exec_spTrainRetry_due hf hr hd
  case loss => exact fun q s hf ht => exec_spLockLoss_trained hf ht
  case time => exact fun s hf => exec_spTimeSend_running hf
  case due => exact fun q s ht hd => sendTime_due ht hd
  case held => exact fun q fast codeword s hf => exec_spTraining_frozen hf

end Sys2Proof.Machine
end

section
/-! PROOFS. The training of chain links (R405, R406, R512): lanes, the partner's TRAIN and the link that comes up. -/

namespace Sys2Proof.Machine
open Sys2Proof

/-! ### Faults leave the links -/

section Faults
variable (s : State)

@[simp] theorem queueEvent_cl (e : Event) (i : Nat) : (queueEvent e i s).cl = s.cl := by
  unfold queueEvent
  dsimp only
  split
  · rfl
  · exact errc_cl ..

@[simp] theorem sendEvent_cl (type cls : Nat) (body : Bytes) : (sendEvent type cls body s).cl = s.cl := by
  refine List.foldlRecOn (motive := fun t : State => t.cl = s.cl) _ _ rfl fun t ht i _ => ?_
  split
  · exact (queueEvent_cl ..).trans ht
  · exact ht

@[simp] theorem writeFault_cl (f : FltRec) : (writeFault f s).cl = s.cl := by
  unfold writeFault
  dsimp only
  rw [sendEvent_cl]
  split
  · exact errc_cl ..
  · rfl

@[simp] theorem openPeriod_cl (f : FltRec) (limit : Nat) : (openPeriod f limit s).cl = s.cl := rfl

@[simp] theorem endPeriod_cl (code chan : Nat) : (endPeriod code chan s).cl = s.cl := by
  unfold endPeriod
  split
  · rfl
  · dsimp only
    split
    · rfl
    · rw [openPeriod_cl, writeFault_cl]

@[simp] theorem raiseLim_cl (limit : Nat) (f : FltRec) : (raiseLim limit f s).cl = s.cl := by
  unfold raiseLim
  extract_lets c f' s1 src s2 k s3
  have h2 : s2.cl = s.cl := errc_cl ..
  have h3 : s3.cl = s.cl := by
    unfold s3
    split
    · split
      · exact (endPeriod_cl ..).trans h2
      · exact h2
    · exact h2
  split
  · exact h3
  · rw [openPeriod_cl, writeFault_cl, h3]

theorem link_raiseF (f : FltRec) (n : Nat) : link (raiseF f s) n = link s n := by
  unfold link raiseF
  rw [raiseLim_cl]

end Faults

section LinkTrainingRules
variable {n bad code : Nat} {fast codeword : Bool} {f : Bytes} {o : ClOffer} {s : State} {g : State → State}

/-! ### Lanes lock (R405, R512) -/

/-- The lanes of link `n` that run and that `bad` names. -/
def unlockedLanes (s : State) (n bad : Nat) : List Nat := (List.range 8).filter fun i => bit bad i && bit (usableLanes s n) i
/-- The lanes `l` of link `n`, each with one failure in a row more. -/
def laneFails (s : State) (n : Nat) (l : List Nat) : List (Nat × Nat) := l.map fun i => (i, mgetD (link s n).lockFail i 0 + 1)

theorem unlockedLanes_eq_nil : unlockedLanes s n bad = [] ↔ ∀ i, i < 8 → bit bad i = true → bit (usableLanes s n) i = false := by
  simp [unlockedLanes, List.filter_eq_nil_iff]

section Locks
variable (hn : n < 8) (hf : fwUp s = true) (hr : (link s n).retryAt = none)
include hn hf hr

theorem exec_clLaneLock_lanes (hst : (link s n).st = 1) : exec (.clLaneLock n fast false bad) s = .next (
    if unlockedLanes s n bad = [] then
      setLink n { link s n with st := 2, fast := fast && (link s n).maxVer == 2, since := now s, lockFail := [] } s
    else if (unlockedLanes s n bad).length = popcount (usableLanes s n) 8 then failLink n s
    else ((laneFails s n (unlockedLanes s n bad)).filter fun e => 3 ≤ e.2).foldl (fun s e => retireLane n e.1 s)
      (failLink n (setLink n { link s n with lockFail := laneFails s n (unlockedLanes s n bad) } s))) := by
  simp [exec, execClLaneLock, unlockedLanes, laneFails, not_le.mpr hn, hf, hr, hst]

theorem exec_clLaneLock_codewords (hst : (link s n).st = 2) : exec (.clLaneLock n fast true bad) s =
    .next (sendTrainFlit n 1 (link s n).maxVer (setLink n { link s n with st := 3, since := now s } s)) := by
  simp [exec, execClLaneLock, not_le.mpr hn, hf, hr, hst]

end Locks

theorem exec_clLaneLock_keeps (h : 8 ≤ n ∨ (link s n).retryAt.isSome = true ∨ fwUp s = false) :
    exec (.clLaneLock n fast codeword bad) s = .next s := by
  rcases h with h | h | h
  · simp [exec, execClLaneLock, h]
  · simp [exec, execClLaneLock, h]
  · simp [exec, execClLaneLock, h]

/-! ### TRAIN (R399, R406) -/

/-- A control flit of its row's code acts on a link in training. -/
theorem rxCtl_training (hn : n < 8) (hl : s.sys.level < 2) (hc : crcOk f = true) (hu : u8 f 0 = code)
    (hst : 1 ≤ (link s n).st ∧ (link s n).st ≤ 4) : rxCtl code n f g s = g s := by
  have h0 : (link s n).st ≠ 0 ∧ (link s n).st ≠ 7 := by omega
  simp [rxCtl, hn, h0, hl, crcOk_length hc, hc, hu]

/-- The offer that the flit `f` carries. -/
def offerOf (f : Bytes) : ClOffer :=
  { ver := u8 f 2, mask := u8 f 3, chip := beAt f 4 2, link := u8 f 6 % 8, valid := bit (u8 f 6) 3,
    cred := [beAt f 8 2, beAt f 10 2, beAt f 12 2] }

section Train
variable (hn : n < 8) (hl : s.sys.level < 2) (hc : crcOk f = true) (hu : u8 f 0 = 1) (hr : (link s n).retryAt = none)
include hn hl hc hu hr

theorem exec_clTrain_offer (hst : (link s n).st = 3) (hstep : u8 f 1 = 1) : exec (.clTrain n f) s = .next (
    if usableLanes s n &&& (offerOf f).mask = 0 then retireLink n s
    else if linkVer (link s n) (offerOf f).ver = 0 then failLink n s
    else sendTrainFlit n 2 (linkVer (link s n) (offerOf f).ver)
      (setLink n { link s n with st := 4, offer := some (offerOf f), since := now s } s)) := by
  refine congrArg _ ((rxCtl_training hn hl hc hu (by omega)).trans ?_)
  simp [offerOf, hr, hst, hstep]

theorem exec_clTrain_accept (hst : (link s n).st = 4) (hstep : u8 f 1 = 2) (ho : (link s n).offer = some o) :
    exec (.clTrain n f) s = .next (if u8 f 2 = linkVer (link s n) o.ver then linkComesUp n o s else failLink n s) := by
  refine congrArg _ ((rxCtl_training hn hl hc hu (by omega)).trans ?_)
  simp [hr, hst, hstep, ho]

end Train

/-- The link that comes up: the version and the lanes of both offers, and the partner with its credits (R406). -/
theorem linkComesUp_link : (link (linkComesUp n o s) n).st = 5 ∧ (link (linkComesUp n o s) n).ver = linkVer (link s n) o.ver ∧
    (link (linkComesUp n o s) n).active = usableLanes s n &&& o.mask ∧ (link (linkComesUp n o s) n).cred = o.cred ∧
    (link (linkComesUp n o s) n).partner = some (o.chip, o.link, o.valid) := by
  unfold linkComesUp
  extract_lets x wrong t
  have hlink : link (if wrong = true then
      raiseF { code := 0x0603, unit := 0xFE, index := n, version := newestNum t, detail := o.chip + 65536 * o.link } t else t) n =
      link t n := by
    split
    · exact link_raiseF ..
    · rfl
  rw [hlink, link_setLink_same]
  exact ⟨rfl, rfl, rfl, rfl, rfl⟩

end LinkTrainingRules
end Sys2Proof.Machine
end

section
/-! PROOFS. Chain links in time (R405, R407), the change of their lanes (R411), and codewords with errors (R51, R395, R512); O50. -/

namespace Sys2Proof.Machine
open Sys2Proof

section LinkEventRules
variable {n m t : Nat} {b : Bool} {f : Bytes} {s : State}

/-! ### Limits and losses (R399, R405, R407) -/

theorem exec_clTrainRetry_waiting (hr : (link s n).retryAt = some t) :
    exec (.clTrainRetry n) s = .next (if t ≤ now s then startLink n s else s) := by
  simp only [exec, execClTrainRetry, hr]

theorem exec_clTrainRetry_trying (hr : (link s n).retryAt = none) : exec (.clTrainRetry n) s = .next
    (if 1 ≤ (link s n).st ∧ (link s n).st ≤ 4 ∧ (link s n).since + stepLimit (link s n).st < now s then failLink n s else s) := by
  simp [exec, execClTrainRetry, hr, and_assoc]

theorem exec_down (hr : flitsRun s n = true) (hc : crcOk f = true) (hu : u8 f 0 = 8) :
    exec (.down n f) s = .next (retrainLink n s) := by
  simp only [exec, execDown, rxCtl_runs hr hc hu, hr, if_true]

/-! ### Lanes (R411) -/

/-- The mask that LANE_REQ `f` leaves link `n`, and the epoch: those asked for, and with a request of this end's under way the lanes of
both and the higher epoch. -/
def laneAgreed (s : State) (n : Nat) (f : Bytes) : Nat × Nat :=
  match (link s n).laneReq with
  | some (a, _) => (u8 f 1 &&& a, max (link s n).epoch (u8 f 2))
  | none => (u8 f 1 &&& (link s n).active, u8 f 2)

/-- LANE_REQ takes effect and is answered, and retires a link that it leaves no lane. -/
theorem exec_laneReq (hr : flitsRun s n = true) (hc : crcOk f = true) (hu : u8 f 0 = 4) : exec (.laneReq n f) s = .next (
    if (laneAgreed s n f).1 = 0 then retireLink n s
    else let x := draw (adoptMask n (laneAgreed s n f).1 (laneAgreed s n f).2 s)
      sendCtl n ([0x05] ++ le 1 (laneAgreed s n f).1 ++ le 1 (laneAgreed s n f).2 ++ [0] ++ be 2 (Config.switchWord x.1).toNat) x.2) := by
  refine congrArg _ ((rxCtl_runs hr hc hu).trans ?_)
  cases hq : (link s n).laneReq <;> simp [hr, laneAgreed, hq]

theorem exec_laneAck_asked (hr : flitsRun s n = true) (hc : crcOk f = true) (hu : u8 f 0 = 5) (hq : (link s n).laneReq = some (m, t)) :
    exec (.laneAck n f) s =
      .next (if u8 f 1 = m ∧ u8 f 2 = (link s n).epoch then adoptMask n m (link s n).epoch s else s) := by
  refine congrArg _ ((rxCtl_runs hr hc hu).trans ?_)
  simp [hr, hq]

theorem exec_laneAck_unasked (hc : crcOk f = true) (hq : (link s n).laneReq = none) : exec (.laneAck n f) s = .next s :=
  congrArg _ (rxCtl_keeps hc (by simp only [hq]))

theorem exec_laneAckTimeout_asked (hq : (link s n).laneReq = some (m, t)) :
    exec (.laneAckTimeout n) s = .next (if t + 1000000 ≤ now s then retrainLink n s else s) := by
  simp only [exec, execLaneAckTimeout, hq]

theorem exec_laneAckTimeout_unasked (hq : (link s n).laneReq = none) : exec (.laneAckTimeout n) s = .next s := by
  simp only [exec, execLaneAckTimeout, hq]

/-! ### Codewords with errors (R51, R395, R512) -/

section Codewords
variable {q l k : Nat}

/-- On a slice port: corrected up to 15 wrong symbols; with more, framing of a trained port is lost. -/
theorem exec_codeword_port (hq : q < 64) (hst : 3 ≤ (port s q).st) (hd : down s = false) (hk : 1 ≤ k) :
    exec (.uncorrectableCodeword false q ⟨l, k⟩) s = .next (
      if k ≤ 15 then spPerf q 0x28 1 s
      else if trained (port (spErr q 0 1 s) q) then loseFraming q (spErr q 0 1 s) else spErr q 0 1 s) := by
  simp [exec, execUncorrectableCodeword, not_le.mpr hq, not_lt.mpr hst, hd, Nat.one_le_iff_ne_zero.mp hk]

theorem exec_codeword_lane_corrected (hl : laneRuns s n l = true) (h1 : 1 ≤ k) (h15 : k ≤ 15) :
    exec (.uncorrectableCodeword true n ⟨l, k⟩) s = .next (perf (clLink n + 0x30) 1 s) := by
  simp [exec, execUncorrectableCodeword, hl, h15, Nat.one_le_iff_ne_zero.mp h1]

/-- With more wrong symbols a codeword of a lane counts towards its retirement. -/
theorem exec_codeword_lane_uncorrectable (hl : laneRuns s n l = true) (h15 : 15 < k) :
    exec (.uncorrectableCodeword true n ⟨l, k⟩) s = .next (
      let x := channelEvent 0 (8 * n + l) 0 (clErr n 0 1 s)
      if x.1 then retireLane n l x.2 else x.2) := by
  have hk : k ≠ 0 := by omega
  simp [exec, execUncorrectableCodeword, hl, not_le.mpr h15, hk]

theorem exec_codeword_keeps (h : k = 0 ∨ b = false ∧ (64 ≤ n ∨ (port s n).st < 3 ∨ down s = true) ∨ b = true ∧ laneRuns s n l = false) :
    exec (.uncorrectableCodeword b n ⟨l, k⟩) s = .next s := by
  rcases h with rfl | ⟨rfl, hport⟩ | ⟨rfl, hlane⟩
  · simp [exec, execUncorrectableCodeword]
  · simp [exec, execUncorrectableCodeword, or_assoc, hport]
  · simp [exec, execUncorrectableCodeword, hlane]

end Codewords
end LinkEventRules

/-- Settles O50: training by the rules of lanes and of TRAIN, the other rows each by its own rule. -/
theorem linkTrainingCompletes : Obligations.LinkTrainingCompletes := by
  unfold Obligations.LinkTrainingCompletes
  refine ⟨?locked, ?unlocked, ?codewords, ?noLock, ?offer, ?accept, ?waiting, ?trying, ?loss, ?down, ?asked, ?answered, ?unasked, ?late,
    ?notLate, ?port, ?uncorrectable, ?corrected, ?clean⟩
  case locked =>
    intro n fast bad s hn hf hr hst hgood
    rw [exec_clLaneLock_lanes hn hf hr hst, if_pos (unlockedLanes_eq_nil.mpr hgood)]
  case unlocked =>
    intro n fast bad s l hn hf hr hst hl hne
    have hlow : unlockedLanes s n bad = l := hl.symm
    rw [exec_clLaneLock_lanes hn hf hr hst, hlow, if_neg hne]
    constructor
    · intro hall
      rw [if_pos hall]
    · rintro f hsome rfl
      rw [if_neg hsome]
      rfl
  case codewords => exact fun n fast bad s hn hf hr hst => exec_clLaneLock_codewords hn hf hr hst
  case noLock => exact fun n fast w bad s h => exec_clLaneLock_keeps h
  case offer =>
    intro n f s o hn hl hc hu hr hst hstep ho
    have hoffer : offerOf f = o := ho.symm
    rw [exec_clTrain_offer hn hl hc hu hr hst hstep, hoffer]
    refine ⟨fun hm hv => ?_, fun hm => ?_, fun hm hv => ?_⟩
    · rw [if_neg hm, if_neg hv]
    · rw [if_pos hm]
    · rw [if_neg hm, if_pos hv]
  case accept =>
    intro n f s o hn hl hc hu hr hst hstep ho
    rw [exec_clTrain_accept hn hl hc hu hr hst hstep ho]
    constructor
    · intro hv
      exact ⟨_, congrArg _ (if_pos hv), linkComesUp_link⟩
    · intro hv
      rw [if_neg hv]
  case waiting => exact fun n s t hr => exec_clTrainRetry_waiting hr
  case trying => exact fun n s hr => exec_clTrainRetry_trying hr
  case loss => exact fun n b s => rfl
  case down => exact fun n f s hr hc hu => exec_down hr hc hu
  case asked =>
    intro n f s m e hr hc hu hme
    have hagreed : laneAgreed s n f = (m, e) := by
      rcases hme with ⟨hq, rfl, rfl⟩ | ⟨a, t, hq, rfl, rfl⟩
      · simp only [laneAgreed, hq]
      · simp only [laneAgreed, hq]
    rw [exec_laneReq hr hc hu, hagreed]
    constructor
    · intro hm
      rw [if_neg hm]
    · intro hm
      rw [if_pos hm]
  case answered => exact fun n f s m t hr hc hu hq => exec_laneAck_asked hr hc hu hq
  case unasked => exact fun n f s hq hc => exec_laneAck_unasked hc hq
  case late => exact fun n s m t hq => exec_laneAckTimeout_asked hq
  case notLate => exact fun n s hq => exec_laneAckTimeout_unasked hq
  case port => exact fun q l k s hq hst hd hk => exec_codeword_port hq hst hd hk
  case uncorrectable =>
    rintro n l k s x hl h15 rfl
    exact exec_codeword_lane_uncorrectable hl h15
  case corrected => exact fun n l k s hl h1 h15 => exec_codeword_lane_corrected hl h1 h15
  case clean => exact fun b n l k s h => exec_codeword_keeps h

end Sys2Proof.Machine
end

section
/-! PROOFS. Seals of the groups of a round (R106, R129, R155, R186, R323, R438, R562): with a round open each handler comes down to the
conditions that it checks of the round, and where they hold its effect is the mark of its group; O11. -/

namespace Sys2Proof.Machine
open Sys2Proof

section SealRules
variable {op since g : Nat} {r : Req} {c : Call} {s : State} {x : Round} {h : Call → State → CmdRes}

/-! ### What each seal checks of the open round -/

/-- `t` with group `g` of the open round sealed, behind the rows that every seal shares: no payload and an open round. -/
def sealRows (c : Call) (g : Nat) (t : State) : CmdRes :=
  rows [(2, c.p.length != 0), (9, noRound t)] t (okay (onRound (·.seal g) t))

theorem pgSeal_passes (hx : s.ver.round = some x) (hs : (mget x.written oidPg).isSome = true) (hw : allWritten x oidPg 37632 = true)
    (hc : pgCheck (imgMem x.objs oidPg) = none) : pgSeal c s = sealRows c 0 s := by
  have hstaged : ((mget x.written oidPg).isNone || !allWritten x oidPg 37632) = false := by simp [Option.isNone_eq_false_iff.mpr hs, hw]
  simp only [pgSeal, sealRows, onRound_of_open hx, hx, hstaged, hc, Bool.false_eq_true, if_false]

theorem rcSeal_passes (hx : s.ver.round = some x) (hu : x.unsealed 1 = false) (hw : rcWritten x = true)
    (hc : rcFirst x.objs (imgMem x.objs oidPg) = none) (hb : rcBytes x s ≤ 100663296) : rcSeal c s = sealRows c 1 s := by
  have hready : (x.unsealed 1 || !rcWritten x) = false := by simp [hu, hw]
  simp only [rcSeal, sealRows, onRound_of_open hx, hx, hready, hc, not_lt.mpr hb, Bool.false_eq_true, if_false]

/-- The prefix tables fit the pools where no family of them takes more than its pool (R155). -/
theorem poolsFit_iff : poolsFit s x = true ↔ ([0, 1].any fun f => poolLimit f < poolUse s f (famPfx x.objs f) x.touched) = false := by
  simp [poolsFit]

theorem tbSeal_passes (hx : s.ver.round = some x) (hu : x.unsealed 1 = false) (hw : allWritten x oidPlan 2112 = true)
    (hc : planCheck (imgMem x.objs oidPlan) (imgMem x.objs oidPg) = none) (hp : poolsFit s x = true) : tbSeal c s = sealRows c 2 s := by
  have hready : (!allWritten x oidPlan 2112 || x.unsealed 1) = false := by simp [hu, hw]
  simp only [tbSeal, sealRows, onRound_of_open hx, hx, hready, hc, poolsFit_iff.mp hp, Bool.false_eq_true, if_false]

theorem cpSeal_passes (hx : s.ver.round = some x) (hu : x.unsealed 5 = false) (hw : cpWritten x = true) (hc : cpFirst x.objs = none)
    (hp : poolsExceeded x s = false) : cpSeal c s = sealRows c 3 s := by
  have hready : (x.unsealed 5 || !cpWritten x) = false := by simp [hu, hw]
  simp only [cpSeal, sealRows, onRound_of_open hx, hx, hready, hc, hp, Bool.false_eq_true, if_false]

theorem scSeal_passes (hx : s.ver.round = some x) (hu : x.unsealed 4 = false) (hc : scFirst s x.objs = none) :
    scSeal c s = sealRows c 4 s := by
  simp only [scSeal, sealRows, onRound_of_open hx, hx, hu, hc, Bool.false_eq_true, if_false]

/-! ### The command that makes the call -/

/-- A seal without payload that finds its conditions met completes with its group sealed (R437, R438). -/
theorem mbxRow_seals (ho : opSince op = some since) (hs : since ≠ 0) (ha : accepted op since r s = true) (hx : s.ver.round = some x)
    (hp : r.payload = []) (hh : h (callOf r s) (busy op r s) = sealRows (callOf r s) g (busy op r s)) :
    .next (mbxRow op h r s) = okNext op r [] (setRound (x.seal g)) s :=
  mbxRow_stages ho hs ha hx hh (by simp [hp, noRound_of_open hx])

end SealRules

/-- Settles O11: each handler passes its checks of the round, which taking the command leaves open, and seals its group. -/
theorem sealsMarkTheirGroup : Obligations.SealsMarkTheirGroup := by
  unfold Obligations.SealsMarkTheirGroup
  refine ⟨?graph, ?rules, ?plan, ?ensembles, ?contexts⟩
  case graph =>
    intro r s x ha hx hp hs hw hc
    exact mbxRow_seals (by decide) (by decide) ha hx hp (pgSeal_passes hx hs hw hc)
  case rules =>
    intro r s x ha hx hp hu hw hc hb
    exact mbxRow_seals (by decide) (by decide) ha hx hp (rcSeal_passes hx hu hw hc hb)
  case plan =>
    intro r s x ha hx hp hu hw hc hfit
    exact mbxRow_seals (by decide) (by decide) ha hx hp (tbSeal_passes hx hu hw hc hfit)
  case ensembles =>
    intro r s x ha hx hp hu hw hc hpool
    exact mbxRow_seals (by decide) (by decide) ha hx hp (cpSeal_passes hx hu hw hc hpool)
  case contexts =>
    intro r s x ha hx hp hu hc
    exact mbxRow_seals (by decide) (by decide) ha hx hp (scSeal_passes hx hu hc)

end Sys2Proof.Machine
end

section
/-! PROOFS. The registers of table units (R148, R149): a write of GO to an idle unit takes the operation, a write to a BUSY unit touches
its marks alone, and completion publishes what the operation left; O20. -/

namespace Sys2Proof.Machine
open Sys2Proof

section TableUnits
variable {op u off v : Nat} {s : State} {r : TblRes}

/-- A write to a BUSY unit clears DONE and COLLIDE as it says at the status register, and sets COLLIDE anywhere else. -/
theorem tblWrite_to_busy (hb : (tunit s u).busy = true) : tblWrite u off v s = setTunit u (if off = 4
    then { tunit s u with done := (tunit s u).done && !bit v 1, collide := (tunit s u).collide && !bit v 2 }
    else { tunit s u with collide := true }) s := by
  by_cases hoff : off = 4
  · simp only [tblWrite, if_pos hoff]
  · simp only [tblWrite, if_neg hoff, if_pos hb]

/-- A write of GO to the control register of an idle unit takes the operation, whatever it is. -/
theorem tblWrite_go (hgo : bit v 31 = true) (hb : (tunit s u).busy = false) : tblWrite u 0 v s = tblTaken u v s := by
  have hnot4 : (0 : Nat) ≠ 4 := by decide
  simp only [tblWrite, if_neg hnot4, hb, hgo, Bool.not_true, Bool.false_eq_true, if_false, if_true]
  rfl

/-- The row of operation `op` is that write where the value names `op`. -/
theorem tblGo_idle (hu : u < 4) (hgo : bit v 31 = true) (hb : (tunit s u).busy = false) (hop : v % 16 = op) :
    tblGo op u v s = tblTaken u v s := by
  have hrow : (u < 4 && bit v 31 && v % 16 == op) = true := by simp [hu, hgo, hop]
  rw [tblGo, if_pos hrow, tblWrite_go hgo hb]

theorem tblComplete_of_run (hb : (tunit s u).busy = true) (hr : (tunit s u).run = some r) :
    tblComplete u s = setTunit u { tunit s u with
      busy := false, done := true, status := r.status, detail := r.detail % 2 ^ 32, data := r.data.getD (tunit s u).data, run := none } s := by
  simp only [tblComplete, hb, hr]

theorem exec_tblCmdComplete (hf : frozen s = false) : exec (.tblCmdComplete u) s = .next (tblComplete u s) := by
  simp [exec, execTblCmdComplete, hf]

theorem exec_tblRegCollide (hu : u < 4) (hb : (tunit s u).busy = true) :
    exec (.tblRegCollide u off v) s = .next (tblWrite u off v s) := by
  simp [exec, execTblRegCollide, hu, hb]

end TableUnits

/-- Settles O20: each operation's row is a write of GO, a collision a write to a BUSY unit, and completion publishes the kept result. -/
theorem tableCommandsStart : Obligations.TableCommandsStart := by
  unfold Obligations.TableCommandsStart
  refine ⟨?start, ?complete, ?collide⟩
  case start =>
    intro u v s hu hgo hb
    have hrow : ∀ op, v % 16 = op → (.next (tblGo op u v s) : Host.Outcome State Fault Refusal) = .next (tblTaken u v s) :=
      fun _ hop => congrArg _ (tblGo_idle hu hgo hb hop)
    exact ⟨hrow 1, hrow 2, hrow 3, hrow 4, hrow 5, hrow 6⟩
  case complete =>
    intro u s r hf hb hr
    rw [exec_tblCmdComplete hf, tblComplete_of_run hb hr]
  case collide =>
    intro u off v s hu hb
    rw [exec_tblRegCollide hu hb, tblWrite_to_busy hb]

end Sys2Proof.Machine
end

section
/-! PROOFS. Compass jobs (R177, R179, R181, R283): a die's queue, the block that a unit evaluates of the job in service, and what a
block leaves behind besides, which no queue sees. -/

namespace Sys2Proof.Machine
open Sys2Proof

/-! ### A die's queue -/

section Queues
variable {s : State} {d : Nat} {j k : CJobSt} {l : List CJobSt}

theorem cjobsOf_setCjobs (h : l ≠ []) : cjobsOf (setCjobs d l s) d = l := by
  simp [cjobsOf, setCjobs, msetD, h]

theorem mem_insertCjob_self (j : CJobSt) (l : List CJobSt) : j ∈ insertCjob j l := by
  induction l with
  | nil => exact List.mem_cons_self
  | cons a r ih =>
    unfold insertCjob
    split
    · exact List.mem_cons_self
    · exact List.mem_cons_of_mem _ ih

theorem mem_cjobsOf_of_served (h : servedCjob s d = some j) : j ∈ cjobsOf s d := by
  unfold servedCjob at h
  split at h
  case h_1 i hi => exact Option.some.inj h ▸ List.mem_of_find?_eq_some hi
  case h_2 => exact List.mem_of_find?_eq_some h

/-- `k` stands where the job `j` stood in the queue of die `d`. -/
def replaceCjob (d : Nat) (j k : CJobSt) (s : State) : State :=
  setCjobs d ((cjobsOf s d).map fun i => if i.id = j.id ∧ i.core = j.core then k else i) s

theorem mem_cjobsOf_replaceCjob (h : j ∈ cjobsOf s d) : k ∈ cjobsOf (replaceCjob d j k s) d := by
  have hk : k ∈ (cjobsOf s d).map fun i => if i.id = j.id ∧ i.core = j.core then k else i := List.mem_map.mpr ⟨j, h, by simp⟩
  rw [replaceCjob, cjobsOf_setCjobs (List.ne_nil_of_mem hk)]
  exact hk

theorem cjobsOf_congr {t : State} (h : t.cjobs = s.cjobs) : cjobsOf t d = cjobsOf s d := by unfold cjobsOf; rw [h]

end Queues

/-! ### What a block leaves behind it (R174, R175, R177) -/

/-- From `s` to `t` only counters, fault records, sessions, retirements, failed entries and the units' cycles changed. -/
def OnlyReports (s t : State) : Prop :=
  t = { s with ctrs := t.ctrs, ovf := t.ovf, flt := t.flt, helm := t.helm, nv := t.nv, failed := t.failed, evals := t.evals }

namespace OnlyReports
variable {s t u : State}

theorem refl (s : State) : OnlyReports s s := rfl

theorem cjobs (h : OnlyReports s t) : t.cjobs = s.cjobs := by
  unfold OnlyReports at h
  rw [h]

theorem mem (h : OnlyReports s t) : t.mem = s.mem := by
  unfold OnlyReports at h
  rw [h]

/-- A further step that changes only these, too. -/
theorem aside (h : OnlyReports s t) (hu : OnlyReports t u := by rfl) : OnlyReports s u := by
  unfold OnlyReports at h
  exact Eq.trans hu (by rw [h])

theorem ite {c : Prop} [Decidable c] (ht : OnlyReports s t) (hu : OnlyReports s u) : OnlyReports s (if c then t else u) := by
  split
  · exact ht
  · exact hu

theorem foldl {ι : Type} {f : State → ι → State} (hf : ∀ t x, OnlyReports s t → OnlyReports s (f t x)) (l : List ι)
    (h : OnlyReports s t) : OnlyReports s (l.foldl f t) :=
  List.foldlRecOn (motive := OnlyReports s) l f h fun t ht x _ => hf t x ht

section Reports
variable (h : OnlyReports s t)
include h

theorem perf (off n : Nat) : OnlyReports s (perf off n t) := h.aside
theorem errc (off v b n : Nat) : OnlyReports s (errc off v b n t) := by
  unfold Machine.errc
  dsimp only
  exact ite h.aside h.aside

theorem queueEvent (e : Event) (i : Nat) : OnlyReports s (queueEvent e i t) := by
  unfold Machine.queueEvent
  exact ite h.aside (.errc h.aside ..)

theorem sendEvent (type cls : Nat) (body : Bytes) : OnlyReports s (sendEvent type cls body t) :=
  foldl (fun _ _ h => ite (h.queueEvent ..) h) _ h

theorem writeFault (f : FltRec) : OnlyReports s (writeFault f t) := by
  unfold Machine.writeFault
  dsimp only
  exact .sendEvent (ite (.errc h.aside ..) h.aside) ..

theorem openPeriod (f : FltRec) (limit : Nat) : OnlyReports s (openPeriod f limit t) := h.aside

theorem endPeriod (code chan : Nat) : OnlyReports s (endPeriod code chan t) := by
  unfold Machine.endPeriod
  split
  · exact h
  · exact ite h.aside (.openPeriod (.writeFault h.aside ..) ..)

theorem raiseLim (limit : Nat) (f : FltRec) : OnlyReports s (raiseLim limit f t) := by
  unfold Machine.raiseLim
  extract_lets c f' s1 src s2 k s3
  have h2 : OnlyReports s s2 := .aside (h.errc ..)
  have h3 : OnlyReports s s3 := by
    unfold s3
    split
    · exact ite (h2.endPeriod ..) h2
    · exact h2
  split
  · exact h3.aside
  · exact .openPeriod (h3.writeFault ..) ..

theorem cmpEvent (u : Nat) : OnlyReports s (cmpEvent u t).2 := by
  unfold Machine.cmpEvent Machine.channelEvent
  dsimp only
  split
  · exact h
  · split
    · exact h
    · exact h.aside

theorem retireCmp (u : Nat) : OnlyReports s (retireCmp u t) := .raiseLim h.aside ..

theorem cmpParity (u version : Nat) (r : PRef) : OnlyReports s (cmpParity u version r t) := by
  unfold Machine.cmpParity
  extract_lets t1 t2
  have h1 : OnlyReports s t1 := h.errc ..
  refine ite h1 ?_
  have hraised : ∀ f, OnlyReports s (raiseF f (Machine.cmpEvent u t2).2) := fun f => .raiseLim (.cmpEvent h1.aside u) ..
  exact ite (.retireCmp (hraised _) u) (hraised _)

theorem treeBad (u version ens b k : Nat) : OnlyReports s (treeBad u version ens b k t) := by
  unfold Machine.treeBad
  extract_lets m r t1 t2 key src t3
  have h2 : OnlyReports s t2 := .errc (ite h h.aside) ..
  have hraised : ∀ f, OnlyReports s (Machine.raiseLim 0 f (Machine.cmpEvent u t3).2) := fun f => .raiseLim (.cmpEvent h2.aside u) ..
  exact ite h2 (ite (.retireCmp (hraised _) u) (hraised _))

theorem noteBlock (u version ens b : Nat) (o : BlockOut) : OnlyReports s (noteBlock u version ens b o t) := by
  unfold Machine.noteBlock
  have hparity := foldl (fun _ r h => h.cmpParity u version r) o.parity h
  have htrees := foldl (fun _ k h => h.treeBad u version ens b k) o.malformed hparity
  exact ite (htrees.errc ..) htrees

theorem entered (u o : Nat) : OnlyReports s (entered u o t) := .perf h.aside ..

end Reports
end OnlyReports

/-! ### A block of the job in service (R177, R180, R181) -/

theorem devWrite_cjobs (a : Nat) (b : Bytes) (s : State) : (devWrite a b s).cjobs = s.cjobs := by
  unfold devWrite
  split
  · rfl
  · dsimp only
    split
    · split <;> rfl
    · rfl
  · rfl

/-- The ensemble that the job `j` runs. -/
def jobEnsemble (s : State) (j : CJobSt) : Mem := imgMem (objsOf s j.version) (oidEns j.ens)
/-- The job with the codes of its sample read, where its first block is next. -/
def sampleRead (s : State) (j : CJobSt) : CJobSt :=
  if j.blk = 0 then { j with
    codes := (List.range (ensFeatures (jobEnsemble s j))).map fun i =>
      leAt (devBytes s (j.inAddr + j.sample * j.stride) (2 * ensFeatures (jobEnsemble s j))) (2 * i) 2,
    sums := initSums (jobEnsemble s j), flags := 0 }
  else j
/-- What the next block of the job comes to on unit `u`. -/
def jobBlockOut (u : Nat) (pf : List PRef) (bad : List Nat) (s : State) (j : CJobSt) : BlockOut :=
  let i := sampleRead s j
  evalBlock (jobEnsemble s j) i.ens i.blk i.codes i.sums (readsBad s (2 + u) i.version pf)
    (brokenTrees s u i.version i.ens (jobEnsemble s j) i.blk bad)
/-- The job with that block behind it. -/
def blockDone (j : CJobSt) (r : BlockOut) : CJobSt :=
  { j with blk := j.blk + 1, sums := r.sums, flags := j.flags ||| b2n r.sat ||| 2 * b2n (!r.malformed.isEmpty) ||| 4 * b2n (!r.parity.isEmpty) }
/-- The job with all blocks of its sample behind it. -/
def sampleDone (j : CJobSt) : CJobSt := { j with blk := 0, sample := j.sample + 1, finished := decide (j.sample + 1 = j.samples) }
/-- The state once unit `u` has noted the block `r` of the job `i`. -/
def blockNoted (u : Nat) (s : State) (i : CJobSt) (r : BlockOut) : State :=
  entered u 8 (noteBlock u i.version i.ens i.blk { r with sat := r.sat && !bit i.flags 0 } s)

section Evaluation
variable {u a : Nat} {pf : List PRef} {bad : List Nat} {s : State} {j : CJobSt}

theorem sampleRead_keeps : (sampleRead s j).id = j.id ∧ (sampleRead s j).core = j.core ∧ (sampleRead s j).blk = j.blk ∧
    (sampleRead s j).sample = j.sample ∧ (sampleRead s j).samples = j.samples := by
  unfold sampleRead
  split <;> exact ⟨rfl, rfl, rfl, rfl, rfl⟩

theorem blockNoted_cjobs (i : CJobSt) (r : BlockOut) : (blockNoted u s i r).cjobs = s.cjobs :=
  (((OnlyReports.refl s).noteBlock ..).entered ..).cjobs

/-- Slices go first: a re-entry that is due on the unit, or a new one that waits for the die's arbiter. -/
theorem exec_jobBlock_waits (h : reentryDue s u = true ∨ sliceWaits s (u / 16) = true) :
    exec (.compassBlockEval u .job pf bad) s = .next s := by
  have hwait : (!cmpRuns s u || reentryDue s u || sliceWaits s (u / 16)) = true := by rcases h with h | h <;> simp [h]
  simp only [exec, execCompassBlockEval, jobBlock, hwait, if_true]
  cases frozen s <;> cases servedCjob s (u / 16) <;> rfl

/-- What takes the place of the job in service stands in the die's queue, whatever else has changed since. -/
theorem mem_cjobsOf_evaluated {d : Nat} {k : CJobSt} {t : State} (hj : servedCjob s d = some j) (ht : t.cjobs = s.cjobs) :
    k ∈ cjobsOf (replaceCjob d j k t) d :=
  mem_cjobsOf_replaceCjob (cjobsOf_congr ht ▸ mem_cjobsOf_of_served hj)

section Serving
variable (hf : frozen s = false) (hj : servedCjob s (u / 16) = some j) (hr : cmpRuns s u = true) (he : reentryDue s u = false)
  (hw : sliceWaits s (u / 16) = false) (hout : hbmHeld s (j.outAddr + j.sample * recSize j) (recSize j) = false)
include hf hj hr he hw hout

/-- Poison in the input of a sample ends the job as FAULTED. -/
theorem exec_jobBlock_poisoned (hb : j.blk = 0)
    (hin : hbmHeld s (j.inAddr + j.sample * j.stride) (2 * ensFeatures (jobEnsemble s j)) = false)
    (ha : firstPoison s (j.inAddr + j.sample * j.stride) (2 * ensFeatures (jobEnsemble s j)) = some a) :
    exec (.compassBlockEval u .job pf bad) s = .next (replaceCjob (u / 16) j { j with status := 12, finished := true } (poisonRead a s)) := by
  unfold jobEnsemble at hin ha
  simp [exec, execCompassBlockEval, jobBlock, replaceCjob, hf, hj, hr, he, hw, hout, hb, hin, ha]

/-- A block is evaluated; after the last one of a sample its record is written. -/
theorem exec_jobBlock_evaluates (hin : j.blk = 0 →
      hbmHeld s (j.inAddr + j.sample * j.stride) (2 * ensFeatures (jobEnsemble s j)) = false ∧
      firstPoison s (j.inAddr + j.sample * j.stride) (2 * ensFeatures (jobEnsemble s j)) = none) :
    exec (.compassBlockEval u .job pf bad) s = .next (
      let i := sampleRead s j
      let r := jobBlockOut u pf bad s j
      let k := blockDone i r
      if k.blk < ensBlocks (jobEnsemble s j) then replaceCjob (u / 16) j k (blockNoted u s i r)
      else replaceCjob (u / 16) j (sampleDone k) (devWrite (k.outAddr + k.sample * recSize k)
        (jobRecord k (ensLink (jobEnsemble s j)) (ensK (jobEnsemble s j))) (blockNoted u s i r))) := by
  have hheld : (decide (j.blk = 0) && hbmHeld s (j.inAddr + j.sample * j.stride) (2 * ensFeatures (jobEnsemble s j))) = false := by
    by_cases hb : j.blk = 0
    · simp [hb, (hin hb).1]
    · simp [hb]
  have hclean : (if j.blk = 0 then firstPoison s (j.inAddr + j.sample * j.stride) (2 * ensFeatures (jobEnsemble s j)) else none) = none := by
    split
    next hb => exact (hin hb).2
    next => rfl
  unfold jobEnsemble at hheld hclean
  simp only [exec, execCompassBlockEval, jobBlock, hf, hj, hr, he, hw, hout, hheld, hclean]
  rfl

/-- The job in the queue is one block further, or has its next sample before it; its last sample finishes it. -/
theorem jobBlock_advances (hin : j.blk = 0 →
      hbmHeld s (j.inAddr + j.sample * j.stride) (2 * ensFeatures (jobEnsemble s j)) = false ∧
      firstPoison s (j.inAddr + j.sample * j.stride) (2 * ensFeatures (jobEnsemble s j)) = none) :
    ∃ t y, exec (.compassBlockEval u .job pf bad) s = .next t ∧ y ∈ cjobsOf t (u / 16) ∧ y.id = j.id ∧ y.core = j.core ∧
      (j.blk + 1 < ensBlocks (jobEnsemble s j) → y.blk = j.blk + 1 ∧ y.sample = j.sample) ∧
      (ensBlocks (jobEnsemble s j) ≤ j.blk + 1 → y.blk = 0 ∧ y.sample = j.sample + 1 ∧
        (y.finished = true ↔ j.sample + 1 = j.samples)) := by
  obtain ⟨hid, hcore, hblk, hsample, hsamples⟩ := sampleRead_keeps (s := s) (j := j)
  have hexec := exec_jobBlock_evaluates (pf := pf) (bad := bad) hf hj hr he hw hout hin
  dsimp only at hexec
  have hnext : (blockDone (sampleRead s j) (jobBlockOut u pf bad s j)).blk = j.blk + 1 := congrArg (· + 1) hblk
  rw [hnext] at hexec
  by_cases hmore : j.blk + 1 < ensBlocks (jobEnsemble s j)
  · rw [if_pos hmore] at hexec
    exact ⟨_, _, hexec, mem_cjobsOf_evaluated hj (blockNoted_cjobs ..), hid, hcore, fun _ => ⟨hnext, hsample⟩,
      fun hlast => absurd hmore (not_lt.mpr hlast)⟩
  · rw [if_neg hmore] at hexec
    refine ⟨_, _, hexec, mem_cjobsOf_evaluated hj ((devWrite_cjobs ..).trans (blockNoted_cjobs ..)), hid, hcore,
      fun h => absurd h hmore, fun _ => ⟨rfl, congrArg (· + 1) hsample, ?_⟩⟩
    simp [sampleDone, blockDone, hsample, hsamples]

end Serving
end Evaluation

/-! ### Submission and completion (R179, R181, R283, R355) -/

/-- The job that the CJOB `e` of core `p` submits with the descriptor `b`. -/
def submittedCjob (s : State) (p : Nat) (e : EI) (b : Bytes) : CJobSt :=
  let st := cjobStatus s b (jobVersion s p)
  { id := e.ord, core := p, prio := match jobOf s p with | some j => bits (u8 j.desc 12) 2 0 | none => 0,
    version := jobVersion s p, ens := u8 b 0, sumsOut := bit (u8 b 2) 0, samples := leAt b 4 4, inAddr := leAt b 8 8,
    outAddr := leAt b 16 8, stride := leAt b 24 2, status := st, finished := st != 0 }
/-- A job rejected on die `d` is counted there. -/
def rejectionCounted (d st : Nat) (s : State) : State := if st = 0 then s else errc (cmpDie d + 0x0C) (cmpDie d + 0x10) 1 1 s

section Submission
variable {p d : Nat} {e : EI} {s : State} {b : Bytes} {j : CJobSt}

theorem rejectionCounted_onlyReports (d st : Nat) : OnlyReports s (rejectionCounted d st s) :=
  .ite (.refl s) (.errc (.refl s) ..)

theorem exec_cjob_poisoned (he : atEngine s p 14 6 1 e = true) (hb : localPoison s p (bits e.w 111 91 * 32) 32 = true) :
    exec (.cjob p) s = .next (refuseEi p 14 e s) := by
  simp only [exec, execCjob, engStep_atEngine he, hb, if_true]

theorem exec_cjob_queues (he : atEngine s p 14 6 1 e = true) (hb : b = localBytes s p (bits e.w 111 91 * 32) 32)
    (hp : localPoison s p (bits e.w 111 91 * 32) 32 = false) : exec (.cjob p) s = .next (
      let t := rejectionCounted e.chip (cjobStatus s b (jobVersion s p)) s
      putRun p 14 { e with ph := 2 } (setCjobs e.chip (insertCjob (submittedCjob s p e b) (cjobsOf t e.chip)) t)) := by
  subst hb
  simp only [exec, execCjob, engStep_atEngine he, hp]
  rfl

theorem exec_compassJobComplete_of_found (hf : frozen s = false) (hj : (cjobsOf s d).find? (·.finished) = some j)
    (he : (runAt (core s j.core) 14).find? (fun e => e.ord == j.id && e.ph == 2) = some e) : exec (.compassJobComplete d) s = .next (
      let t := setCjobs d ((cjobsOf s d).filter fun i => !(i.id == j.id && i.core == j.core)) s
      let t := if j.status = 0 then perf (cmpDie d) 1 t else t
      util j.core 0x238 j.sample (doneEi j.core 14 e (setCore j.core (if bits e.w 90 87 = 0 then core s j.core
        else writeK (bits e.w 90 87) (j.status + 65536 * j.sample) (core s j.core)) t))) := by
  have hcore : ∀ l, core (if j.status = 0 then perf (cmpDie d) 1 (setCjobs d l s) else setCjobs d l s) j.core = core s j.core := by
    intro l
    split <;> rfl
  simp [exec, execCompassJobComplete, hf, hj, hcore, he]

end Submission
end Sys2Proof.Machine
end

section
/-! PROOFS. DMA, the queue marker, marks and dumps (R281, R284, R310, R355, R403, R530, R532, R533); with the compass jobs, O41. -/

namespace Sys2Proof.Machine
open Sys2Proof

section TransferRules
variable {p q i a : Nat} {e : EI} {s : State} {d : Bytes} {b : Bool}

/-! ### DCOPY: a copy in place or to another chip (R281, R403) -/

section Dcopy
variable (he : atEngine s p 12 4 1 e = true) (hd : d = localBytes s p (bits e.w 111 91 * 32) 32)
  (hb : (bit e.w 112 && leAt d 22 2 != chipId s) = b)
include he

theorem exec_dcopy_poisoned (hp : localPoison s p (bits e.w 111 91 * 32) 32 = true) :
    exec (.dcopy p) s = .next (refuseEi p 12 e s) := by
  simp only [exec, execDcopy, engStep_atEngine he, hp, if_true]

include hd hb

theorem exec_dcopy_illegal (hp : localPoison s p (bits e.w 111 91 * 32) 32 = false) (hok : copyOk s e.w b d = false) :
    exec (.dcopy p) s = .next (illegalEi p 12 e s) := by
  subst hd
  simp [exec, execDcopy, engStep_atEngine he, hp, hb, hok]

section Readable
variable (hp : localPoison s p (bits e.w 111 91 * 32) 32 = false) (hok : copyOk s e.w b d = true)
  (hh : ∀ x ∈ copyPieces e.w d, hbmHeld s x.1 x.2.1 = false ∧ (b = false → hbmHeld s x.2.2 x.2.1 = false))
include hp hok hh

/-- What a legal copy whose stacks all answer does: it reads every piece before it writes or sends one. -/
theorem exec_dcopy_legal : exec (.dcopy p) s = .next (
    ((copyPieces e.w d).findSome? fun x => firstPoison s x.1 x.2.1).elim
      (if b = false then util p 0x228 (((copyPieces e.w d).map (·.2.1)).foldl (· + ·) 0) (doneEi p 12 e
          (((copyPieces e.w d).map fun x => (x.2.2, devBytes s x.1 x.2.1)).foldl (fun s x => devWrite x.1 x.2 s) s))
        else if s.chip.isNone || routeLost s (leAt d 22 2) then refuseEi p 12 e s
        else
          let f := { e with
            ph := 2, sent := now s, chip := leAt d 22 2, wid := ((jobOf s p).map (·.wid)).getD 0, ver := newestNum s }
          util p 0x228 (((copyPieces e.w d).map (·.2.1)).foldl (· + ·) 0) (putRun p 12 f (sendCopy p f (jobOf s p) d s)))
      fun a => refuseEi p 12 e (poisonRead a s)) := by
  have hheld : ((copyPieces e.w d).any fun x => hbmHeld s x.1 x.2.1 || (!b && hbmHeld s x.2.2 x.2.1)) = false := by
    refine List.any_eq_false.mpr fun x hx => ?_
    obtain ⟨hsrc, hdst⟩ := hh x hx
    cases b
    · simp [hsrc, hdst rfl]
    · simp [hsrc]
  subst hd
  simp only [exec, execDcopy, engStep_atEngine he, hp, hb, hok, hheld]
  cases (copyPieces e.w (localBytes s p (bits e.w 111 91 * 32) 32)).findSome? fun x => firstPoison s x.1 x.2.1
  case none => cases b <;> rfl
  case some a => rfl

theorem exec_dcopy_poisonedData (ha : ((copyPieces e.w d).findSome? fun x => firstPoison s x.1 x.2.1) = some a) :
    exec (.dcopy p) s = .next (refuseEi p 12 e (poisonRead a s)) := by
  rw [exec_dcopy_legal he hd hb hp hok hh, ha]
  rfl

end Readable
end Dcopy

theorem findSome_poison_none (h : ∀ x ∈ copyPieces e.w d, firstPoison s x.1 x.2.1 = none) :
    ((copyPieces e.w d).findSome? fun x => firstPoison s x.1 x.2.1) = none := List.findSome?_eq_none_iff.mpr h

/-! ### DJOB: a job of the current version (R281, R310, R440) -/

@[simp] theorem newTag_chipId (unit kind dest wid version deadline prio dl : Nat) (lateOk retry : Bool) :
    chipId (newTag unit kind dest wid version deadline prio dl lateOk retry s).2 = chipId s := rfl
@[simp] theorem newTag_away (unit kind dest wid version deadline prio dl : Nat) (lateOk retry : Bool) :
    (newTag unit kind dest wid version deadline prio dl lateOk retry s).2.away = s.away := rfl

section Djob
variable (he : atEngine s p 12 4 2 e = true)
include he

theorem exec_djob_poisoned (hp : localPoison s p (bits e.w 111 91 * 32) 64 = true) :
    exec (.djob ⟨p, none⟩) s = .next (refuseEi p 12 e s) := by
  simp only [exec, execDjob, sendDjob, engStep_atEngine he, hp, if_true]

variable (hd : d = localBytes s p (bits e.w 111 91 * 32) 64) (hp : localPoison s p (bits e.w 111 91 * 32) 64 = false)
include hd hp

theorem exec_djob_illegal (hok : djobOk d = false) : exec (.djob ⟨p, none⟩) s = .next (illegalEi p 12 e s) := by
  subst hd
  simp [exec, execDjob, sendDjob, engStep_atEngine he, hp, hok]

theorem exec_djob_sends {dest : Nat} (hdest : dest = if bit (u8 d 13) 0 then leAt d 14 2 else chipId s) (hok : djobOk d = true) :
    exec (.djob ⟨p, none⟩) s = .next (
      let x := newTag p 2 dest (leAt d 4 4) (newestNum s) (if leAt d 8 4 = 0 then 0xFFFFFFFF else deadlineOf (now s + leAt d 8 4))
        (bits (u8 d 12) 2 0) (bits (u8 d 12) 5 3) (bit (u8 d 12) 6) e.region s
      let t := if dest = chipId s ∨ leAt d 30 2 = 0 then x.2 else { x.2 with away := s.away ++ [(leAt d 4 4, dest, newestNum s)] }
      putRun p 12 { e with ph := 2, chip := dest, wid := leAt d 4 4, ver := newestNum s } (sendTag dest x.1 d t)) := by
  subst hd
  simp only [exec, execDjob, sendDjob, engStep_atEngine he, hp, hok, ← hdest, newTag_chipId, newTag_away, Bool.or_eq_true,
    decide_eq_true_eq]
  rfl

end Djob

theorem exec_djob_accepted {st : Nat} (hc : coreOn s p = true) (hst : acceptStatus st = true)
    (he : (waitingDjobs s p).find? (fun x => x.chip != chipId s) = some e) :
    exec (.djob ⟨p, some st⟩) s = .next (acceptDjob p e st (if st = 0 then s else dropAway e.chip e.wid s)) := by
  simp [exec, execDjob, hc, hst, he]

/-! ### QWAIT and TMARK (R284) -/

theorem exec_qwait (he : atEngine s p q 7 1 e = true) : exec (.qwait p q) s = .next (doneEi p q e s) := by
  simp only [exec, execQwait, engDone_atEngine he]

/-- A QWAIT is released only when nothing decoded before it is left in the queues that it names. -/
theorem earlierLive_of_passes (h : passes s p q e = true) (hc : eiClass e.w = 7) (ho : eiOp e.w = 1) :
    earlierLive (core s p) (bits e.w 107 93) e.ord = false := by
  have hready : classReady s p e = true := by
    simp only [passes, Bool.and_eq_true] at h
    exact h.1.2
  simpa [classReady, hc, ho] using hready

theorem exec_tmark (he : atEngine s p q 7 2 e = true) : exec (.tmark p q) s = .next (doneEi p q e
    (coreLog p 1 (le 4 (bits e.w 107 76) ++ le 4 (core s p).step ++ le 2 e.pc) s)) := by
  simp only [exec, execTmark, engDone_atEngine he]

/-! ### DUMP and the copy of its entry (R530, R532, R533) -/

section Dump
variable (he : atEngine s p q 7 3 e = true)
include he

theorem exec_dump_unarmed (hn : dumpSlot (core s p) (bits e.w 107 76) = none) : exec (.dump p q) s = .next (doneEi p q e s) := by
  simp only [exec, execDump, engStep_atEngine he, hn]

variable {x : DumpSlot} (hx : dumpSlot (core s p) (bits e.w 107 76) = some (i, x))
include hx

theorem exec_dump_waits (hc : (core s p).dumping ≠ []) : exec (.dump p q) s = .next s := by
  simp [exec, execDump, engStep_atEngine he, hx, hc]

theorem exec_dump_illegal (hc : (core s p).dumping = []) (hl : localIn (bits e.w 75 55 * 32) (bits e.w 54 39 * 32) = false) :
    exec (.dump p q) s = .next (illegalEi p q e s) := by
  simp [exec, execDump, engStep_atEngine he, hx, hc, hl]

theorem exec_dump_fires (hc : (core s p).dumping = []) (hl : localIn (bits e.w 75 55 * 32) (bits e.w 54 39 * 32) = true)
    (hp : localPoison s p (bits e.w 75 55 * 32) (min (bits e.w 54 39 * 32) (x.bytes - 32)) = false) :
    exec (.dump p q) s = .next (doneEi p q e (fireDump p e i x s)) := by
  simp [exec, execDump, engStep_atEngine he, hx, hc, hl, hp]

end Dump

section DumpCopy
variable {x : DumpRun} {r : List DumpRun} {n : Nat}

/-- The copy that runs writes the `n` bytes that the caps let through, and goes on to the next part or ends. -/
theorem exec_dumpCopy_writes (hc : coreOn s p = true) (hx : (core s p).dumping = x :: r)
    (hfree : (core s p).dumpCyc = 0 ∨ (core s p).dumpCyc + 1023 ≤ ctr s (islCtr p))
    (hn : n = min (min (x.entry.length - x.pos) 41920) (obsRoom s ((x.addr + x.pos) / 0x3600000000) / 32 * 32)) (hn0 : n ≠ 0)
    (hh : hbmHeld s (x.addr + x.pos) n = false) : exec (.dumpCopy p) s = .next (
      let more := x.pos + n < x.entry.length
      let t := setCore p { core s p with
        dumping := if more then { x with pos := x.pos + n } :: r else r, dumpCyc := ctr s (islCtr p) + 1 }
        (obsWrite (x.addr + x.pos) (sub x.entry x.pos n) s)
      if more then t
      else
        let t := errc (baseObs + 0x10514) (baseObs + 0x10520) 1 1 t
        if x.trunc then errc (baseObs + 0x10518) (baseObs + 0x10520) 2 1 t else t) := by
  have hfree' : (decide ((core s p).dumpCyc = 0) || decide ((core s p).dumpCyc + 1023 ≤ ctr s (islCtr p))) = true := by simpa using hfree
  have hcap : 1310 * 32 = 41920 := rfl
  simp only [exec, execDumpCopy, hx, hfree', if_true, hcap, ← hn, hc, hn0, hh]
  rfl

end DumpCopy
end TransferRules

/-- Settles O41: the row of each instruction in each of its cases, and for a compass job the queue that the row leaves. -/
theorem transfersAndMarkersComplete : Obligations.TransfersAndMarkersComplete := by
  unfold Obligations.TransfersAndMarkersComplete
  refine ⟨?copyHere, ?copyAway, ?copyRefused, ?job, ?jobRefused, ?jobAccepted, ?cjob, ?cjobComplete, ?blockPoisoned, ?block, ?blockWaits,
    fun p q e s he => exec_qwait he, fun p q e s h hc ho => earlierLive_of_passes h hc ho, fun p q e s he => exec_tmark he,
    fun p q e s he hn => exec_dump_unarmed he hn, ?dump, ?dumpCopy⟩
  case copyHere =>
    intro p e s d he hd hown hp hok hh hclean
    have hb : (bit e.w 112 && leAt d 22 2 != chipId s) = false := by rcases hown with h | h <;> simp [h]
    rw [exec_dcopy_legal he hd hb hp hok fun x hx => (hh x hx).imp_right fun h _ => h, findSome_poison_none hclean]
    rfl
  case copyAway =>
    intro p e s d he hd hr hdest hp hok hh hclean
    have hb : (bit e.w 112 && leAt d 22 2 != chipId s) = true := by simp [hr, hdest]
    have hexec := exec_dcopy_legal he hd hb hp hok fun x hx => ⟨hh x hx, nofun⟩
    rw [findSome_poison_none hclean] at hexec
    refine ⟨fun hchip hroute f hf => ?_, fun hlost => ?_⟩
    · subst hf
      rw [hexec]
      simp [Option.isSome_iff_ne_none.mp hchip, hroute]
    · rw [hexec]
      rcases hlost with h | h <;> simp [h]
  case copyRefused =>
    rintro p e s d b he hd rfl
    exact ⟨exec_dcopy_poisoned he, exec_dcopy_illegal he hd rfl, fun a hp hok hh => exec_dcopy_poisonedData he hd rfl hp hok hh⟩
  case job => exact fun p e s d dest he hd hdest hp hok => exec_djob_sends he hd hp hdest hok
  case jobRefused => exact fun p e s d he hd => ⟨exec_djob_poisoned he, exec_djob_illegal he hd⟩
  case jobAccepted => exact fun p e s st hc hst he => exec_djob_accepted hc hst he
  case cjob =>
    intro p e s b he hb
    refine ⟨exec_cjob_poisoned he, fun hp => ⟨_, submittedCjob s p e b, exec_cjob_queues he hb hp, ?_, rfl, rfl, rfl, rfl, rfl, ?_⟩⟩
    · have hmem := mem_insertCjob_self (submittedCjob s p e b)
        (cjobsOf (rejectionCounted e.chip (cjobStatus s b (jobVersion s p)) s) e.chip)
      exact cjobsOf_setCjobs (List.ne_nil_of_mem hmem) ▸ hmem
    · exact (rejectionCounted_onlyReports ..).mem
  case cjobComplete => exact fun d s j e hf hj he => exec_compassJobComplete_of_found hf hj he
  case blockPoisoned =>
    exact fun u s j a pf bad hf hj hr he hw hb hin hout ha => exec_jobBlock_poisoned hf hj hr he hw hout hb hin ha
  case block => exact fun u s j pf bad hf hj hr he hw hin hout => jobBlock_advances hf hj hr he hw hout hin
  case blockWaits => exact fun u s pf bad h => exec_jobBlock_waits h
  case dump =>
    exact fun p q e s i x he hx => ⟨exec_dump_waits he hx, exec_dump_illegal he hx, exec_dump_fires he hx⟩
  case dumpCopy =>
    intro p s x r n hc hx hfree hn hn0 hh
    have hexec := exec_dumpCopy_writes hc hx hfree hn hn0 hh
    refine ⟨fun hmore => ?_, fun hend htrunc => ?_⟩
    · rw [hexec]
      simp only [hmore, if_true]
    · have hmore : ¬ x.pos + n < x.entry.length := by omega
      rw [hexec]
      simp [hmore, htrunc]

end Sys2Proof.Machine
end

section
/-! PROOFS. Accumulation in the cells of an array (R201, R208): the adds of a line, the cells of a problem, and what feeding them
changes; O59. -/

namespace Sys2Proof.Machine
open Sys2Proof

/-! ### Marks -/

@[simp] theorem mem_sadd {l : List Nat} {k j : Nat} : j ∈ sadd l k ↔ j = k ∨ j ∈ l := by
  induction l with
  | nil => simp [sadd]
  | cons i l ih =>
    unfold sadd
    split
    · simp
    · split
      · next hk => simp [hk]
      · simp [ih, or_left_comm]

/-! ### The adds of a line (R208) -/

theorem clampI_eq_max_min {lo hi : Int} (h : lo ≤ hi) (v : Int) : clampI lo hi v = max lo (min v hi) := by
  unfold clampI
  split
  · omega
  · split <;> omega

/-- One add of `accLine`: the value so far with whether an add clamped, and the product to add. -/
def accAdd (acc : Int × Bool) (q : Int × Int) : Int × Bool :=
  (clampI (-2 ^ 47) (2 ^ 47 - 1) (acc.1 + q.1 * q.2),
    acc.2 || decide (acc.1 + q.1 * q.2 < -2 ^ 47) || decide (2 ^ 47 - 1 < acc.1 + q.1 * q.2))

theorem accLine_eq (a w : List Int) (x : Int) : accLine a w x = (a.zip w).foldl accAdd (x, false) := rfl

/-- A clamp seen before the products of `l` changes none of their sums and is only kept. -/
theorem foldl_accAdd (l : List (Int × Int)) (v : Int) (b : Bool) :
    l.foldl accAdd (v, b) = ((l.foldl accAdd (v, false)).1, b || (l.foldl accAdd (v, false)).2) := by
  induction l generalizing v b with
  | nil => simp
  | cons q l ih =>
    simp only [List.foldl_cons, accAdd]
    rw [ih _ (b || _ || _), ih _ (false || _ || _)]
    simp [Bool.or_assoc]

theorem accLine_nil_left (w : List Int) (x : Int) : accLine [] w x = (x, false) := rfl
theorem accLine_nil_right (a : List Int) (x : Int) : accLine a [] x = (x, false) := by simp [accLine_eq]

theorem accLine_cons (a w : Int) (la lw : List Int) (x : Int) :
    accLine (a :: la) (w :: lw) x =
      ((accLine la lw (clampI (-2 ^ 47) (2 ^ 47 - 1) (x + a * w))).1,
       (decide (x + a * w < -2 ^ 47) || decide (2 ^ 47 - 1 < x + a * w)) ||
         (accLine la lw (clampI (-2 ^ 47) (2 ^ 47 - 1) (x + a * w))).2) := by
  simp only [accLine_eq, List.zip_cons_cons, List.foldl_cons, accAdd, Bool.false_or]
  exact foldl_accAdd ..

/-! ### One cell -/

/-- A cell with the two lines whose products it takes. -/
structure CellLines where
  cell : Nat
  edge : List Int
  weight : List Int

/-- What the products of its lines make of a cell. -/
def CellLines.result (q : CellLines) (x : Slot) : Int × Bool := accLine q.edge q.weight (mgetD x.acc q.cell 0)

/-- The slot with one cell fed. -/
def feedCell (x : Slot) (q : CellLines) : Slot :=
  { x with acc := msetD x.acc q.cell (q.result x).1 0, sat := if (q.result x).2 then sadd x.sat q.cell else x.sat,
           accSat := x.accSat || (q.result x).2 }

section OneCell
variable {x : Slot} {q r : CellLines} {c : Nat}

theorem feedCell_wf (h : mwf x.acc = true) : mwf (feedCell x q).acc = true := msetD_wf _ _ _ h
theorem feedCell_acc_same (h : mwf x.acc = true) : mgetD (feedCell x q).acc q.cell 0 = (q.result x).1 := mgetD_msetD_same _ _ _ h
theorem feedCell_acc_other (h : c ≠ q.cell) : mgetD (feedCell x q).acc c 0 = mgetD x.acc c 0 := mgetD_msetD_other _ _ _ h

theorem mem_feedCell_sat : c ∈ (feedCell x q).sat ↔ c ∈ x.sat ∨ c = q.cell ∧ (q.result x).2 = true := by
  simp only [feedCell]
  cases (q.result x).2 <;> simp [or_comm]

theorem feedCell_accSat : (feedCell x q).accSat = (x.accSat || (q.result x).2) := rfl

/-- A cell's result does not depend on the other cells fed before it. -/
theorem result_feedCell (h : r.cell ≠ q.cell) : r.result (feedCell x q) = r.result x := by
  simp only [CellLines.result, feedCell_acc_other h]

end OneCell

/-! ### Different cells one after another -/

section ManyCells
variable {l : List CellLines} {q : CellLines} {c : Nat}

theorem foldl_feedCell_acc_other (x : Slot) (h : ∀ r ∈ l, c ≠ r.cell) : mgetD (l.foldl feedCell x).acc c 0 = mgetD x.acc c 0 :=
  List.foldlRecOn (motive := fun y : Slot => mgetD y.acc c 0 = mgetD x.acc c 0) l _ rfl
    fun _ hy r hr => (feedCell_acc_other (h r hr)).trans hy

/-- Each cell of `l`, fed once, holds the result of its own lines. -/
theorem foldl_feedCell_acc (hl : l.Pairwise fun r q => q.cell ≠ r.cell) (x : Slot) (hx : mwf x.acc = true) (hq : q ∈ l) :
    mgetD (l.foldl feedCell x).acc q.cell 0 = (q.result x).1 := by
  induction l generalizing x with
  | nil => simp at hq
  | cons r l ih =>
    obtain ⟨hr, hl⟩ := List.pairwise_cons.mp hl
    rw [List.foldl_cons]
    rcases List.mem_cons.mp hq with rfl | hq
    · rw [foldl_feedCell_acc_other _ fun p hp => (hr p hp).symm, feedCell_acc_same hx]
    · rw [ih hl _ (feedCell_wf hx) hq, result_feedCell (hr q hq)]

/-- A cell is marked where it was, and where one of its adds clamped. -/
theorem mem_foldl_feedCell_sat (hl : l.Pairwise fun r q => q.cell ≠ r.cell) (x : Slot) :
    c ∈ (l.foldl feedCell x).sat ↔ c ∈ x.sat ∨ ∃ q ∈ l, c = q.cell ∧ (q.result x).2 = true := by
  induction l generalizing x with
  | nil => simp
  | cons r l ih =>
    obtain ⟨hr, hl⟩ := List.pairwise_cons.mp hl
    have hrest : (∃ q ∈ l, c = q.cell ∧ (q.result (feedCell x r)).2 = true) ↔ ∃ q ∈ l, c = q.cell ∧ (q.result x).2 = true :=
      exists_congr fun q => and_congr_right fun hq => by rw [result_feedCell (hr q hq)]
    rw [List.foldl_cons, ih hl, mem_feedCell_sat, hrest, or_assoc, List.exists_mem_cons_iff]

/-- ACC_SAT is set where it was, and where any add clamped. -/
theorem foldl_feedCell_accSat (hl : l.Pairwise fun r q => q.cell ≠ r.cell) (x : Slot) :
    (l.foldl feedCell x).accSat = true ↔ x.accSat = true ∨ ∃ q ∈ l, (q.result x).2 = true := by
  induction l generalizing x with
  | nil => simp
  | cons r l ih =>
    obtain ⟨hr, hl⟩ := List.pairwise_cons.mp hl
    have hrest : (∃ q ∈ l, (q.result (feedCell x r)).2 = true) ↔ ∃ q ∈ l, (q.result x).2 = true :=
      exists_congr fun q => and_congr_right fun hq => by rw [result_feedCell (hr q hq)]
    rw [List.foldl_cons, ih hl, feedCell_accSat, Bool.or_eq_true, hrest, or_assoc, List.exists_mem_cons_iff]

end ManyCells

/-! ### The cells of a problem (R201) -/

section Problem
variable {mode j k : Nat} {la lw : List (List Int)}

/-- The cells of a problem, row by row, each with its lines. -/
def problemCells (mode j : Nat) (la lw : List (List Int)) : List CellLines :=
  la.zipIdx.flatMap fun a => lw.zipIdx.map fun w => ⟨cellOf mode j a.2 w.2, a.1, w.1⟩

/-- The cell of row `i` and column `n`, with its lines. -/
def cellAt (mode j : Nat) (la lw : List (List Int)) (i n : Nat) : CellLines := ⟨cellOf mode j i n, la.getD i [], lw.getD n []⟩

theorem mem_zipIdx_iff_getD {α : Type} {l : List α} {d : α} {e : α × Nat} :
    e ∈ l.zipIdx ↔ e.2 < l.length ∧ e.1 = l.getD e.2 d := by
  rw [List.mem_zipIdx_iff_getElem?, List.getD_eq_getElem?_getD]
  constructor
  · intro h
    exact ⟨(List.getElem?_eq_some_iff.mp h).1, by simp [h]⟩
  · rintro ⟨h, he⟩
    simp [he, h]

theorem mem_problemCells {q : CellLines} :
    q ∈ problemCells mode j la lw ↔ ∃ i n, i < la.length ∧ n < lw.length ∧ q = cellAt mode j la lw i n := by
  simp only [problemCells, List.mem_flatMap, List.mem_map, mem_zipIdx_iff_getD (d := ([] : List Int)), Prod.exists, cellAt]
  constructor
  · rintro ⟨_, i, ⟨hi, rfl⟩, _, n, ⟨hn, rfl⟩, rfl⟩
    exact ⟨i, n, hi, hn, rfl⟩
  · rintro ⟨i, n, hi, hn, rfl⟩
    exact ⟨_, i, ⟨hi, rfl⟩, _, n, ⟨hn, rfl⟩, rfl⟩

/-- Within the limits of a mode, a cell belongs to one row and one column of a problem. -/
theorem cellOf_inj {i n i' n' : Nat} (hm : mode < 4) (hn : n < modeN mode) (hn' : n' < modeN mode)
    (h : cellOf mode j i n = cellOf mode j i' n') : i = i' ∧ n = n' := by
  match mode, hm with
  | 0, _ | 1, _ | 2, _ | 3, _ =>
    simp only [modeN, List.getD_cons_zero, List.getD_cons_succ] at hn hn'
    simp only [cellOf] at h
    omega

theorem problemCells_distinct (hm : mode < 4) (hw : lw.length ≤ modeN mode) :
    (problemCells mode j la lw).Pairwise fun r q => q.cell ≠ r.cell := by
  have hcol : ∀ w ∈ lw.zipIdx, w.2 < modeN mode := fun w h => (mem_zipIdx_iff_getD (d := []) |>.mp h).1.trans_le hw
  have hrising : ∀ l : List (List Int), l.zipIdx.Pairwise fun a b => a.2 < b.2 := fun l => by
    have h : (l.zipIdx.map Prod.snd).Pairwise (· < ·) := by
      rw [List.zipIdx_map_snd]; exact List.pairwise_lt_range'
    exact List.pairwise_map.mp h
  refine List.pairwise_flatMap.mpr ⟨fun a _ => List.pairwise_map.mpr ?_, (hrising la).imp ?_⟩
  · refine (hrising lw).imp_of_mem fun {w v} hwm hvm hlt heq => ?_
    exact hlt.ne' (cellOf_inj hm (hcol v hvm) (hcol w hwm) heq).2
  · intro a b hlt q hq r hr heq
    obtain ⟨w, hwm, rfl⟩ := List.mem_map.mp hq
    obtain ⟨v, hvm, rfl⟩ := List.mem_map.mp hr
    exact hlt.ne' (cellOf_inj hm (hcol v hvm) (hcol w hwm) heq).1

/-! ### Feeding a problem -/

/-- What R208 speaks of in a slot: the cells, their marks and ACC_SAT. -/
def Slot.accumulation (x : Slot) : Map Int × List Nat × Bool := (x.acc, x.sat, x.accSat)

theorem foldl_keeps_accumulation {β : Type} {l : List β} {f : Slot → β → Slot} {x : Slot}
    (h : ∀ y b, (f y b).accumulation = y.accumulation) : (l.foldl f x).accumulation = x.accumulation :=
  List.foldlRecOn (motive := fun y : Slot => y.accumulation = x.accumulation) l f rfl fun y hy b _ => (h y b).trans hy

/-- Only the first pass of `feedProblem` reaches the accumulation: the other two write the checksums. -/
theorem feedProblem_accumulation (x : Slot) :
    (feedProblem mode j k la lw x).accumulation = ((problemCells mode j la lw).foldl feedCell x).accumulation := by
  have hrows : (problemCells mode j la lw).foldl feedCell x =
      la.zipIdx.foldl (fun y a => lw.zipIdx.foldl (fun y w => feedCell y ⟨cellOf mode j a.2 w.2, a.1, w.1⟩) y) x := by
    simp only [problemCells, List.foldl_flatMap, List.foldl_map]
  rw [hrows]
  unfold feedProblem
  refine (foldl_keeps_accumulation ?column).trans (foldl_keeps_accumulation ?row)
  case column => exact fun _ _ => foldl_keeps_accumulation fun _ _ => rfl
  case row => exact fun _ _ => rfl

variable {x : Slot}

section Limits
variable (hm : mode < 4) (hw : lw.length ≤ modeN mode)
include hm hw

theorem feedProblem_acc (hx : mwf x.acc = true) {i n : Nat} (hi : i < la.length) (hn : n < lw.length) :
    mgetD (feedProblem mode j k la lw x).acc (cellOf mode j i n) 0 = ((cellAt mode j la lw i n).result x).1 := by
  have hacc : (feedProblem mode j k la lw x).acc = _ := congrArg Prod.fst (feedProblem_accumulation x)
  rw [hacc]
  exact foldl_feedCell_acc (problemCells_distinct hm hw) x hx (mem_problemCells.mpr ⟨i, n, hi, hn, rfl⟩)

theorem mem_feedProblem_sat {i n : Nat} (hi : i < la.length) (hn : n < lw.length) :
    cellOf mode j i n ∈ (feedProblem mode j k la lw x).sat ↔
      cellOf mode j i n ∈ x.sat ∨ ((cellAt mode j la lw i n).result x).2 = true := by
  have hsat : (feedProblem mode j k la lw x).sat = _ := congrArg (·.2.1) (feedProblem_accumulation x)
  rw [hsat, Slot.accumulation, mem_foldl_feedCell_sat (problemCells_distinct hm hw)]
  refine or_congr_right ⟨?_, fun h => ⟨_, mem_problemCells.mpr ⟨i, n, hi, hn, rfl⟩, rfl, h⟩⟩
  rintro ⟨q, hq, hcell, hclamped⟩
  obtain ⟨i', n', -, hn', rfl⟩ := mem_problemCells.mp hq
  obtain ⟨rfl, rfl⟩ := cellOf_inj hm (hn.trans_le hw) (hn'.trans_le hw) hcell
  exact hclamped

theorem feedProblem_accSat :
    (feedProblem mode j k la lw x).accSat = true ↔
      x.accSat = true ∨ ∃ i n, i < la.length ∧ n < lw.length ∧ ((cellAt mode j la lw i n).result x).2 = true := by
  have hflag : (feedProblem mode j k la lw x).accSat = _ := congrArg (·.2.2) (feedProblem_accumulation x)
  rw [hflag, Slot.accumulation, foldl_feedCell_accSat (problemCells_distinct hm hw)]
  refine or_congr_right ⟨?_, fun ⟨i, n, hi, hn, h⟩ => ⟨_, mem_problemCells.mpr ⟨i, n, hi, hn, rfl⟩, h⟩⟩
  rintro ⟨q, hq, hclamped⟩
  obtain ⟨i, n, hi, hn, rfl⟩ := mem_problemCells.mp hq
  exact ⟨i, n, hi, hn, hclamped⟩

end Limits
end Problem

/-- Settles O59: `accLine` by its equation, a fed problem cell by cell because its cells are distinct, CLR by its definition. -/
theorem accumulationSaturates : Obligations.AccumulationSaturates := by
  unfold Obligations.AccumulationSaturates
  refine ⟨clampI_eq_max_min (by decide), fun l x => ⟨accLine_nil_left l x, accLine_nil_right l x⟩, accLine_cons, ?fed,
    fun _ _ _ _ _ => ⟨rfl, rfl⟩⟩
  case fed =>
    intro mode j k la lw x hm _ _ hw hx
    exact ⟨fun i n hi hn => ⟨feedProblem_acc hm hw hx hi hn, mem_feedProblem_sat hm hw hi hn⟩, feedProblem_accSat hm hw⟩

end Sys2Proof.Machine
end

section
/-! PROOFS. The commands on cores and sync objects (R296, R345, R346): no row of the command's table refuses them; O13. -/

namespace Sys2Proof.Machine
open Sys2Proof

section ServiceRules
variable {r : Req} {s : State} {c : Call}

/-! ### The rows of accepted commands -/

theorem exec_coreBrkSet (ha : accepted 0x0620 0x10 r s = true) :
    exec (.coreBrkSet r) s = .next (settled 0x0620 r (coreBrkSet (callOf r s) (busy 0x0620 r s))) :=
  congrArg _ (mbxRow_accepted (by decide) (by decide) ha)

theorem exec_coreCont (ha : accepted 0x0621 0x10 r s = true) :
    exec (.coreCont r) s = .next (settled 0x0621 r (coreCont (callOf r s) (busy 0x0621 r s))) :=
  congrArg _ (mbxRow_accepted (by decide) (by decide) ha)

theorem exec_coreStateRead (ha : accepted 0x0622 0x10 r s = true) :
    exec (.coreStateRead r) s = .next (settled 0x0622 r (coreStateRead (callOf r s) (busy 0x0622 r s))) :=
  congrArg _ (mbxRow_accepted (by decide) (by decide) ha)

theorem exec_syncRead (ha : accepted 0x0801 0x10 r s = true) :
    exec (.syncRead r) s = .next (settled 0x0801 r (syncRead (callOf r s) (busy 0x0801 r s))) :=
  congrArg _ (mbxRow_accepted (by decide) (by decide) ha)

theorem exec_syncTree (ha : accepted 0x0802 0x12 r s = true) :
    exec (.syncTree r) s = .next (settled 0x0802 r (syncTree (callOf r s) (busy 0x0802 r s))) :=
  congrArg _ (mbxRow_accepted (by decide) (by decide) ha)

/-! ### What the handlers do where no row of R296, R345 or R346 refuses -/

/-- The breakpoint that a call of CORE_BRK_SET describes. -/
def brkOf (p : Bytes) : Brk := { kind := u8 p 2, flags := u8 p 3, value := leAt p 4 4, count := leAt p 8 4 }
/-- Breakpoint `i` of logical core `l` is `b`. -/
def brkPut (i : Nat) (b : Brk) (s : State) (l : Nat) : State :=
  setCore (physOf s l) { core s (physOf s l) with brks := msetD (core s (physOf s l)).brks i b {} } s

theorem coreBrkSet_sets (hlen : c.p.length = 16) (hdbg : dbgOpen s 0 = true) (hkind : u8 c.p 2 ≤ 5) (hi : u8 c.p 1 ≤ 7) (hflags : u8 c.p 3 < 4)
    (hz : zeroAt c.p 12 4 = true) (hcore : u8 c.p 0 = 0xFF ∨ u8 c.p 0 < s.nv.cores) (hpc : u8 c.p 2 = 1 → leAt c.p 4 4 ≤ 8191)
    (htpl : u8 c.p 2 = 3 → leAt c.p 4 4 ≤ 4095) (hobj : u8 c.p 2 = 5 → leAt c.p 4 4 ≤ 47) :
    coreBrkSet c s = okay ((if u8 c.p 0 = 0xFF then List.range s.nv.cores else [u8 c.p 0]).foldl (brkPut (u8 c.p 1) (brkOf c.p)) s) := by
  unfold coreBrkSet
  rw [rows_pass]
  · rfl
  · have hall : u8 c.p 0 ≠ 0xFF → u8 c.p 0 < s.nv.cores := hcore.resolve_left
    simpa [hlen, hdbg, hz, not_lt.mpr hkind, not_lt.mpr hi, not_le.mpr hflags] using ⟨⟨⟨hall, hpc⟩, htpl⟩, hobj⟩

theorem coreCont_goesOn (hlen : c.p.length = 4) (hdbg : dbgOpen s 0 = true) (hflags : u8 c.p 1 ≤ 1) (hz : zeroAt c.p 2 2 = true)
    (hcore : u8 c.p 0 < s.nv.cores) (hst : (core s (physOf s (u8 c.p 0))).st = 2) :
    coreCont c s = okay (settle (physOf s (u8 c.p 0)) (setCore (physOf s (u8 c.p 0))
      { core s (physOf s (u8 c.p 0)) with st := 1, single := u8 c.p 1 == 1, brkHit := 0xFF } s)) := by
  unfold coreCont
  rw [rows_pass]
  simp [hlen, hdbg, hz, hst, not_lt.mpr hflags, not_le.mpr hcore]

theorem coreStateRead_reads (hlen : c.p.length = 4) (hdbg : dbgOpen s 0 = true) (hz : zeroAt c.p 1 3 = true)
    (hcore : u8 c.p 0 < s.nv.cores) : coreStateRead c s = reply (coreRecord s (physOf s (u8 c.p 0))) s := by
  unfold coreStateRead
  rw [rows_pass]
  simp [hlen, hdbg, hz, not_le.mpr hcore]

theorem syncRead_reads (hlen : c.p.length = 8) (hkind : u8 c.p 0 ≤ 1) (h1 : 1 ≤ u8 c.p 3) (h16 : u8 c.p 3 ≤ 16) (hz : zeroAt c.p 4 4 = true)
    (hhub : u8 c.p 0 = 1 → u8 c.p 1 = 0 ∧ u8 c.p 2 + u8 c.p 3 ≤ 256)
    (hown : u8 c.p 0 = 0 → u8 c.p 1 < s.nv.cores ∧ u8 c.p 2 + u8 c.p 3 ≤ 48) :
    syncRead c s = reply ((List.range (u8 c.p 3)).flatMap fun i => syncRecord s
      ⟨u8 c.p 0 == 1, if u8 c.p 0 = 1 then 0 else physOf s (u8 c.p 1), u8 c.p 2 + i⟩) s := by
  have hsome : u8 c.p 3 ≠ 0 := Nat.one_le_iff_ne_zero.mp h1
  unfold syncRead
  rw [rows_pass]
  · simp only [beq_iff_eq]
  · rcases Nat.le_one_iff_eq_zero_or_eq_one.mp hkind with h | h
    · obtain ⟨hcore, hrange⟩ := hown h
      simp [hlen, h, hz, hsome, not_lt.mpr h16, not_le.mpr hcore, not_lt.mpr hrange]
    · obtain ⟨hzero, hrange⟩ := hhub h
      simp [hlen, h, hz, hsome, not_lt.mpr h16, hzero, not_lt.mpr hrange]

/-- A free hub object has no waiters and no counts of a phase. -/
theorem freeObj_idle {k : Nat} (h : freeObj s k = true) : (!(obj s ⟨true, 0, k⟩).waiters.isEmpty || (obj s ⟨true, 0, k⟩).cur != 0 ||
    (obj s ⟨true, 0, k⟩).next != 0 || (obj s ⟨true, 0, k⟩).leaving != 0) = false := by
  simp only [freeObj, Bool.and_eq_true, beq_iff_eq] at h
  obtain ⟨⟨⟨hw, hc⟩, hn⟩, hl⟩ := h
  simp [hw, hc, hn, hl]

theorem syncTree_makes (hlen : c.p.length = 8) (hz : leAt c.p 6 2 = 0) (hop : u8 c.p 1 = 0)
    (hpar : u8 c.p 2 = 0xFF ∨ (u8 c.p 2 ≤ 7 ∧ bit (u8 c.p 3) (u8 c.p 2) = false ∧ bit s.nv.linkRetired (u8 c.p 2) = false))
    (hlinks : u8 c.p 3 &&& s.nv.linkRetired = 0) (h1 : 1 ≤ leAt c.p 4 2 + popcount (u8 c.p 3) 8)
    (hmax : leAt c.p 4 2 + popcount (u8 c.p 3) 8 ≤ 65535) (hfree : freeObj s (u8 c.p 0) = true)
    (hown : (obj s ⟨true, 0, u8 c.p 0⟩).owner = 0xFF ∨ (obj s ⟨true, 0, u8 c.p 0⟩).owner = 0xF0) :
    syncTree c s = okay (setObj ⟨true, 0, u8 c.p 0⟩
      { initObj (obj s ⟨true, 0, u8 c.p 0⟩) (2 ^ 31 + (leAt c.p 4 2 + popcount (u8 c.p 3) 8)) 0xF0 with
        parent := if u8 c.p 2 = 0xFF then 0 else u8 c.p 2 + 1, children := u8 c.p 3 } s) := by
  have hparties : (leAt c.p 4 2 + popcount (u8 c.p 3) 8 == 0) = false := by simpa using Nat.one_le_iff_ne_zero.mp h1
  have howner : ((obj s ⟨true, 0, u8 c.p 0⟩).owner != 0xFF && (obj s ⟨true, 0, u8 c.p 0⟩).owner != 0xF0) = false := by
    rcases hown with h | h <;> simp [h]
  unfold syncTree
  rw [rows_pass]
  · simp only [hop, if_true]
  · rcases hpar with h | ⟨h7, hchild, hlink⟩
    · simp [-Bool.or_eq_false_iff, hlen, hz, hop, h, hparties, howner, freeObj_idle hfree, hlinks, not_lt.mpr hmax]
    · simp [-Bool.or_eq_false_iff, hlen, hz, hop, hchild, hlink, hparties, howner, freeObj_idle hfree, hlinks, not_lt.mpr hmax, not_lt.mpr h7]

theorem syncTree_frees (hlen : c.p.length = 8) (hz : leAt c.p 6 2 = 0) (hop : u8 c.p 1 = 1) (hz2 : zeroAt c.p 2 4 = true)
    (hfree : freeObj s (u8 c.p 0) = true) (hown : (obj s ⟨true, 0, u8 c.p 0⟩).owner = 0xF0) :
    syncTree c s = okay (setObj ⟨true, 0, u8 c.p 0⟩ {} s) := by
  unfold syncTree
  rw [rows_pass]
  · simp only [hop]; rfl
  · simp [-Bool.or_eq_false_iff, hlen, hz, hop, hz2, hown, freeObj_idle hfree]

end ServiceRules

/-- Settles O13: no row of the command's table refuses the request, so its effect is the handler's last line. -/
theorem coreAndSyncCommandsComplete : Obligations.CoreAndSyncCommandsComplete := by
  unfold Obligations.CoreAndSyncCommandsComplete
  refine ⟨?breakpoint, ?goOn, ?record, ?objects, ?node, ?freed⟩
  case breakpoint =>
    intro r s ha hlen hdbg hkind hi hflags hz hcore hpc htpl hobj
    rw [exec_coreBrkSet ha, coreBrkSet_sets (c := callOf r s) (s := busy 0x0620 r s) hlen hdbg hkind hi hflags hz hcore hpc htpl hobj]
    rfl
  case goOn =>
    intro r s ha hlen hdbg hflags hz hcore hst
    rw [exec_coreCont ha, coreCont_goesOn (c := callOf r s) (s := busy 0x0621 r s) hlen hdbg hflags hz hcore hst]
    rfl
  case record =>
    intro r s ha hlen hdbg hz hcore
    rw [exec_coreStateRead ha, coreStateRead_reads (c := callOf r s) (s := busy 0x0622 r s) hlen hdbg hz hcore]
    rfl
  case objects =>
    intro r s ha hlen hkind h1 h16 hz hhub hown
    rw [exec_syncRead ha, syncRead_reads (c := callOf r s) (s := busy 0x0801 r s) hlen hkind h1 h16 hz hhub hown]
    rfl
  case node =>
    intro r s ha hlen hz hop hpar hlinks h1 hmax hfree hown
    rw [exec_syncTree ha, syncTree_makes (c := callOf r s) (s := busy 0x0802 r s) hlen hz hop hpar hlinks h1 hmax hfree hown]
    rfl
  case freed =>
    intro r s ha hlen hz hop hz2 hfree hown
    rw [exec_syncTree ha, syncTree_frees (c := callOf r s) (s := busy 0x0802 r s) hlen hz hop hz2 hfree hown]
    rfl

end Sys2Proof.Machine
end

section
/-! PROOFS. What reporting and sending leave of memory and of the sync objects. -/

namespace Sys2Proof.Machine
open Sys2Proof

/-- From `s` to `t` no byte of memory and no sync object has changed. -/
structure SameObjects (s t : State) : Prop where
  mem : t.mem = s.mem
  hub : t.hub = s.hub
  own : ∀ p, (core t p).sync = (core s p).sync

namespace SameObjects
variable {s t u : State}

theorem refl (s : State) : SameObjects s s := ⟨rfl, rfl, fun _ => rfl⟩

theorem trans (h : SameObjects s t) (g : SameObjects t u) : SameObjects s u :=
  ⟨g.mem.trans h.mem, g.hub.trans h.hub, fun p => (g.own p).trans (h.own p)⟩

theorem obj (h : SameObjects s t) (r : ORef) : obj t r = obj s r := by
  unfold Machine.obj
  rw [h.hub, h.own]

/-- A further step that does not touch the cores, the hub or memory. -/
theorem aside (h : SameObjects s t) (hm : u.mem = t.mem := by rfl) (hh : u.hub = t.hub := by rfl) (hc : u.cores = t.cores := by rfl) :
    SameObjects s u :=
  h.trans ⟨hm, hh, fun p => congrArg Core.sync (by unfold core; rw [hc])⟩

theorem reports (h : SameObjects s t) (g : OnlyReports t u) : SameObjects s u := by
  unfold OnlyReports at g
  exact h.aside (by rw [g]) (by rw [g]) (by rw [g])

theorem ite {c : Prop} [Decidable c] (ht : SameObjects s t) (hu : SameObjects s u) : SameObjects s (if c then t else u) := by
  split
  · exact ht
  · exact hu

theorem foldl {ι : Type} {f : State → ι → State} (hf : ∀ t x, SameObjects s t → SameObjects s (f t x)) (l : List ι)
    (h : SameObjects s t) : SameObjects s (l.foldl f t) :=
  List.foldlRecOn (motive := SameObjects s) l f h fun t ht x _ => hf t x ht

section Steps
variable (h : SameObjects s t)
include h

/-- A core is replaced by one with the same objects. -/
theorem setCore {p : Nat} {c : Core} (hc : c.sync = (core t p).sync) : SameObjects s (setCore p c t) := by
  refine h.trans ⟨rfl, rfl, fun q => ?_⟩
  by_cases hq : q = p
  · rw [hq, core_setCore_same, hc]
  · rw [core_setCore_other t c hq]

theorem putRun (p q : Nat) (e : EI) : SameObjects s (putRun p q e t) := h.setCore rfl
theorem doneEi (p q : Nat) (e : EI) : SameObjects s (doneEi p q e t) := h.putRun ..
theorem errc (off v b n : Nat) : SameObjects s (errc off v b n t) := h.reports (.errc (.refl t) ..)

/-! ### Logs -/

theorem logRecAt (k type unit flags t256 : Nat) (body : Bytes) : SameObjects s (logRecAt k type unit flags t256 body t) := by
  unfold Machine.logRecAt
  dsimp only
  refine ite h (ite ?lost ?made)
  case lost => exact ite (.errc h.aside ..) (.errc h.aside ..)
  case made => exact ite h.aside h.aside

theorem coreLog (p type : Nat) (body : Bytes) : SameObjects s (coreLog p type body t) := by
  unfold Machine.coreLog
  split
  · exact h.logRecAt ..
  · exact h

/-! ### Sending (chapter 14) -/

theorem linkMark (n dir flags t256 : Nat) (g : Tag) : SameObjects s (linkMark n dir flags t256 g t) := by
  unfold Machine.linkMark
  exact ite h (h.logRecAt ..)

theorem sendFlit (n : Nat) : SameObjects s (sendFlit n t) := by
  unfold Machine.sendFlit
  extract_lets x
  split
  · exact h
  · split
    · exact h
    · extract_lets start
      split
      exact ite (.linkMark h.aside ..) h.aside

theorem pump (fuel n : Nat) : SameObjects s (pump fuel n t) := by
  induction fuel generalizing t with
  | zero => exact h
  | succ fuel ih => exact ite (h.sendFlit n) (ih (h.sendFlit n))

theorem enqueue (n : Nat) (f : Bytes) : SameObjects s (enqueue n f t) := .pump h.aside ..

theorem sendRouted (dest : Nat) (f : Bytes) : SameObjects s (sendRouted dest f t) := by
  unfold Machine.sendRouted
  split
  · exact h.enqueue ..
  · extract_lets t' org
    have h' : SameObjects s t' := h.errc ..
    refine ite h' ?_
    split
    · exact h'
    · exact ite h' (.enqueue h'.aside ..)

theorem sendTag (dest : Nat) (tag : Tag) (body : Bytes) : SameObjects s (sendTag dest tag body t) := by
  unfold Machine.sendTag
  exact ite h.aside (ite h (h.sendRouted ..))

theorem sendSync (unit dest wid version : Nat) (pay : Bytes) : SameObjects s (sendSync unit dest wid version pay t) := .sendTag h.aside ..
theorem sendTree (n k op version : Nat) : SameObjects s (sendTree n k op version t) := .enqueue h.aside ..

end Steps
end SameObjects
end Sys2Proof.Machine
end

section
/-! PROOFS. Sync instructions on a core's own objects and on others (R288, R329 to R335, R339); O42. -/

namespace Sys2Proof.Machine
open Sys2Proof

/-! ### Released instructions -/

section RunRules
variable {p q : Nat} {e f : EI} {s : State}

@[simp] theorem setRun_sync (q : Nat) (l : List EI) (c : Core) : (setRun q l c).sync = c.sync := rfl
@[simp] theorem setRun_inst (q : Nat) (l : List EI) (c : Core) : (setRun q l c).inst = c.inst := rfl
@[simp] theorem setRun_brks (q : Nat) (l : List EI) (c : Core) : (setRun q l c).brks = c.brks := rfl
@[simp] theorem setRun_defer (q : Nat) (l : List EI) (c : Core) : (setRun q l c).defer = c.defer := rfl

theorem runAt_setRun {l : List EI} (c : Core) (hl : l ≠ []) : runAt (setRun q l c) q = l := by simp [runAt, setRun, msetD, hl]

theorem core_putRun : core (putRun p q f s) p =
    setRun q ((runAt (core s p) q).map fun x => if x.ord = f.ord then f else x) (core s p) := core_setCore_same ..

theorem nextRun_of_atEngine {cls op : Nat} (h : atEngine s p q cls op e = true) : nextRun s p q = some e := by
  simp only [atEngine, Bool.and_eq_true, beq_iff_eq] at h
  exact h.1.1.1.2
theorem eiOp_of_atEngine {cls op : Nat} (h : atEngine s p q cls op e = true) : eiOp e.w = op := by
  simp only [atEngine, Bool.and_eq_true, beq_iff_eq] at h
  exact h.1.2

theorem mem_runAt_of_atEngine {cls op : Nat} (h : atEngine s p q cls op e = true) : e ∈ runAt (core s p) q :=
  List.mem_of_find?_eq_some (nextRun_of_atEngine h)

/-- What takes the place of a released instruction of its decode order stands there. -/
theorem mem_runAt_putRun (he : ∃ x ∈ runAt (core s p) q, x.ord = f.ord) : f ∈ runAt (core (putRun p q f s) p) q := by
  obtain ⟨x, hx, ho⟩ := he
  have hf : f ∈ (runAt (core s p) q).map fun x => if x.ord = f.ord then f else x := List.mem_map.mpr ⟨x, hx, if_pos ho⟩
  rw [core_putRun, runAt_setRun _ (List.ne_nil_of_mem hf)]
  exact hf

theorem hasDone_doneEi (he : ∃ x ∈ runAt (core s p) q, x.ord = e.ord) : hasDone p q e (doneEi p q e s) :=
  ⟨{ e with ph := 3 }, mem_runAt_putRun (f := { e with ph := 3 }) he, rfl, rfl⟩

end RunRules

/-! ### The end of a sync instruction (R330) -/

section FinishRules
variable {p word : Nat} {e : EI} {s t : State}

@[simp] theorem writeK_sync (i v : Nat) (c : Core) : (writeK i v c).sync = c.sync := by unfold writeK setK; split <;> rfl
@[simp] theorem writeK_run (i v : Nat) (c : Core) : (writeK i v c).run = c.run := by unfold writeK setK; split <;> rfl
@[simp] theorem writeK_defer (i v : Nat) (c : Core) : (writeK i v c).defer = c.defer := by unfold writeK setK; split <;> rfl

/-- A core whose sync instruction `e` has left its result word in its K register, where it names one. -/
def toldCore (e : EI) (word : Nat) (c : Core) : Core := if bits e.w 47 44 = 0 then c else writeK (bits e.w 47 44) word c

@[simp] theorem toldCore_sync (c : Core) : (toldCore e word c).sync = c.sync := by unfold toldCore; split <;> simp
@[simp] theorem toldCore_run (c : Core) : (toldCore e word c).run = c.run := by unfold toldCore; split <;> simp
@[simp] theorem toldCore_defer (c : Core) : (toldCore e word c).defer = c.defer := by unfold toldCore; split <;> simp

/-- The log record of a sync instruction. -/
def syncLogged (p : Nat) (e : EI) (word : Nat) (s : State) : State :=
  coreLog p 4 (le 1 (bits e.w 111 104) ++ le 1 (eiOp e.w) ++ le 2 word ++ le 4 (word / 2 ^ 32)) s

theorem finishSync_eq : finishSync p e word s =
    util p 0x230 1 (doneEi p 13 e (setCore p (toldCore e word (core s p)) (syncLogged p e word s))) := rfl

theorem SameObjects.finishSync (h : SameObjects s t) (p : Nat) (e : EI) (word : Nat) : SameObjects s (finishSync p e word t) := by
  have hlog : SameObjects t (syncLogged p e word t) := .coreLog (.refl t) ..
  have hset : SameObjects t (Machine.setCore p (toldCore e word (core t p)) (syncLogged p e word t)) :=
    hlog.setCore (by rw [toldCore_sync, hlog.own])
  exact h.trans (.aside (hset.doneEi ..))

theorem hasDone_finishSync (he : ∃ x ∈ runAt (core s p) 13, x.ord = e.ord) : hasDone p 13 e (finishSync p e word s) := by
  have hrun : runAt (core (setCore p (toldCore e word (core s p)) (syncLogged p e word s)) p) 13 = runAt (core s p) 13 := by
    rw [core_setCore_same]; unfold runAt; rw [toldCore_run]
  rw [finishSync_eq]
  exact hasDone_doneEi (s := setCore p (toldCore e word (core s p)) (syncLogged p e word s)) (by rwa [hrun])

theorem finishSync_defer : (core (finishSync p e word s) p).defer = (core s p).defer := by
  have hcore : core (finishSync p e word s) p =
      core (doneEi p 13 e (setCore p (toldCore e word (core s p)) (syncLogged p e word s))) p := rfl
  rw [hcore, doneEi, core_putRun, setRun_defer, core_setCore_same, toldCore_defer]

end FinishRules

/-! ### Objects -/

section ObjectRules
variable {p k : Nat} {r : ORef} {x y : SObj} {s t u : State}

theorem SObj.ne_default_of_used (h : x.used = true) : x ≠ {} := by
  rintro rfl
  exact absurd h (by decide)

/-- From `s` to `t` object `r` has become `y`, and no byte of memory and no released instruction has changed. -/
structure Becomes (r : ORef) (y : SObj) (s t : State) : Prop where
  obj : obj t r = y
  mem : t.mem = s.mem
  run : ∀ p, (core t p).run = (core s p).run

namespace Becomes

theorem refl (r : ORef) (s : State) : Becomes r (Machine.obj s r) s s := ⟨rfl, rfl, fun _ => rfl⟩

theorem reports (h : Becomes r y s t) (g : OnlyReports t u) : Becomes r y s u := by
  have hcore : ∀ p, core u p = core t p := fun p => by unfold OnlyReports at g; unfold core; rw [g]
  exact ⟨((SameObjects.refl t).reports g).obj r |>.trans h.obj, g.mem.trans h.mem, fun p => (congrArg Core.run (hcore p)).trans (h.run p)⟩

/-- An object of a core is set; one that says no more than a fresh one is not kept. -/
theorem setObj (h : Becomes ⟨false, p, k⟩ x s t) (hy : y ≠ {}) : Becomes ⟨false, p, k⟩ y s (setObj ⟨false, p, k⟩ y t) := by
  refine ⟨?_, h.mem, fun q => (h.run q).symm ▸ ?_⟩
  · simp [Machine.obj, Machine.setObj, msetD, hy]
  · by_cases hq : q = p
    · simp [Machine.setObj, hq]
    · simp [Machine.setObj, core_setCore_other _ _ hq]

end Becomes
end ObjectRules

/-! ### A sync instruction taken by its block (R282, R288, R330) -/

section TakenRules
variable {p op dest : Nat} {e : EI} {s t : State} {r : ORef} {c : Instr} {b : Bool}

theorem exec_syncInstr (h : (c, op) ∈ [(Instr.signal p, 1), (.waitSync p, 2), (.decrement p, 3), (.barrier p, 4), (.initSync p, 5)]) :
    exec c s = .next (syncInstr p op s) := by
  simp only [List.mem_cons, Prod.mk.injEq, List.not_mem_nil, or_false] at h
  rcases h with ⟨rfl, rfl⟩ | ⟨rfl, rfl⟩ | ⟨rfl, rfl⟩ | ⟨rfl, rfl⟩ | ⟨rfl, rfl⟩ <;> rfl

/-- The instruction as it waits for its answer from chip `dest`. -/
def askingEi (s : State) (p dest : Nat) (e : EI) (posted : Bool) : EI :=
  { e with ph := 2, sent := now s, chip := dest, wid := reqWid s p e.w posted }

/-- The end of a sync instruction that its object has answered; one without an answer waits. -/
def answeredBy (p : Nat) (e : EI) (x : SyncEnd × State) : State :=
  match x with
  | (some (st, sat, ovr, v), s) => finishSync p e (resultWord st sat ovr v) s
  | (none, s) => s

/-- The object of core `p` that its instruction `e` names. -/
def ownObj (p : Nat) (e : EI) : ORef := ⟨false, p, bits e.w 111 104⟩
/-- Core `p` as the sender of its own instruction. -/
def ownSender (s : State) (p : Nat) (e : EI) : Waiter := { unit := p, wid := reqWid s p e.w false, version := jobVersion s p }
/-- The state in which the instruction waits for its own core's object. -/
def asking (s : State) (p : Nat) (e : EI) : State := putRun p 13 (askingEi s p (chipId s) e false) s

/-- The state in which core `p` keeps the SIGNAL `e` back until its region passes. -/
def deferring (s : State) (p : Nat) (e : EI) : State := setCore p { core s p with defer := (core s p).defer ++ [e] } s

theorem jobVersion_putRun (q : Nat) (f : EI) : jobVersion (putRun p q f s) p = jobVersion s p := by
  have hjob : jobOf (putRun p q f s) p = jobOf s p := by unfold jobOf; rw [core_putRun]; rfl
  unfold jobVersion
  rw [hjob]
  rfl

/-- A sync instruction outside its core's open region is in no way held back. -/
theorem notInRegion (h : e.region = false ∨ (core s p).open_ = false) : (e.region && (core s p).open_) = false := by
  rcases h with h | h <;> simp [h]

variable (he : atEngine s p 13 5 op e = true)
include he

/-- A SIGNAL of an open region is kept back, unless 16 are. -/
theorem syncInstr_deferred (hop : op = 1) (hr : e.region = true) (ho : (core s p).open_ = true) : syncInstr p op s =
    if 16 ≤ (core s p).defer.length then illegalEi p 13 e s
    else finishSync p e (resultWord 0 false false (Config.deferredValue (deferring s p e).free).toNat) (draw (deferring s p e)).2 := by
  have hin : (e.region && (core s p).open_) = true := by rw [hr, ho]; rfl
  unfold syncInstr
  rw [engStep_atEngine he]
  simp only [hop, hin, Bool.and_self, decide_true, if_true]
  rfl

/-- An operation of a core on an object of its own. -/
theorem syncInstr_own (hreg : op = 1 → e.region = false ∨ (core s p).open_ = false) (hrem : isRemote s e.w = false)
    (ht : targetOf s p e.w = some (ownObj p e)) : syncInstr p op s =
      answeredBy p (askingEi s p (chipId s) e false) (syncOp (ownObj p e) op (bits e.w 79 48) (ownSender s p e) (asking s p e)) := by
  have hown : (some (ownObj p e) != some (⟨false, p, bits e.w 111 104⟩ : ORef)) = false := bne_self_eq_false _
  have hregion : ((op = 1 : Bool) && (e.region && (core s p).open_)) = false := by
    by_cases h1 : op = 1
    · rw [notInRegion (hreg h1), Bool.and_false]
    · simp [h1]
  have hrem' : isRemote (asking s p e) e.w = false := hrem
  have ht' : targetOf (asking s p e) p e.w = some (ownObj p e) := ht
  have hstart : startSync p e false (asking s p e) = syncOp (ownObj p e) op (bits e.w 79 48) (ownSender s p e) (asking s p e) := by
    have hsender : ({ unit := p, wid := reqWid (asking s p e) p e.w false, version := jobVersion (asking s p e) p } : Waiter) =
        ownSender s p e := congrArg (Waiter.mk _ _ _ _ _ _ · _) (jobVersion_putRun ..)
    simp only [startSync, hrem', ht', eiOp_of_atEngine he, hsender]
    simp [ownObj]
  unfold syncInstr
  rw [engStep_atEngine he]
  simp only [hregion, hrem, ht, hown, Bool.or_self, Bool.and_false, Bool.false_eq_true, if_false]
  simp only [ownObj, beq_self_eq_true, Bool.not_true, Bool.or_self, Bool.and_false, Bool.false_eq_true, if_false]
  exact congrArg (answeredBy p (askingEi s p (chipId s) e false)) hstart

/-- An operation on an object of another block leaves as a tag; a posted one ends at once (R330, R339). -/
theorem syncInstr_away {f : EI} (hreg : e.region = false ∨ (core s p).open_ = false)
    (hdest : isRemote s e.w = true ∧ s.chip.isSome = true ∧ routeLost s (bits e.w 95 80) = false ∧ dest = bits e.w 95 80 ∨
      isRemote s e.w = false ∧ targetOf s p e.w = some r ∧ (r.hub = true ∨ r.p ≠ p) ∧ dest = chipId s)
    (hb : b = ((op == 1 || op == 3) && bits e.w 47 44 == 0)) (hf : f = askingEi s p dest e b) : syncInstr p op s =
      let t := sendSync p dest (reqWid s p e.w b) (jobVersion s p) (syncPay (bits e.w 79 48) 0 0) (putRun p 13 f s)
      if b then finishSync p f (resultWord 0 false false 0) t else t := by
  have hposted : ((op == 1 || op == 3) && bits e.w 47 44 == 0 &&
      (isRemote s e.w || targetOf s p e.w != some (⟨false, p, bits e.w 111 104⟩ : ORef))) = b := by
    have haway : (isRemote s e.w || targetOf s p e.w != some (⟨false, p, bits e.w 111 104⟩ : ORef)) = true := by
      rcases hdest with ⟨h, -⟩ | ⟨-, ht, h, -⟩
      · simp [h]
      · rcases r with ⟨hub, q, k⟩
        rcases h with h | h <;> simp_all
    rw [haway, hb, Bool.and_true]
  have hchip : (if isRemote s e.w then bits e.w 95 80 else chipId s) = dest := by
    rcases hdest with ⟨h, -, -, rfl⟩ | ⟨h, -, -, rfl⟩ <;> simp [h]
  have hstart : startSync p e b (putRun p 13 f s) = (if b then some (0, false, false, 0) else none,
      sendSync p dest (reqWid s p e.w b) (jobVersion s p) (syncPay (bits e.w 79 48) 0 0) (putRun p 13 f s)) := by
    have hrem : isRemote (putRun p 13 f s) e.w = isRemote s e.w := rfl
    have ht : targetOf (putRun p 13 f s) p e.w = targetOf s p e.w := rfl
    have hroute : routeLost (putRun p 13 f s) (bits e.w 95 80) = routeLost s (bits e.w 95 80) := rfl
    have hid : (putRun p 13 f s).chip = s.chip := rfl
    have hwid : reqWid (putRun p 13 f s) p e.w b = reqWid s p e.w b := rfl
    have hown : chipId (putRun p 13 f s) = chipId s := rfl
    rcases hdest with ⟨h, hsome, hlost, rfl⟩ | ⟨h, htarget, hother, rfl⟩
    · simp [startSync, hrem, h, hroute, hlost, hid, Option.isSome_iff_ne_none.mp hsome, hwid, jobVersion_putRun]
    · have hne : (!r.hub && decide (r.p = p)) = false := by rcases hother with h | h <;> simp [h]
      simp only [startSync, hrem, h, ht, htarget, hne, hwid, jobVersion_putRun, hown, Bool.false_eq_true, if_false]
  have hfinal : answeredBy p f (startSync p e b (putRun p 13 f s)) =
      let t := sendSync p dest (reqWid s p e.w b) (jobVersion s p) (syncPay (bits e.w 79 48) 0 0) (putRun p 13 f s)
      if b then finishSync p f (resultWord 0 false false 0) t else t := by
    rw [hstart]
    cases b <;> rfl
  rw [← hfinal, hf]
  unfold syncInstr
  rw [engStep_atEngine he]
  simp only [notInRegion hreg, Bool.and_false, Bool.false_and, Bool.false_eq_true, if_false, hposted, hchip]
  rfl

end TakenRules

/-! ### Operations on an object of the core (R329, R331, R332, R334, R335) -/

section OperationRules
variable {p k op arg : Nat} {w : Waiter} {r : ORef} {x y : SObj} {s t : State}

/-- A saturation or an underflow is counted, and reported where no flag says so yet (R329). -/
def saturationNoted (r : ORef) (sat : Bool) (flags : Nat) (s : State) : State :=
  let s := if sat then syncErrAt (syncCtr r) 0 s else s
  if sat && bits flags 1 0 == 0 then syncFault 0x0504 0 r s else s

/-- An object whose value an operation of `w` has set; where that saturates, flag `i` says so. -/
def valueSet (w : Waiter) (op v i : Nat) (sat : Bool) (s : State) (x : SObj) : SObj :=
  signed_ w op s { x with value := v, flags := if sat then setBit x.flags i else x.flags }
/-- An object at which `w` has arrived and is held. -/
def arrivedAt (w : Waiter) (s : State) (x : SObj) : SObj :=
  signed_ w 4 s { x with waiters := x.waiters ++ [{ w with bar := true, v := 0 }], version := w.version }

theorem saturationNoted_reports (sat : Bool) (flags : Nat) : OnlyReports s (saturationNoted r sat flags s) := by
  have hcount : OnlyReports s (if sat then syncErrAt (syncCtr r) 0 s else s) := .ite (.errc (.refl s) ..) (.refl s)
  exact .ite (hcount.raiseLim ..) hcount

theorem syncReject_reports (status : Nat) : OnlyReports s (syncReject r status s).2 := .errc (.refl s) ..

theorem bit_setBit (n i j : Nat) : bit (setBit n i) j = (bit n j || decide (i = j)) := by
  simp [bit, setBit, Nat.testBit_or, Nat.testBit_two_pow]

theorem SObj.used_setBit (i : Nat) (h : bit x.flags 5 = true) : bit (setBit x.flags i) 5 = true := by simp [bit_setBit, h]

theorem valueSet_used {v i : Nat} {sat : Bool} (hu : x.used = true) : (valueSet w op v i sat s x).used = true := by
  cases sat
  · exact hu
  · exact SObj.used_setBit i hu

section Checked
variable (hbrk : brkMatch p 5 k s = s)
include hbrk

/-- What an object rejects is counted and changes nothing (R331). -/
theorem syncOp_rejects (hop : op = 1 ∨ op = 2 ∨ op = 3 ∨ op = 4)
    (h : (obj s ⟨false, p, k⟩).orphaned = true ∨ (obj s ⟨false, p, k⟩).used = false ∨
      op ≠ 2 ∧ (obj s ⟨false, p, k⟩).barrier = (op != 4)) :
    ∃ status, syncOp ⟨false, p, k⟩ op arg w s = syncReject ⟨false, p, k⟩ status s := by
  have hinit : op ≠ 5 := by omega
  cases ho : (obj s ⟨false, p, k⟩).orphaned with
  | true => exact ⟨14, by simp [syncOp, hbrk, ho, hinit]⟩
  | false =>
    cases hu : (obj s ⟨false, p, k⟩).used with
    | false => exact ⟨13, by simp [syncOp, hbrk, ho, hu]⟩
    | true =>
      obtain ⟨h2, hb⟩ := (h.resolve_left (by simp [ho])).resolve_left (by simp [hu])
      refine ⟨9, ?_⟩
      rcases hop with rfl | rfl | rfl | rfl
      · simp [syncOp, hbrk, ho, hu, hb]
      · exact absurd rfl h2
      · simp [syncOp, hbrk, ho, hu, hb]
      · simp [syncOp, hbrk, ho, hu, hb]

variable (hx : x = obj s ⟨false, p, k⟩)
include hx

section InUse
variable (hu : x.used = true) (ho : x.orphaned = false)
include hu ho

theorem syncOp_signal_eq (hb : x.barrier = false) : syncOp ⟨false, p, k⟩ 1 arg w s =
    (some (0, decide (0xFFFFFFFF < x.value + arg), false, min (x.value + arg) 0xFFFFFFFF),
      perf (syncCtr ⟨false, p, k⟩) 1 (saturationNoted ⟨false, p, k⟩ (decide (0xFFFFFFFF < x.value + arg)) x.flags
        (if arg = 0 then s else setObj ⟨false, p, k⟩
          (valueSet w 1 (min (x.value + arg) 0xFFFFFFFF) 0 (decide (0xFFFFFFFF < x.value + arg)) s x) s))) := by
  subst hx
  simp only [syncOp, hbrk, hu, ho, hb]
  rfl

theorem syncOp_decrement_eq (hb : x.barrier = false) : syncOp ⟨false, p, k⟩ 3 arg w s =
    (some (0, x.value == 0, false, x.value - 1),
      perf (syncCtr ⟨false, p, k⟩) 1 (saturationNoted ⟨false, p, k⟩ (x.value == 0) x.flags
        (setObj ⟨false, p, k⟩ (valueSet w 3 (x.value - 1) 1 (x.value == 0) s x) s))) := by
  subst hx
  simp only [syncOp, hbrk, hu, ho, hb]
  rfl

theorem syncOp_wait_eq : syncOp ⟨false, p, k⟩ 2 arg w s = (none, setObj ⟨false, p, k⟩
    { x with waiters := x.waiters ++ [{ w with bar := false, v := arg, fresh := true }] } s) := by
  subst hx
  simp only [syncOp, hbrk, hu, ho]
  rfl

/-- A participant on this chip is held before its arrival is counted; one that overruns the round leaves the object as it was. -/
theorem syncOp_barrier_eq (hb : x.barrier = true) (harg : arg = 0 ∨ arg = x.parties) (hw : w.remote = false) :
    syncOp ⟨false, p, k⟩ 4 arg w s =
      let a := arrive ⟨false, p, k⟩ (perf (syncCtr ⟨false, p, k⟩) 1 (setObj ⟨false, p, k⟩ (arrivedAt w s x) s))
      if a.1 then (none, a.2) else (some (9, false, true, 0), overrun ⟨false, p, k⟩ w 4 s) := by
  have hparties : (arg != 0 && arg != x.parties) = false := by rcases harg with h | h <;> simp [h]
  obtain ⟨unit, chip, remote, bar, v, wid, version, fresh⟩ := w
  obtain rfl : remote = false := hw
  subst hx
  simp only [syncOp, hbrk, hu, ho, hb, hparties]
  rfl

end InUse

theorem syncOp_init_eq (h : x.used = true ∨ x.orphaned = true) (hw : w.remote = false) (hp : w.unit = p) (hidle : x.waiters = [])
    (hcur : x.cur = 0) (hnext : x.next = 0) (hleave : x.leaving = 0)
    (harg : bit arg 31 = false ∨ (arg % 65536 ≠ 0 ∧ bits arg 30 16 = 0)) : syncOp ⟨false, p, k⟩ 5 arg w s =
      (some (0, false, false, (initObj x arg p).value),
        perf (syncCtr ⟨false, p, k⟩) 1 (setObj ⟨false, p, k⟩ (signed_ w 5 s (initObj x arg p)) s)) := by
  have hbarrier : (bit arg 31 && (arg % 65536 == 0 || bits arg 30 16 != 0)) = false := by
    rcases harg with h | ⟨h1, h2⟩
    · simp [h]
    · simp [h1, h2]
  have hlive : (!x.used && !((5 == 5) && (false || x.orphaned))) = false := by rcases h with h | h <;> simp [h]
  subst hx
  simp only [syncOp, mayInit, hbrk, hlive, hw, hp, hidle, hcur, hnext, hleave, hbarrier]
  simp

end Checked

/-! ### What each operation makes of the object -/

section Effects
variable (hx : x = obj s ⟨false, p, k⟩) (hbrk : brkMatch p 5 k s = s) (hu : x.used = true) (ho : x.orphaned = false)
include hx hbrk hu ho

/-- SIGNAL adds and saturates (R329). -/
theorem syncOp_signal (hb : x.barrier = false) (hv : x.value < 2 ^ 32) : ∃ sat v t y,
    syncOp ⟨false, p, k⟩ 1 arg w s = (some (0, sat, false, v), t) ∧ Becomes ⟨false, p, k⟩ y s t ∧
      y.value = min (x.value + arg) 0xFFFFFFFF ∧ y.waiters = x.waiters := by
  have hnoted : ∀ y u, Becomes ⟨false, p, k⟩ y s u → Becomes ⟨false, p, k⟩ y s (perf (syncCtr ⟨false, p, k⟩) 1
      (saturationNoted ⟨false, p, k⟩ (decide (0xFFFFFFFF < x.value + arg)) x.flags u)) :=
    fun y u h => (h.reports (saturationNoted_reports ..)).reports (.perf (.refl _) ..)
  have hexec := syncOp_signal_eq (arg := arg) (w := w) hbrk hx hu ho hb
  by_cases h0 : arg = 0
  · rw [if_pos h0] at hexec
    refine ⟨_, _, _, x, hexec, hnoted _ _ (hx ▸ Becomes.refl ..), ?_, rfl⟩
    omega
  · rw [if_neg h0] at hexec
    exact ⟨_, _, _, _, hexec, hnoted _ _ ((Becomes.refl ..).setObj (SObj.ne_default_of_used (valueSet_used hu))), rfl, rfl⟩

/-- DECREMENT subtracts and clamps at 0 (R329). -/
theorem syncOp_decrement (hb : x.barrier = false) : ∃ sat v t y,
    syncOp ⟨false, p, k⟩ 3 arg w s = (some (0, sat, false, v), t) ∧ Becomes ⟨false, p, k⟩ y s t ∧
      y.value = x.value - 1 ∧ y.waiters = x.waiters :=
  ⟨_, _, _, _, syncOp_decrement_eq hbrk hx hu ho hb,
    (((Becomes.refl ..).setObj (SObj.ne_default_of_used (valueSet_used hu))).reports (saturationNoted_reports ..)).reports
      (.perf (.refl _) ..), rfl, rfl⟩

/-- WAIT is held until the end of the cycle (R332). -/
theorem syncOp_wait : ∃ t, syncOp ⟨false, p, k⟩ 2 arg w s = (none, t) ∧
    Becomes ⟨false, p, k⟩ { x with waiters := x.waiters ++ [{ w with bar := false, v := arg, fresh := true }] } s t :=
  ⟨_, syncOp_wait_eq hbrk hx hu ho, (Becomes.refl ..).setObj (SObj.ne_default_of_used hu)⟩

end Effects

/-! ### Arrival at a barrier (R334, R335) -/

section Arrival
variable (hx : x = obj s r)
include hx

theorem arrive_gathers (h0 : x.phase = 0) (hc : x.cur + 1 ≠ x.parties) :
    arrive r s = (true, setObj r { x with cur := x.cur + 1 } s) := by
  subst hx
  simp only [arrive, h0, hc, if_true, if_false]

theorem arrive_completes (h0 : x.phase = 0) (hc : x.cur + 1 = x.parties) :
    arrive r s = (true, completeRound r (setObj r { x with cur := x.cur + 1 } s)) := by
  subst hx
  simp only [arrive, h0, hc, if_true]

theorem arrive_next (h1 : x.phase = 1) (hn : x.next + 1 ≤ x.parties - x.leaving) :
    arrive r s = (true, setObj r { x with next := x.next + 1 } s) := by
  subst hx
  simp [arrive, h1, hn]

theorem arrive_overruns (h : 2 ≤ x.phase ∨ x.phase = 1 ∧ x.parties - x.leaving < x.next + 1) : arrive r s = (false, s) := by
  have h0 : x.phase ≠ 0 := by omega
  have hlate : (decide (x.phase = 1) && decide (x.next + 1 ≤ x.parties - x.leaving)) = false := by
    rw [← Bool.decide_and, decide_eq_false_iff_not]; omega
  subst hx
  simp only [arrive, h0, hlate, if_false, Bool.false_eq_true]

end Arrival

/-! ### The release of a round -/

theorem SameObjects.answerHeld (h : SameObjects s t) (r : ORef) (w : Waiter) (status value : Nat) :
    SameObjects s (answerHeld r w status value t) := by
  unfold Machine.answerHeld
  extract_lets t'
  have h' : SameObjects s t' := ite (h.errc ..) h
  split
  · split
    · exact h'.finishSync ..
    · exact h'
  · exact h'.sendSync ..

/-- The object of a round that is complete: VALUE is one higher, and no participant is held any longer. -/
theorem releaseRound_object (r : ORef) (s : State) : ∃ y, SameObjects (setObj r y s) (releaseRound r s) ∧
    y.value = min ((obj s r).value + 1) 0xFFFFFFFF ∧ ∀ w ∈ y.waiters, w.bar = false := by
  unfold releaseRound
  extract_lets x sat v first go stay kids n y0 y s1 s2 s3 s4
  have h1 : SameObjects (setObj r y s) s1 := .aside (.refl _)
  have h2 : SameObjects (setObj r y s) s2 := .ite (h1.errc ..) h1
  have h3 : SameObjects (setObj r y s) s3 := .ite (h2.reports (.raiseLim (.refl _) ..)) h2
  have h4 : SameObjects (setObj r y s) s4 := .foldl (fun _ _ h => h.answerHeld ..) _ h3
  refine ⟨y, .foldl (fun _ _ h => h.sendTree ..) _ h4, ?_, ?_⟩
  · unfold y; split <;> rfl
  · have hwaiters : y.waiters = x.waiters.filter fun w => !w.bar := by unfold y; split <;> rfl
    intro w hw
    rw [hwaiters] at hw
    simpa using (List.mem_filter.mp hw).2

/-- An overrun sets its flag (R326), and leaves the object otherwise but for its last signaller. -/
theorem overrun_object (hx : x = obj s ⟨false, p, k⟩) (hu : x.used = true) : ∃ y, Becomes ⟨false, p, k⟩ y s (overrun ⟨false, p, k⟩ w 4 s) ∧
    y.waiters = x.waiters ∧ y.value = x.value ∧ y.cur = x.cur ∧ y.next = x.next ∧ bit y.flags 3 = true := by
  subst hx
  unfold overrun
  dsimp only
  split
  next h => exact ⟨_, (Becomes.refl ..).reports (.errc (.refl s) ..), rfl, rfl, rfl, rfl, h⟩
  next =>
    refine ⟨_, (((Becomes.refl ..).setObj (SObj.ne_default_of_used ?_)).reports (.errc (.refl _) ..)).reports (.raiseLim (.refl _) ..),
      rfl, rfl, rfl, rfl, ?_⟩
    · exact SObj.used_setBit 3 hu
    · exact (bit_setBit ..).trans (by simp)

end OperationRules

/-! ### Instructions on the core's own objects -/

theorem Becomes.setOwn {p : Nat} {e : EI} {s t : State} {x y : SObj} (h : Becomes (ownObj p e) x s t) (hy : y ≠ {}) :
    Becomes (ownObj p e) y s (Machine.setObj (ownObj p e) y t) := h.setObj hy

/-- The sync block of core `p` takes the instruction `e`, of opcode `op` and outside its open region where it is a SIGNAL, on an object of
the core that no breakpoint watches. -/
structure TakesOwn (s : State) (p op : Nat) (e : EI) : Prop where
  taken : atEngine s p 13 5 op e = true
  outside : op = 1 → e.region = false ∨ (core s p).open_ = false
  unwatched : ∀ b ∈ (core s p).brks, b.2.kind ≠ 5
  here : isRemote s e.w = false
  own : targetOf s p e.w = some (ownObj p e)

namespace TakesOwn
variable {p op : Nat} {e : EI} {s t : State} {y : SObj} {x : SObj}

theorem asking_keeps (s : State) (p : Nat) (e : EI) : SameObjects s (asking s p e) := .putRun (.refl s) ..

theorem obj_asking (r : ORef) : obj s r = obj (asking s p e) r := ((asking_keeps s p e).obj r).symm

variable (h : TakesOwn s p op e)
include h

theorem brkMatch_asking (k : Nat) : brkMatch p 5 k (asking s p e) = asking s p e := by
  refine brkMatch_none _ _ _ _ ?_
  rw [asking, core_putRun, setRun_brks]
  simpa using fun a b hb => h.unwatched (a, b) hb

theorem asks : askingEi s p (chipId s) e false ∈ runAt (core (asking s p e) p) 13 :=
  mem_runAt_putRun ⟨e, mem_runAt_of_atEngine h.taken, rfl⟩

theorem asks_still (ht : (core t p).run = (core (asking s p e) p).run) : askingEi s p (chipId s) e false ∈ runAt (core t p) 13 := by
  unfold runAt
  rw [ht]
  exact h.asks

theorem syncInstr_eq : syncInstr p op s = answeredBy p (askingEi s p (chipId s) e false)
    (syncOp (ownObj p e) op (bits e.w 79 48) (ownSender s p e) (asking s p e)) := syncInstr_own h.taken h.outside h.here h.own

/-- An operation that its object answers ends its instruction. -/
theorem ends {st v : Nat} {sat ovr : Bool}
    (hop : syncOp (ownObj p e) op (bits e.w 79 48) (ownSender s p e) (asking s p e) = (some (st, sat, ovr, v), t))
    (hy : Becomes (ownObj p e) y (asking s p e) t) :
    hasDone p 13 e (syncInstr p op s) ∧ obj (syncInstr p op s) (ownObj p e) = y ∧ (syncInstr p op s).mem = s.mem := by
  have hfinish : SameObjects t (finishSync p (askingEi s p (chipId s) e false) (resultWord st sat ovr v) t) := .finishSync (.refl t) ..
  rw [h.syncInstr_eq, hop]
  exact ⟨hasDone_finishSync (e := askingEi s p (chipId s) e false) ⟨_, h.asks_still (hy.run p), rfl⟩, (hfinish.obj _).trans hy.obj,
    hfinish.mem.trans hy.mem⟩

/-- An operation that its object holds waits. -/
theorem waits (hop : syncOp (ownObj p e) op (bits e.w 79 48) (ownSender s p e) (asking s p e) = (none, t))
    (hy : Becomes (ownObj p e) y (asking s p e) t) :
    obj (syncInstr p op s) (ownObj p e) = y ∧ (syncInstr p op s).mem = s.mem ∧
      ∃ f ∈ runAt (core (syncInstr p op s) p) 13, f.ord = e.ord ∧ f.ph = 2 := by
  rw [h.syncInstr_eq, hop]
  exact ⟨hy.obj, hy.mem, _, h.asks_still (hy.run p), rfl, rfl⟩

end TakesOwn

/-! ### BARRIER (R334, R335) -/

section BarrierRules
variable {p : Nat} {e : EI} {s : State} {x : SObj}

/-- The object once the arrival of `e` has been entered, and its state. -/
def arrivalEntered (s : State) (p : Nat) (e : EI) (x : SObj) : SObj := arrivedAt (ownSender s p e) (asking s p e) x
def arriving (s : State) (p : Nat) (e : EI) (x : SObj) : State :=
  perf (syncCtr (ownObj p e)) 1 (setObj (ownObj p e) (arrivalEntered s p e x) (asking s p e))

/-- A BARRIER that takes part in a barrier of its core, the object being `x`. -/
structure AtBarrier (s : State) (p : Nat) (e : EI) (x : SObj) : Prop where
  takes : TakesOwn s p 4 e
  object : x = obj s (ownObj p e)
  used : x.used = true
  live : x.orphaned = false
  barrier : x.barrier = true
  arg : bits e.w 79 48 = 0 ∨ bits e.w 79 48 = x.parties

namespace AtBarrier
variable (h : AtBarrier s p e x)
include h

theorem object_asking : x = obj (asking s p e) (ownObj p e) := h.object.trans (TakesOwn.obj_asking _)

theorem syncOp_eq : syncOp (ownObj p e) 4 (bits e.w 79 48) (ownSender s p e) (asking s p e) =
    let a := arrive (ownObj p e) (arriving s p e x)
    if a.1 then (none, a.2) else (some (9, false, true, 0), overrun (ownObj p e) (ownSender s p e) 4 (asking s p e)) :=
  syncOp_barrier_eq (h.takes.brkMatch_asking _) h.object_asking h.used h.live h.barrier h.arg rfl

theorem becomes_entered : Becomes (ownObj p e) (arrivalEntered s p e x) (asking s p e) (arriving s p e x) :=
  ((Becomes.refl ..).setObj (SObj.ne_default_of_used (x := arrivalEntered s p e x) h.used)).reports (.perf (.refl _) ..)

theorem object_arriving : arrivalEntered s p e x = obj (arriving s p e x) (ownObj p e) := h.becomes_entered.obj.symm

/-- An arrival that is counted makes the object `y`, and the instruction waits. -/
theorem waits_as {y : SObj} (hy : y.used = true)
    (ha : arrive (ownObj p e) (arriving s p e x) = (true, setObj (ownObj p e) y (arriving s p e x))) :
    obj (syncInstr p 4 s) (ownObj p e) = y ∧ ∃ f ∈ runAt (core (syncInstr p 4 s) p) 13, f.ord = e.ord ∧ f.ph = 2 := by
  have hop := h.syncOp_eq
  rw [ha] at hop
  obtain ⟨hobj, -, hrun⟩ := h.takes.waits hop (h.becomes_entered.setOwn (SObj.ne_default_of_used hy))
  exact ⟨hobj, hrun⟩

theorem waits_for_others (h0 : x.phase = 0) (hc : x.cur + 1 ≠ x.parties) :
    obj (syncInstr p 4 s) (ownObj p e) = { arrivalEntered s p e x with cur := x.cur + 1 } ∧
      ∃ f ∈ runAt (core (syncInstr p 4 s) p) 13, f.ord = e.ord ∧ f.ph = 2 :=
  h.waits_as h.used (arrive_gathers h.object_arriving h0 hc)

theorem waits_for_next (h1 : x.phase = 1) (hn : x.next + 1 ≤ x.parties - x.leaving) :
    obj (syncInstr p 4 s) (ownObj p e) = { arrivalEntered s p e x with next := x.next + 1 } ∧
      ∃ f ∈ runAt (core (syncInstr p 4 s) p) 13, f.ord = e.ord ∧ f.ph = 2 :=
  h.waits_as h.used (arrive_next h.object_arriving h1 hn)

/-- The last arrival completes the round. -/
theorem releases (h0 : x.phase = 0) (hc : x.cur + 1 = x.parties) :
    (obj (syncInstr p 4 s) (ownObj p e)).value = min (x.value + 1) 0xFFFFFFFF ∧
      (∀ w ∈ (obj (syncInstr p 4 s) (ownObj p e)).waiters, w.bar = false) ∧ (syncInstr p 4 s).mem = s.mem := by
  have hcounted := h.becomes_entered.setOwn (y := { arrivalEntered s p e x with cur := x.cur + 1 }) (SObj.ne_default_of_used h.used)
  have hop := h.syncOp_eq
  rw [arrive_completes h.object_arriving h0 hc] at hop
  rw [h.takes.syncInstr_eq, hop]
  obtain ⟨y, hkeep, hval, hbar⟩ := releaseRound_object (ownObj p e)
    (setObj (ownObj p e) { arrivalEntered s p e x with cur := x.cur + 1 } (arriving s p e x))
  have hbefore : (obj (setObj (ownObj p e) { arrivalEntered s p e x with cur := x.cur + 1 } (arriving s p e x)) (ownObj p e)).value = x.value :=
    (congrArg SObj.value hcounted.obj).trans rfl
  have hval' : y.value = min (x.value + 1) 0xFFFFFFFF := hval.trans (by rw [hbefore])
  have hne : y ≠ {} := by
    rintro rfl
    have hzero : (0 : Nat) = min (x.value + 1) 0xFFFFFFFF := hval'
    omega
  have hset := hcounted.setOwn hne
  have hobj := (hkeep.obj (ownObj p e)).trans hset.obj
  exact ⟨(congrArg SObj.value hobj).trans hval', fun w hw => hbar w (by rwa [← congrArg SObj.waiters hobj]), hkeep.mem.trans hset.mem⟩

/-- An arrival that no round can take is an overrun (R335). -/
theorem overruns (hover : 2 ≤ x.phase ∨ x.phase = 1 ∧ x.parties - x.leaving < x.next + 1) : ∃ y, hasDone p 13 e (syncInstr p 4 s) ∧
    obj (syncInstr p 4 s) (ownObj p e) = y ∧ y.waiters = x.waiters ∧ y.value = x.value ∧ y.cur = x.cur ∧ y.next = x.next ∧
      bit y.flags 3 = true := by
  have hop := h.syncOp_eq
  rw [arrive_overruns h.object_arriving hover] at hop
  obtain ⟨y, hy, hfields⟩ := overrun_object (w := ownSender s p e) h.object_asking h.used
  obtain ⟨hdone, hobj, -⟩ := h.takes.ends hop hy
  exact ⟨y, hdone, hobj, hfields⟩

end AtBarrier
end BarrierRules

/-! ### A SIGNAL that its region keeps back (R288) -/

theorem deferred_signal {p : Nat} {e : EI} {s : State} (he : atEngine s p 13 5 1 e = true) (hr : e.region = true)
    (ho : (core s p).open_ = true) (hd : (core s p).defer.length < 16) : hasDone p 13 e (syncInstr p 1 s) ∧
      (core (syncInstr p 1 s) p).defer = (core s p).defer ++ [e] ∧ SameObjects s (syncInstr p 1 s) := by
  rw [syncInstr_deferred he rfl hr ho, if_neg (not_le.mpr hd)]
  have hcore : core (draw (deferring s p e)).2 p = { core s p with defer := (core s p).defer ++ [e] } := core_setCore_same ..
  have hkept : SameObjects s (deferring s p e) := .setCore (.refl s) rfl
  have hdrawn : SameObjects s (draw (deferring s p e)).2 := hkept.aside
  refine ⟨hasDone_finishSync ⟨e, ?_, rfl⟩, ?_, hdrawn.finishSync ..⟩
  · rw [hcore]
    exact mem_runAt_of_atEngine he
  · exact finishSync_defer.trans (congrArg Core.defer hcore)

/-- Settles O42: an operation on an own object by what its object makes of it, a deferred SIGNAL by the list that keeps it, any other
operation by the tag that it sends. -/
theorem syncInstructionsComplete : Obligations.SyncInstructionsComplete := by
  unfold Obligations.SyncInstructionsComplete
  refine ⟨?signal, ?deferred, ?decrement, ?wait, ?judge, ?barrier, ?init, ?rejected, ?away⟩
  case signal =>
    intro p e s x r he hreg hbrk hrem hr ht hx hu ho hb hv
    subst hr
    have h : TakesOwn s p 1 e := ⟨he, fun _ => hreg, hbrk, hrem, ht⟩
    obtain ⟨sat, v, t, y, hop, hy, hval, hwait⟩ := syncOp_signal (arg := bits e.w 79 48) (w := ownSender s p e)
      (hx.trans (TakesOwn.obj_asking _)) (h.brkMatch_asking _) hu ho hb hv
    obtain ⟨hdone, hobj, hmem⟩ := h.ends hop hy
    exact ⟨_, rfl, hdone, (congrArg SObj.value hobj).trans hval, (congrArg SObj.waiters hobj).trans hwait, hmem⟩
  case deferred =>
    intro p e s he hr ho
    refine ⟨fun hd => ?_, fun hd => ?_⟩
    · obtain ⟨hdone, hdefer, hsame⟩ := deferred_signal he hr ho hd
      exact ⟨_, rfl, hdone, hdefer, hsame.obj, hsame.mem⟩
    · have hfull : syncInstr p 1 s = illegalEi p 13 e s := by rw [syncInstr_deferred he rfl hr ho, if_pos hd]
      exact congrArg Host.Outcome.next hfull
  case decrement =>
    intro p e s x r he hbrk hrem hr ht hx hu ho hb
    subst hr
    have h : TakesOwn s p 3 e := ⟨he, nofun, hbrk, hrem, ht⟩
    obtain ⟨sat, v, t, y, hop, hy, hval, hwait⟩ := syncOp_decrement (arg := bits e.w 79 48) (w := ownSender s p e)
      (hx.trans (TakesOwn.obj_asking _)) (h.brkMatch_asking _) hu ho hb
    obtain ⟨hdone, hobj, hmem⟩ := h.ends hop hy
    exact ⟨_, rfl, hdone, (congrArg SObj.value hobj).trans hval, (congrArg SObj.waiters hobj).trans hwait, hmem⟩
  case wait =>
    intro p e s x r he hbrk hrem hr ht hx hu ho
    subst hr
    have h : TakesOwn s p 2 e := ⟨he, nofun, hbrk, hrem, ht⟩
    obtain ⟨t, hop, hy⟩ := syncOp_wait (arg := bits e.w 79 48) (w := ownSender s p e) (hx.trans (TakesOwn.obj_asking _))
      (h.brkMatch_asking _) hu ho
    obtain ⟨hobj, hmem, hrun⟩ := h.waits hop hy
    exact ⟨_, _, rfl, hobj, rfl, rfl, rfl, rfl, hmem, hrun⟩
  case judge =>
    intro r w s hv hf
    simp only [judgeWait, hv, hf, if_true]
  case barrier =>
    intro p e s x r he hbrk hrem hr ht hx hu ho hb harg
    subst hr
    have h : AtBarrier s p e x := ⟨⟨he, nofun, hbrk, hrem, ht⟩, hx, hu, ho, hb, harg⟩
    refine ⟨fun h0 hc => ?_, fun h0 hc => ⟨_, rfl, h.releases h0 hc⟩, fun h1 hn => ?_, fun hover => ?_⟩
    · obtain ⟨hobj, hrun⟩ := h.waits_for_others h0 hc
      exact ⟨_, _, rfl, rfl, rfl, (congrArg SObj.cur hobj).trans rfl, congrArg SObj.waiters hobj, (congrArg SObj.value hobj).trans rfl, hrun⟩
    · obtain ⟨hobj, hrun⟩ := h.waits_for_next h1 hn
      exact ⟨_, _, rfl, rfl, rfl, (congrArg SObj.next hobj).trans rfl, (congrArg SObj.cur hobj).trans rfl, congrArg SObj.waiters hobj,
        (congrArg SObj.value hobj).trans rfl, hrun⟩
    · obtain ⟨y, hdone, rfl, hwait, hval, hcur, hnext, hflag⟩ := h.overruns hover
      exact ⟨_, rfl, hdone, hwait, hval, hcur, hnext, hflag⟩
  case init =>
    intro p e s x r he hbrk hrem hr ht hx hlive hidle hcur hnext hleave harg
    subst hr
    have h : TakesOwn s p 5 e := ⟨he, nofun, hbrk, hrem, ht⟩
    have hne : signed_ (ownSender s p e) 5 (asking s p e) (initObj x (bits e.w 79 48) p) ≠ {} := by
      intro heq
      have hflags : 32 + _ = 0 := congrArg SObj.flags heq
      omega
    obtain ⟨hdone, hobj, hmem⟩ := h.ends (syncOp_init_eq (h.brkMatch_asking _) (hx.trans (TakesOwn.obj_asking _)) hlive rfl rfl hidle hcur
      hnext hleave harg) (((Becomes.refl ..).setObj hne).reports (.perf (.refl _) ..))
    exact ⟨_, rfl, hdone, (congrArg SObj.value hobj).trans rfl, (congrArg SObj.flags hobj).trans rfl, (congrArg SObj.cur hobj).trans rfl, hmem⟩
  case rejected =>
    intro p e s x r op c hc he hreg hbrk hrem hr ht hx hrej
    subst hr hx
    have hop : op = 1 ∨ op = 2 ∨ op = 3 ∨ op = 4 := by
      simp only [List.mem_cons, Prod.mk.injEq, List.not_mem_nil, or_false] at hc
      omega
    have h : TakesOwn s p op e := ⟨he, fun _ => hreg, hbrk, hrem, ht⟩
    rw [TakesOwn.obj_asking (p := p) (e := e)] at hrej
    obtain ⟨status, hreject⟩ := syncOp_rejects (arg := bits e.w 79 48) (w := ownSender s p e) (h.brkMatch_asking _) hop hrej
    obtain ⟨hdone, hobj, hmem⟩ := h.ends hreject ((Becomes.refl ..).reports (syncReject_reports status))
    exact ⟨_, exec_syncInstr (List.mem_append_left [(Instr.initSync p, 5)] hc), hdone, hobj.trans (TakesOwn.obj_asking _).symm, hmem⟩
  case away =>
    intro p e s op c dest r b f hc he hreg hdest hb hf
    exact (exec_syncInstr hc).trans (congrArg _ (syncInstr_away he hreg hdest hb hf))

end Sys2Proof.Machine
end

section
/-! PROOFS. A scalar register after a write to it; O38. -/

namespace Sys2Proof.Machine
open Sys2Proof

/-- R261 for a register file kept in canonical form, the keys of its list rising strictly. -/
theorem sreg_setS_same {c : Core} {g i : Nat} (v : Nat) (hi : i ≠ 0) (hc : mwf c.s = true) : sreg (setS g i v c) g i = v % 2 ^ 64 := by
  simp only [sreg, setS, if_neg hi]
  exact mgetD_msetD_same _ _ _ hc

/-- A core whose register file lists register 1 of half 0 twice, with the value 1. -/
def twiceListedScalar : Core := { s := [(1, 1), (1, 1)] }

/-- Refutes O38: its clause on reading back a register speaks of every core, also of one whose register file is not in canonical form. There
a write of 0 removes the first of two listings of the register, and a read finds the second. Only that hypothesis is missing:
`sreg_setS_same` is the clause with it. -/
theorem not_scalarInstructionsComplete : ¬ Obligations.ScalarInstructionsComplete := by
  unfold Obligations.ScalarInstructionsComplete
  rintro ⟨-, -, -, -, -, -, -, -, -, hread, -⟩
  have hzero : sreg (setS 0 1 0 twiceListedScalar) 0 1 = 0 := (hread twiceListedScalar 0 1 0).2.2 (by decide)
  have hone : sreg (setS 0 1 0 twiceListedScalar) 0 1 = 1 := by decide
  omega

end Sys2Proof.Machine
end

section
/-! PROOFS. A vector register after a write to it, and a load into it; O39. -/

namespace Sys2Proof.Machine
open Sys2Proof

/-- A vector lane after a write, for a vector file kept in canonical form, the keys of its list rising strictly. -/
theorem lane_setLane_same {c : Core} {e r l : Nat} (x : Nat) (hc : mwf c.v = true) : lane (setLane e r l x c) e r l = x % 2 ^ 32 :=
  mgetD_msetD_same _ _ _ hc

/-- A released VLD of one group of BF16 pairs, from address 0 of core store to register 0 of engine 0. -/
def loadGroup : EI := { w := 2 * 2 ^ 124 + 1 * 2 ^ 116 + 2 ^ 112, ph := 1 }
/-- Core 131 with `loadGroup` at its vector engine, core store zero, and a vector file that lists lane 0 of register 0 twice, with the
value 1. -/
def twiceListedLane : State := { cores := [(131, { st := 1, run := [(2, [loadGroup])], v := [(0, 1), (0, 1)] })] }

theorem twiceListedLane_atEngine : atEngine twiceListedLane 131 (vq 0) 2 1 loadGroup = true := by decide +kernel

theorem twiceListedLane_clean (i : Nat) (hi : i < vCnt loadGroup.w) : localPoison twiceListedLane 131
    (bits loadGroup.w 75 55 * 32 + i * (bits loadGroup.w 54 39 * 32)) (vGroupBytes loadGroup.w) = false := by
  have hone : vCnt loadGroup.w = 1 := by decide +kernel
  obtain rfl : i = 0 := by omega
  decide +kernel

/-- Core store holds 0 where the load reads, and after the load the lane still holds 1. -/
theorem exec_vld_twiceListedLane : ∃ t, exec (.vld 131 0) twiceListedLane = .next t ∧ lane (core t 131) 0 0 0 = 1 :=
  ⟨_, rfl, by decide +kernel⟩

theorem localLe_twiceListedLane : localLe twiceListedLane 131 0 4 = 0 := by decide +kernel

/-- Refutes O39: its clause on VLD speaks of every core, also of one whose vector file is not in canonical form. There the load of a 0
removes the first of two listings of a lane, and a read finds the second. Only that hypothesis is missing: `lane_setLane_same` is what a
write to a lane leaves with it. -/
theorem not_vectorInstructionsComplete : ¬ Obligations.VectorInstructionsComplete := by
  unfold Obligations.VectorInstructionsComplete
  rintro ⟨-, -, -, -, -, -, -, -, -, -, hload, -⟩
  obtain ⟨t, hnext, -, -, hlanes⟩ := (hload 131 0 loadGroup twiceListedLane twiceListedLane_atEngine).1 twiceListedLane_clean
  obtain ⟨u, hexec, hone⟩ := exec_vld_twiceListedLane
  obtain rfl : u = t := Host.Outcome.next.inj (hexec.symm.trans hnext)
  have hzero : lane (core u 131) 0 0 0 = localLe twiceListedLane 131 0 4 := hlanes (by decide +kernel) 0 0 (by decide +kernel) (by decide)
  rw [localLe_twiceListedLane, hone] at hzero
  exact absurd hzero (by decide)

end Sys2Proof.Machine
end

section
/-! PROOFS. The step of a control word: the word that has its effect on the core alone, the word that waits, the word that is illegal, and
the words of the control core; O35. -/

namespace Sys2Proof.Machine
open Sys2Proof

/-! ### The step of a control word (R264, R265, R291) -/

section WordStep
variable {p w op : Nat} {s : State} {f : Nat → State → Option State}

/-- The word at the PC of core `p`, where its program has one. -/
def wordAt (s : State) (p : Nat) : Option Nat := (core s p).prog.bind fun g => g.ctl[(core s p).pc]?

/-- A core that may decode, and whose PC no breakpoint watches, takes up the word there, where that has opcode `op` or is illegal. -/
theorem ctlStep_canDecode (h : canDecode s p = true) (hbrk : ∀ b ∈ (core s p).brks, b.2.kind ≠ 1)
    (hop : legalCtl ((wordAt s p).getD 0) = true → (wordAt s p).isSome = true → bits ((wordAt s p).getD 0) 63 56 = op) :
    ctlStep p op f s =
      if ((wordAt s p).isNone || !legalCtl ((wordAt s p).getD 0)) = true then
        illegal p (core s p).pc 0 ((wordAt s p).getD 0) 0 (looked p s)
      else if (ctlRegs ((wordAt s p).getD 0)).any (core s p).kpend.contains = true then looked p s
      else (f ((wordAt s p).getD 0) (looked p s)).elim (looked p s) (decoded p) := by
  have hlooked : (if (core s p).pass then s else brkMatch p 1 (core s p).pc (setCore p { core s p with pass := true } s)) = looked p s := by
    unfold looked
    split
    · rfl
    · exact brkMatch_none _ _ _ _ (by simpa using fun a b hb => hbrk (a, b) hb)
  have hgoes : (core (looked p s) p).halting = false := by
    simp only [canDecode, Bool.and_eq_true, Bool.not_eq_true'] at h
    obtain ⟨-, hhalt⟩ := h
    rw [core_looked]
    exact hhalt
  have htaken : (!((wordAt s p).isNone || !legalCtl ((wordAt s p).getD 0)) && bits ((wordAt s p).getD 0) 63 56 != op) = false := by
    cases hw : wordAt s p with
    | none => simp
    | some w => simpa [hw] using hop
  unfold wordAt at *
  simp only [ctlStep, h, htaken, hlooked, hgoes, Bool.not_true, Bool.false_eq_true, if_false]
  cases f (((core s p).prog.bind fun g => g.ctl[(core s p).pc]?).getD 0) (looked p s) <;> rfl

/-- A legal word that needs a pending register waits (R265). -/
theorem ctlStep_pending (h : canDecode s p = true) (hbrk : ∀ b ∈ (core s p).brks, b.2.kind ≠ 1) (hw : wordAt s p = some w)
    (hlegal : legalCtl w = true) (hpend : ∃ r ∈ ctlRegs w, r ∈ (core s p).kpend) : ctlStep p (bits w 63 56) f s = looked p s := by
  have hany : (ctlRegs w).any (core s p).kpend.contains = true := by simpa using hpend
  rw [ctlStep_canDecode h hbrk (by simp [hw])]
  simp only [hw, Option.isNone_some, Option.getD_some, hlegal, hany, Bool.not_true, Bool.or_self, Bool.false_eq_true, if_false, if_true]

/-- A word that is not legal, or none, is reported whatever it is taken for (R291). -/
theorem ctlStep_illegal (h : canDecode s p = true) (hbrk : ∀ b ∈ (core s p).brks, b.2.kind ≠ 1)
    (hbad : wordAt s p = none ∨ legalCtl ((wordAt s p).getD 0) = false) :
    ctlStep p op f s = illegal p (core s p).pc 0 ((wordAt s p).getD 0) 0 (looked p s) := by
  have hbad' : ((wordAt s p).isNone || !legalCtl ((wordAt s p).getD 0)) = true := by rcases hbad with h | h <;> simp [h]
  rw [ctlStep_canDecode h hbrk (by rcases hbad with h | h <;> simp [h]), if_pos hbad']

/-- An effect of a word on its core that neither sees whether the PC was compared nor starts a single step. -/
structure WordEffect (g : Core → Core) : Prop where
  pass : ∀ c : Core, { g { c with pass := true } with pass := false } = { g c with pass := false }
  single : ∀ c, (g c).single = c.single

/-- A word whose whole effect is on its core. -/
theorem ctlStep_effect {g : Core → Core} (h : atWord s p w = true) (hop : bits w 63 56 = op) (hg : WordEffect g)
    (hf : f w (looked p s) = some (setCore p (g (core (looked p s) p)) (looked p s))) :
    ctlStep p op f s = decodedTo p (g (core s p)) s := by
  have hsingle : (g (core (looked p s) p)).single = false := by rw [hg.single, core_looked]; exact atWord_single h
  rw [ctlStep_atWord h hop, hf]
  dsimp only
  rw [decoded_setCore _ _ _ hsingle, core_looked, decodedTo, decodedTo, setCore_looked, hg.pass]

theorem ctlPure_effect {g : Nat → Core → Core} (h : atWord s p w = true) (hop : bits w 63 56 = op)
    (hg : WordEffect fun c => nextPc (g w c)) : ctlPure p op g s = decodedTo p (nextPc (g w (core s p))) s := ctlStep_effect h hop hg rfl

/-- A word that has no effect yet waits. -/
theorem ctlStep_waits (h : atWord s p w = true) (hop : bits w 63 56 = op) (hf : f w (looked p s) = none) : ctlStep p op f s = looked p s := by
  rw [ctlStep_atWord h hop, hf]

theorem ctlStep_some {t : State} (h : atWord s p w = true) (hop : bits w 63 56 = op) (hf : f w (looked p s) = some t) :
    ctlStep p op f s = decoded p t := by
  rw [ctlStep_atWord h hop, hf]

end WordStep

/-! ### What a comparison of the PC leaves -/

section LookedRules
variable (p : Nat) (s : State)

theorem looked_eq : looked p s = { s with cores := (looked p s).cores } := by unfold looked; split <;> rfl

theorem jobOf_looked : jobOf (looked p s) p = jobOf s p := by
  unfold jobOf
  rw [core_looked, looked_eq]
  rfl

theorem jobField_looked (sel : Nat) : jobField (looked p s) p sel = jobField s p sel := by
  have hchip : chipId (looked p s) = chipId s := by rw [looked_eq]; rfl
  have hlog : lcore (looked p s) p = lcore s p := by rw [looked_eq]; rfl
  have hnow : now (looked p s) = now s := by rw [looked_eq]; rfl
  have hstep : (core (looked p s) p).step = (core s p).step := by rw [core_looked]
  unfold jobField
  rw [jobOf_looked, hchip, hlog, hnow, hstep]

end LookedRules

/-! ### Effects on the core -/

theorem setK_pass (i v : Nat) (b : Bool) (c : Core) : setK i v { c with pass := b } = { setK i v c with pass := b } := by
  unfold setK; split <;> rfl

/-- What LOOP makes of the register that it counts down. -/
def countedDown (i : Nat) (c : Core) : Nat := (kreg c i + 2 ^ 64 - 1) % 2 ^ 64

theorem countedDown_pass (i : Nat) (c : Core) : countedDown i { c with pass := true } = countedDown i c := by
  have hk : kreg { c with pass := true } i = kreg c i := rfl
  rw [countedDown, hk, countedDown]

namespace WordEffect

theorem next : WordEffect nextPc := ⟨fun _ => rfl, fun _ => rfl⟩

/-- A word that writes the K register `i`; the value depends on the core only through fields that no word's own step changes. -/
theorem setK {i : Nat} {v : Core → Nat} (hv : ∀ c : Core, v { c with pass := true } = v c := by intro; rfl) :
    WordEffect fun c => nextPc (setK i (v c) c) := by
  refine ⟨fun c => ?_, fun c => ?_⟩
  · rw [setK_pass, hv]; rfl
  · rw [nextPc_single, setK_single]

theorem branch (cond : Core → Bool) (pc : Nat) (hc : ∀ c : Core, cond { c with pass := true } = cond c := by intro; rfl) :
    WordEffect fun c => { c with pc := if cond c then pc else (c.pc + 1) % 8192 } :=
  ⟨fun c => by rw [hc], fun _ => rfl⟩

/-- LOOP writes the register that it counts down and goes back until that is 0. -/
theorem loop {i pc : Nat} {v : Core → Nat} (hv : ∀ c : Core, v { c with pass := true } = v c) : WordEffect fun c =>
    if v c = 0 then nextPc (Machine.setK i (v c) c) else { Machine.setK i (v c) c with pc := pc } := by
  refine ⟨fun c => ?_, fun c => ?_⟩
  · dsimp only
    rw [setK_pass, hv]
    split <;> rfl
  · dsimp only
    split
    · rw [nextPc_single, setK_single]
    · exact setK_single ..

theorem psafe : WordEffect fun c => if c.preempt ∧ c.open_ = false then { nextPc c with st := 3 } else nextPc c := by
  refine ⟨fun c => ?_, fun c => ?_⟩ <;> (dsimp only; split <;> rfl)

theorem stepi : WordEffect fun c => nextPc { c with step := (c.step + 1) % 2 ^ 32 } := ⟨fun _ => rfl, fun _ => rfl⟩

theorem issue (w e t : Nat) : WordEffect fun c => nextPc (takeTickets w e t c) := ⟨fun _ => rfl, fun c => by rw [nextPc_single, takeTickets_single]⟩

end WordEffect

theorem exec_loopK (p : Nat) (s : State) : exec (.loopK p) s = .next (ctlStep p 0x09 (fun w t => some (setCore p
    (if countedDown (bits w 55 52) (core t p) = 0 then nextPc (setK (bits w 55 52) (countedDown (bits w 55 52) (core t p)) (core t p))
    else { setK (bits w 55 52) (countedDown (bits w 55 52) (core t p)) (core t p) with pc := bits w 12 0 }) t)) s) := rfl

/-! ### STEPI and BRK (R296) -/

/-- No breakpoint of a core that stands at a word watches STEP. -/
theorem brkMatch_setCore_none {p w v : Nat} {s : State} (h : atWord s p w = true) {c : Core} (hc : c.brks = (core s p).brks) (t : State) :
    brkMatch p 2 v (setCore p c t) = setCore p c t := by
  simp only [atWord, Bool.and_eq_true, List.all_eq_true] at h
  obtain ⟨⟨⟨-, hbrk⟩, -⟩, -⟩ := h
  refine brkMatch_none _ _ _ _ ?_
  rw [core_setCore_same, hc, List.all_eq_true]
  exact fun b hb => (hbrk b hb).2

/-! ### ISSUE (R268, R269, R291) -/

section IssueRules
variable {p w a b e : Nat} {g : Prog} {s : State} (h : atWord s p w = true) (hop : bits w 63 56 = 0x01) (hg : (core s p).prog = some g)
  (ha : g.tpl[bits w 55 44]? = some a) (hb : patch a (bits w 43 37) (kreg (core s p)) = some b)
  (he : patch b (bits w 36 30) (kreg (core s p)) = some e)
include h hop hg ha hb he

/-- An ISSUE whose template patches to the instruction `e`. -/
theorem exec_issue : exec (.issue p) s = .next (
    if legalEi (bit (core s p).mode 0) (core s p).open_ e = false then
      decoded p (illegal p (core s p).pc (bits w 55 44) w e (looked p s))
    else if queueDepth (eiQueue e) ≤ (queueAt (core s p) (eiQueue e)).length then looked p s
    else decodedTo p (nextPc (takeTickets w e (bits w 55 44) (core s p))) s) := by
  have hprog : (core (looked p s) p).prog = some g := by rw [core_looked]; exact hg
  have hpatch : ((patch a (bits w 43 37) (kreg (core (looked p s) p))).bind fun e => patch e (bits w 36 30) (kreg (core (looked p s) p))) =
      some e := by
    have hk : kreg (core (looked p s) p) = kreg (core s p) := by rw [core_looked]; rfl
    rw [hk, hb, Option.bind_some, he]
  refine congrArg Host.Outcome.next ?_
  have hmode : (core (looked p s) p).mode = (core s p).mode := by rw [core_looked]
  have hopen : (core (looked p s) p).open_ = (core s p).open_ := by rw [core_looked]
  have hpc : (core (looked p s) p).pc = (core s p).pc := by rw [core_looked]
  have hqueue : queueAt (core (looked p s) p) = queueAt (core s p) := by rw [core_looked]; rfl
  split
  next hbad =>
    refine ctlStep_some h hop ?_
    simp only [hprog, Option.bind_some, ha, hpatch, hmode, hopen, hbad, hpc, Bool.not_false, if_true]
  next hgood =>
    have hgood : legalEi (bit (core s p).mode 0) (core s p).open_ e = true := by simpa using hgood
    split
    next hfull =>
      refine ctlStep_waits h hop ?_
      simp only [hprog, Option.bind_some, ha, hpatch, hmode, hopen, hgood, hqueue, hfull, Bool.not_true, Bool.false_eq_true, if_false, if_true]
    next hroom =>
      refine ctlStep_effect h hop (.issue ..) ?_
      simp only [hprog, Option.bind_some, ha, hpatch, hmode, hopen, hgood, hqueue, hroom, Bool.not_true, Bool.false_eq_true, if_false]

end IssueRules

/-! ### The rows of control words -/

section RowRules
variable {p w : Nat} {c : Instr}

theorem exec_registerWord (hc : (c, bits w 63 56) ∈ [(Instr.issue p, 0x01), (.setk p, 0x02), (.addk p, 0x03), (.alu p, 0x04), (.br p, 0x08),
    (.loopK p, 0x09), (.getj p, 0x15)]) (s : State) : ∃ f, exec c s = .next (ctlStep p (bits w 63 56) f s) := by
  simp only [List.mem_cons, Prod.mk.injEq, List.not_mem_nil, or_false] at hc
  rcases hc with ⟨rfl, hop⟩ | ⟨rfl, hop⟩ | ⟨rfl, hop⟩ | ⟨rfl, hop⟩ | ⟨rfl, hop⟩ | ⟨rfl, hop⟩ | ⟨rfl, hop⟩ <;>
    exact ⟨_, by rw [hop]; rfl⟩

theorem exec_controlWord (hc : c ∈ [Instr.nop p, .issue p, .setk p, .addk p, .alu p, .br p, .loopK p, .rbegin p, .rend p, .psafe p, .stepi p,
    .waitq p, .getj p, .endJob p, .brk p]) (s : State) : ∃ op f, exec c s = .next (ctlStep p op f s) := by
  simp only [List.mem_cons, List.not_mem_nil, or_false] at hc
  rcases hc with rfl | rfl | rfl | rfl | rfl | rfl | rfl | rfl | rfl | rfl | rfl | rfl | rfl | rfl | rfl <;> exact ⟨_, _, rfl⟩

end RowRules

/-- Settles O35: each word by its effect on the core, or by the wait or the report in its place. -/
theorem controlWordsComplete : Obligations.ControlWordsComplete := by
  unfold Obligations.ControlWordsComplete
  refine ⟨?nop, ?setk, ?addk, ?alu, ?br, ?loopK, ?stepi, ?getj, ?psafe, ?brk, ?waitq, ?waits, ?issue, ?kept, ?undecoded⟩
  case nop => exact fun p w s h hop => congrArg Host.Outcome.next (ctlPure_effect h hop .next)
  case setk => exact fun p w s h hop => congrArg Host.Outcome.next (ctlPure_effect h hop (.setK (v := fun _ => sext64 48 (bits w 47 0))))
  case addk => exact fun p w s h hop => congrArg Host.Outcome.next (ctlPure_effect h hop
    (.setK (v := fun c => kreg c (bits w 51 48) + sext64 32 (bits w 31 0))))
  case alu => exact fun p w s h hop => congrArg Host.Outcome.next (ctlPure_effect h hop
    (.setK (v := fun c => alu64 (bits w 43 40) (kreg c (bits w 51 48)) (kreg c (bits w 47 44)))))
  case br =>
    intro p w s h hop
    refine congrArg Host.Outcome.next (ctlStep_effect h hop
      (.branch (fun c => brCond (bits w 47 45) (kreg c (bits w 55 52)) (kreg c (bits w 51 48))) (bits w 12 0)) ?_)
    dsimp only
    split <;> rfl
  case loopK =>
    intro p w s h hop
    rw [exec_loopK, ctlStep_effect h hop (.loop (countedDown_pass _)) rfl]
    rfl
  case stepi =>
    intro p w s h hop
    refine congrArg Host.Outcome.next (ctlStep_effect h hop .stepi ?_)
    exact congrArg some (brkMatch_setCore_none h (by rw [core_looked]; rfl) _)
  case getj =>
    intro p w s h hop
    refine congrArg Host.Outcome.next (ctlStep_effect h hop (.setK (v := fun _ => jobField s p (bits w 7 0))) ?_)
    rw [jobField_looked]
  case psafe =>
    intro p w s h hop
    refine congrArg Host.Outcome.next (ctlStep_effect h hop .psafe ?_)
    simp [nextPc]
  case brk =>
    intro p w s h hop
    have hstay : { nextPc (core s p) with halting := true, brkHit := 0xFF, single := false } =
        { nextPc (core s p) with halting := true, brkHit := 0xFF } := by rw [← atWord_single h]; rfl
    rw [← hstay]
    refine congrArg Host.Outcome.next ((ctlStep_some h hop rfl).trans ((decoded_setCore _ _ _ rfl).trans ?_))
    rw [core_looked, decodedTo, decodedTo, setCore_looked]
    rfl
  case waitq =>
    intro p w s h hop hlive
    refine congrArg Host.Outcome.next (ctlStep_effect h hop .next ?_)
    have hlive' : earlierLive (core (looked p s) p) (bits w 14 0) (core (looked p s) p).ord = false := by rw [core_looked]; exact hlive
    simp only [hlive', Bool.false_eq_true, if_false]
  case waits =>
    intro p w s h hop hlive
    refine congrArg Host.Outcome.next (ctlStep_waits h hop ?_)
    have hlive' : earlierLive (core (looked p s) p) (bits w 14 0) (core (looked p s) p).ord = true := by rw [core_looked]; exact hlive
    simp only [hlive', if_true]
  case issue =>
    intro p w s g a b e h hop hg ha hb he hlegal hroom
    rw [exec_issue h hop hg ha hb he, if_neg (by simp [hlegal]), if_neg (not_le.mpr hroom)]
  case kept =>
    intro p w s g a b e h hop hg ha hb he
    refine ⟨fun hbad => ?_, fun hgood hfull => ?_⟩
    · rw [exec_issue h hop hg ha hb he, if_pos hbad]
    · rw [exec_issue h hop hg ha hb he, if_neg (by simp [hgood]), if_pos hfull]
  case undecoded =>
    intro p s h hbrk
    refine ⟨fun w c hc hw hlegal hpend => ?_, fun hw => ?_, fun w hw hbad c hc => ?_⟩
    · obtain ⟨f, hf⟩ := exec_registerWord hc s
      rw [hf, ctlStep_pending h hbrk hw hlegal hpend]
    · refine congrArg Host.Outcome.next ((ctlStep_illegal h hbrk (.inl hw)).trans ?_)
      rw [wordAt, hw]
      rfl
    · obtain ⟨op, f, hf⟩ := exec_controlWord hc s
      have hw' : wordAt s p = some w := hw
      rw [hf, ctlStep_illegal h hbrk (.inr (by rw [hw']; exact hbad)), hw']
      rfl

end Sys2Proof.Machine
end

section
/-! PROOFS. The words of retry regions and the end of a rank, the region that passes and the one that runs again; O36. -/

namespace Sys2Proof.Machine
open Sys2Proof

/-! ### The end of a rank (R292) -/

section RankEnd
variable {p i st : Nat} {s : State} {x : Inst} {j : Job}

/-- A rank that ends for no cause of the hardware leaves its core idle, notes its status in its job, and returns a job whose other ranks
are saved to its queue. -/
theorem endRank_eq (hhw : (core s p).hw = false) (hc : (core s p).inst = some i) (hx : inst? s i = some x) :
    ∃ (u : State) (area : Job → Mem), Keeps id (setCore p (endedCore (core s p)) s) u ∧ endRank p st s = requeueSaved i (setInst i { x with
      running := x.running.map fun j => { j with ended := mset j.ended (lcore s p - x.first) st, area := area j } } u) := by
  unfold endRank
  extract_lets c hw s1 s2
  have hx1 : inst? s1 i = some x := hx
  have hno : hw = false := by simp only [hw, c, hhw, Bool.false_and]
  rw [hno, if_neg Bool.false_ne_true]
  simp only [s2, c, hc, hx1]
  cases x.running with
  | none => exact ⟨_, fun j => j.area, .dropPreempt (.refl _) p, rfl⟩
  | some j => exact ⟨_, fun _ => _, .dropPreempt (.coreLog (.refl _) ..) p, rfl⟩

theorem core_endRank (hhw : (core s p).hw = false) (hc : (core s p).inst = some i) (hx : inst? s i = some x) :
    core (endRank p st s) p = endedCore (core s p) := by
  obtain ⟨u, area, hu, heq⟩ := endRank_eq (st := st) hhw hc hx
  have hcores := (requeueSaved_parts (s := setInst i { x with
    running := x.running.map fun j => { j with ended := mset j.ended (lcore s p - x.first) st, area := area j } } u) (i := i)).1
  rw [heq]
  unfold core
  rw [hcores]
  exact (hu.look p).trans (core_setCore_same ..)

/-- A job none of whose ranks was saved goes on, and has the status of the rank. -/
theorem inst_endRank (hhw : (core s p).hw = false) (hc : (core s p).inst = some i) (hx : inst? s i = some x) (hj : x.running = some j)
    (hsaved : j.saved = []) : ∃ y k, inst? (endRank p st s) i = some y ∧ y.running = some k ∧
      mget k.ended (lcore s p - x.first) = some st := by
  obtain ⟨u, area, hu, heq⟩ := endRank_eq (st := st) hhw hc hx
  rw [heq, hj, Option.map_some, requeueSaved_unsaved (instOf_setInst_same ..) rfl (by exact hsaved)]
  exact ⟨_, _, instOf_setInst_same .., rfl, mget_mset_same ..⟩

end RankEnd

/-- A job that is to end does so once nothing released is left. -/
theorem settle_ends {p st : Nat} {s : State} {c : Core} (hc : core s p = c) (hstop : c.stop = some st) (hempty : runEmpty c = true)
    (hhalt : c.halting = false) (hst : c.st ≠ 2) : settle p s = endRank p st s := by
  have hends : (runEmpty c && !c.halting && c.st != 2) = true := by simp [hempty, hhalt, hst]
  simp only [settle, hc, hstop, hends, if_true]

/-! ### Words of regions -/

section RegionWords
variable {p : Nat} {s : State}

@[simp] theorem ageSlots_single (c : Core) : (ageSlots c).single = c.single := rfl

theorem WordEffect.saving : WordEffect fun c => { c with st := 3 } := ⟨fun _ => rfl, fun _ => rfl⟩
theorem WordEffect.closing : WordEffect fun c => { nextPc c with closing := true } := ⟨fun _ => rfl, fun _ => rfl⟩

/-- What decoding one word more leaves of a core that takes no single steps. -/
theorem core_decoded (h : (core s p).single = false) : core (decoded p s) p = { core s p with pass := false } := by
  have hcore : core (decoded p s) p =
      { core s p with pass := false, halting := (core s p).halting || ((core s p).single && (core s p).st == 1) } := core_setCore_same ..
  rw [hcore, h, Bool.false_and, Bool.or_false]

/-- The core in which RBEGIN of region `rid` has opened it. -/
def openedCore (rid : Nat) (c : Core) : Core :=
  { ageSlots (nextPc c) with
    open_ := true, rid := rid, att := 0, rstart := (c.pc + 1) % 8192, snap := some { k := c.k, step := c.step, s := c.s } }

end RegionWords

/-- Settles O36: each word of a region by its effect or its report, END by the end of its rank, and the two ends of a region by their steps. -/
theorem regionsAndJobEnds : Obligations.RegionsAndJobEnds := by
  unfold Obligations.RegionsAndJobEnds
  refine ⟨?preempted, ?opens, ?closes, ?waits, ?ends, ?endInside, ?beginInside, ?endOther, ?passes, ?again, ?gives⟩
  case preempted =>
    intro p w s h hop ho hpre hnopre
    refine congrArg Host.Outcome.next (ctlStep_effect h hop .saving ?_)
    simp only [core_looked, ho, hpre, hnopre, Bool.not_false, Bool.and_self, Bool.false_eq_true, if_false, if_true]
  case opens =>
    intro p w s h hop ho hpre
    have hgo : ((core s p).preempt && !bit w 6) = false := by rcases hpre with h | h <;> simp [h]
    have hexec : exec (.rbegin p) s = .next (decoded p (coreLog p 3 (le 1 (bits w 5 0) ++ zeros 3)
        (setCore p (openedCore (bits w 5 0) (core (looked p s) p)) (looked p s)))) := by
      refine congrArg Host.Outcome.next (ctlStep_some h hop ?_)
      have ho' : (core (looked p s) p).open_ = false := by rw [core_looked]; exact ho
      have hgo' : ((core (looked p s) p).preempt && !bit w 6) = false := by rw [core_looked]; exact hgo
      simp only [ho', hgo', Bool.false_eq_true, if_false]
      rfl
    have hcore : core (coreLog p 3 (le 1 (bits w 5 0) ++ zeros 3)
        (setCore p (openedCore (bits w 5 0) (core (looked p s) p)) (looked p s))) p = openedCore (bits w 5 0) (core (looked p s) p) :=
      (Keeps.look (view := id) (.coreLog (.refl _) ..) p).trans (core_setCore_same ..)
    refine ⟨_, hexec, ?_⟩
    rw [core_decoded (by rw [hcore, core_looked]; exact atWord_single h), hcore, core_looked]
    rfl
  case closes =>
    intro p w s h hop ho hid
    refine congrArg Host.Outcome.next (ctlStep_effect h hop .closing ?_)
    have hown : (!(core (looked p s) p).open_ || (core (looked p s) p).rid != bits w 5 0) = false := by rw [core_looked]; simp [ho, hid]
    simp only [hown, Bool.false_eq_true, if_false]
    rfl
  case waits =>
    intro p w s h hop ho hlive
    refine congrArg Host.Outcome.next (ctlStep_waits h hop ?_)
    have ho' : (core (looked p s) p).open_ = false := by rw [core_looked]; exact ho
    have hlive' : allEmpty (core (looked p s) p) = false := by rw [core_looked]; exact hlive
    simp only [ho', hlive', Bool.false_eq_true, Bool.not_false, if_false, if_true]
  case ends =>
    intro p w s i x h hop ho hempty hhw hc hx
    have ho' : (core (looked p s) p).open_ = false := by rw [core_looked]; exact ho
    have hempty' : allEmpty (core (looked p s) p) = true := by rw [core_looked]; exact hempty
    have hhw' : (core (looked p s) p).hw = false := by rw [core_looked]; exact hhw
    have hc' : (core (looked p s) p).inst = some i := by rw [core_looked]; exact hc
    have hx' : inst? (looked p s) i = some x := by rw [looked_eq]; exact hx
    have hl : lcore (looked p s) p = lcore s p := by rw [looked_eq]; rfl
    have hexec : exec (.endJob p) s = .next (decoded p (endRank p (if bit w 0 then 12 else 0) (looked p s))) := by
      refine congrArg Host.Outcome.next (ctlStep_some h hop ?_)
      simp only [ho', hempty', Bool.false_eq_true, Bool.not_true, if_false]
    have hcore := core_endRank (st := if bit w 0 then 12 else 0) hhw' hc' hx'
    refine ⟨_, hexec, ?_, fun j hj hsaved => ?_⟩
    · rw [core_decoded (by rw [hcore]; rfl), hcore]
      rfl
    · rw [← hl]
      exact inst_endRank hhw' hc' hx' hj hsaved
  case endInside =>
    intro p w s h hop ho
    refine congrArg Host.Outcome.next (ctlStep_some h hop ?_)
    simp only [core_looked, ho, if_true]
  case beginInside =>
    intro p w s h hop ho
    refine congrArg Host.Outcome.next (ctlStep_some h hop ?_)
    simp only [core_looked, ho, if_true]
  case endOther =>
    intro p w s h hop hother
    refine congrArg Host.Outcome.next (ctlStep_some h hop ?_)
    have hother' : (!(core s p).open_ || (core s p).rid != bits w 5 0) = true := by rcases hother with h | h <;> simp [h]
    simp only [core_looked, hother', if_true]
  case passes =>
    intro p s hon hclosing hopen hfailed hstop hqueues hrun
    have hlive : ((core s p).queues.any (fun q => q.2.any (·.region)) || (core s p).run.any fun q => q.2.any (·.region)) = false := by
      simpa using ⟨fun a l hl e he => hqueues (a, l) hl e he, fun a l hl e he => hrun (a, l) hl e he⟩
    refine congrArg Host.Outcome.next ?_
    simp only [hon, hclosing, hopen, hfailed, hstop, hlive]
    rfl
  case again =>
    intro p x s hon hfailed hempty hstop hsnap hatt
    refine congrArg Host.Outcome.next ?_
    simp [hon, hfailed, hempty, hstop, hsnap, hatt]
  case gives =>
    intro p x s hon hfailed hempty hstop hsnap hatt hhalt hst
    have hlast : 3 < (core s p).att + 1 := by omega
    refine congrArg Host.Outcome.next ?_
    simp only [hon, hfailed, hempty, hstop, hsnap, hlast, Bool.not_true, Option.isSome_none, Bool.or_self, Bool.false_eq_true, if_false, if_true]
    exact settle_ends (core_setCore_same ..) rfl hempty hhalt hst

end Sys2Proof.Machine
end

section
/-! PROOFS. The release and the completion of engine instructions, and the halt of a core; O37. -/

namespace Sys2Proof.Machine
open Sys2Proof

/-! ### Release (R269, R271) -/

section ReleaseRules
variable {p q : Nat} {e : EI} {r : List EI} {s : State}

/-- The head `e` of queue `q`, before the instructions `r`, goes to its engine. -/
def released (p q : Nat) (e : EI) (r : List EI) (s : State) : State :=
  perf (baseCc p + 8) 1 (setCore p (setRun q
    (runAt (core s p) q ++ [{ e with ph := 1, rel := (core s p).rels, chip := if eiClass e.w = 6 then cjobDie s p e else e.chip }])
    (setQueue q r { core s p with rels := (core s p).rels + 1, relQ := relCycle (core s p) q ++ [q] })) s)

theorem exec_instrRelease (hq : queueAt (core s p) q = e :: r) : exec (.instrRelease p q) s = .next (
    if (!mayRelease s p || !passes s p q e || olderPasses s p q e) = true then s else brkMatch p 3 e.tpl (released p q e r s)) := by
  have hexec : exec (.instrRelease p q) s = execInstrRelease p q s := rfl
  rw [hexec, execInstrRelease]
  simp only [hq]
  rfl

theorem released_brks : (core (released p q e r s) p).brks = (core s p).brks := by
  have hcore : core (released p q e r s) p = setRun q _ (setQueue q r { core s p with rels := _, relQ := _ }) := core_setCore_same ..
  rw [hcore]
  rfl

end ReleaseRules

/-! ### Completion (R269, R525) -/

section CompletionRules
variable {p q : Nat} {e : EI} {s : State}

theorem core_utilDone (j : Nat) : core (utilDone p e s) j = core s j := by
  unfold utilDone
  dsimp only
  split <;> rfl

/-- A core from whose queue `q` the released instruction `e` has completed. -/
def completedCore (q : Nat) (e : EI) (c : Core) : Core :=
  setRun q ((runAt c q).filter fun x => x.ord != e.ord) { c with sb := completeSb e c.sb }

theorem exec_instrComplete (hon : coreOn s p = true) (hdone : (runAt (core s p) q).find? (fun x => x.ph == 3) = some e) :
    exec (.instrComplete p q) s = .next (settle p (utilDone p e (setCore p (completedCore q e (core s p)) s))) := by
  have hexec : exec (.instrComplete p q) s = execInstrComplete p q s := rfl
  rw [hexec, execInstrComplete]
  simp only [hdone, hon, Bool.not_true, Bool.false_eq_true, if_false]
  rfl

theorem core_completed : core (utilDone p e (setCore p (completedCore q e (core s p)) s)) p = completedCore q e (core s p) :=
  (core_utilDone p).trans (core_setCore_same ..)

/-- A job that is not to end goes on. -/
theorem settle_stays (h : (core s p).stop = none) : settle p s = s := by simp only [settle, h]

end CompletionRules

/-! ### Halting (R296) -/

section HaltRules
variable {p : Nat} {s : State}

/-- A core that has halted; breakpoint `b`, the one that it hit, is gone where it was to serve once. -/
def haltedCore (b : Brk) (c : Core) : Core :=
  { c with st := 2, halting := false, single := false,
           brks := if bit b.flags 1 && c.brkHit != 0xFF then mset c.brks c.brkHit { b with kind := 0 } else c.brks }

/-- Core `q` halts too, unless it is `p` that stops the chip. -/
def haltAlso (p q : Nat) (s : State) : State :=
  if q != p && (core s q).st == 1 && !(core s q).halting then
    setCore q { core s q with halting := true, single := true, brkHit := 0xFF } s
  else s

/-- The record and the event of a halt. -/
def haltTold (p : Nat) (c : Core) (s : State) : State :=
  let u := coreLog p 6 (le 1 c.brkHit ++ [0] ++ le 2 c.pc ++ le 4 c.step) s
  sendEvent 6 0 (le 1 (lcore u p) ++ le 1 p ++ le 1 c.brkHit ++ [0] ++ le 2 c.pc ++ zeros 2 ++ le 4 c.step) (ccErr p 4 u)

theorem exec_breakpointHit {b : Brk} (hon : coreOn s p = true) (hhalt : (core s p).halting = true) (hf : (core s p).failed = false)
    (hst : (core s p).st = 1) (hempty : runEmpty (core s p) = true) (hb : mgetD (core s p).brks (core s p).brkHit {} = b) :
    exec (.breakpointHit p) s = .next (
      let t := setCore p (haltedCore b (core s p)) s
      if ((core s p).single && (core s p).brkHit == 0xFF) = true then t
      else if ((core s p).brkHit != 0xFF && bit b.flags 0) = true then
        (List.range (haltTold p (core s p) t).nv.cores).foldl (fun t l => haltAlso p (physOf t l) t) (haltTold p (core s p) t)
      else haltTold p (core s p) t) := by
  have hexec : exec (.breakpointHit p) s = execBreakpointHit p s := rfl
  have hmay : (!coreOn s p || !(core s p).halting || (core s p).failed || (core s p).st != 1 || !runEmpty (core s p)) = false := by
    simp [hon, hhalt, hf, hst, hempty]
  rw [hexec, execBreakpointHit]
  simp only [hmay, hb, Bool.false_eq_true, if_false]
  cases hquiet : (core s p).single && (core s p).brkHit == 0xFF with
  | true => simp only [if_true, haltedCore]
  | false => simp only [Bool.false_eq_true, if_false, haltedCore, haltTold, haltAlso]

theorem core_haltTold (c : Core) : core (haltTold p c s) p = core s p :=
  Keeps.look (view := id) (.sendEvent (.ccErr (.coreLog (.refl s) ..) ..) ..) p

theorem core_haltAlso (q : Nat) : core (haltAlso p q s) p = core s p := by
  unfold haltAlso
  split
  next h =>
    have hne : p ≠ q := by
      simp only [Bool.and_eq_true, bne_iff_ne] at h
      exact fun hp => h.1.1 hp.symm
    exact core_setCore_other _ _ hne
  next => rfl

end HaltRules

/-- Settles O37: each step by what it makes of its core, or by the reason for which nothing happens. -/
theorem instructionsFlow : Obligations.InstructionsFlow := by
  unfold Obligations.InstructionsFlow
  refine ⟨?releases, ?stays, ?completes, ?ends, ?none_done, ?own_halt, ?hit⟩
  case releases =>
    intro p q e r s hmay hq hpass holder hbrk
    have hnone : brkMatch p 3 e.tpl (released p q e r s) = released p q e r s := by
      refine brkMatch_none _ _ _ _ ?_
      rw [released_brks]
      simpa using fun a b hb => hbrk (a, b) hb
    rw [exec_instrRelease hq, hnone]
    simp only [hmay, hpass, holder, Bool.not_true, Bool.or_self, Bool.false_eq_true, if_false]
    rfl
  case stays =>
    intro p q e r s hq hheld
    have hheld' : (!mayRelease s p || !passes s p q e || olderPasses s p q e) = true := by rcases hheld with h | h | h <;> simp [h]
    rw [exec_instrRelease hq, if_pos hheld']
  case completes =>
    intro p q e s hon hdone hstop
    rw [exec_instrComplete hon hdone, settle_stays (by rw [core_completed]; exact hstop)]
    rfl
  case ends =>
    intro p q e s st hon hdone hstop hempty hhalt hst
    rw [exec_instrComplete hon hdone, settle_ends core_completed hstop hempty hhalt hst]
    rfl
  case none_done =>
    intro p q s hdone
    have hexec : exec (.instrComplete p q) s = execInstrComplete p q s := rfl
    rw [hexec, execInstrComplete]
    simp only [hdone]
  case own_halt =>
    intro p s hon hhalt hf hst hempty hhit
    have htook : haltedCore (mgetD (core s p).brks (core s p).brkHit {}) (core s p) =
        { core s p with st := 2, halting := false, single := false } := by simp [haltedCore, hhit]
    have htold : ∀ t, haltTold p (core s p) t =
        let u := coreLog p 6 ([0xFF, 0] ++ le 2 (core s p).pc ++ le 4 (core s p).step) t
        sendEvent 6 0 (le 1 (lcore u p) ++ le 1 p ++ [0xFF, 0] ++ le 2 (core s p).pc ++ zeros 2 ++ le 4 (core s p).step) (ccErr p 4 u) := by
      have hone : le 1 0xFF = [0xFF] := by decide
      intro t
      simp only [haltTold, hhit, hone, List.append_assoc, List.cons_append, List.nil_append]
    rw [exec_breakpointHit hon hhalt hf hst hempty rfl, htook]
    simp only [htold, hhit, beq_self_eq_true, bne_self_eq_false, Bool.and_true, Bool.false_and, Bool.false_eq_true, if_false]
  case hit =>
    intro p b s hon hhalt hf hst hempty hb
    have hcore : core (setCore p (haltedCore b (core s p)) s) p = haltedCore b (core s p) := core_setCore_same ..
    have hat : mgetD (core s p).brks (core s p).brkHit {} = b := by rw [mgetD, hb]; rfl
    refine ⟨_, exec_breakpointHit hon hhalt hf hst hempty hat, ?_⟩
    suffices h : core _ p = haltedCore b (core s p) by rw [h]; exact ⟨rfl, rfl⟩
    dsimp only
    split
    · exact hcore
    · split
      · exact List.foldlRecOn (motive := fun t => core t p = haltedCore b (core s p)) _ _ ((core_haltTold _).trans hcore)
          fun t ht l _ => (core_haltAlso _).trans ht
      · exact (core_haltTold _).trans hcore

end Sys2Proof.Machine
end

section
/-! PROOFS. Records on their way to the rings, ticks, and the jobs that cadences send (R299 to R306); O44. -/

namespace Sys2Proof.Machine
open Sys2Proof

/-! ### The state of a context after a write to it -/

section ContextRules
variable {i : Nat} {s : State} {x y : SCtx}

theorem ctxOf_setCtx_same (hx : x ≠ {}) : ctxOf (setCtx i x s) i = x := by
  simp [ctxOf, setCtx, msetD, hx, mgetD]

theorem setCtx_setCtx (hx : x ≠ {}) (hy : y ≠ {}) : setCtx i y (setCtx i x s) = setCtx i y s := by
  simp [setCtx, msetD, hx, hy]

@[simp] theorem now_setCtx : now (setCtx i x s) = now s := rfl

/-- A context that has taken a tick is not a context never used. -/
theorem SCtx.ne_default_of_tick (h : x.tick ≠ 0) : x ≠ {} := fun hx => h (congrArg SCtx.tick hx)

/-- A context with a job in flight is not a context never used. -/
theorem SCtx.ne_default_of_inflight (h : x.inflight ≠ 0) : x ≠ {} := fun hx => h (congrArg SCtx.inflight hx)

/-- Counting on context `i` changes counters and OVF alone: with a job in flight it leaves INFLIGHT and SINCE as they are. -/
theorem ctxOf_ctxCount (k : Nat) (h : (ctxOf s i).inflight ≠ 0) :
    (ctxOf (ctxCount i k s) i).inflight = (ctxOf s i).inflight ∧ (ctxOf (ctxCount i k s) i).since = (ctxOf s i).since := by
  obtain ⟨y, heq, hinflight, hsince⟩ : ∃ y, ctxCount i k s = setCtx i y s ∧ y.inflight = (ctxOf s i).inflight ∧
      y.since = (ctxOf s i).since := by
    refine ⟨_, rfl, ?_⟩
    split
    · exact ⟨rfl, rfl⟩
    · split <;> exact ⟨rfl, rfl⟩
  rw [heq, ctxOf_setCtx_same (SCtx.ne_default_of_inflight (by rwa [hinflight]))]
  exact ⟨hinflight, hsince⟩

end ContextRules

/-! ### The record whose turn has come (R302) -/

section RecordRules
variable {d i a : Nat} {r : Bytes} {l : List (Nat × Bytes)} {s : State}

theorem exec_recordAppend_idle (h : frozen s = true ∨ mgetD s.records d [] = []) : exec (.recordAppend d) s = .next s := by
  refine congrArg Host.Outcome.next ?_
  rcases h with h | h
  · rw [if_pos h]
  · rw [h, ite_self]

/-- The front record of die `d` is served when its ring takes accesses and no record or slice came before it; else it waits. -/
theorem exec_recordAppend_front (hf : frozen s = false) (hl : mgetD s.records d [] = (a, r) :: l) :
    exec (.recordAppend d) s = .next (
      if (!recordHeld s r && recordReady s a && s.records.all fun e => e.2.all fun x => decide (a ≤ x.1)) = true then
        appendRecord d r { s with records := msetD s.records d l [] }
      else s) := by
  refine congrArg Host.Outcome.next ?_
  simp only [hf, hl, Bool.false_eq_true, if_false]

theorem exec_recordAppend_waits (hf : frozen s = false) (hl : mgetD s.records d [] = (a, r) :: l)
    (h : recordHeld s r = true ∨ recordReady s a = false ∨ ∃ e ∈ s.records, ∃ y ∈ e.2, y.1 < a) :
    exec (.recordAppend d) s = .next s := by
  rw [exec_recordAppend_front hf hl, if_neg]
  rcases h with h | h | ⟨e, he, y, hy, hlt⟩
  · simp [h]
  · simp [h]
  · have hsome : (s.records.all fun e => e.2.all fun x => decide (a ≤ x.1)) = false :=
      List.all_eq_false.mpr ⟨e, he, by simpa using ⟨y.1, ⟨y.2, hy⟩, hlt⟩⟩
    simp [hsome]

theorem exec_recordAppend_served (hf : frozen s = false) (hl : mgetD s.records d [] = (a, r) :: l) (hheld : recordHeld s r = false)
    (hready : recordReady s a = true) (hfirst : ∀ e ∈ s.records, ∀ y ∈ e.2, a ≤ y.1) :
    exec (.recordAppend d) s = .next (appendRecord d r { s with records := msetD s.records d l [] }) := by
  have hall : (s.records.all fun e => e.2.all fun x => decide (a ≤ x.1)) = true := by simpa using fun a b h x y => hfirst (a, b) h (x, y)
  rw [exec_recordAppend_front hf hl, if_pos (by simp [hheld, hready, hall])]

theorem appendRecord_fits (hi : resolve s r = some i) (hrow : recordRow s (some i) r = 4) :
    appendRecord d r s =
      let t := scTpl (objsOf s (leAt r 18 2)) i
      let x := freshRing s (leAt r 18 2) (ctxOf s i)
      recordCadence i t (perf (scCtr (tplHome t)) 1
        (devWrite (tplRing t + x.wr % 2 ^ u8 t 14 * (32 * tplUnits t)) (padTo (32 * tplUnits t) r)
          (setCtx i { x with wr := (x.wr + 1) % 2 ^ 32, since := min (x.since + 1) 0xFFFFFFFF, count := x.count + 1 } s))) := by
  simp only [appendRecord, hi, hrow]

theorem appendRecord_drops (hrow : recordRow s (resolve s r) r ≠ 4) :
    appendRecord d r s = dropRecord d (recordRow s (resolve s r) r) (resolve s r) s := by
  unfold appendRecord
  dsimp only
  split
  next h _ => exact absurd h hrow
  next => rfl

@[simp] theorem recordRow_none : recordRow s none r = 0 := rfl

@[simp] theorem dropRecord_noctx (i : Option Nat) : dropRecord d 0 i s = scErr d 0 s := by cases i <;> rfl

theorem dropRecord_unfit {row : Nat} (h : row = 1 ∨ row = 2) : dropRecord d row (some i) s = scErr d 1 (ctxCount i 2 s) := by
  rcases h with rfl | rfl <;> rfl

end RecordRules

/-! ### Ticks (R304, R305, R536) -/

section TickRules
variable {i k : Nat} {s : State} {t : Bytes}

/-- No tick is taken of a context that has none, late, a second time, or before a record of the context that can be appended. -/
theorem exec_cadenceTick_stays (ht : t = scTpl s.ver.newest.objs i) (h : 65536 ≤ i ∨ scValid s.ver.newest.objs i = false ∨ (ctxOf s i).st = 0 ∨
    tplCadMode t < 2 ∨ lastTick t (now s) = none ∨ (∃ k, lastTick t (now s) = some k ∧ (50 < now s - k ∨ k < (ctxOf s i).tick ∨
      holding s = false ∧ recordWaits s (tplHome t) i = true))) : exec (.cadenceTick i) s = .next s := by
  subst ht
  refine congrArg Host.Outcome.next ?_
  dsimp only
  rcases h with h | h | h | h | h | ⟨k, hk, h⟩
  · rw [if_pos (by simp [h])]
  · rw [if_pos (by simp [h])]
  · rw [if_pos (by simp [h])]
  · have h2 : tplCadMode (scTpl s.ver.newest.objs i) ≠ 2 := by omega
    have h3 : tplCadMode (scTpl s.ver.newest.objs i) ≠ 3 := by omega
    rw [if_pos (by simp [h2, h3])]
  · simp only [h, ite_self]
  · have hpast : (decide (50 < now s - k) || decide (k + 1 ≤ (ctxOf s i).tick) ||
        (!holding s && recordWaits s (tplHome (scTpl s.ver.newest.objs i)) i)) = true := by
      rcases h with h | h | ⟨hh, hw⟩
      · simp [h]
      · simp [Nat.succ_le_of_lt h]
      · simp [hh, hw]
    simp only [hk, hpast, if_true, ite_self]

/-- A tick that is taken: a cadence event, unless mode 3 finds no new record or a record has made the event of this cycle. -/
theorem exec_cadenceTick_taken (hi : i < 65536) (hv : scValid s.ver.newest.objs i = true) (hst : (ctxOf s i).st ≠ 0)
    (ht : t = scTpl s.ver.newest.objs i) (hm : tplCadMode t = 2 ∨ tplCadMode t = 3) (hk : lastTick t (now s) = some k)
    (hnear : now s ≤ k + 50) (honce : (ctxOf s i).tick ≤ k) (hgo : holding s = true ∨ recordWaits s (tplHome t) i = false) :
    exec (.cadenceTick i) s = .next (
      if tplCadMode t = 3 ∧ (ctxOf s i).since = 0 ∨ (ctxOf s i).evt = now s + 1 then setCtx i { ctxOf s i with tick := k + 1 } s
      else
        let u := setCtx i { ctxOf s i with tick := k + 1, tickEvt := now s + 1 } s
        if holding s then scErr (tplHome t) 2 (ctxCount i 3 u) else cadence i t u) := by
  subst ht
  have hmay : (decide (65536 ≤ i) || !scValid s.ver.newest.objs i || decide ((ctxOf s i).st = 0) ||
      !(tplCadMode (scTpl s.ver.newest.objs i) == 2 || tplCadMode (scTpl s.ver.newest.objs i) == 3)) = false := by
    have hm' : (tplCadMode (scTpl s.ver.newest.objs i) == 2 || tplCadMode (scTpl s.ver.newest.objs i) == 3) = true := by simpa using hm
    simp [hm', hv, hst, not_le.mpr hi]
  have hnow : (decide (50 < now s - k) || decide (k + 1 ≤ (ctxOf s i).tick) ||
      (!holding s && recordWaits s (tplHome (scTpl s.ver.newest.objs i)) i)) = false := by
    have h50 : ¬ 50 < now s - k := by omega
    have hwait : (!holding s && recordWaits s (tplHome (scTpl s.ver.newest.objs i)) i) = false := by rcases hgo with h | h <;> simp [h]
    simp [h50, hwait, honce]
  have hticked : ({ ctxOf s i with tick := k + 1 } : SCtx) ≠ {} := SCtx.ne_default_of_tick (Nat.succ_ne_zero k)
  have hevent : ({ ctxOf s i with tick := k + 1, tickEvt := now s + 1 } : SCtx) ≠ {} := SCtx.ne_default_of_tick (Nat.succ_ne_zero k)
  refine congrArg Host.Outcome.next ?_
  simp only [hmay, hk, hnow, Bool.false_eq_true, if_false, Bool.or_eq_true, Bool.and_eq_true, beq_iff_eq]
  rw [ctxOf_setCtx_same hticked, now_setCtx, setCtx_setCtx hticked hevent]
  rfl

end TickRules

/-! ### Cadence events (R306) -/

section CadenceRules
variable {i k : Nat} {t : Bytes} {s : State}

/-- The oldest record of the window of a job that context `x` gets under template `t`, and their number (R306). -/
def windowOf (t : Bytes) (x : SCtx) : Nat × Nat :=
  let n := min (leAt t 10 2) x.count
  (ofSigned 32 ((x.wr : Int) - n), n)

/-- The cadence's job starts with an empty KV cache: KV_POLICY 2, with the limit reached. -/
def kvResets (t : Bytes) (x : SCtx) : Bool := tplKvPolicy t == 2 && leAt t 28 4 ≤ x.kvTokens
/-- The KV cache's length with which the job starts. -/
def kvKept (t : Bytes) (x : SCtx) : Nat := if kvResets t x then 0 else x.kvTokens

/-- The job of a cadence event of context `i` under template `t` (R306, R318), numbered by the next WORK_ID. -/
def cadenceJob (i : Nat) (t : Bytes) (s : State) : Job :=
  let x := ctxOf s i
  { desc := le 1 (tplModel t) ++ le 1 (tplInst t) ++ le 2 i ++ le 4 s.workId ++ le 4 (leAt t 24 4) ++
      le 1 (tplPrio t + 8 * tplDl t + 64 * b2n (tplLateOk t)) ++ le 1 (2 * b2n (kvResets t x)) ++ zeros 2 ++ le 4 (windowOf t x).1 ++
      le 2 (windowOf t x).2 ++ le 2 (min x.since 65535) ++ le 4 (kvKept t x) ++ zeros 12 ++ sub t 48 8 ++ zeros 16,
    wid := s.workId, version := newestNum s,
    deadline := if leAt t 24 4 = 0 then 0xFFFFFFFF else deadlineOf (now s + leAt t 24 4), origin := tplHome t }

/-- A context whose cadence has sent a job at ns `n`. -/
def dispatchedCtx (t : Bytes) (n : Nat) (x : SCtx) : SCtx :=
  { x with since := 0, inflight := x.inflight + 1, wins := x.wins ++ [(windowOf t x).1], oldest := (x.wins ++ [(windowOf t x).1]).headD 0,
           lastDispatch := n, kvTokens := kvKept t x }

/-- The state in which a cadence's job joins its queue. -/
def dispatched (i : Nat) (t : Bytes) (s : State) : State :=
  perf (scCtr (tplHome t) + 8) 1 (ctxCount i 0
    (setCtx i (dispatchedCtx t (now s) (ctxOf s i)) { s with workId := (s.workId + 1) % 2 ^ 32 }))

theorem cadence_skips_without_instance (h : pickInst s s.ver.newest.objs (tplModel t) (tplInst t) = none) :
    cadence i t s = scErr (tplHome t) 2 (ctxCount i 3 s) := by
  simp only [cadence, h]

theorem cadence_skips_without_room (hk : pickInst s s.ver.newest.objs (tplModel t) (tplInst t) = some k)
    (h : (inst? s k).isSome = false ∨ 1024 ≤ queuedJobs s k ∨ ctxState s i ≠ 1 ∨ u8 t 7 ≤ (ctxOf s i).inflight) :
    cadence i t s = scErr (tplHome t) 2 (ctxCount i 3 s) := by
  cases hroom : decide (queuedJobs s k < 1024) && (inst? s k).isSome with
  | false => simp only [cadence, hk, hroom, Bool.false_eq_true, if_false]
  | true =>
    obtain ⟨hqueue, hinst⟩ : queuedJobs s k < 1024 ∧ (inst? s k).isSome = true := by simpa using hroom
    have hlimit : (decide (ctxState s i ≠ 1) || decide (u8 t 7 ≤ (ctxOf s i).inflight)) = true := by
      simpa [hinst, not_le.mpr hqueue] using h
    simp only [cadence, hk, hroom, hlimit, if_true]

theorem cadence_sends (hk : pickInst s s.ver.newest.objs (tplModel t) (tplInst t) = some k) (hinst : (inst? s k).isSome = true)
    (hroom : queuedJobs s k < 1024) (hst : ctxState s i = 1) (hlimit : (ctxOf s i).inflight < u8 t 7) :
    cadence i t s = queueJob k (cadenceJob i t s) (dispatched i t s) := by
  have hgo : (decide (ctxState s i ≠ 1) || decide (u8 t 7 ≤ (ctxOf s i).inflight)) = false := by simp [hst, hlimit]
  simp only [cadence, hk, hinst, hroom, decide_true, Bool.and_self, hgo, Bool.false_eq_true, if_true, if_false]
  rfl

theorem cadenceJob_stream : leAt (cadenceJob i t s).desc 2 2 = i % 65536 := by
  have hfield (a b : Nat) (r : Bytes) : leAt (le 1 a ++ (le 1 b ++ (le 2 i ++ r))) 2 2 = i % 65536 := by
    simp [leAt, sub, le, leNat, List.range_succ]
    omega
  simp only [cadenceJob, List.append_assoc, hfield]

/-- The counters that a dispatch raises leave the context as the dispatch made it. -/
theorem ctxOf_dispatched : (ctxOf (dispatched i t s) i).inflight = (ctxOf s i).inflight + 1 ∧ (ctxOf (dispatched i t s) i).since = 0 := by
  have hctx : ctxOf (setCtx i (dispatchedCtx t (now s) (ctxOf s i)) { s with workId := (s.workId + 1) % 2 ^ 32 }) i =
      dispatchedCtx t (now s) (ctxOf s i) := ctxOf_setCtx_same (SCtx.ne_default_of_inflight (Nat.succ_ne_zero _))
  obtain ⟨hinflight, hsince⟩ := ctxOf_ctxCount (i := i) (s := setCtx i (dispatchedCtx t (now s) (ctxOf s i))
    { s with workId := (s.workId + 1) % 2 ^ 32 }) 0 (by rw [hctx]; exact Nat.succ_ne_zero _)
  rw [hctx] at hinflight hsince
  exact ⟨hinflight, hsince⟩

end CadenceRules

/-- Settles O44: a record by the row of R302 that it matches, a tick by whether it is taken, a cadence event by the job it sends or the skip. -/
theorem recordsAndCadencesComplete : Obligations.RecordsAndCadencesComplete := by
  unfold Obligations.RecordsAndCadencesComplete
  refine ⟨?idle, ?waits, ?fits, ?cadence, ?noctx, ?unfit, ?tick, ?noevent, ?stays, ?noinst, ?noroom, ?sends⟩
  case idle => exact fun d s h => exec_recordAppend_idle h
  case waits => exact fun d s a r l hf hl h => exec_recordAppend_waits hf hl h
  case fits =>
    rintro d s a r l u i t x hf hl hheld hready hfirst rfl hi hrow rfl rfl
    rw [exec_recordAppend_served hf hl hheld hready hfirst, appendRecord_fits hi hrow]
  case cadence =>
    intro i t s
    simp only [recordCadence, Bool.and_eq_true, Bool.or_eq_true, beq_iff_eq, bne_iff_ne, decide_eq_true_eq, and_assoc]
  case noctx =>
    rintro d s a r l u hf hl hheld hready hfirst rfl hnone
    have hrow : recordRow { s with records := msetD s.records d l [] } (resolve { s with records := msetD s.records d l [] } r) r = 0 := by
      rcases hnone with h | h
      · rw [h, recordRow_none]
      · exact h
    rw [exec_recordAppend_served hf hl hheld hready hfirst, appendRecord_drops (by rw [hrow]; decide), hrow, dropRecord_noctx]
  case unfit =>
    rintro d s a r l u i hf hl hheld hready hfirst rfl hi hrow
    rw [exec_recordAppend_served hf hl hheld hready hfirst, appendRecord_drops (by rw [hi]; omega), hi, dropRecord_unfit hrow]
  case tick =>
    intro i s t k hi hv hst ht hm hk hnear honce hevt hgo
    refine ⟨_, rfl, ?_⟩
    rw [exec_cadenceTick_taken hi hv hst ht (hm.imp_right And.left) hk hnear honce hgo, if_neg (by omega)]
  case noevent =>
    intro i s t k hi hv hst ht hm hk hnear honce hgo
    rw [exec_cadenceTick_taken hi hv hst ht (by omega) hk hnear honce hgo, if_pos (by omega)]
  case stays => exact fun i s t ht h => exec_cadenceTick_stays ht h
  case noinst => exact fun i t s h => cadence_skips_without_instance h
  case noroom => exact fun i t s k hk h => cadence_skips_without_room hk h
  case sends =>
    intro i t s k hk hinst hroom hst hlimit
    obtain ⟨hinflight, hsince⟩ := ctxOf_dispatched (i := i) (t := t) (s := s)
    exact ⟨_, _, cadence_sends hk hinst hroom hst hlimit, rfl, rfl, rfl, cadenceJob_stream, rfl, hinflight, hsince⟩

end Sys2Proof.Machine
end

section
/-! PROOFS. WITHDRAW (R338): what it leaves of an object, where the lists of objects are canonical and where they are not; O43. -/

namespace Sys2Proof.Machine
open Sys2Proof

section WithdrawRules
variable {i : Nat} {s u : State} {t : InTag} {r : ORef}

/-- An object from which core `p` of this chip has taken back its WAITs and BARRIERs. -/
def SObj.withdrawn (p : Nat) (x : SObj) : SObj :=
  { x with
    waiters := x.waiters.filter fun w => !(w.unit == p && !w.remote),
    gone := x.gone + (x.waiters.filter fun w => (w.unit == p && !w.remote) && w.bar).length }

theorem SObj.not_mem_withdrawn {p : Nat} {x : SObj} {w : Waiter} (hw : w ∈ (x.withdrawn p).waiters) (hp : w.unit = p) : w.remote = true := by
  obtain ⟨-, hkept⟩ := List.mem_filter.mp hw
  simpa [hp] using hkept

theorem exec_withdraw (hf : frozen s = false) (ht : takeSync i (fun op => op == 12) s = some (t, u))
    (hr : tagObj u (tagOf t.tag).workId = some r) :
    exec (.withdraw i) s = .next (setObj r ((obj u r).withdrawn (tagOf t.tag).unit) u) := by
  have hexec : exec (.withdraw i) s = execWithdraw i s := rfl
  rw [hexec, execWithdraw]
  simp only [hf, ht, hr, Bool.false_eq_true, if_false, SObj.withdrawn]

/-- An object reads as it was written where the lists of objects are canonical, their keys rising strictly. -/
theorem obj_setObj_same (x : SObj) (hhub : mwf s.hub = true) (hcore : ∀ p, mwf (core s p).sync = true) : obj (setObj r x s) r = x := by
  unfold obj setObj
  cases hr : r.hub with
  | true => exact mgetD_msetD_same _ _ _ hhub
  | false =>
    simp only [Bool.false_eq_true, if_false, core_setCore_same]
    exact mgetD_msetD_same _ _ _ (hcore r.p)

/-- WITHDRAW's clause of O43 (R338), where the lists of objects are canonical. -/
theorem exec_withdraw_takesBack (hf : frozen s = false) (ht : takeSync i (fun op => op == 12) s = some (t, u))
    (hr : tagObj u (tagOf t.tag).workId = some r) (hhub : mwf u.hub = true) (hcore : ∀ p, mwf (core u p).sync = true) :
    ∃ v, exec (.withdraw i) s = .next v ∧ (∀ w ∈ (obj v r).waiters, w.unit = (tagOf t.tag).unit → w.remote = true) ∧
      (obj v r).waiters = (obj u r).waiters.filter (fun w => !(w.unit == (tagOf t.tag).unit && !w.remote)) ∧
      (obj v r).cur = (obj u r).cur := by
  refine ⟨_, exec_withdraw hf ht hr, ?_⟩
  rw [obj_setObj_same _ hhub hcore]
  exact ⟨fun w hw => SObj.not_mem_withdrawn hw, rfl, rfl⟩

end WithdrawRules

/-! ### An object that is listed twice -/

/-- The WITHDRAW of core 0 from hub object 255. -/
def withdrawTag : InTag :=
  { tag := tagBytes { chip := 0, unit := 0, kind := 4, workId := 65536 * 12 + 0xFFFF, version := 0, bearing := 0 }, body := zeros 8 }
/-- The hub lists object 255 twice, each time with a WAIT of core 0 and nothing else. -/
def twiceListedObject : State := { hub := [(255, { waiters := [{ unit := 0 }] }), (255, { waiters := [{ unit := 0 }] })] }
/-- The same hub, and the WITHDRAW waiting. -/
def twiceListedWithdraw : State := { twiceListedObject with inbox := [withdrawTag] }

theorem takeSync_twiceListed :
    takeSync 0 (fun op => op == 12) twiceListedWithdraw = some (withdrawTag, twiceListedObject) := by decide +kernel

theorem tagObj_withdrawTag : tagObj twiceListedObject (tagOf withdrawTag.tag).workId = some ⟨true, 0, 255⟩ := by decide +kernel

theorem unit_withdrawTag : (tagOf withdrawTag.tag).unit = 0 := by decide +kernel

/-- Taking back the WAIT leaves the first listing without content, so that it is removed, and the second is read in its place. -/
theorem obj_withdrawn_twiceListed : obj (setObj ⟨true, 0, 255⟩ ((obj twiceListedObject ⟨true, 0, 255⟩).withdrawn 0) twiceListedObject)
    ⟨true, 0, 255⟩ = { waiters := [{ unit := 0 }] } := by decide +kernel

/-- Refutes O43: its clause on WITHDRAW speaks of every state, also of one whose list of hub objects is not canonical. There an object with
nothing but core 0's WAIT, listed twice, loses the first listing, and a read finds the second, with the WAIT. The clause with that hypothesis is
`exec_withdraw_takesBack`. -/
theorem not_syncMessagesComplete : ¬ Obligations.SyncMessagesComplete := by
  unfold Obligations.SyncMessagesComplete
  rintro ⟨-, -, -, -, -, -, -, -, hwithdraw, -⟩
  obtain ⟨v, hnext, hgone, -⟩ := hwithdraw 0 twiceListedWithdraw withdrawTag twiceListedObject _ rfl takeSync_twiceListed tagObj_withdrawTag
  have hexec := exec_withdraw rfl takeSync_twiceListed tagObj_withdrawTag
  obtain rfl := Host.Outcome.next.inj (hexec.symm.trans hnext)
  rw [unit_withdrawTag, obj_withdrawn_twiceListed] at hgone
  exact absurd (hgone { unit := 0 } (List.mem_singleton.mpr rfl) rfl) (by decide)

end Sys2Proof.Machine
end

section
/-! PROOFS. What recording a fault leaves as it was, and the bits of a number after one of them has been cleared. -/

namespace Sys2Proof.Machine
open Sys2Proof

theorem OnlyReports.ch {s t : State} (h : OnlyReports s t) : t.ch = s.ch := by
  unfold OnlyReports at h
  rw [h]

theorem OnlyReports.sys {s t : State} (h : OnlyReports s t) : t.sys = s.sys := by
  unfold OnlyReports at h
  rw [h]

/-! ### Faults leave memory, the chronometer, the system, MRAM and the Brixvia ports (R506, R507) -/

section Recording
variable (f : FltRec) (s : State)

theorem raiseF_reports : OnlyReports s (raiseF f s) := .raiseLim (.refl s) ..
@[simp] theorem raiseF_mem : (raiseF f s).mem = s.mem := (raiseF_reports f s).mem
@[simp] theorem raiseF_ch : (raiseF f s).ch = s.ch := (raiseF_reports f s).ch
@[simp] theorem raiseF_sys : (raiseF f s).sys = s.sys := (raiseF_reports f s).sys
@[simp] theorem raiseF_nv : (raiseF f s).nv = s.nv := (Keeps.raiseF (view := id) (.refl s) f).nv
@[simp] theorem now_raiseF : now (raiseF f s) = now s := by unfold now; rw [raiseF_ch]

theorem queueEvent_bxPorts (e : Event) (i : Nat) : (queueEvent e i s).helm.ports = s.helm.ports := by
  unfold queueEvent
  dsimp only
  split
  · rfl
  · rw [errc_helm]; rfl

theorem sendEvent_bxPorts (type cls : Nat) (body : Bytes) : (sendEvent type cls body s).helm.ports = s.helm.ports := by
  refine List.foldlRecOn (motive := fun t : State => t.helm.ports = s.helm.ports) _ _ rfl fun t ht i _ => ?_
  split
  · exact (queueEvent_bxPorts ..).trans ht
  · exact ht

theorem writeFault_bxPorts : (writeFault f s).helm.ports = s.helm.ports := by
  unfold writeFault
  dsimp only
  rw [sendEvent_bxPorts]
  split
  · rw [errc_helm]
  · rfl

theorem openPeriod_bxPorts (limit : Nat) : (openPeriod f limit s).helm.ports = s.helm.ports := rfl

theorem endPeriod_bxPorts (code chan : Nat) : (endPeriod code chan s).helm.ports = s.helm.ports := by
  unfold endPeriod
  split
  · rfl
  · dsimp only
    split
    · rfl
    · rw [openPeriod_bxPorts, writeFault_bxPorts]

theorem raiseF_bxPorts : (raiseF f s).helm.ports = s.helm.ports := by
  unfold raiseF raiseLim
  extract_lets c f' s1 src s2 k s3
  have h2 : s2.helm.ports = s.helm.ports := congrArg Helm.ports (errc_helm ..)
  have h3 : s3.helm.ports = s.helm.ports := by
    unfold s3
    split
    · split
      · exact (endPeriod_bxPorts ..).trans h2
      · exact h2
    · exact h2
  split
  · exact h3
  · rw [openPeriod_bxPorts, writeFault_bxPorts, h3]

end Recording

/-- From `s` to `t` memory, the chronometer, the system, MRAM and the Brixvia ports are as they were. -/
structure Recorded (s t : State) : Prop where
  mem : t.mem = s.mem
  ch : t.ch = s.ch
  sys : t.sys = s.sys
  nv : t.nv = s.nv
  bxPorts : t.helm.ports = s.helm.ports

namespace Recorded
variable {s t u : State}

theorem refl (s : State) : Recorded s s := ⟨rfl, rfl, rfl, rfl, rfl⟩

theorem bxPort (h : Recorded s t) (p : Nat) : bxPort t p = bxPort s p := by
  unfold Machine.bxPort
  rw [h.bxPorts]

theorem raiseF (h : Recorded s t) (f : FltRec) : Recorded s (raiseF f t) :=
  ⟨(raiseF_mem f t).trans h.mem, (raiseF_ch f t).trans h.ch, (raiseF_sys f t).trans h.sys, (raiseF_nv f t).trans h.nv,
    (raiseF_bxPorts f t).trans h.bxPorts⟩

theorem ite {c : Prop} [Decidable c] (ht : Recorded s t) (hu : Recorded s u) : Recorded s (if c then t else u) := by
  split
  · exact ht
  · exact hu

theorem foldl {ι : Type} {f : State → ι → State} (hf : ∀ t x, Recorded s t → Recorded s (f t x)) (l : List ι) (h : Recorded s t) :
    Recorded s (l.foldl f t) :=
  List.foldlRecOn (motive := Recorded s) l f h fun t ht x _ => hf t x ht

end Recorded

/-! ### A bit cleared (R5) -/

theorem testBit_sub_two_pow {x i : Nat} (h : x.testBit i = true) (j : Nat) :
    (x - 2 ^ i).testBit j = (x.testBit j && decide (i ≠ j)) := by
  have hle := Nat.ge_two_pow_of_testBit h
  induction i generalizing x j with
  | zero =>
    rw [Nat.testBit_zero, decide_eq_true_eq] at h
    cases j with
    | zero => simp; omega
    | succ j => simp [Nat.testBit_succ, show (x - 1) / 2 = x / 2 by omega]
  | succ i ih =>
    rw [Nat.testBit_succ] at h
    rw [Nat.pow_succ] at hle
    cases j with
    | zero => simp [show (x - 2 ^ (i + 1)) % 2 = x % 2 by rw [Nat.pow_succ]; omega]
    | succ j =>
      rw [Nat.testBit_succ, show (x - 2 ^ (i + 1)) / 2 = x / 2 - 2 ^ i by rw [Nat.pow_succ]; omega,
        ih h j (Nat.ge_two_pow_of_testBit h)]
      simp [Nat.testBit_succ]

theorem bit_clrBit (x i j : Nat) : bit (clrBit x i) j = (bit x j && decide (i ≠ j)) := by
  unfold bit clrBit
  split
  next h => exact testBit_sub_two_pow h j
  next h =>
    by_cases hij : i = j
    · subst hij
      simpa using h
    · simp [hij]

end Sys2Proof.Machine
end

section
/-! PROOFS. The commands on pseudo-channels, the chronometer and power (R359, R371, R378, R380, R386, R387, R394, R550, R552, R553); O14. -/

namespace Sys2Proof.Machine
open Sys2Proof

section ClockAndPowerRules
variable {r : Req} {s : State} {c : Call}

/-! ### The rows of accepted commands -/

theorem exec_memPchRetire (ha : accepted 0x0901 0x10 r s = true) :
    exec (.memPchRetire r) s = .next (settled 0x0901 r (memPchRetire (callOf r s) (busy 0x0901 r s))) :=
  congrArg _ (mbxRow_accepted (by decide) (by decide) ha)

theorem exec_chSource (ha : accepted 0x0A01 0x10 r s = true) :
    exec (.chSource r) s = .next (settled 0x0A01 r (chSource (callOf r s) (busy 0x0A01 r s))) :=
  congrArg _ (mbxRow_accepted (by decide) (by decide) ha)

theorem exec_chSet (ha : accepted 0x0A02 0x10 r s = true) :
    exec (.chSet r) s = .next (settled 0x0A02 r (chSet (callOf r s) (busy 0x0A02 r s))) :=
  congrArg _ (mbxRow_accepted (by decide) (by decide) ha)

theorem exec_pwrState (ha : accepted 0x0A10 0x10 r s = true) :
    exec (.pwrState r) s = .next (settled 0x0A10 r (pwrState (callOf r s) (busy 0x0A10 r s))) :=
  congrArg _ (mbxRow_accepted (by decide) (by decide) ha)

theorem exec_pwrCap (ha : accepted 0x1001 0x10 r s = true) :
    exec (.pwrCap r) s = .next (settled 0x1001 r (pwrCap (callOf r s) (busy 0x1001 r s))) :=
  congrArg _ (mbxRow_accepted (by decide) (by decide) ha)

theorem exec_pwrRead (ha : accepted 0x1002 0x10 r s = true) :
    exec (.pwrRead r) s = .next (settled 0x1002 r (pwrRead (callOf r s) (busy 0x1002 r s))) :=
  congrArg _ (mbxRow_accepted (by decide) (by decide) ha)

/-! ### MEM_PCH_RETIRE (R359, R371) -/

theorem memPchRetire_retires (hlen : c.p.length = 4) (hz : leAt c.p 2 2 = 0) (hp : leAt c.p 0 2 ≤ 383)
    (hret : bit s.nv.pchRetired (leAt c.p 0 2) = false) (hmig : mget s.mem.migrate (halfOf (leAt c.p 0 2)) = none)
    (hqueue : ∀ q ∈ s.mem.queued, halfOf q ≠ halfOf (leAt c.p 0 2)) (hact : 97 ≤ activeN s (halfOf (leAt c.p 0 2))) :
    memPchRetire c s = okay (retirePch (leAt c.p 0 2) s) := by
  unfold memPchRetire
  rw [rows_pass]
  simpa [hlen, hz, not_lt.mpr hp, hret, hmig, not_lt.mpr hact] using hqueue

/-- A retirement changes MRAM only in the pseudo-channel's mark: the record and the migration are kept elsewhere. -/
theorem retirePch_nv {p : Nat} (h : bit s.nv.pchRetired p = false) :
    (retirePch p s).nv = { s.nv with pchRetired := setBit s.nv.pchRetired p } := by
  unfold retirePch
  simp only [h, Bool.false_eq_true, if_false]
  split
  · rw [raiseF_nv]
  · exact raiseF_nv ..

/-! ### CH_SOURCE (R378, R380) -/

theorem chSource_selects (hlen : c.p.length = 16) (hz : zeroAt c.p 8 8 = true) (hsrc : u8 c.p 0 ≤ 3) (hl : u8 c.p 1 ≤ 7)
    (hprof : u8 c.p 3 ≤ 1) (hlink : u8 c.p 0 ≠ 3 → u8 c.p 1 = 0) (hptp : u8 c.p 0 ≠ 2 → u8 c.p 2 = 0 ∧ u8 c.p 3 = 0)
    (hfree : u8 c.p 0 = 0 → toSigned 32 (leAt c.p 4 4) = 0) (hlo : -10000000 ≤ toSigned 32 (leAt c.p 4 4))
    (hhi : toSigned 32 (leAt c.p 4 4) ≤ 10000000) (hret : u8 c.p 0 = 3 → bit s.nv.linkRetired (u8 c.p 1) = false) :
    chSource c s = okay (selectSource (u8 c.p 0) (u8 c.p 1) (u8 c.p 2) (u8 c.p 3) (toSigned 32 (leAt c.p 4 4)) s) := by
  unfold chSource
  rw [rows_pass]
  simpa [hlen, hz, not_lt.mpr hsrc, not_lt.mpr hl, not_lt.mpr hprof, not_lt.mpr hlo, not_lt.mpr hhi] using ⟨⟨⟨hlink, hptp⟩, hfree⟩, hret⟩

/-! ### CH_SET (R394) -/

theorem chSet_steps {n : Nat} (hlen : c.p.length = 16) (hz : zeroAt c.p 1 7 = true) (hop : u8 c.p 0 = 1) (hver : verLive s = false)
    (hwait : s.ch.setWait = none) (hn : stepped s (toSigned 64 (leAt c.p 8 8)) = some n) :
    chSet c s = okay (setCh { (stepTo n s).ch with valid := true } (stepTo n s)) := by
  unfold chSet
  rw [rows_pass]
  · simp [hop, hn]
  · simp [hlen, hz, hop, hver, hwait, hn]

theorem chSet_waits (hlen : c.p.length = 16) (hz : zeroAt c.p 1 7 = true) (hop : u8 c.p 0 = 0) (hver : verLive s = false)
    (hsrc : s.ch.source = 1) (hwait : s.ch.setWait = none) (hv : leAt c.p 8 8 * 1000000000 < 2 ^ 64) :
    chSet c s = { waits := true, s := setCh { s.ch with
      setWait := some { who := c.who, value := leAt c.p 8 8, limit := now s + 1100000000 } } s } := by
  unfold chSet
  rw [rows_pass]
  · simp [hop]
  · simpa [hlen, hz, hop, hver, hsrc, hwait] using hv

/-! ### PWR_STATE (R386, R387) -/

/-- The running cores that no operation quiesces yet begin to quiesce, as on the way to BANKED. -/
def quiesceRunning (s : State) : State :=
  s.cores.foldl (fun s e => if e.2.st != 0 && (blk s 0 e.1).st == 0 then startQuiesce 0 e.1 none none s else s) s

/-- What PWR_STATE does for a target and a wake mask: the cores wake, quiesce, or go on until the response has left. -/
def pwrStateEffect (target mask : Nat) (s : State) : State :=
  match target with
  | 0 => { s with ch := { s.ch with pwr := 0 } }
  | 1 => { quiesceRunning s with ch := { (quiesceRunning s).ch with pwr := 3, toSleep := false } }
  | _ => { s with ch := { s.ch with toSleep := true, wakeMask := mask, wakeCause := 0 } }

/-- A request for another state than the present one, and none of them a change under way, meets no row of R387. -/
theorem pwrState_changes (hlen : c.p.length = 4) (hz : leAt c.p 2 2 = 0) (hhold : holding s = false) (hsleep : s.ch.toSleep = false)
    (ht : u8 c.p 0 ≤ 2) (hmask : u8 c.p 1 = 0 ↔ u8 c.p 0 ≠ 2) (hother : u8 c.p 0 ≠ s.ch.pwr) (hmove : s.ch.pwr ≠ 3) :
    pwrState c s = okay (pwrStateEffect (u8 c.p 0) (u8 c.p 1) s) := by
  unfold pwrState
  rw [rows_pass]
  · obtain h | h | h : u8 c.p 0 = 0 ∨ u8 c.p 0 = 1 ∨ u8 c.p 0 = 2 := by omega
    all_goals simp only [h]; rfl
  · have hfits : (if u8 c.p 0 = 2 then u8 c.p 1 == 0 else u8 c.p 1 != 0) = false := by
      split <;> simp_all
    simp [hlen, hz, hhold, hsleep, not_lt.mpr ht, hfits, hother, hmove]

/-! ### PWR_CAP and PWR_READ (R550, R552, R553) -/

theorem pwrCap_sets (hlen : c.p.length = 4) (hz : leAt c.p 2 2 = 0) (hlo : 900 ≤ leAt c.p 0 2) (hhi : leAt c.p 0 2 ≤ 1850) :
    pwrCap c s = okay { s with pw := { s.pw with
      cap := leAt c.p 0 2, work := max 900 (leAt c.p 0 2 - (s.pw.cap - s.pw.work)) } } := by
  unfold pwrCap
  rw [rows_pass]
  simp [hlen, hz, not_lt.mpr hlo, not_lt.mpr hhi]

/-- The record of R553. -/
def pwrRecord (s : State) : Bytes :=
  le 4 s.pw.avg ++ le 2 s.pw.cap ++ le 2 s.pw.work ++ le 2 (tempWord (tjMax s)) ++ le 1 ((tjMax s).elim 0 (·.1)) ++
  le 1 (b2n (!s.pw.steps.isEmpty) + 2 * b2n s.pw.floor + 4 * b2n s.flt.hot + 8 * b2n (hbmHot s)) ++ le 2 (tempWord (hbmMax s)) ++
  le 1 ((hbmMax s).elim 0 (·.1)) ++ [0] ++ ((List.range 11).flatMap fun k => le 2 (mgetD s.pw.rails k 0)) ++ zeros 2 ++
  le 8 (s.pw.energy / 1000000)

theorem pwrRead_reads (hp : c.p = []) : pwrRead c s = reply (pwrRecord s) s := by
  unfold pwrRead
  rw [rows_pass]
  · unfold pwrRecord
    rcases tjMax s with _ | ⟨i, t⟩
    all_goals rcases hbmMax s with _ | ⟨k, u⟩ <;> rfl
  · simp [hp]

end ClockAndPowerRules

/-- Settles O14: no row of the command's table refuses the request, so its effect is the handler's last line. -/
theorem clockPowerAndMemoryCommandsComplete : Obligations.ClockPowerAndMemoryCommandsComplete := by
  unfold Obligations.ClockPowerAndMemoryCommandsComplete
  refine ⟨?retire, fun p s h => retirePch_nv h, ?source, ?step, fun _ _ => ⟨rfl, rfl⟩, ?wait, ?power, ?cap, ?read⟩
  case retire =>
    intro r s ha hlen hz hp hret hmig hqueue hact
    rw [exec_memPchRetire ha, memPchRetire_retires (c := callOf r s) (s := busy 0x0901 r s) hlen hz hp hret hmig hqueue hact]
    rfl
  case source =>
    intro r s ha hlen hz hsrc hl hprof hlink hptp hfree hlo hhi hret
    rw [exec_chSource ha,
      chSource_selects (c := callOf r s) (s := busy 0x0A01 r s) hlen hz hsrc hl hprof hlink hptp hfree hlo hhi hret]
    rfl
  case step =>
    intro r s n ha hlen hz hop hver hwait hn
    rw [exec_chSet ha, chSet_steps (c := callOf r s) (s := busy 0x0A02 r s) hlen hz hop hver hwait hn]
    rfl
  case wait =>
    intro r s ha hlen hz hop hver hsrc hwait hv
    rw [exec_chSet ha, chSet_waits (c := callOf r s) (s := busy 0x0A02 r s) hlen hz hop hver hsrc hwait hv]
    rfl
  case power =>
    intro r s ha hlen hz hhold hsleep
    have hchange := pwrState_changes (c := callOf r s) (s := busy 0x0A10 r s) hlen hz hhold hsleep
    simp only [callOf_p, busy_ch] at hchange
    rw [exec_pwrState ha]
    refine ⟨fun ht hm hp => ?wake, fun ht hm hp => ?bank, fun ht hm hp => ?sleep⟩
    case wake =>
      rw [hchange (by omega) (by omega) (by omega) (by omega), ht]
      rfl
    case bank =>
      rw [hchange (by omega) (by omega) (by omega) (by omega), ht]
      rfl
    case sleep =>
      rw [hchange (by omega) (by omega) (by omega) (by omega), ht]
      rfl
  case cap =>
    intro r s ha hlen hz hlo hhi
    rw [exec_pwrCap ha, pwrCap_sets (c := callOf r s) (s := busy 0x1001 r s) hlen hz hlo hhi]
    rfl
  case read =>
    intro r s ha hp
    rw [exec_pwrRead ha, pwrRead_reads (c := callOf r s) (s := busy 0x1002 r s) hp]
    rfl

end Sys2Proof.Machine
end

section
/-! PROOFS. The quiesce handshake and block reset (R486, R487), boot (R357, R491 to R497) and the end of the debug unlock (R502); O55. -/

namespace Sys2Proof.Machine
open Sys2Proof

/-! ### The quiesce handshake (R486) -/

section HandshakeRules
variable {u i n : Nat} {l : List Nat} {s : State}

/-- A heave-to stops the handshake of cores, compass units and slice ports only (R536). -/
theorem handshake_runs (h : holding s = false ∨ 3 ≤ u) : (holding s && decide (u < 3)) = false := by
  rcases h with h | h
  · simp [h]
  · simp [not_lt.mpr h]

theorem exec_quiesceAck_acks (hst : (blk s u i).st = 1) (hop : (blk s u i).op ≠ some 4) (hd : drained s u i = true)
    (hh : holding s = false ∨ 3 ≤ u) : exec (.quiesceAck u i) s = .next (quiesced u i 0 s) := by
  refine congrArg Host.Outcome.next ?_
  simp [hst, hop, hd, handshake_runs hh]

theorem exec_quiesceAck_waits (h : (blk s u i).st ≠ 1 ∨ (blk s u i).op = some 4 ∨ drained s u i = false ∨ holding s = true ∧ u < 3) :
    exec (.quiesceAck u i) s = .next s := by
  refine congrArg Host.Outcome.next (if_neg ?_)
  rcases h with h | h | h | ⟨h, hu⟩
  · simp [h]
  · simp [h]
  · simp [h]
  · simp [h, hu]

theorem exec_quiesceTimeout_waits
    (h : (blk s u i).st ≠ 1 ∨ now s < (blk s u i).since + (blk s u i).limit ∨ u = 1 ∨ holding s = true ∧ u < 3) :
    exec (.quiesceTimeout u i n l) s = .next s := by
  refine congrArg Host.Outcome.next (if_pos ?_)
  rcases h with h | h | h | ⟨h, hu⟩
  · simp [h]
  · simp [h]
  · simp [h]
  · simp [h, hu]

/-- Unit `i` of kind `u` forced: its work aborted and the abort recorded (R486). -/
def forced (u i n : Nat) (l : List Nat) (s : State) : State := forcedReset u i (abortWork u i n l s).1 (abortWork u i n l s).2

/-- A unit past its limit is forced; a core that a reset of cores quiesces is then cleared, any other unit goes on with its operation. -/
theorem exec_quiesceTimeout_forces (hst : (blk s u i).st = 1) (ht : (blk s u i).since + (blk s u i).limit ≤ now s) (hu : u ≠ 1)
    (hh : holding s = false ∨ 3 ≤ u) :
    exec (.quiesceTimeout u i n l) s = .next (if (blk s u i).op = some 4 then setBlk 0 i {} (resetOneCore i (forced u i n l s))
      else quiesced u i (abortWork u i n l s).1 (setBlk u i (blk s u i) (forced u i n l s))) := by
  refine congrArg Host.Outcome.next (if_neg ?_)
  simp [hst, not_lt.mpr ht, hu, handshake_runs hh]

/-! ### Block reset (R487) -/

/-- What begins once unit `i` of kind `u` is clear. -/
def afterBlockReset (u i : Nat) (s : State) : State :=
  match u with
  | 2 => if (port s i).en && s.ver.newest.num != 0 then startTraining i s else s
  | 3 => startLink i s
  | 4 => if s.sys.level = 0 then { s with mem := { s.mem with selfRef := clrBit s.mem.selfRef i } } else s
  | 5 => { s with helm := { s.helm with heldPair := none } }
  | _ => s

theorem exec_blockResetDone_answers (hst : (blk s u i).st = 4) (hh : holding s = false ∨ 3 ≤ u) :
    exec (.blockResetDone u i) s = .next (answerBlk (blk s u i) (afterBlockReset u i (setBlk u i {} s))) := by
  refine congrArg Host.Outcome.next (if_neg ?_)
  simp [hst, handshake_runs hh]

theorem exec_blockResetDone_waits (h : (blk s u i).st ≠ 4 ∨ holding s = true ∧ u < 3) : exec (.blockResetDone u i) s = .next s := by
  refine congrArg Host.Outcome.next (if_pos ?_)
  rcases h with h | ⟨h, hu⟩
  · simp [h]
  · simp [h, hu]

end HandshakeRules

/-! ### The boot ROM (R491 to R493) -/

section BootRules
variable {l torn : List Nat} {ok : Bool} {v k : Nat} {m : Mem} {s t : State}

/-- The strap is read, the identity known to be good or not, and both ports' transmitters are on. -/
def romStarted (l : List Nat) (ok : Bool) (s : State) : State :=
  [0, 1].foldl (fun s p => setBxPort p { bxPort s p with txOn := true } s) { s with
    sys := { s.sys with
      rom := true, strap := strapOf l, idOk := ok, boot := if !ok then 4 else if strapOf l % 4 = 3 then 3 else 1 },
    ch := { s.ch with source := 1 + bits (strapOf l) 2 2 } }

/-- The records of a start of the boot ROM: an unstable strap, torn records of MRAM, an identity that is lost. -/
def romRecorded (l torn : List Nat) (ok : Bool) (s : State) : State :=
  let s := if 6 < strapSpan l then raiseF { code := 0x0804, unit := helmUnit s, detail := strapMean l + 256 * strapSpan l } s else s
  let s := torn.foldl (fun s r => raiseF { code := 0x020A, unit := helmUnit s, detail := r % 65536 } s) s
  if ok then s else raiseF { code := 0x0704, unit := helmUnit s } s

theorem romRecorded_recorded : Recorded s (romRecorded l torn ok s) := by
  have hstrap : Recorded s (if 6 < strapSpan l
      then raiseF { code := 0x0804, unit := helmUnit s, detail := strapMean l + 256 * strapSpan l } s else s) :=
    .ite (.raiseF (.refl s) _) (.refl s)
  have htorn := Recorded.foldl (f := fun s r => raiseF { code := 0x020A, unit := helmUnit s, detail := r % 65536 } s)
    (fun _ _ h => h.raiseF _) torn hstrap
  exact .ite htorn (htorn.raiseF _)

theorem exec_bootRomStart_starts (hrom : s.sys.rom = false) (hlevel : s.sys.level < 2) (hpwr : s.ch.pwr ≠ 2) (hlen : l.length = 16)
    (hl : ∀ x ∈ l, x ≤ 255) : exec (.bootRomStart l ok torn) s = .next (romRecorded l torn ok (romStarted l ok s)) := by
  refine congrArg Host.Outcome.next (if_neg ?_)
  simpa [hrom, hlevel, hpwr, hlen] using hl

theorem exec_bootRomStart_stays (h : s.sys.rom = true ∨ 2 ≤ s.sys.level ∨ s.ch.pwr = 2 ∨ l.length ≠ 16) :
    exec (.bootRomStart l ok torn) s = .next s := by
  refine congrArg Host.Outcome.next (if_pos ?_)
  rcases h with h | h | h | h <;> simp [h]

theorem bxPort_romStarted {p : Nat} (hp : p < 2) : (bxPort (romStarted l ok s) p).txOn = true := by
  unfold romStarted
  obtain rfl | rfl : p = 0 ∨ p = 1 := by omega
  · rw [List.foldl_cons, List.foldl_cons, List.foldl_nil, bxPort_setBxPort_other _ _ (by decide), bxPort_setBxPort_same]
  · rw [List.foldl_cons, List.foldl_cons, List.foldl_nil, bxPort_setBxPort_same]

/-! ### Starting an image (R493, R497) -/

/-- The boot ROM may start the image of slot `k`: its signature verifies, by bit `k` of `v`, and it breaks no rule of R497. -/
def slotGood (v : Nat) (s : State) (k : Nat) : Bool :=
  bit v k && (match mget s.nv.slots k with | some i => imageOk s i.data | none => false)

theorem slotGood_none (h : ∀ k ∈ slotOrder s, bit v k = true → ∀ i, mget s.nv.slots k = some i → imageOk s i.data = false) :
    (slotOrder s).find? (slotGood v s) = none := by
  refine List.find?_eq_none.mpr fun k hk hgood => ?_
  obtain ⟨hsig, himage⟩ := Bool.and_eq_true_iff.mp hgood
  cases hslot : mget s.nv.slots k with
  | none => simp [hslot] at himage
  | some i => simp [hslot, h k hk hsig i hslot] at himage

section Starting
variable (hrom : s.sys.rom = true) (hlevel : s.sys.level < 2) (hboot : s.sys.boot = 1) (hsrc : bootSrc s = 0)
include hrom hlevel hboot hsrc

theorem exec_firmwareStart_starts (hk : (slotOrder s).find? (slotGood v s) = some k) : exec (.firmwareStart v) s =
    .next (startFw ((mget s.nv.slots k).getD { len := 0 }).data (some k) { s with nv := { s.nv with pending := none } }) := by
  refine congrArg Host.Outcome.next ((if_neg ?_).trans ?_)
  · simp [hrom, hlevel, hboot, hsrc]
  · dsimp only
    split
    next j hj => obtain rfl := Option.some.inj (hj.symm.trans hk); rfl
    next hj => exact absurd (hj.symm.trans hk) (by simp)

theorem exec_firmwareStart_stops (hk : (slotOrder s).find? (slotGood v s) = none) : exec (.firmwareStart v) s =
    .next (raiseF { code := 0x0703, unit := helmUnit s, detail := (slotOrder s).foldl setBit 0 }
      { s with sys := { s.sys with boot := 4 }, nv := { s.nv with pending := none } }) := by
  refine congrArg Host.Outcome.next ((if_neg ?_).trans ?_)
  · simp [hrom, hlevel, hboot, hsrc]
  · dsimp only
    split
    next j hj => exact absurd (hj.symm.trans hk) (by simp)
    next hj => rfl

end Starting

theorem exec_firmwareStart_waits (h : s.sys.rom = false ∨ 2 ≤ s.sys.level ∨ s.sys.boot ≠ 1 ∨ bootSrc s ≠ 0) :
    exec (.firmwareStart v) s = .next s := by
  refine congrArg Host.Outcome.next (if_pos ?_)
  rcases h with h | h | h | h <;> simp [h]

/-- The records of the causes of resets leave all of the system but the causes that were new (R508). -/
theorem bootRecords_sys : (bootRecords s).sys = { s.sys with causeNew := 0 } := by
  unfold bootRecords
  extract_lets c s1 s2 s3
  have h1 : Recorded s s1 := .ite (.raiseF (.refl s) _) (.refl s)
  have h2 : Recorded s s2 := .ite (h1.raiseF _) h1
  have h3 : Recorded s s3 := .ite (h2.raiseF _) h2
  exact congrArg (fun x : Sys => { x with causeNew := 0 }) h3.sys

theorem startLinks_sys (ns : List Nat) (s : State) : (ns.foldl (fun s n => startLink n s) s).sys = s.sys :=
  List.foldlRecOn (motive := fun t : State => t.sys = s.sys) ns _ rfl fun _ ht _ _ => ht

theorem startFw_sys (m : Mem) (k : Option Nat) (s : State) : (startFw m k s).sys = { s.sys with
    boot := 2, fwVer := Mem.leAt m 8 4, svn := Mem.leAt m 12 4, fwDigest := fwDigest m, fwSlot := k, causeNew := 0 } := by
  unfold startFw
  rw [startLinks_sys, bootRecords_sys]

/-! ### HBM's initialisation and the end of the debug unlock (R357, R493, R502) -/

theorem exec_hbmInitComplete_ready (hf : fwUp s = true) (hp : s.ch.pwr ≠ 2) : exec .hbmInitComplete s = .next { s with
    mem := { s.mem with ready := true }, nv := { s.nv with repaired := s.nv.repaired.map fun r => (r.1, r.2.1, true) } } :=
  congrArg Host.Outcome.next (if_pos (by simp [hf, hp]))

theorem exec_hbmInitComplete_waits (h : fwUp s = false ∨ s.ch.pwr = 2) : exec .hbmInitComplete s = .next s := by
  refine congrArg Host.Outcome.next (if_neg ?_)
  rcases h with h | h <;> simp [h]

theorem exec_debugExpiry_locks {e : Nat} (he : s.sys.dbgExp = some e) (ht : e ≤ now s) :
    exec .debugExpiry s = .next (lockDebug s) := by
  have hexec : exec .debugExpiry s = execDebugExpiry s := rfl
  rw [hexec, execDebugExpiry, he]
  exact congrArg _ (if_pos ht)

theorem exec_debugExpiry_waits (h : s.sys.dbgExp = none ∨ ∃ e, s.sys.dbgExp = some e ∧ now s < e) : exec .debugExpiry s = .next s := by
  have hexec : exec .debugExpiry s = execDebugExpiry s := rfl
  rw [hexec, execDebugExpiry]
  rcases h with h | ⟨e, he, ht⟩
  · rw [h]
  · rw [he]
    exact congrArg _ (if_neg (not_le.mpr ht))

end BootRules

/-- Settles O55: each row by its gate, then by what the operation does in the case. -/
theorem quiesceAndBootComplete : Obligations.QuiesceAndBootComplete := by
  unfold Obligations.QuiesceAndBootComplete
  refine ⟨fun _ _ _ => exec_quiesceAck_acks, fun _ _ _ => exec_quiesceAck_waits, fun _ _ _ _ _ => exec_quiesceTimeout_waits, ?forced, ?cleared,
    ?reset, fun _ _ _ => exec_blockResetDone_waits, ?rom, fun _ _ _ _ => exec_bootRomStart_stays, ?start, ?stop,
    fun _ _ => exec_firmwareStart_waits, ?firmware, fun _ => exec_hbmInitComplete_ready, fun _ => exec_hbmInitComplete_waits,
    fun _ _ => exec_debugExpiry_locks, fun _ => exec_debugExpiry_waits⟩
  case forced =>
    intro u i n l s hst ht hu hh hop
    rw [exec_quiesceTimeout_forces hst ht hu hh, if_neg hop]
    rfl
  case cleared =>
    intro i n l s hst ht hh hop
    rw [exec_quiesceTimeout_forces hst ht (by decide) (.inl hh), if_pos hop]
    rfl
  case reset =>
    intro u i s v hst hh hv
    have hdone := exec_blockResetDone_answers hst hh
    rw [← hv] at hdone
    rw [hdone]
    refine ⟨?_, ?_, ?_, ?_, ?_⟩
    · rintro (rfl | rfl) <;> rfl
    · rintro rfl
      simp [afterBlockReset]
    · rintro rfl; rfl
    · rintro rfl; rfl
    · rintro rfl; rfl
  case rom =>
    intro l ok torn s hrom hlevel hpwr hlen hl
    have hrec : Recorded (romStarted l ok s) (romRecorded l torn ok (romStarted l ok s)) := romRecorded_recorded
    refine ⟨_, exec_bootRomStart_starts hrom hlevel hpwr hlen hl, ?_⟩
    rw [hrec.sys, hrec.ch, hrec.nv, hrec.bxPort, hrec.bxPort, bxPort_romStarted (by decide), bxPort_romStarted (by decide)]
    refine ⟨rfl, rfl, rfl, ?_, rfl, rfl, rfl, rfl⟩
    cases ok <;> rfl
  case start =>
    intro v s k hrom hlevel hboot hsrc hk
    exact exec_firmwareStart_starts hrom hlevel hboot hsrc hk
  case stop =>
    intro v s hrom hlevel hboot hsrc h
    refine ⟨_, exec_firmwareStart_stops hrom hlevel hboot hsrc (slotGood_none h), ?_, ?_⟩
    · rw [raiseF_sys]
    · rw [raiseF_nv]
  case firmware =>
    intro m k s
    rw [startFw_sys]
    exact ⟨rfl, rfl, rfl, rfl⟩

end Sys2Proof.Machine
end

section
/-! PROOFS. Reads, repair, retirement, migration and temperatures of HBM (R349, R353, R354, R356, R358, R360, R512). -/

namespace Sys2Proof.Machine
open Sys2Proof

/-! ### The code (R353) -/

theorem rsRead_clean (w : Bool) : rsRead [] w = 0 := rfl
theorem rsRead_one (i : Nat) (w : Bool) : rsRead [i] w = 1 := rfl
theorem rsRead_two {i j : Nat} (h : i ≠ j) (w : Bool) : rsRead [i, j] w = 2 := by
  have hlen : ([i, j].foldl sadd []).length = 2 := by
    simp only [List.foldl_cons, List.foldl_nil, sadd]
    split <;> simp [h.symm]
  unfold rsRead
  rw [hlen]
  rfl

theorem mem_foldl_sadd {bad l : List Nat} {x : Nat} : x ∈ bad.foldl sadd l ↔ x ∈ l ∨ x ∈ bad := by
  induction bad generalizing l with
  | nil => simp
  | cons b bad ih => simp [ih, or_left_comm, or_assoc]

theorem padTo_take_length (n : Nat) (b : Bytes) : (padTo n (b.take n)).length = n := by
  simp [padTo, zeros]

section HbmRules
variable {a row p q h : Nat} {e : Reread} {l : List Nat} {s u : State} {v : Bool × State}

/-! ### Reports of the controllers (R373) -/

@[simp] theorem hbErr_mem (st k : Nat) (s : State) : (hbErr st k s).mem = s.mem := errc_mem ..
@[simp] theorem hbErr_nv (st k : Nat) (s : State) : (hbErr st k s).nv = s.nv := errc_nv ..
@[simp] theorem hbFault_mem (code p flags detail : Nat) (s : State) : (hbFault code p flags detail s).mem = s.mem := raiseF_mem ..

/-- What the controller mistook for the line's data is 64 bytes, and it is all that a write-back changes. -/
theorem writeBack_mistaken (a : Nat) (s : State) :
    ∃ b : Bytes, b.length = 64 ∧ (writeBack a 3 s).mem = { s.mem with hbm := Mem.store s.mem.hbm (a / 64 * 64) b } :=
  ⟨_, padTo_take_length 64 _, rfl⟩

theorem writeBack_nv (a r : Nat) (s : State) : (writeBack a r s).nv = s.nv := by
  unfold writeBack
  split <;> rfl

theorem writeBack_right {r : Nat} (h : r ≠ 3) : writeBack a r s = s := if_neg h

/-! ### A corrected read and its row (R354, R356) -/

/-- A corrected error of row `row` enters the row's history; at the limit the row's repair is requested, and its history begins again. -/
def countRow (p row : Nat) (s : State) : State :=
  let k := p * 2 ^ 32 + row
  let h := (now s :: mgetD s.mem.rowHist k []).filter fun t => now s ≤ t + max s.mem.rowWin 1 * 3600000000000
  if max s.mem.rowCe 1 ≤ h.length then
    { s with mem := { s.mem with
      rowHist := mdel s.mem.rowHist k,
      repairs := if s.mem.repairs.contains (p, row) then s.mem.repairs else s.mem.repairs ++ [(p, row)] } }
  else { s with mem := { s.mem with rowHist := mset s.mem.rowHist k h } }

/-- A read that the code corrects, as it takes the line to be by `r`: counted, recorded, and charged to its row. -/
def correctedRead (a row r : Nat) (s : State) : State :=
  countRow (pchOf s a) row (hbFault 0x0101 (pchOf s a) 0 (a / 64) (hbErr (pchOf s a / 32) 0 (writeBack a r s)))

theorem countRow_mem (p row : Nat) (s : State) :
    ∃ hist reps, (countRow p row s).mem = { s.mem with rowHist := hist, repairs := reps } := by
  unfold countRow
  dsimp only
  split
  · exact ⟨_, _, rfl⟩
  · exact ⟨_, s.mem.repairs, rfl⟩

/-- With a limit of 1, or of 0, the first corrected error asks for the repair. -/
theorem countRow_requests (hce : s.mem.rowCe ≤ 1) : (p, row) ∈ (countRow p row s).mem.repairs := by
  unfold countRow
  dsimp only
  rw [if_pos]
  · dsimp only
    split
    next hin => exact List.contains_iff_mem.mp hin
    next => exact List.mem_append_right _ (List.mem_singleton.mpr rfl)
  · rw [max_eq_right hce, List.filter_cons_of_pos (by simp)]
    exact Nat.le_add_left ..

theorem correctedRead_right {r : Nat} (hr : r ≠ 3) : ∃ hist reps, (correctedRead a row r s).mem = { s.mem with rowHist := hist, repairs := reps } := by
  obtain ⟨hist, reps, hmem⟩ := countRow_mem (pchOf s a) row (hbFault 0x0101 (pchOf s a) 0 (a / 64) (hbErr (pchOf s a / 32) 0 s))
  refine ⟨hist, reps, ?_⟩
  rw [correctedRead, writeBack_right hr, hmem, hbFault_mem, hbErr_mem]

theorem correctedRead_requests {r : Nat} (hr : r ≠ 3) (hce : s.mem.rowCe ≤ 1) : (pchOf s a, row) ∈ (correctedRead a row r s).mem.repairs := by
  rw [correctedRead, writeBack_right hr]
  exact countRow_requests (by rwa [hbFault_mem, hbErr_mem])

/-- Where the code mistakes the line for another, no byte outside the line changes. -/
theorem correctedRead_mistaken (a row : Nat) (s : State) :
    (correctedRead a row 3 s).mem.cs = s.mem.cs ∧ (correctedRead a row 3 s).mem.poison = s.mem.poison ∧
    ∀ x, x / 64 ≠ a / 64 → Mem.read (correctedRead a row 3 s).mem.hbm x = Mem.read s.mem.hbm x := by
  obtain ⟨b, hlen, hback⟩ := writeBack_mistaken a s
  obtain ⟨hist, reps, hmem⟩ :=
    countRow_mem (pchOf s a) row (hbFault 0x0101 (pchOf s a) 0 (a / 64) (hbErr (pchOf s a / 32) 0 (writeBack a 3 s)))
  rw [hbFault_mem, hbErr_mem, hback] at hmem
  rw [correctedRead, hmem]
  refine ⟨rfl, rfl, fun x hx => Mem.read_store_outside b _ _ _ ?_⟩
  omega

/-- The line at `a` is poisoned, and the repair of its row in pseudo-channel `p` requested (R354, R356). -/
def poisonLine (a p row : Nat) (s : State) : State := { s with mem := { s.mem with
  poison := sadd s.mem.poison (a / 64),
  repairs := if s.mem.repairs.contains (p, row) then s.mem.repairs else s.mem.repairs ++ [(p, row)] } }

/-! ### Reads (R353, R354) -/

theorem exec_hbmReread_idle (hi : down s = true ∨ inHbm s a 1 = false ∨ a / 64 ∉ s.mem.poison ∧ rsRead e.first e.wild1 = 0) :
    exec (.hbmReread a row e) s = .next s := by
  refine congrArg Host.Outcome.next ?_
  rcases hi with hd | hin | ⟨hp, hr⟩
  · simp [hd]
  · simp [hin]
  · simp [hp, hr]

section Reads
variable (hd : down s = false) (hin : inHbm s a 1 = true)
include hd hin

theorem exec_hbmReread_poisoned (hp : a / 64 ∈ s.mem.poison) : exec (.hbmReread a row e) s = .next (hbErr (pchOf s a / 32) 3 s) := by
  refine congrArg Host.Outcome.next ?_
  simp [hd, hin, hp]

variable (hp : a / 64 ∉ s.mem.poison)
include hp

theorem exec_hbmReread_corrected (h0 : rsRead e.first e.wild1 ≠ 0) (h2 : rsRead e.first e.wild1 ≠ 2) :
    exec (.hbmReread a row e) s = .next (correctedRead a row (rsRead e.first e.wild1) s) := by
  refine congrArg Host.Outcome.next ?_
  simp [hd, hin, hp, h0, h2, correctedRead, countRow]

/-- A read that the re-read puts right counts towards the retirement of its pseudo-channel (R512). -/
theorem exec_hbmReread_reread (h1 : rsRead e.first e.wild1 = 2) (h2 : rsRead e.second e.wild2 ≠ 2)
    (hu : u = hbErr (pchOf s a / 32) 1 (hbErr (pchOf s a / 32) 0 (writeBack a (rsRead e.second e.wild2) s)))
    (hv : v = (if bit s.nv.pchRetired (pchOf s a) then (false, u) else channelEvent 2 (pchOf s a) 0 u)) :
    exec (.hbmReread a row e) s = .next (if v.1 then retirePch (pchOf s a) (hbFault 0x0101 (pchOf s a) 2 (a / 64 + 2 ^ 63) v.2)
      else hbFault 0x0101 (pchOf s a) 0 (a / 64 + 2 ^ 63) v.2) := by
  have hnv : u.nv = s.nv := by rw [hu, hbErr_nv, hbErr_nv, writeBack_nv]
  have hexec : exec (.hbmReread a row e) s = execHbmReread a row e s := rfl
  rw [hexec, execHbmReread, if_neg (Bool.eq_false_iff.mp hd), if_neg (by simp [hin])]
  dsimp only
  rw [if_neg (mt List.contains_iff_mem.mp hp), h1, if_neg (by decide), if_neg (by decide), if_pos h2, ← hu, hnv, ← hv]
  obtain ⟨_ | _, t⟩ := v
  · simp only [Bool.false_eq_true, if_false]
  · simp only [if_true]

theorem exec_hbmReread_lost (h1 : rsRead e.first e.wild1 = 2) (h2 : rsRead e.second e.wild2 = 2) :
    exec (.hbmReread a row e) s =
      .next (retirePch (pchOf s a) (hbFault 0x0306 (pchOf s a) 2 (a / 64) (poisonLine a (pchOf s a) row (hbErr (pchOf s a / 32) 2 s)))) := by
  refine congrArg Host.Outcome.next ?_
  simp [hd, hin, hp, h1, h2, poisonLine]

end Reads

/-! ### Repair (R356, R358) -/

theorem exec_hbmRowRepair_idle {b : Bool} (hi : down s = true ∨ (p, row) ∉ s.mem.repairs) : exec (.hbmRowRepair p row l b) s = .next s := by
  refine congrArg Host.Outcome.next ?_
  rcases hi with hd | hr
  · simp [hd]
  · simp [hr]

/-- The request for the repair of a row is taken. -/
def takeRepair (p row : Nat) (s : State) : State := { s with mem := { s.mem with repairs := s.mem.repairs.filter (· != (p, row)) } }

theorem exec_hbmRowRepair_retires (hd : down s = false) (hr : (p, row) ∈ s.mem.repairs) :
    exec (.hbmRowRepair p row l false) s = .next (retirePch p (takeRepair p row s)) := by
  refine congrArg Host.Outcome.next ?_
  simp [hd, hr, takeRepair]

/-- The lines of `l` that lie in pseudo-channel `p`. -/
def linesOf (s : State) (p : Nat) (l : List Nat) : List Nat := l.filter fun x => inHbm s (64 * x) 64 && pchOf s (64 * x) == p

theorem exec_hbmRowRepair_repairs (hd : down s = false) (hr : (p, row) ∈ s.mem.repairs) :
    exec (.hbmRowRepair p row l true) s = .next (hbErr (p / 32) 4 { takeRepair p row s with
      mem := { (takeRepair p row s).mem with poison := (linesOf s p l).foldl sadd s.mem.poison },
      nv := { s.nv with repaired := (p, row, false) :: s.nv.repaired } }) := by
  refine congrArg Host.Outcome.next ((if_neg (by simp [hd])).trans ((if_neg (by simp [hr])).trans ?_))
  rfl

theorem mem_linesOf {x : Nat} : x ∈ linesOf s p l ↔ x ∈ l ∧ inHbm s (64 * x) 64 = true ∧ pchOf s (64 * x) = p := by
  simp [linesOf]

/-! ### Migration (R360) -/

theorem exec_migrationComplete_idle (hi : down s = true ∨ mget s.mem.migrate h = none) : exec (.migrationComplete h l) s = .next s := by
  have hexec : exec (.migrationComplete h l) s = execMigrationComplete h l s := rfl
  rw [hexec, execMigrationComplete]
  rcases hi with hd | hm
  · simp [hd]
  · simp [hm]

/-- A migration of half `h` off pseudo-channel `p` has ended: the lines of `p` that could not be read are poisoned. -/
def migrated (h p : Nat) (lost : List Nat) (s : State) : State :=
  let act := activePch s h
  let old := ((List.range 32).flatMap fun i => (List.range 6).map fun k => (6 * h + k) * 32 + i).filter fun q => act.contains q || q == p
  let bad := lost.filter fun l => halfBase h ≤ 64 * l && 64 * l < halfBase h + halfSize s h && pchIn old (64 * l - halfBase h) == p
  { s with mem := { s.mem with migrate := mdel s.mem.migrate h, poison := bad.foldl sadd s.mem.poison } }

theorem migrated_nil : migrated h p [] s = { s with mem := { s.mem with migrate := mdel s.mem.migrate h } } := rfl
theorem mem_poison_migrated {x : Nat} (hx : x ∈ s.mem.poison) : x ∈ (migrated h p l s).mem.poison := mem_foldl_sadd.mpr (.inl hx)

/-- The oldest retirement that waits in half `h` begins its migration. -/
def nextMigration (h : Nat) (s : State) : State :=
  match s.mem.queued.find? fun p => halfOf p == h with
  | some p => startMigration p s
  | none => s

theorem exec_migrationComplete_migrates (hd : down s = false) (hm : mget s.mem.migrate h = some p) :
    exec (.migrationComplete h l) s = .next (nextMigration h (migrated h p l s)) := by
  have hexec : exec (.migrationComplete h l) s = execMigrationComplete h l s := rfl
  rw [hexec, execMigrationComplete, hm, hd]
  rfl

theorem exec_migrationComplete_ends (hd : down s = false) (hm : mget s.mem.migrate h = some p) (hq : ∀ q ∈ s.mem.queued, halfOf q ≠ h) :
    exec (.migrationComplete h l) s = .next (migrated h p l s) := by
  have hnone : (migrated h p l s).mem.queued.find? (fun p => halfOf p == h) = none :=
    List.find?_eq_none.mpr fun q hmem => by simpa using hq q hmem
  rw [exec_migrationComplete_migrates hd hm, nextMigration, hnone]

theorem exec_migrationComplete_begins (hd : down s = false) (hm : mget s.mem.migrate h = some p)
    (hq : s.mem.queued.find? (fun p => halfOf p == h) = some q) :
    exec (.migrationComplete h l) s = .next (startMigration q (migrated h p l s)) := by
  have hsome : (migrated h p l s).mem.queued.find? (fun p => halfOf p == h) = some q := hq
  rw [exec_migrationComplete_migrates hd hm, nextMigration, hsome]

end HbmRules

/-! ### Temperatures (R349) -/

section Temperatures
variable {temps ecc rfm : List Nat} {s : State}

/-- Stack `i` is read. -/
def readStack (temps ecc rfm : List Nat) (s : State) (i : Nat) : State :=
  let t := temps.getD i 0
  let s := { s with mem := { s.mem with
    temps := mset s.mem.temps i t,
    fastRef := if 85 * 16 < toSigned 16 t then setBit s.mem.fastRef i else clrBit s.mem.fastRef i } }
  perf (baseHb + 0x120 + 0x40 * i) (rfm.getD i 0) (errc (baseHb + 0x11C + 0x40 * i) (baseHb + 0x128 + 0x40 * i) 5 (ecc.getD i 0) s)

theorem exec_hbmTempRead_reads (hd : down s = false) :
    exec (.hbmTempRead temps ecc rfm) s = .next ((List.range 12).foldl (readStack temps ecc rfm) s) :=
  congrArg Host.Outcome.next (if_neg (by simp [hd]))

theorem readStack_mem (i : Nat) : (readStack temps ecc rfm s i).mem = { s.mem with
    temps := mset s.mem.temps i (temps.getD i 0),
    fastRef := if 85 * 16 < toSigned 16 (temps.getD i 0) then setBit s.mem.fastRef i else clrBit s.mem.fastRef i } := by
  unfold readStack
  rw [perf_mem, errc_mem]

theorem bit_fastRef_readStack (i j : Nat) : bit (readStack temps ecc rfm s i).mem.fastRef j =
    if i = j then decide (1360 < toSigned 16 (temps.getD i 0)) else bit s.mem.fastRef j := by
  rw [readStack_mem, show (85 * 16 : Int) = 1360 from rfl]
  dsimp only
  by_cases hhot : 1360 < toSigned 16 (temps.getD i 0)
  · rw [if_pos hhot, bit_setBit]
    by_cases hij : i = j
    · subst hij
      simpa using hhot
    · simp [hij]
  · rw [if_neg hhot, bit_clrBit]
    by_cases hij : i = j
    · subst hij
      simpa using hhot
    · simp [hij]

/-- After the first `n` stacks have been read, each of them has its temperature and its refresh rate, and no data has changed. -/
theorem readStacks_mem (n : Nat) : ((List.range n).foldl (readStack temps ecc rfm) s).mem.hbm = s.mem.hbm ∧
    ∀ i, i < n → mget ((List.range n).foldl (readStack temps ecc rfm) s).mem.temps i = some (temps.getD i 0) ∧
      bit ((List.range n).foldl (readStack temps ecc rfm) s).mem.fastRef i = decide (1360 < toSigned 16 (temps.getD i 0)) := by
  induction n with
  | zero => exact ⟨rfl, fun i hi => absurd hi (Nat.not_lt_zero i)⟩
  | succ n ih =>
    obtain ⟨hhbm, hread⟩ := ih
    simp only [List.range_succ, List.foldl_append, List.foldl_cons, List.foldl_nil]
    refine ⟨by rw [readStack_mem, hhbm], fun i hi => ?_⟩
    rw [bit_fastRef_readStack, readStack_mem]
    by_cases hin : i = n
    · subst hin
      simp
    · rw [mget_mset_other _ _ hin, if_neg (Ne.symm hin)]
      exact hread i (by omega)

end Temperatures

end Sys2Proof.Machine
end

section
/-! PROOFS. Errors, spare banks and rewrites of core store (R355, R367, R368); with HBM, O47. -/

namespace Sys2Proof.Machine
open Sys2Proof

section CoreStoreRules
variable {p o k b : Nat} {l r : List Nat} {s : State}

/-- What holds back the scrub, the copy of a bank and the helm's rewrite. -/
theorem standsStill_false (hf : frozen s = false) (hp : s.ch.pwr ≠ 1) : ¬(frozen s || s.ch.pwr == 1) = true := by simp [hf, hp]
theorem standsStill_true (h : frozen s = true ∨ s.ch.pwr = 1) : (frozen s || s.ch.pwr == 1) = true := by
  rcases h with h | h <;> simp [h]

/-! ### What reports and spares leave of memory (R368) -/

@[simp] theorem csFault_mem (code p bank flags off version : Nat) (s : State) : (csFault code p bank flags off version s).mem = s.mem :=
  raiseF_mem ..

@[simp] theorem retireCore_mem (p : Nat) (s : State) : (retireCore p s).mem = s.mem := by
  unfold retireCore
  dsimp only
  split <;> rfl

theorem spareBank_mem (p bank : Nat) (s : State) : ∃ m, (spareBank p bank s).mem = { s.mem with copying := m } := by
  unfold spareBank
  dsimp only
  split
  · exact ⟨_, rfl⟩
  · exact ⟨s.mem.copying, retireCore_mem ..⟩

@[simp] theorem channelEvent_mem (cls idx cell : Nat) (s : State) : (channelEvent cls idx cell s).2.mem = s.mem := by
  unfold channelEvent
  dsimp only
  split <;> rfl

@[simp] theorem bankEvent_mem (p bank : Nat) (s : State) : (bankEvent p bank s).2.mem = s.mem := by
  unfold bankEvent
  split
  · rfl
  · exact channelEvent_mem ..

/-- An error of a bank is recorded; where `retire` says that it retires the bank, a spare is needed. -/
def reportBank (code p bank off : Nat) (retire : Bool) (s : State) : State :=
  let s := csFault code p bank (if retire then 2 else 0) off (newestNum s) s
  if retire then spareBank p bank s else s

theorem reportBank_mem (code p bank off : Nat) (retire : Bool) (s : State) :
    ∃ m, (reportBank code p bank off retire s).mem = { s.mem with copying := m } := by
  cases retire with
  | false => exact ⟨s.mem.copying, csFault_mem ..⟩
  | true =>
    obtain ⟨m, hm⟩ := spareBank_mem p bank (csFault code p bank 2 off (newestNum s) s)
    rw [csFault_mem] at hm
    exact ⟨m, hm⟩

/-! ### The patrol scrub (R367) -/

theorem exec_patrolScrub_idle (h : frozen s = true ∨ s.ch.pwr = 1 ∨ k = 0 ∨ (p * 2 ^ 26 + o) / 32 ∈ s.mem.csPoison) :
    exec (.patrolScrub p o k) s = .next s := by
  refine congrArg Host.Outcome.next ?_
  rcases h with h | h | h | h
  · simp [h]
  · simp [h]
  · simp [h]
  · exact ite_eq_left_iff.mpr fun _ => ite_eq_left_iff.mpr fun _ => if_pos (List.contains_iff_mem.mpr h)

/-- A corrected word is counted, and is an event of its bank where it had been corrected before. -/
def correctedWord (p o : Nat) (s : State) : Bool × State :=
  let s := errc (baseHb + 0x800 + 0x20 * p) (baseHb + 0x80C + 0x20 * p) 0 1 s
  if s.mem.csCorr.contains ((p * 2 ^ 26 + o) / 32) then bankEvent p (o / 32 % 64) s else (false, s)
/-- An uncorrectable word is counted, and is an event of its bank. -/
def lostWord (p o : Nat) (s : State) : Bool × State :=
  bankEvent p (o / 32 % 64) (errc (baseHb + 0x804 + 0x20 * p) (baseHb + 0x80C + 0x20 * p) 1 1 s)

theorem correctedWord_mem (p o : Nat) (s : State) : (correctedWord p o s).2.mem = s.mem := by
  unfold correctedWord
  dsimp only
  split
  · rw [bankEvent_mem, errc_mem]
  · exact errc_mem ..

theorem lostWord_mem (p o : Nat) (s : State) : (lostWord p o s).2.mem = s.mem := by
  rw [lostWord, bankEvent_mem, errc_mem]

/-- Core-store word `w` is marked as corrected since its last write. -/
def markCorrected (w : Nat) (s : State) : State := { s with mem := { s.mem with csCorr := sadd s.mem.csCorr w } }
/-- Core-store word `w` is poisoned. -/
def poisonWord (w : Nat) (s : State) : State := { s with mem := { s.mem with csPoison := sadd s.mem.csPoison w } }

section Scrubs
variable (hf : frozen s = false) (hpwr : s.ch.pwr ≠ 1) (hp : p < 132) (ho : o < 2 ^ 26) (hw : (p * 2 ^ 26 + o) / 32 ∉ s.mem.csPoison)
include hf hpwr hp ho hw

theorem exec_patrolScrub_corrects : exec (.patrolScrub p o 1) s = .next (reportBank 0x0102 p (o / 32 % 64) (o / 32 * 32)
    (correctedWord p o s).1 (markCorrected ((p * 2 ^ 26 + o) / 32) (correctedWord p o s).2)) := by
  have hword : ¬(decide (132 ≤ p) || decide (2 ^ 26 ≤ o) || decide (1 = 0)) = true := by simp; omega
  have hclean : ¬s.mem.csPoison.contains ((p * 2 ^ 26 + o) / 32) = true := mt List.contains_iff_mem.mp hw
  have hexec : exec (.patrolScrub p o 1) s = execPatrolScrub p o 1 s := rfl
  rw [hexec, execPatrolScrub, if_neg (standsStill_false hf hpwr), if_neg hword]
  dsimp only
  rw [if_neg hclean, if_pos rfl]
  rfl

theorem exec_patrolScrub_poisons (hk : 2 ≤ k) : exec (.patrolScrub p o k) s = .next (reportBank 0x0206 p (o / 32 % 64) (o / 32 * 32)
    (lostWord p o s).1 (poisonWord ((p * 2 ^ 26 + o) / 32) (lostWord p o s).2)) := by
  have hword : ¬(decide (132 ≤ p) || decide (2 ^ 26 ≤ o) || decide (k = 0)) = true := by simp; omega
  have hclean : ¬s.mem.csPoison.contains ((p * 2 ^ 26 + o) / 32) = true := mt List.contains_iff_mem.mp hw
  have hexec : exec (.patrolScrub p o k) s = execPatrolScrub p o k s := rfl
  rw [hexec, execPatrolScrub, if_neg (standsStill_false hf hpwr), if_neg hword]
  dsimp only
  rw [if_neg hclean, if_neg (show k ≠ 1 by omega)]
  rfl

end Scrubs

/-! ### The copy of a bank (R368) -/

theorem exec_bankSpared_idle (h : frozen s = true ∨ s.ch.pwr = 1 ∨ mgetD s.mem.copying p [] = []) :
    exec (.bankSpared p l) s = .next s := by
  have hexec : exec (.bankSpared p l) s = execBankSpared p l s := rfl
  rw [hexec, execBankSpared]
  rcases h with h | h | h
  · simp [h]
  · simp [h]
  · simp [h]

/-- The words of bank `b` that `l` names, as words of the core stores. -/
def lostWords (p b : Nat) (l : List Nat) : List Nat := (l.filter fun w => w % 64 == b && w < 2 ^ 21).map fun w => p * 2 ^ 21 + w

theorem mem_lostWords {w : Nat} (hl : w ∈ l) (hb : w % 64 = b) (hw : w < 2 ^ 21) : p * 2 ^ 21 + w ∈ lostWords p b l :=
  List.mem_map.mpr ⟨w, List.mem_filter.mpr ⟨hl, by simpa [hb] using hw⟩, rfl⟩

/-- The copy of the first bank that waits has ended: its spare stands, and the words that could not be read are poison. -/
def bankCopied (p b : Nat) (r l : List Nat) (s : State) : State := { s with
  mem := { s.mem with copying := msetD s.mem.copying p r [], csPoison := (lostWords p b l).foldl sadd s.mem.csPoison },
  nv := { s.nv with spared := mset s.nv.spared p (mgetD s.nv.spared p [] ++ [b]) } }

theorem exec_bankSpared_ends (hf : frozen s = false) (hpwr : s.ch.pwr ≠ 1) (hc : mgetD s.mem.copying p [] = b :: r) :
    exec (.bankSpared p l) s = .next (csFault 0x0305 p b 2 b (newestNum s) (bankCopied p b r l s)) := by
  have hexec : exec (.bankSpared p l) s = execBankSpared p l s := rfl
  rw [hexec, execBankSpared, if_neg (standsStill_false hf hpwr), hc]
  rfl

/-! ### Rewrites from a container (R355, R367) -/

/-- The container from which the word at plain offset `w` of core `p` was loaded. -/
def regionOf (s : State) (p w : Nat) : Option Region :=
  (core s p).regions.find? fun r => (wordIn (r.dst / 2 ^ 26) (r.dst % 2 ^ 26) r.len w).2
/-- The word as its container has it; a byte that the container lacks stays. -/
def containerWord (s : State) (p w : Nat) (r : Region) : Bytes :=
  (List.range 32).map fun i => match localIndex r.dst r.len (w + i) with
    | some k => devByte s 0 (r.src + k)
    | none => Mem.read s.mem.cs (p * 2 ^ 26 + w + i)
/-- The first place of the word whose byte of the container is poisoned. -/
def poisonedAt (s : State) (w : Nat) (r : Region) : Option Nat :=
  ((List.range 32).filterMap fun i => localIndex r.dst r.len (w + i)).find? fun k => devPoison s (r.src + k)

theorem poisonedAt_none {w : Nat} {r : Region}
    (h : ∀ i k, i < 32 → localIndex r.dst r.len (w + i) = some k → devPoison s (r.src + k) = false) : poisonedAt s w r = none := by
  refine List.find?_eq_none.mpr fun k hk => ?_
  obtain ⟨i, hi, hki⟩ := List.mem_filterMap.mp hk
  simp [h i k (List.mem_range.mp hi) hki]

theorem poisonedAt_some {w i : Nat} {r : Region} (hi : i < 32) (hk : localIndex r.dst r.len (w + i) = some k)
    (hp : devPoison s (r.src + k) = true) : ∃ k, poisonedAt s w r = some k ∧ devPoison s (r.src + k) = true := by
  have hsome : (poisonedAt s w r).isSome = true :=
    List.find?_isSome.mpr ⟨k, List.mem_filterMap.mpr ⟨i, List.mem_range.mpr hi, hk⟩, hp⟩
  obtain ⟨j, hj⟩ := Option.isSome_iff_exists.mp hsome
  exact ⟨j, hj, List.find?_some (p := fun k => devPoison s (r.src + k)) hj⟩

theorem exec_coreStoreRewrite_idle (h : frozen s = true ∨ s.ch.pwr = 1 ∨ (p * 2 ^ 26 + o / 32 * 32) / 32 ∉ s.mem.csPoison) :
    exec (.coreStoreRewrite p o) s = .next s := by
  have hexec : exec (.coreStoreRewrite p o) s = execCoreStoreRewrite p o s := rfl
  rw [hexec, execCoreStoreRewrite]
  rcases h with h | h | h
  · simp [h]
  · simp [h]
  · refine congrArg Host.Outcome.next (ite_eq_left_iff.mpr fun _ => ?_)
    dsimp only
    rw [Bool.eq_false_iff.mpr (mt List.contains_iff_mem.mp h)]

/-- A poisoned word that lies in a container is rewritten from it, or the read of the container's poison is counted. -/
theorem exec_coreStoreRewrite_reads {r : Region} (hf : frozen s = false) (hpwr : s.ch.pwr ≠ 1)
    (hw : (p * 2 ^ 26 + o / 32 * 32) / 32 ∈ s.mem.csPoison) (hr : regionOf s p (o / 32 * 32) = some r) :
    exec (.coreStoreRewrite p o) s = .next ((poisonedAt s (o / 32 * 32) r).elim (csWrite p (o / 32 * 32) (containerWord s p (o / 32 * 32) r) s)
      fun k => poisonRead (r.src + k) s) := by
  have hexec : exec (.coreStoreRewrite p o) s = execCoreStoreRewrite p o s := rfl
  rw [hexec, execCoreStoreRewrite, if_neg (standsStill_false hf hpwr)]
  refine congrArg Host.Outcome.next ?_
  dsimp only
  rw [List.contains_iff_mem.mpr hw]
  unfold regionOf at hr
  rw [hr]
  dsimp only
  cases hk : poisonedAt s (o / 32 * 32) r with
  | none =>
    unfold poisonedAt at hk
    rw [hk]
    rfl
  | some k =>
    unfold poisonedAt at hk
    rw [hk]
    rfl

end CoreStoreRules

/-- Settles O47: each row by its gate, then by what it leaves and changes of memory. -/
theorem memoryEventsComplete : Obligations.MemoryEventsComplete := by
  unfold Obligations.MemoryEventsComplete
  refine ⟨fun w => ⟨rsRead_clean w, fun i => rsRead_one i w, fun i j h => rsRead_two h w⟩,
    fun _ _ e1 e2 w1 w2 _ => exec_hbmReread_idle (e := ⟨e1, e2, w1, w2⟩), fun _ _ _ _ _ _ _ => exec_hbmReread_poisoned, ?corrected, ?mistaken,
    fun _ _ e1 e2 w1 w2 _ _ _ => exec_hbmReread_reread (e := ⟨e1, e2, w1, w2⟩), ?lineLost, ?repaired,
    fun _ _ _ _ => exec_hbmRowRepair_retires, fun _ _ _ _ _ => exec_hbmRowRepair_idle, ?ended, ?begun,
    fun _ _ _ => exec_migrationComplete_idle, ?temperatures, fun _ _ _ _ => exec_patrolScrub_idle, ?wordCorrected, ?wordLost, ?copied,
    fun _ _ _ => exec_bankSpared_idle, ?rewritten, ?poisoned, fun _ _ _ => exec_coreStoreRewrite_idle⟩
  case corrected =>
    intro a row e1 e2 w1 w2 s hd hin hp h1
    have hexec := exec_hbmReread_corrected (row := row) (e := ⟨e1, e2, w1, w2⟩) hd hin hp (by simp [h1]) (by simp [h1])
    have hne : rsRead e1 w1 ≠ 3 := by omega
    obtain ⟨hist, reps, hmem⟩ := correctedRead_right (a := a) (row := row) (s := s) hne
    exact ⟨_, hexec, by rw [hmem], by rw [hmem], by rw [hmem], correctedRead_requests hne⟩
  case mistaken =>
    intro a row e1 e2 w1 w2 s hd hin hp h1
    have hexec := exec_hbmReread_corrected (row := row) (e := ⟨e1, e2, w1, w2⟩) hd hin hp (by simp [h1]) (by simp [h1])
    dsimp only at hexec
    rw [h1] at hexec
    exact ⟨_, hexec, correctedRead_mistaken a row s⟩
  case lineLost =>
    rintro a row e1 e2 w1 w2 s u hd hin hp h1 h2 rfl
    exact exec_hbmReread_lost hd hin hp h1 h2
  case repaired =>
    intro p row l s hd hr
    refine ⟨_, exec_hbmRowRepair_repairs hd hr, ?_⟩
    rw [hbErr_mem, hbErr_nv]
    exact ⟨rfl, rfl, rfl, fun x => by rw [mem_foldl_sadd, mem_linesOf]⟩
  case ended =>
    intro h p l s hd hm hq
    exact ⟨_, exec_migrationComplete_ends hd hm hq, rfl, rfl, fun x => mem_poison_migrated⟩
  case begun =>
    intro h p q s hd hm hq
    rw [exec_migrationComplete_begins hd hm hq, migrated_nil]
  case temperatures =>
    intro l e m s hd
    exact ⟨_, exec_hbmTempRead_reads hd, readStacks_mem 12⟩
  case wordCorrected =>
    intro p o s hf hpwr hp ho hw
    refine ⟨_, exec_patrolScrub_corrects hf hpwr hp ho hw, ?_⟩
    obtain ⟨m, hm⟩ := reportBank_mem 0x0102 p (o / 32 % 64) (o / 32 * 32) (correctedWord p o s).1
      (markCorrected ((p * 2 ^ 26 + o) / 32) (correctedWord p o s).2)
    rw [hm, markCorrected, correctedWord_mem]
    exact ⟨mem_sadd.mpr (.inl rfl), rfl, rfl⟩
  case wordLost =>
    intro p o k s hf hpwr hp ho hk hw
    refine ⟨_, exec_patrolScrub_poisons hf hpwr hp ho hw hk, ?_⟩
    obtain ⟨m, hm⟩ := reportBank_mem 0x0206 p (o / 32 % 64) (o / 32 * 32) (lostWord p o s).1
      (poisonWord ((p * 2 ^ 26 + o) / 32) (lostWord p o s).2)
    rw [hm, poisonWord, lostWord_mem]
    exact ⟨mem_sadd.mpr (.inl rfl), rfl⟩
  case copied =>
    intro p l b r s hf hpwr hc
    refine ⟨_, exec_bankSpared_ends hf hpwr hc, ?_⟩
    rw [csFault_mem, csFault, raiseF_nv]
    refine ⟨rfl, rfl, rfl, ?_, fun w hl hb hw => mem_foldl_sadd.mpr (.inr (mem_lostWords hl hb hw))⟩
    rintro rfl
    rfl
  case rewritten =>
    intro p o s r w hf hpwr hw hp hr hclean
    subst hw
    rw [exec_coreStoreRewrite_reads hf hpwr hp hr, poisonedAt_none hclean]
    rfl
  case poisoned =>
    intro p o s r w i k hf hpwr hw hp hr hi hk hbad
    subst hw
    obtain ⟨j, hj, hjp⟩ := poisonedAt_some hi hk hbad
    refine ⟨j, hjp, ?_⟩
    rw [exec_coreStoreRewrite_reads hf hpwr hp hr, hj]
    rfl

end Sys2Proof.Machine
end

section
/-! PROOFS. What sessions send (R458, R459, R462, R468, R471 to R475): frames change only the sessions and the record of what was sent, and
what a ring, a timer and the rows of sessions come down to. -/

namespace Sys2Proof.Machine
open Sys2Proof

/-! ### Sending (R471, R472) -/

/-- From `s` to `t` only the sessions and the record of what was sent may differ. -/
def OnlySends (s t : State) : Prop := ∃ l o, t = { s with helm := { s.helm with sess := l }, out := o }

namespace OnlySends
variable {s t u : State}

theorem refl (s : State) : OnlySends s s := ⟨_, _, rfl⟩
theorem trans (h : OnlySends s t) (g : OnlySends t u) : OnlySends s u := by
  obtain ⟨l, o, rfl⟩ := h
  obtain ⟨m, p, rfl⟩ := g
  exact ⟨m, p, rfl⟩
theorem setSess (i : Nat) (x : Sess) (s : State) : OnlySends s (setSess i x s) := ⟨_, _, rfl⟩
theorem frameOut (i type flags n : Nat) (b : Bytes) (s : State) : OnlySends s (frameOut i type flags n b s) := ⟨_, _, rfl⟩
theorem sendClose (i reason : Nat) (s : State) : OnlySends s (sendClose i reason s) := (frameOut ..).trans (setSess ..)

theorem txSeq (i type flags : Nat) (b : Bytes) (s : State) : OnlySends s (txSeq i type flags b s) := by
  unfold Machine.txSeq
  split
  · exact sendClose ..
  · exact (setSess ..).trans (frameOut ..)

theorem sendSeq (i type flags : Nat) (b : Bytes) (s : State) : OnlySends s (sendSeq i type flags b s) := by
  unfold Machine.sendSeq
  dsimp only
  split
  · exact refl s
  · split
    · exact setSess ..
    · exact txSeq ..

theorem sendResp (m i flags : Nat) (r : Resp) (s : State) : OnlySends s (sendResp m i flags r s) := sendSeq ..
end OnlySends

/-! ### Rings (R459, R462) -/

section RingRules
variable {m i : Nat} {s : State}

/-- A mask of one bit rings one mailbox. -/
theorem ringMask_single (hm : m < 32) : ringMask i (2 ^ m) s = ringMbx m i (areaRq s m) s := by
  have hother (l : List Nat) (u : State) (h : m ∉ l) :
      l.foldl (fun s k => if bit (2 ^ m) k then ringMbx k i (areaRq s k) s else s) u = u := by
    induction l generalizing u with
    | nil => rfl
    | cons k l ih =>
      obtain ⟨hk, hl⟩ := List.ne_and_not_mem_of_not_mem_cons h
      rw [List.foldl_cons, if_neg (by simpa [bit, Nat.testBit_two_pow] using hk), ih u hl]
  obtain ⟨n, hn⟩ : ∃ n, 32 = m + (n + 1) := ⟨31 - m, by omega⟩
  have hsplit : List.range 32 = List.range m ++ m :: (List.range n).map (m + 1 + ·) := by
    rw [hn, List.range_add, List.range_succ_eq_map]
    simp [Function.comp_def, Nat.add_assoc, Nat.add_comm 1]
  unfold ringMask
  rw [hsplit, List.foldl_append, hother (List.range m) s (by simp), List.foldl_cons, if_pos (by simp [bit]),
    hother _ _ (by simp; omega)]

theorem exec_cwMbxDbRing {mask : Nat} (hi : i < 4) (hu : helmUp s = true) (ho : (sess s i).opened = true) :
    exec (.cwMbxDbRing i mask) s = .next (ringMask i mask s) := by
  simp [exec, execCwMbxDbRing, hi, accUp_of_session hi hu ho]

/-- A ring that repeats the command of the stored response sends that response again. -/
theorem ringMbx_replays {q : Rq} {r : Resp} (h1 : (mbx s m).st ≠ 1) (h2 : (mbx s m).st ≠ 2) (hr : (mbx s m).resp = some r)
    (hop : r.op = q.op) (hseq : r.seq = q.seq) : ringMbx m i q s = sendResp m i 2 r (setMbx m { mbx s m with last := i } s) := by
  simp [ringMbx, h1, h2, hr, hop, hseq, Option.filter]

end RingRules

/-- Settles O60: a repeated ring sends the stored response, and sending changes only the sessions. -/
theorem sameRequestIsReplayed : Obligations.SameRequestIsReplayed := by
  unfold Obligations.SameRequestIsReplayed
  refine ⟨?ring, ?doorbell, fun _ _ _ _ => rfl, ?frame⟩
  case ring =>
    intro m i q r s h1 h2 hr hop hseq
    exact ringMbx_replays h1 h2 hr hop hseq
  case doorbell =>
    intro m i r s hi hm hu ho h1 h2 hr hop hseq
    rw [exec_cwMbxDbRing hi hu ho, ringMask_single hm, ringMbx_replays h1 h2 hr hop hseq]
  case frame =>
    intro m i r s
    obtain ⟨l, o, h⟩ := OnlySends.sendResp m i 2 r s
    rw [h]
    exact ⟨rfl, rfl, rfl, rfl, rfl, rfl, rfl⟩

/-! ### The window (R455, R459, R504, R536) -/

section WindowRules
variable {s : State}

/-- A map whose entries all change reads, at a key, as the changed value, where the default is unchanged. -/
theorem mgetD_map {α : Type} (f : Nat → α → α) (m : Map α) (k : Nat) (d : α) (hd : f k d = d) :
    mgetD (m.map fun e => (e.1, f e.1 e.2)) k d = f k (mgetD m k d) := by
  unfold mgetD
  induction m with
  | nil => exact hd.symm
  | cons e l ih =>
    obtain ⟨j, v⟩ := e
    rw [List.map_cons, mget, mget]
    dsimp only
    split
    next h => rw [h]; rfl
    next => exact ih

theorem exec_cwMbxDoneClear {mask : Nat} (hu : helmUp s = true) : exec (.cwMbxDoneClear mask) s = .next (clearDone mask s) := by
  simp [exec, execCwMbxDoneClear, hu]

theorem mbx_clearDone (mask m : Nat) (s : State) :
    mbx (clearDone mask s) m = if (mbx s m).st = 3 ∧ bit mask m = true then { mbx s m with st := 0 } else mbx s m := by
  unfold mbx clearDone
  rw [mgetD_map (fun k (x : Mbx) => if x.st == 3 && bit mask k then { x with st := 0 } else x) s.helm.mbx m {} rfl]
  simp

/-- What the three bits of CW_HEAVE_CTL do, where debug scope 1 is open. -/
theorem exec_heaveCtl (hu : helmUp s = true) (hd : dbgOpen s 1 = true) :
    exec .heaveCtlArm s = .next (heaveCtl 1 s) ∧ exec .heaveCtlResume s = .next (heaveCtl 2 s) ∧
      exec .heaveCtlCancel s = .next (heaveCtl 4 s) := by
  simp [exec, execHeaveCtlArm, execHeaveCtlResume, execHeaveCtlCancel, hu, hd]

end WindowRules

/-- Settles O22: each row by what it does where the helm is up. -/
theorem windowCommandsComplete : Obligations.WindowCommandsComplete := by
  unfold Obligations.WindowCommandsComplete
  refine ⟨?ring, ?queued, ?done, ?heave, ?lock⟩
  case ring => exact fun _ _ _ hi hu ho => exec_cwMbxDbRing hi hu ho
  case queued =>
    intro i m s hi hm hu ho h1 h2 hr
    rw [exec_cwMbxDbRing hi hu ho, ringMask_single hm, ringMbx_takes h1 h2 (by simp [hr])]
  case done =>
    intro mask s hu
    exact ⟨_, exec_cwMbxDoneClear hu, rfl, fun m => mbx_clearDone mask m s⟩
  case heave =>
    intro s hu hd
    obtain ⟨harm, hresume, hcancel⟩ := exec_heaveCtl hu hd
    refine ⟨fun hst hp => ?_, fun hst => ?_, fun hst => ?_⟩
    · simp [harm, heaveCtl, armHeave, hst, hp, bit, Nat.testBit]
    · simp [hresume, heaveCtl, hst, bit, Nat.testBit]
    · simp [hcancel, heaveCtl, hst, bit, Nat.testBit]
  case lock =>
    intro s hu
    simp [exec, execCwDbgLock, lockDebug, hu]

/-! ### Timers of sessions (R379, R468, R472, R473, R475) -/

/-- A frame of an open session leaves while its packet numbers last (R471). -/
theorem sendPlain_opened {i type : Nat} {b : Bytes} {s : State} (ho : (sess s i).opened = true) (hpn : (sess s i).pnTx + 1 < 2 ^ 48) :
    sendPlain i type b s = frameOut i type 0 0 b s := by
  rw [sendPlain, ho, if_neg (by simp), if_neg (not_le.mpr hpn)]

/-- Settles O27: each row by its guard, and what then leaves. -/
theorem sessionTimersComplete : Obligations.SessionTimersComplete := by
  unfold Obligations.SessionTimersComplete
  refine ⟨?resend, ?acknowledge, ?keepalive, ?idle, fun _ _ => rfl, ?switch, ?event⟩
  case resend =>
    intro i s hu ho ht hne
    simp [exec, execBxRetxTimeout, resend, hu, ho, ht, hne]
  case acknowledge =>
    intro i s hu ho hdue hpn
    rw [exec, execBxAckSend, hu, hdue, sendPlain_opened ho hpn]
    rfl
  case keepalive =>
    intro s hu
    have hstep : ∀ (t : State) (i : Nat), (if !(sess t i).opened || now t + 1 < (sess t i).kept + 1000000 then t
        else keepOn i 1 (keepOn i 0 (setSess i { sess t i with kept := now t + 1 } t))) =
        if (sess t i).opened = true ∧ (sess t i).kept + 1000000 ≤ now t + 1
        then keepOn i 1 (keepOn i 0 (setSess i { sess t i with kept := now t + 1 } t)) else t := by
      intro t i
      rw [← ite_not]
      exact if_congr (by simp [not_lt]) rfl rfl
    simp only [exec, execKeepaliveSend, hu, Bool.not_true, Bool.false_eq_true, if_false, hstep]
  case idle =>
    intro i s hu ho hold
    have : ((sess s i).heard.all fun e => decide (e.2 + 100000000 ≤ now s)) = true := by simpa using hold
    simp [exec, execSessionIdleTimeout, hu, ho, this]
  case switch =>
    intro i s hu ho hbad hfit
    simp [exec, execActivePortSwitch, hu, ho, hbad, hfit, and_assoc]
  case event =>
    intro i s e l hu ho he hroom hw
    simp [exec, execEventFrameSend, hu, ho, he, not_le.mpr hroom, hw]

end Sys2Proof.Machine
end

section
/-! PROOFS. The commit instant and the retirement of a version (R435, R438, R439, R442, R443, R507): which round is judged at the
instant, and what its commit or its miss leaves; O53 and O57. -/

namespace Sys2Proof.Machine
open Sys2Proof

section CommitRules
variable {s : State} {r : Round} {t : Nat}

/-! ### What is judged at the instant (R435, R439, R443) -/

/-- The round that is judged: the open one, or during a heave-to the one that stood at the stop. -/
def judged (s : State) (r : Round) : Option Round := if holding s then s.hv.round else some r

theorem exec_commitInstant_commits {j : Round} (hr : s.ver.round = some r) (ha : r.armed = some t) (ht : t ≤ now s)
    (hl : s.sys.level < 2) (hj : judged s r = some j) (hnum : j.num = r.num) (hc : j.complete s = true) :
    exec .commitInstant s = .next (commitRound j t s) := by
  have hsome : (judged s r).filter (fun x => x.num == r.num && x.complete s) = some j := by simp [hj, Option.filter, hnum, hc]
  unfold judged at hsome
  simp only [exec, execCommitInstant, hr, ha, not_lt.mpr ht, not_le.mpr hl, decide_false, Bool.or_self, Bool.false_eq_true, if_false, hsome]

/-- `s` with round `r` open, but armed no longer, and the miss noted. -/
def disarmed (r : Round) (s : State) : State := { s with ver := { s.ver with round := some { r with armed := none }, missed := true } }

/-- A round that is not committed loses its instant, and the miss is counted and reported. -/
theorem exec_commitInstant_misses (hr : s.ver.round = some r) (ha : r.armed = some t) (ht : t ≤ now s) (hl : s.sys.level < 2)
    (hj : ∀ j, judged s r = some j → j.num ≠ r.num ∨ j.complete s = false) : ∃ f, exec .commitInstant s = .next
      (raiseF f (verErr' 0 (disarmed r s))) := by
  have hnone : (judged s r).filter (fun x => x.num == r.num && x.complete s) = none := by
    rw [Option.filter_eq_none_iff]
    intro j h
    rcases hj j h with h | h <;> simp [h]
  unfold judged at hnone
  simp only [exec, execCommitInstant, hr, ha, not_lt.mpr ht, not_le.mpr hl, decide_false, Bool.or_self, Bool.false_eq_true, if_false, hnone]
  exact ⟨_, rfl⟩

theorem exec_commitInstant_early (h : s.ver.round = none ∨
    (∃ r, s.ver.round = some r ∧ (r.armed = none ∨ ∃ t, r.armed = some t ∧ now s < t)) ∨ 2 ≤ s.sys.level) :
    exec .commitInstant s = .next s := by
  unfold exec execCommitInstant
  rcases h with hr | ⟨r, hr, ha | ⟨t, ha, ht⟩⟩ | hl
  · rw [hr]
  · simp [hr, ha]
  · simp [hr, ha, ht]
  · cases hr : s.ver.round with
    | none => rfl
    | some r => cases ha : r.armed <;> simp [ha, hl]

theorem missed_keeps (f : FltRec) (t : State) : Keeps id t (raiseF f (verErr' 0 t)) := .raiseF (.errc (.refl _) ..) f

theorem r435_false {id : Nat} (hnum : s.ver.newest.num = 0)
    (hid : id ∈ [oidPg, oidSel, oidPlan] ++ (List.range 8).map oidDlc) (hw : mget r.written id = none) : r435 s r = false := by
  rw [r435, hnum, List.all_eq_false.mpr ⟨id, hid, by simp [hw]⟩]
  rfl

/-- A round that R435 keeps waiting shows it in its PENDING byte. -/
theorem complete_of_r435_false (h : r435 s r = false) : r.complete s = false := by
  have : pendingByte s r ≠ 0 := by simp [pendingByte, h, b2n]
  simpa [Round.complete] using this

/-! ### What a commit leaves of the versions (R439) -/

/-- A fold over steps that leave a part of the state leaves it. -/
theorem foldl_leaves {α ι : Type} (view : State → α) {f : State → ι → State} (hf : ∀ t x, view (f t x) = view t) (l : List ι) (s : State) :
    view (l.foldl f s) = view s :=
  List.foldlRecOn (motive := fun t : State => view t = view s) l f rfl fun _ ht _ _ => (hf ..).trans ht

theorem ringChange_ver (old new : Objs) (v i : Nat) (s : State) : (ringChange old new v i s).ver = s.ver := by
  unfold ringChange
  split <;> rfl

theorem commitCtx_ver (old new : Objs) (s : State) : (commitCtx old new s).ver = s.ver := by
  unfold commitCtx
  extract_lets a b s1 s2
  have h1 : s1.ver = s.ver := foldl_leaves State.ver (f := fun s i => setCtx i { st := 1 } s) (fun _ _ => rfl) _ s
  have h2 : s2.ver = s1.ver := foldl_leaves State.ver (f := fun s i => setCtx i { ctxOf s i with st := 0 } s) (fun _ _ => rfl) _ s1
  rw [foldl_leaves State.ver fun _ _ => ringChange_ver .., h2, h1]

theorem loadRank_ver (p model r : Nat) (m : Model) (s : State) : (loadRank p model r m s).ver = s.ver :=
  (Keeps.loadRank (.refl s) p model r m).ver

theorem loadInst_ver (o : Objs) (i : Nat) (s : State) : (loadInst o i s).ver = s.ver := by
  unfold loadInst
  split
  · rfl
  · dsimp only
    split
    · have hc := foldl_leaves State.ver (f := fun s r => setCore (physOf s ((placeOf o i).1 + r))
        { core s (physOf s ((placeOf o i).1 + r)) with reload := true } s) (fun _ _ => rfl) (List.range (placeOf o i).2) s
      split <;> exact hc
    · exact foldl_leaves State.ver (fun _ _ => loadRank_ver ..) _ s

theorem commitInsts_ver (old new : Objs) (num : Nat) (s : State) : (commitInsts old new num s).ver = s.ver := by
  unfold commitInsts
  refine foldl_leaves State.ver (fun t e => ?_) _ s
  dsimp only
  split
  · rfl
  · refine foldl_leaves State.ver (fun t i => ?_) _ t
    split
    · rw [loadInst_ver]; rfl
    · split
      · rfl
      · rw [loadInst_ver]; rfl

theorem inlineRise_ver (s : State) : (inlineRise s).ver = s.ver := by
  unfold inlineRise
  split <;> rfl

theorem trainPorts_ver (s : State) : (trainPorts s).ver = s.ver := by
  refine foldl_leaves State.ver (fun t q => ?_) _ s
  split <;> rfl

theorem commitRound_ver (r : Round) (t : Nat) (s : State) : (commitRound r t s).ver = { s.ver with
    newest := { num := r.num, objs := r.objs, since := t, bearing := bearingOf r.objs },
    older := if s.ver.newest.num = 0 then none else some (s.ver.newest, t), wrote := r.wrote, round := none, missed := false } := by
  unfold commitRound
  extract_lets old src s1 s2
  have h2 : s2.ver = s1.ver := (commitInsts_ver ..).trans (commitCtx_ver ..)
  rw [inlineRise_ver, apply_ite State.ver, trainPorts_ver, ite_self, h2]

/-! ### The retirement of a version and the ends of fault periods (R442, R507) -/

/-- What the older version alone held is gone once it retires. -/
theorem exec_versionRetire_retires {l : Live} (ho : s.ver.older = some (l, t)) (hf : inFlight s l.num = 0)
    (ht : t + s.ver.retainMs * 1000000 ≤ now s) : ∃ u, exec .versionRetire s = .next u ∧
      u.ver = { s.ver with older := none } ∧ u.mem = s.mem ∧
      u.insts = s.insts.filter fun e => (s.ver.newest.objs.models.flatMap fun m => m.2.nums).contains e.1 := by
  simp only [exec, execVersionRetire, ho, hf, not_lt.mpr ht, bne_self_eq_false, decide_false, Bool.or_self, Bool.false_eq_true, if_false]
  exact ⟨_, rfl, rfl, rfl, rfl⟩

theorem exec_versionRetire_waits (h : s.ver.older = none ∨
    (∃ l t, s.ver.older = some (l, t) ∧ (inFlight s l.num ≠ 0 ∨ now s < t + s.ver.retainMs * 1000000))) :
    exec .versionRetire s = .next s := by
  unfold exec execVersionRetire
  rcases h with ho | ⟨l, t, ho, hf | ht⟩
  · rw [ho]
  · simp [ho, hf]
  · simp [ho, ht]

theorem exec_faultPeriodEnd_ends {c k : Nat} {p : FltPeriod} (hp : p ∈ s.flt.periods) (hc : p.code = c) (hk : p.chan = k)
    (ht : p.ends ≤ now s) : exec (.faultPeriodEnd c k) s = .next (endPeriod c k s) := by
  have : (s.flt.periods.any fun p => p.code == c && p.chan == k && decide (p.ends ≤ now s)) = true :=
    List.any_eq_true.mpr ⟨p, hp, by simp [hc, hk, ht]⟩
  simp [exec, execFaultPeriodEnd, this]

end CommitRules

/-- Settles O53: a commit, a miss and a retirement by what each leaves of the versions. -/
theorem versionsCommitAndRetire : Obligations.VersionsCommitAndRetire := by
  unfold Obligations.VersionsCommitAndRetire
  refine ⟨?running, ?holding, ?content, ?missed, ?early, ?retires, ?waits, ?ready, ?noRound, ?ended, ?runs, ?silent⟩
  case running =>
    intro s r t hr ha ht hl hh hc
    exact exec_commitInstant_commits hr ha ht hl (by simp [judged, hh]) rfl hc
  case holding =>
    intro s r j t hr ha ht hl hh hj hnum hc
    exact exec_commitInstant_commits hr ha ht hl (by simp [judged, hh, hj]) hnum hc
  case content =>
    intro r t s
    rw [commitRound_ver]
    exact ⟨rfl, rfl, rfl, rfl, rfl⟩
  case missed =>
    intro s r t hr ha ht hl hj
    obtain ⟨f, hexec⟩ := exec_commitInstant_misses hr ha ht hl hj
    have hkeep := missed_keeps f (disarmed r s)
    exact ⟨_, hexec, hkeep.ver, hkeep.insts⟩
  case early => exact fun _ h => exec_commitInstant_early h
  case retires => exact fun _ _ _ ho hf ht => exec_versionRetire_retires ho hf ht
  case waits => exact fun _ h => exec_versionRetire_waits h
  case ready =>
    intro s r hr
    simp [exec, execStagedBearingReady, onRound, hr, setRound]
  case noRound =>
    intro s hr
    simp [exec, execStagedBearingReady, onRound, hr]
  case ended =>
    rintro c k s ⟨p, hp, hc, hk, ht⟩
    exact exec_faultPeriodEnd_ends hp hc hk ht
  case runs =>
    intro c k s h
    have : (s.flt.periods.any fun p => p.code == c && p.chan == k && decide (p.ends ≤ now s)) = false := by
      simpa [and_imp] using h
    simp [exec, execFaultPeriodEnd, this]
  case silent =>
    intro c k s p hp ht h0
    have hck := List.find?_some hp
    simp only [Bool.and_eq_true, beq_iff_eq] at hck
    obtain ⟨hc, hk⟩ := hck
    rw [exec_faultPeriodEnd_ends (List.mem_of_find?_eq_some hp) hc hk ht, endPeriod, hp]
    simp [h0]

/-- Settles O57: what R435 still wants shows in the PENDING byte, so the round misses its instant. -/
theorem firstRoundNeedsItsObjects : Obligations.FirstRoundNeedsItsObjects := by
  unfold Obligations.FirstRoundNeedsItsObjects
  have hnot : ∀ (s : State) (r : Round) id, s.ver.newest.num = 0 → id ∈ [oidPg, oidSel, oidPlan] ++ (List.range 8).map oidDlc →
      mget r.written id = none → r.complete s = false :=
    fun _ _ _ hnum hid hw => complete_of_r435_false (r435_false hnum hid hw)
  refine ⟨hnot, ?_⟩
  intro s r t id hnum hr ha hhold hid hw
  by_cases hdue : t ≤ now s ∧ s.sys.level < 2
  · obtain ⟨ht, hl⟩ := hdue
    have hj : ∀ j, judged s r = some j → j.num ≠ r.num ∨ j.complete s = false := by
      intro j hj
      have : r = j := by
        unfold judged at hj
        split at hj
        next hh => exact Option.some.inj ((hhold hh).symm.trans hj)
        next => exact Option.some.inj hj
      exact .inr (this ▸ hnot s r id hnum hid hw)
    obtain ⟨f, hexec⟩ := exec_commitInstant_misses hr ha ht hl hj
    exact ⟨_, hexec, by rw [(missed_keeps f (disarmed r s)).ver]; rfl⟩
  · refine ⟨s, exec_commitInstant_early ?_, rfl⟩
    rw [not_and_or, not_le, not_lt] at hdue
    exact .inr (hdue.imp (fun ht => ⟨r, hr, .inr ⟨t, ha, ht⟩⟩) fun hl => hl)

end Sys2Proof.Machine
end

section
/-! PROOFS. The chronometer in time (R376 to R380, R389, R394): what a comparison does in each state of the servo, CH_SET's end, alarms and
the tick of the always-on domain; O3 and O48. -/

namespace Sys2Proof.Machine
open Sys2Proof

section TimeRules
variable {s : State} {o : Int}

/-! ### A comparison (R378, R380) -/

/-- `s` with a comparison entered in OFFSET. -/
def noted (o : Int) (s : State) : State :=
  setCh { s.ch with offset := clampI (-2147483647) 2147483647 (o + delay256 s), lastCmp := now s, first := false } s

/-- `s` with a comparison entered, and a rate chosen unless the servo is in HOLDOVER. -/
def compared (o : Int) (s : State) : State := if s.ch.st = 3 then noted o s else newRate (noteLock (noted o s))

theorem noteLock_ch (s : State) : ∃ l n, (noteLock s).ch = { s.ch with lockHist := l, lockT := n } := by
  unfold noteLock
  dsimp only
  split
  · exact ⟨_, _, rfl⟩
  · exact ⟨_, _, rfl⟩

theorem noteLock_ver (s : State) : (noteLock s).ver = s.ver := by
  unfold noteLock
  dsimp only
  split <;> rfl

/-- Once a comparison has entered, only the rate and the history of lock differ besides. -/
theorem compared_ch (o : Int) (s : State) : ∃ a l n, (compared o s).ch = { (noted o s).ch with adj := a, lockHist := l, lockT := n } := by
  unfold compared
  split
  · exact ⟨_, _, _, rfl⟩
  · obtain ⟨l, n, h⟩ := noteLock_ch (noted o s)
    have hrate : ∃ a, (newRate (noteLock (noted o s))).ch = { (noteLock (noted o s)).ch with adj := a } := ⟨_, rfl⟩
    obtain ⟨a, ha⟩ := hrate
    exact ⟨a, l, n, by rw [ha, h]⟩

theorem verLive_compared (o : Int) (s : State) : verLive (compared o s) = verLive s := by
  unfold compared
  split
  · rfl
  · exact congrArg (fun v : VerState => v.newest.num != 0) (noteLock_ver (noted o s))

theorem holdover_ch (d : Nat) (s : State) :
    (holdover d s).ch = { (noteLock s).ch with st := 3, inLock := 0, adj := meanRate (noteLock s).ch } := by
  unfold holdover
  dsimp only
  rw [raiseF_ch]
  rfl

theorem holdover_st (d : Nat) (s : State) : (holdover d s).ch.st = 3 := by rw [holdover_ch]
theorem holdover_cnt (d : Nat) (s : State) : (holdover d s).ch.cnt = s.ch.cnt := by
  obtain ⟨l, n, h⟩ := noteLock_ch s
  rw [holdover_ch, h]

theorem compared_cnt (o : Int) (s : State) : (compared o s).ch.cnt = s.ch.cnt := by
  obtain ⟨_, _, _, h⟩ := compared_ch o s
  rw [h]; rfl
theorem compared_st (o : Int) (s : State) : (compared o s).ch.st = s.ch.st := by
  obtain ⟨_, _, _, h⟩ := compared_ch o s
  rw [h]; rfl
theorem compared_inLock (o : Int) (s : State) : (compared o s).ch.inLock = s.ch.inLock := by
  obtain ⟨_, _, _, h⟩ := compared_ch o s
  rw [h]; rfl

/-! ### The servo's states (R380) -/

theorem exec_chRefCompare (hu : servoUp s = true) : exec (.chRefCompare o) s = .next (refCompare o s) := by
  simp [exec, execChRefCompare, hu]

theorem refCompare_acquiring (hsrc : s.ch.source ≠ 0) (hst : s.ch.st = 1) : refCompare o s =
    if s.ch.first && !verLive s then
      let t := stepTo ((s.ch.cnt : Int) + (o + delay256 s) * (2 ^ 24 : Nat)).toNat (compared o s)
      setCh { t.ch with valid := t.ch.valid || t.ch.source != 1 } t
    else if verLive s && !within (o + delay256 s) off10ms then holdover 1 (compared o s)
    else towardLock (o + delay256 s) (compared o s) := by
  unfold refCompare
  rw [if_neg hsrc]
  extract_lets +onlyGivenNames first off src s1 s2
  have hst2 : s2.ch.st = 1 := (compared_st o s).trans hst
  have hcnt2 : s2.ch.cnt = s.ch.cnt := compared_cnt o s
  have hver2 : verLive s2 = verLive s := verLive_compared o s
  rw [hst2, hver2, hcnt2]
  rfl

theorem refCompare_locked (hsrc : s.ch.source ≠ 0) (hst : s.ch.st = 2) : refCompare o s =
    if verLive s && !within (o + delay256 s) off10ms then holdover 1 (compared o s) else compared o s := by
  unfold refCompare
  rw [if_neg hsrc]
  extract_lets +onlyGivenNames first off src s1 s2
  have hst2 : s2.ch.st = 2 := (compared_st o s).trans hst
  have hver2 : verLive s2 = verLive s := verLive_compared o s
  rw [hst2, hver2]
  rfl

theorem refCompare_holdover (hsrc : s.ch.source ≠ 0) (hst : s.ch.st = 3) : refCompare o s =
    if within (o + delay256 s) off10ms then setCh { (noted o s).ch with st := 1, inLock := 0 } (noted o s) else noted o s := by
  unfold refCompare
  rw [if_neg hsrc]
  extract_lets +onlyGivenNames first off src s1 s2
  have h2 : s2 = noted o s := if_pos hst
  have hst2 : (noted o s).ch.st = 3 := hst
  rw [h2, hst2]
  rfl

theorem refCompare_free (hsrc : s.ch.source ≠ 0) (h1 : s.ch.st ≠ 1) (h2 : s.ch.st ≠ 2) (h3 : s.ch.st ≠ 3) :
    refCompare o s = compared o s := by
  unfold refCompare
  rw [if_neg hsrc]
  extract_lets +onlyGivenNames first off src s1 s2
  have hst2 : s2.ch.st = s.ch.st := compared_st o s
  split
  · exact absurd (hst2.symm.trans ‹_›) h1
  · exact absurd (hst2.symm.trans ‹_›) h2
  · exact absurd (hst2.symm.trans ‹_›) h3
  · rfl

/-- What every comparison leaves in the chronometer's registers. -/
def Noted (o : Int) (s t : State) : Prop :=
  t.ch.offset = clampI (-2147483647) 2147483647 (o + delay256 s) ∧ t.ch.first = false ∧ t.ch.source = s.ch.source

theorem noted_compared (o : Int) (s : State) : Noted o s (compared o s) := by
  obtain ⟨_, _, _, h⟩ := compared_ch o s
  unfold Noted
  rw [h]
  exact ⟨rfl, rfl, rfl⟩

theorem noted_holdover {t : State} (d : Nat) (h : Noted o s t) : Noted o s (holdover d t) := by
  obtain ⟨_, _, hn⟩ := noteLock_ch t
  unfold Noted
  rw [holdover_ch, hn]
  exact h

theorem noted_refCompare (hsrc : s.ch.source ≠ 0) : Noted o s (refCompare o s) := by
  by_cases h1 : s.ch.st = 1
  · rw [refCompare_acquiring hsrc h1]
    split
    · exact noted_compared o s
    · split
      · exact noted_holdover 1 (noted_compared o s)
      · exact noted_compared o s
  by_cases h2 : s.ch.st = 2
  · rw [refCompare_locked hsrc h2]
    split
    · exact noted_holdover 1 (noted_compared o s)
    · exact noted_compared o s
  by_cases h3 : s.ch.st = 3
  · rw [refCompare_holdover hsrc h3]
    split
    · exact ⟨rfl, rfl, rfl⟩
    · exact ⟨rfl, rfl, rfl⟩
  · rw [refCompare_free hsrc h1 h2 h3]
    exact noted_compared o s

/-- Within 2 ns is within 10 ms. -/
theorem within_10ms_of_2ns {d : Int} (h : within d off2ns = true) : within d off10ms = true := by
  unfold within off2ns at h
  unfold within off10ms
  obtain ⟨hlo, hhi⟩ := (Bool.and_eq_true ..).mp h
  have hlo : (-512 : Int) ≤ d := of_decide_eq_true hlo
  have hhi : d ≤ 512 := of_decide_eq_true hhi
  exact (Bool.and_eq_true ..).mpr ⟨decide_eq_true (by omega), decide_eq_true (by omega)⟩

/-- A comparison of a servo that acquires, which neither steps the count nor ends in HOLDOVER, counts towards lock. -/
theorem refCompare_towardLock (hsrc : s.ch.source ≠ 0) (hst : s.ch.st = 1) (hf : s.ch.first = false ∨ verLive s = true)
    (hin : verLive s = false ∨ within (o + delay256 s) off10ms = true) :
    refCompare o s = towardLock (o + delay256 s) (compared o s) := by
  rw [refCompare_acquiring hsrc hst, if_neg (by rcases hf with h | h <;> simp [h]), if_neg (by rcases hin with h | h <;> simp [h])]

theorem refCompare_toHoldover (hsrc : s.ch.source ≠ 0) (hst : s.ch.st = 1 ∨ s.ch.st = 2) (hv : verLive s = true)
    (hout : within (o + delay256 s) off10ms = false) : refCompare o s = holdover 1 (compared o s) := by
  rcases hst with hst | hst
  · rw [refCompare_acquiring hsrc hst, if_neg (by simp [hv]), if_pos (by simp [hv, hout])]
  · rw [refCompare_locked hsrc hst, if_pos (by simp [hv, hout])]

/-! ### CH_SET, alarms and the 10 MHz reference (R376, R377, R389, R394) -/

theorem exec_chRefCompare_off (h : servoUp s = false ∨ s.ch.source = 0) : exec (.chRefCompare o) s = .next s := by
  rw [exec, execChRefCompare]
  rcases h with h | h
  · rw [h]; rfl
  · rw [refCompare, if_pos h, ite_self]

theorem exec_alarmFire_fires {n : Nat} (hn : n < 4) (hen : bit s.ch.alEn n = true) (hb : s.ch.vbk = true)
    (ht : mgetD s.ch.alarm n 0 ≤ now s) {u : State}
    (hu : u = { s with ch := { s.ch with alEn := clrBit s.ch.alEn n, alFired := setBit s.ch.alFired n } }) :
    exec (.alarmFire n) s = .next (wakeFire n (if bit s.ch.alEvent n = true ∧ s.ch.pwr ≠ 2
      then sendEvent 5 0 (le 1 n ++ zeros 7 ++ le 8 (mgetD s.ch.alarm n 0)) u else u)) := by
  subst hu
  simp [exec, execAlarmFire, alarmFire, not_le.mpr hn, hen, hb, not_lt.mpr ht]

theorem exec_alarmFire_silent {n : Nat} (h : 4 ≤ n ∨ bit s.ch.alEn n = false ∨ s.ch.vbk = false ∨ now s < mgetD s.ch.alarm n 0) :
    exec (.alarmFire n) s = .next s := by
  rw [exec, execAlarmFire, alarmFire]
  rcases h with h | h | h | h <;> simp [h]

theorem exec_countOnlyEntry : exec .countOnlyEntry s =
    .next (if coarse s && !s.ch.ref10 then { s with ch := { s.ch with crystal := true } } else s) := rfl

end TimeRules

/-- Settles O48: a comparison by the servo's state, and each other row by its guard. -/
theorem timeEventsComplete : Obligations.TimeEventsComplete := by
  unfold Obligations.TimeEventsComplete
  refine ⟨fun _ _ => exec_chRefCompare_off, ?enters, ?first, ?counts, ?restarts, ?toHoldover, ?locked, ?inHoldover, ?mean, ?timeout,
    ?edge, fun _ _ => ⟨rfl, rfl, rfl⟩, ?edgeLive, ?setTimeout, ?noSet, fun _ _ _ hn hen hb ht hu => exec_alarmFire_fires hn hen hb ht hu,
    fun _ _ h => exec_alarmFire_silent h, fun _ => ⟨rfl, rfl⟩, ?crystal, ?pin⟩
  case enters => exact fun o s hu hsrc => ⟨_, exec_chRefCompare hu, noted_refCompare hsrc⟩
  case first =>
    intro o s hu hsrc hst hf hv
    refine ⟨_, exec_chRefCompare hu, ?_⟩
    rw [refCompare_acquiring hsrc hst, if_pos (by simp [hf, hv])]
    exact ⟨rfl, (compared_st o s).trans hst⟩
  case counts =>
    intro o s hu hsrc hst hf hin
    refine ⟨_, exec_chRefCompare hu, ?_⟩
    rw [refCompare_towardLock hsrc hst hf (.inr (within_10ms_of_2ns hin))]
    simp only [towardLock, hin, setCh, if_true, compared_cnt, compared_inLock, compared_st, hst, true_and]
    exact if_congr (by omega) rfl rfl
  case restarts =>
    intro o s hu hsrc hst hf hout hin
    refine ⟨_, exec_chRefCompare hu, ?_⟩
    rw [refCompare_towardLock hsrc hst hf hin]
    simp [towardLock, hout, setCh, compared_cnt, compared_st, hst]
  case toHoldover =>
    intro o s hu hsrc hst hv hout
    refine ⟨_, exec_chRefCompare hu, ?_⟩
    rw [refCompare_toHoldover hsrc hst hv hout]
    exact ⟨holdover_st .., (holdover_cnt ..).trans (compared_cnt o s)⟩
  case locked =>
    intro o s hu hsrc hst hin
    refine ⟨_, exec_chRefCompare hu, ?_⟩
    rw [refCompare_locked hsrc hst, if_neg (by rcases hin with h | h <;> simp [h])]
    exact ⟨(compared_st o s).trans hst, compared_cnt o s⟩
  case inHoldover =>
    intro o s c hu hsrc hst hc
    rw [exec_chRefCompare hu, refCompare_holdover hsrc hst, hc]
    split <;> rfl
  case mean =>
    intro d s
    refine ⟨holdover_st d s, ?_, holdover_cnt d s⟩
    rw [holdover_ch]
  case timeout =>
    intro s
    simp [exec, execTimeHoldover, and_assoc]
  case edge =>
    intro s w u hw hv hu
    subst hu
    have hv' : verLive (setCh { s.ch with setWait := none } s) = false := hv
    simp only [exec, execChSetPpsEdge, hw, hv']
    rfl
  case edgeLive =>
    intro s w hw hv
    have hv' : verLive (setCh { s.ch with setWait := none } s) = true := hv
    simp only [exec, execChSetPpsEdge, hw, hv']
    rfl
  case setTimeout =>
    intro s w hw
    simp only [exec, execChSetTimeout, hw]
    rfl
  case noSet =>
    intro s hw
    simp [exec, execChSetPpsEdge, execChSetTimeout, hw]
  case crystal =>
    intro s hc hr
    rw [exec_countOnlyEntry, if_pos (by simpa [coarse, hr] using hc)]
  case pin =>
    intro s h
    rw [exec_countOnlyEntry, if_neg]
    rcases h with ⟨hp, hl⟩ | h
    · simp [coarse, hp, hl]
    · simp [h]

/-! ### The tick of the always-on domain (R377) -/

/-- Settles O3: nothing but the chronometer runs there. -/
theorem sleepTickCountsCoarsely : Obligations.SleepTickCountsCoarsely := by
  unfold Obligations.SleepTickCountsCoarsely
  intro s hq hb h
  have hdown : down s = true := by
    rcases h with h | h <;> simp [down, h]
  have hcoarse : coarse s = true := by
    rcases h with h | h <;> simp [coarse, h]
  have htime : tickTime s = { s with ch := { s.ch with cnt := (s.ch.cnt +
      (if s.ch.crystal then (30517 * 256 + 148) * 2 ^ 24 else if s.ch.ref10 then 100 * 2 ^ 32 else 0)) % 2 ^ 96 } } := by
    rw [tickTime, if_pos hb, tickStep, if_pos hcoarse]
  have hdown' : down (tickTime s) = true := by rw [htime]; exact hdown
  have hstep : step s = .next (tick s) := by rw [step, hq]
  rw [hstep, tick, if_pos hdown', htime]

end Sys2Proof.Machine
end

section
/-! PROOFS. What every step holds (95): a relation between states that every function of the model keeps, function by function: the queue
of waiting commands is the same, the memories keep their canonical form, and, but for the few functions that set them, the count of the
chronometer and the state of the heave-to stay. O1, O2, O5 to O8. -/

-- elaborated one after another: run in parallel, the many short proofs hold more threads than the memory limit allows
set_option Elab.async false

namespace Sys2Proof.Machine
open Sys2Proof

/-- What holds from `s` to `t` at every step: the queue stays, the memories keep their form, and, where the flags `τ` and `η` claim it, the
count of the chronometer and the state of the heave-to stay. -/
structure Steady (τ η : Prop) (s t : State) : Prop where
  queue : t.pending = s.pending
  form : memForm s → memForm t
  time : τ → t.ch.cnt = s.ch.cnt
  heave : η → t.hv.st = s.hv.st

namespace Steady
variable {τ η : Prop} {s t u : State}

theorem refl (s : State) : Steady τ η s s := ⟨rfl, id, fun _ => rfl, fun _ => rfl⟩

theorem trans (h : Steady τ η s t) (g : Steady τ η t u) : Steady τ η s u :=
  ⟨g.queue.trans h.queue, g.form ∘ h.form, fun a => (g.time a).trans (h.time a), fun a => (g.heave a).trans (h.heave a)⟩

/-- A further step that touches none of the fields. -/
theorem aside (h : Steady τ η s t) (hq : u.pending = t.pending := by rfl) (hm : u.mem.hbm = t.mem.hbm := by rfl)
    (hc : u.mem.cs = t.mem.cs := by rfl) (ht : u.ch.cnt = t.ch.cnt := by rfl) (hh : u.hv.st = t.hv.st := by rfl) : Steady τ η s u :=
  h.trans ⟨hq, fun f => ⟨hm ▸ f.1, hc ▸ f.2⟩, fun _ => ht, fun _ => hh⟩

/-- A further step that may set the count. -/
theorem retimed (h : Steady False η s t) (hq : u.pending = t.pending := by rfl) (hm : u.mem.hbm = t.mem.hbm := by rfl)
    (hc : u.mem.cs = t.mem.cs := by rfl) (hh : u.hv.st = t.hv.st := by rfl) : Steady False η s u :=
  h.trans ⟨hq, fun f => ⟨hm ▸ f.1, hc ▸ f.2⟩, False.elim, fun _ => hh⟩

/-- A further step that may set the state of the heave-to. -/
theorem hove (h : Steady τ False s t) (hq : u.pending = t.pending := by rfl) (hm : u.mem.hbm = t.mem.hbm := by rfl)
    (hc : u.mem.cs = t.mem.cs := by rfl) (ht : u.ch.cnt = t.ch.cnt := by rfl) : Steady τ False s u :=
  h.trans ⟨hq, fun f => ⟨hm ▸ f.1, hc ▸ f.2⟩, fun _ => ht, False.elim⟩

/-- A further step that writes the memories in a way that keeps their form. -/
theorem stores (h : Steady τ η s t) (hm : memForm t → memForm u) (hq : u.pending = t.pending := by rfl)
    (ht : u.ch.cnt = t.ch.cnt := by rfl) (hh : u.hv.st = t.hv.st := by rfl) : Steady τ η s u :=
  h.trans ⟨hq, hm, fun _ => ht, fun _ => hh⟩

theorem ite {p : Prop} [Decidable p] (ht : Steady τ η s t) (hu : Steady τ η s u) : Steady τ η s (if p then t else u) := by
  split
  · exact ht
  · exact hu

theorem iteSnd {α : Type} {p : Prop} [Decidable p] {x y : α × State} (hx : Steady τ η s x.2) (hy : Steady τ η s y.2) :
    Steady τ η s (if p then x else y).2 := by
  split
  · exact hx
  · exact hy

theorem foldl {ι : Type} {f : State → ι → State} (hf : ∀ t x, Steady τ η s t → Steady τ η s (f t x)) (l : List ι) (h : Steady τ η s t) :
    Steady τ η s (l.foldl f t) :=
  List.foldlRecOn l f h fun t h x _ => hf t x h

/-- A fold that carries a value beside the state. -/
theorem foldlSnd {α ι : Type} {f : α × State → ι → α × State} {z : α × State}
    (hf : ∀ a x, Steady τ η s a.2 → Steady τ η s (f a x).2) (l : List ι) (h : Steady τ η s z.2) : Steady τ η s (l.foldl f z).2 :=
  List.foldlRecOn l f (motive := fun a => Steady τ η s a.2) h fun a h x _ => hf a x h

/-- A fold that carries a value behind the state. -/
theorem foldlFst {α ι : Type} {f : State × α → ι → State × α} {z : State × α}
    (hf : ∀ a x, Steady τ η s a.1 → Steady τ η s (f a x).1) (l : List ι) (h : Steady τ η s z.1) : Steady τ η s (l.foldl f z).1 :=
  List.foldlRecOn l f (motive := fun a => Steady τ η s a.1) h fun a h x _ => hf a x h

/-- The state of a pair, named by the equation of a split. -/
theorem ofPair {α : Type} {p : α × State} {a : α} (e : p = (a, u)) (h : Steady τ η s p.2) : Steady τ η s u := by rw [e] at h; exact h
theorem ofFst {α : Type} {p : State × α} {a : α} (e : p = (u, a)) (h : Steady τ η s p.1) : Steady τ η s u := by rw [e] at h; exact h
theorem ofSome (h : Steady τ η s t) : ∀ v ∈ some t, Steady τ η s v := fun _ e => Option.some.inj e ▸ h
theorem ofNone : ∀ v ∈ (none : Option State), Steady τ η s v := fun _ e => nomatch e

theorem rows {l : List (Nat × Bool)} {k : CmdRes} (h : Steady τ η s t) (hk : Steady τ η s k.s) : Steady τ η s (rows l t k).s := by
  induction l with
  | nil => exact hk
  | cons e l ih =>
    unfold Machine.rows
    split
    · exact h
    · exact ih

section Functions
variable (h : Steady τ η s t)
include h

/-! ### What each function of the model keeps, in the order of its text -/

theorem perf (off n : Nat) : Steady τ η s (perf off n t) := h.aside

theorem errc (off ovf b n : Nat) : Steady τ η s (errc off ovf b n t) := by
  unfold Machine.errc
  extract_lets +onlyGivenNames v1 s2
  have hs2 : Steady τ η s s2 := h.aside
  exact .ite hs2.aside hs2

theorem spErr (q k n : Nat) : Steady τ η s (spErr q k n t) := h.errc ..

theorem spPerf (q o n : Nat) : Steady τ η s (spPerf q o n t) := h.aside

theorem setPort (q : Nat) (p : Port) : Steady τ η s (setPort q p t) := h.aside

theorem setPipe (n : Nat) (p : Pipe) : Steady τ η s (setPipe n p t) := h.aside

theorem setDie (d : Nat) (x : Die) : Steady τ η s (setDie d x t) := h.aside

theorem setSess (i : Nat) (x : Sess) : Steady τ η s (setSess i x t) := h.aside

theorem setMbx (m : Nat) (x : Mbx) : Steady τ η s (setMbx m x t) := h.aside

theorem setBxPort (p : Nat) (x : BxPort) : Steady τ η s (setBxPort p x t) := h.aside

theorem setTunit (u0 : Nat) (x : TUnit) : Steady τ η s (setTunit u0 x t) := h.aside

theorem emit (o : Out) : Steady τ η s (emit o t) := h.aside

theorem setSlice (x : Slice) : Steady τ η s (setSlice x t) := h.aside

theorem delSlice (q seq : Nat) : Steady τ η s (delSlice q seq t) := h.aside

theorem setCore (p : Nat) (x : Core) : Steady τ η s (setCore p x t) := h.aside

theorem setCtx (i : Nat) (x : SCtx) : Steady τ η s (setCtx i x t) := h.aside

theorem setInst (i : Nat) (x : Inst) : Steady τ η s (setInst i x t) := h.aside

theorem setLink (n : Nat) (x : Lnk) : Steady τ η s (setLink n x t) := h.aside

theorem setBlk (u0 i : Nat) (x : Blk) : Steady τ η s (setBlk u0 i x t) := h.aside

theorem startQuiesce (u0 i : Nat) (op who : Option Nat) : Steady τ η s (startQuiesce u0 i op who t) := h.aside

theorem nextSeq (unit kind chip : Nat) : Steady τ η s (nextSeq unit kind chip t).2 := h.aside

theorem noteSeq (t0 : Tag) : Steady τ η s (noteSeq t0 t) := h.aside

theorem queueEvent (e : Event) (i : Nat) : Steady τ η s (queueEvent e i t) := .ite (h.setSess ..) (.errc (h.setSess ..) ..)

theorem sendEvent (type cls : Nat) (body : Bytes) : Steady τ η s (sendEvent type cls body t) :=
  .foldl (fun _ _ h => .ite (h.queueEvent ..) h) _ h

theorem writeFault (f : FltRec) : Steady τ η s (writeFault f t) := .sendEvent (.ite (h.aside.errc ..) h.aside) ..

theorem openPeriod (f : FltRec) (limit : Nat) : Steady τ η s (openPeriod f limit t) := h.aside

theorem endPeriod (code chan : Nat) : Steady τ η s (endPeriod code chan t) := by
  unfold Machine.endPeriod
  split
  · exact h
  · exact .ite h.aside (.openPeriod (h.aside.writeFault ..) ..)

theorem raiseLim (limit : Nat) (f : FltRec) : Steady τ η s (raiseLim limit f t) := by
  unfold Machine.raiseLim
  extract_lets +onlyGivenNames c1 f2 s3 src4 s5 k6 s7
  have hs3 : Steady τ η s s3 := h.errc ..
  have hs5 : Steady τ η s s5 := hs3.aside
  have hs7 : Steady τ η s s7 := by
    unfold s7
    split
    · exact .ite (hs5.endPeriod ..) hs5
    · exact hs5
  split
  · exact hs7.aside
  · exact .openPeriod (hs7.writeFault ..) ..

theorem raiseF (f : FltRec) : Steady τ η s (raiseF f t) := h.raiseLim ..

theorem raise1s (f : FltRec) : Steady τ η s (raise1s f t) := h.raiseLim ..

theorem channelEvent (cls idx cell : Nat) : Steady τ η s (channelEvent cls idx cell t).2 := .iteSnd h h.aside

theorem util (p o n : Nat) : Steady τ η s (util p o n t) := h.aside

theorem logRecAt (k type unit flags t256 : Nat) (body : Bytes) : Steady τ η s (logRecAt k type unit flags t256 body t) :=
  .ite h (.ite (.ite (h.aside.errc ..) (h.aside.errc ..)) (.ite (h.aside.perf ..) (h.aside.util ..)))

theorem logRec (k type unit flags : Nat) (body : Bytes) : Steady τ η s (logRec k type unit flags body t) := h.logRecAt ..

theorem coreLog (p type : Nat) (body : Bytes) : Steady τ η s (coreLog p type body t) := by
  unfold Machine.coreLog
  split
  · exact h.logRec ..
  · exact h

theorem draw : Steady τ η s (draw t).2 := h.aside

theorem clErr (n k c : Nat) : Steady τ η s (clErr n k c t) := h.errc ..

theorem linkMark (n dir flags t256 : Nat) (t0 : Tag) : Steady τ η s (linkMark n dir flags t256 t0 t) := .ite h (h.logRecAt ..)

theorem sendFlit (n : Nat) : Steady τ η s (sendFlit n t) := by
  unfold Machine.sendFlit
  extract_lets +onlyGivenNames x1
  split
  · exact h
  · split
    · exact h
    · exact .ite (.linkMark (.perf (.emit (h.setLink ..) ..) ..) ..) (.perf (.emit (h.setLink ..) ..) ..)

theorem pump (fuel n : Nat) : Steady τ η s (pump fuel n t) := by
  induction fuel generalizing t with
  | zero => exact h
  | succ k ih =>
    unfold Machine.pump
    exact .ite (h.sendFlit ..) (ih (h.sendFlit ..))

theorem pumpLink (n : Nat) : Steady τ η s (pumpLink n t) := h.pump ..

theorem enqueue (n : Nat) (f : Bytes) : Steady τ η s (enqueue n f t) := .pumpLink (h.setLink ..) ..

theorem newTag (unit kind dest wid version deadline prio dl : Nat) (lateOk retry : Bool) : Steady τ η s (newTag unit kind dest wid
    version deadline prio dl lateOk retry t).2 :=
  h.nextSeq ..

theorem sendRouted (dest : Nat) (f : Bytes) : Steady τ η s (sendRouted dest f t) := by
  unfold Machine.sendRouted
  split
  · exact h.enqueue ..
  · have h1 : Steady τ η s (Machine.errc (baseCl + 0x04) (baseCl + 0x0C) 0 1 t) := h.errc ..
    refine .ite h1 ?_
    split
    · exact h1
    · refine .ite h1 ?_
      split
      next heq =>
        have h2 := Steady.ofPair heq (h1.newTag ..)
        exact h2.aside.enqueue ..

theorem sendTag (dest : Nat) (tag : Tag) (body : Bytes) : Steady τ η s (sendTag dest tag body t) :=
  .ite (h.aside.noteSeq ..) (.ite h (h.sendRouted ..))

theorem retireCore (p : Nat) : Steady τ η s (retireCore p t) := .ite h (h.startQuiesce ..)

theorem hbmWrite (a : Nat) (b : Bytes) : Steady τ η s (hbmWrite a b t) := h.stores fun f => ⟨Mem.store_wf b a f.1, f.2⟩

theorem csWriteView (p gw v : Nat) (b : Bytes) : Steady τ η s (csWriteView p gw v b t) := by
  refine h.stores fun f => ⟨f.1, Mem.foldl_wf _ _ (fun m i hm => ?_) f.2⟩
  split
  · exact Mem.write_wf _ _ hm
  · exact hm

theorem csWrite (p o : Nat) (b : Bytes) : Steady τ η s (csWrite p o b t) := h.csWriteView ..

theorem devWrite (a : Nat) (b : Bytes) : Steady τ η s (devWrite a b t) := by
  unfold Machine.devWrite
  split
  · exact h.hbmWrite ..
  · split
    · extract_lets +onlyGivenNames k1 s2
      have hs2 : Steady τ η s s2 := h.csWriteView ..
      split
      · exact hs2.csWriteView ..
      · exact hs2
    · exact h.csWriteView ..
  · exact h

theorem localWrite (p a : Nat) (b : Bytes) : Steady τ η s (localWrite p a b t) := h.csWriteView ..

theorem startMigration (pch : Nat) : Steady τ η s (startMigration pch t) := h.stores fun f => ⟨Mem.clear_wf _ _ f.1, f.2⟩

theorem retirePch (pch : Nat) : Steady τ η s (retirePch pch t) :=
  .ite h (.ite (h.aside.raiseF ..) (.startMigration (h.aside.raiseF ..) ..))

theorem execMigrationComplete (h0 : Nat) (lost : List Nat) : ∃ u, execMigrationComplete h0 lost t = .next u ∧ Steady τ η s u := by
  unfold Machine.execMigrationComplete
  refine ⟨_, rfl, ?_⟩
  split
  · exact h
  · split
    · exact h
    · extract_lets +onlyGivenNames act1 old2 bad3 src4 s5
      have hs5 : Steady τ η s s5 := h.aside
      split
      · exact hs5.startMigration ..
      · exact hs5

theorem hbErr (st k : Nat) : Steady τ η s (hbErr st k t) := h.errc ..

theorem hbFault (code pch flags detail : Nat) : Steady τ η s (hbFault code pch flags detail t) := h.raiseF ..

theorem poisonRead (a : Nat) : Steady τ η s (poisonRead a t) := by
  unfold Machine.poisonRead
  split
  · exact h.hbErr ..
  · exact h

theorem writeBack (a r : Nat) : Steady τ η s (writeBack a r t) := by
  unfold Machine.writeBack
  split
  · exact h.stores fun f => ⟨Mem.store_wf _ _ f.1, f.2⟩
  · exact h

theorem execHbmReread (a row : Nat) (e : Reread) : ∃ u, execHbmReread a row e t = .next u ∧ Steady τ η s u := by
  unfold Machine.execHbmReread
  refine ⟨_, rfl, .ite h (.ite h ?_)⟩
  extract_lets +onlyGivenNames pch st r1 r2 s1 s2 k win
  have h2 : Steady τ η s s2 := .hbFault (.hbErr (h.writeBack ..) ..) ..
  clear_value s2
  refine .ite (h.hbErr ..) (.ite h (.ite ?_ (.ite ?_ ?_)))
  · exact .ite h2.aside h2.aside
  · extract_lets +onlyGivenNames s3
    have h3 : Steady τ η s s3 := .hbErr (.hbErr (h.writeBack ..) ..) ..
    split
    next heq =>
      have h4 := Steady.ofPair heq (.iteSnd h3 (h3.channelEvent ..))
      exact .ite (.retirePch (h4.hbFault ..) ..) (h4.hbFault ..)
  · extract_lets +onlyGivenNames s3 src s4
    have h3 : Steady τ η s s3 := h.hbErr ..
    have h4 : Steady τ η s s4 := h3.aside
    exact .retirePch (h4.hbFault ..) ..

theorem execHbmRowRepair (pch row : Nat) (lost : List Nat) (spare : Bool) : ∃ u, execHbmRowRepair pch row lost spare t = .next u ∧ Steady
    τ η s u := by
  unfold Machine.execHbmRowRepair
  refine ⟨_, rfl, ?_⟩
  split
  · exact h
  · split
    · exact h
    · extract_lets +onlyGivenNames src1 s2
      have hs2 : Steady τ η s s2 := h.aside
      exact .ite (hs2.retirePch ..) (hs2.aside.hbErr ..)

theorem csFault (code p bank flags off version : Nat) : Steady τ η s (csFault code p bank flags off version t) := h.raiseF ..

theorem spareBank (p bank : Nat) : Steady τ η s (spareBank p bank t) := .ite h.aside (h.retireCore ..)

theorem bankEvent (p bank : Nat) : Steady τ η s (bankEvent p bank t).2 := .iteSnd h (h.channelEvent ..)

theorem execPatrolScrub (p off outcome : Nat) : ∃ u, execPatrolScrub p off outcome t = .next u ∧ Steady τ η s u := by
  unfold Machine.execPatrolScrub
  refine ⟨_, rfl, .ite h (.ite h ?_)⟩
  extract_lets +onlyGivenNames w bank o
  refine .ite h (.ite ?_ ?_)
  · extract_lets +onlyGivenNames s1
    have h1 : Steady τ η s s1 := h.errc ..
    split
    next heq =>
      have h2 := Steady.ofPair heq (.iteSnd (h1.bankEvent ..) h1)
      exact .ite (.spareBank (h2.aside.csFault ..) ..) (h2.aside.csFault ..)
  · extract_lets +onlyGivenNames s1
    have h1 : Steady τ η s s1 := h.errc ..
    split
    next heq =>
      have h2 := Steady.ofPair heq (h1.bankEvent ..)
      exact .ite (.spareBank (h2.aside.csFault ..) ..) (h2.aside.csFault ..)

theorem execBankSpared (p : Nat) (lost : List Nat) : ∃ u, execBankSpared p lost t = .next u ∧ Steady τ η s u := by
  unfold Machine.execBankSpared
  refine ⟨_, rfl, ?_⟩
  split
  · exact h
  · split
    · exact h
    · exact h.aside.csFault ..

theorem execCoreStoreRewrite (p off : Nat) : ∃ u, execCoreStoreRewrite p off t = .next u ∧ Steady τ η s u := by
  unfold Machine.execCoreStoreRewrite
  refine ⟨_, rfl, ?_⟩
  split
  · exact h
  · extract_lets +onlyGivenNames o1
    split
    · extract_lets +onlyGivenNames at_2 b3
      split
      · exact h.poisonRead ..
      · exact h.csWrite ..
    · exact h

theorem ccErr (p k : Nat) : Steady τ η s (ccErr p k t) := h.errc ..

theorem arrErr (p k : Nat) : Steady τ η s (arrErr p k t) := h.errc ..

theorem numSkew (p : Nat) : Steady τ η s (numSkew p t) := h.errc ..

theorem brkMatch (p kind value : Nat) : Steady τ η s (brkMatch p kind value t) := by
  unfold Machine.brkMatch
  refine .foldl (fun u1 _ hu1 => ?_) _ h
  extract_lets +onlyGivenNames c2
  split
  · exact hu1
  · exact .ite (.ite (hu1.setCore ..) (hu1.setCore ..)) hu1

theorem coreFault (p code flags cls idx detail : Nat) : Steady τ η s (coreFault p code flags cls idx detail t) :=
  .brkMatch (h.raiseF ..) ..

theorem requeueSaved (i : Nat) : Steady τ η s (requeueSaved i t) := by
  unfold Machine.requeueSaved
  split
  · exact h
  · split
    · exact h
    · exact .ite (h.setInst ..) h

theorem dropPreempt (p : Nat) : Steady τ η s (dropPreempt p t) := .ite (h.setBlk ..) h

theorem endRank (p status : Nat) : Steady τ η s (endRank p status t) := by
  unfold Machine.endRank
  extract_lets +onlyGivenNames c1 hw2 s3 s4
  have hs3 : Steady τ η s s3 := h.setCore ..
  have hs4 : Steady τ η s s4 := by
    unfold s4
    split
    · exact hs3
    · split
      · exact hs3
      · extract_lets +onlyGivenNames r5 s6
        have hs6 : Steady τ η s s6 := by
          unfold s6
          split
          · exact hs3.coreLog ..
          · exact hs3
        exact .requeueSaved (.setInst (hs6.dropPreempt ..) ..) ..
  exact .ite (.ite (.retireCore (hs4.channelEvent ..) ..) (hs4.channelEvent ..)) hs4

theorem settle (p : Nat) : Steady τ η s (settle p t) := by
  unfold Machine.settle
  extract_lets +onlyGivenNames c1
  split
  · exact .ite (h.endRank ..) h
  · exact h

theorem stopJob (p status : Nat) (hw : Bool) : Steady τ η s (stopJob p status hw t) := .ite h (.settle (h.setCore ..) ..)

theorem illegal (p pc v w e : Nat) : Steady τ η s (illegal p pc v w e t) := by
  unfold Machine.illegal
  extract_lets +onlyGivenNames s1 f s2
  have h1 : Steady τ η s s1 := h.ccErr ..
  have h2 : Steady τ η s s2 := h1.coreFault ..
  exact h2.stopJob ..

theorem failCheck (p : Nat) (e : EI) (code : Nat) : Steady τ η s (failCheck p e code t) :=
  .ite (.coreLog (h.setCore ..) ..) (h.stopJob ..)

theorem decoded (p : Nat) : Steady τ η s (decoded p t) := h.aside

theorem ctlStep {f : Nat → State → Option State} (p op : Nat) (hf : ∀ w u, Steady τ η s u → ∀ v ∈ f w u, Steady τ η s v) :
    Steady τ η s (ctlStep p op f t) := by
  unfold Machine.ctlStep
  extract_lets +onlyGivenNames c
  refine .ite h ?_
  extract_lets +onlyGivenNames w? w bad
  refine .ite h ?_
  extract_lets +onlyGivenNames s1
  have h1 : Steady τ η s s1 := .ite h ((h.setCore ..).brkMatch ..)
  clear_value s1
  refine .ite h1 (.ite (h1.illegal ..) (.ite h1 ?_))
  split
  next v hv => exact .decoded (hf _ _ h1 v hv) ..
  next => exact h1

theorem ctlPure (p op : Nat) (f : Nat → Core → Core) : Steady τ η s (ctlPure p op f t) :=
  h.ctlStep (hf := fun _ _ h => Steady.ofSome (h.setCore ..)) ..

theorem putRun (p q : Nat) (e : EI) : Steady τ η s (putRun p q e t) := h.aside

theorem doneEi (p q : Nat) (e : EI) : Steady τ η s (doneEi p q e t) := h.aside

theorem engStep {f : EI → State → State} (p q cls op : Nat) (hf : ∀ e u, Steady τ η s u → Steady τ η s (f e u)) :
    Steady τ η s (engStep p q cls op f t) := by
  unfold Machine.engStep
  refine .ite h ?_
  split
  · exact h
  · exact .ite (hf _ _ h) h

theorem illegalEi (p q : Nat) (e : EI) : Steady τ η s (illegalEi p q e t) := by
  unfold Machine.illegalEi
  exact .illegal (h.setCore ..) ..

theorem engDone {f : EI → State → State} (p q cls op : Nat) (hf : ∀ e u, Steady τ η s u → Steady τ η s (f e u)) :
    Steady τ η s (engDone p q cls op f t) :=
  h.engStep p q cls op fun e u hu => .doneEi (hf e u hu) ..

theorem refuseEi (p q : Nat) (e : EI) : Steady τ η s (refuseEi p q e t) := .stopJob (h.doneEi ..) ..

theorem useNar (p : Nat) (n : Nar) : Steady τ η s (useNar p n t) :=
  .ite (.ite (.perf (h.aside.perf ..) ..) (.errc (.perf (h.aside.perf ..) ..) ..)) (.errc (.ite (.perf (h.aside.perf ..) ..) (.errc
      (.perf (h.aside.perf ..) ..) ..)) ..)

theorem setAccSlot (p key : Nat) (x : Slot) : Steady τ η s (setAccSlot p key x t) := h.aside

theorem retireArray (p a : Nat) : Steady τ η s (retireArray p a t) := .ite (.retireCore (h.aside.coreFault ..) ..) (h.aside.coreFault ..)

theorem arrayEvent (p a cell : Nat) : Steady τ η s (arrayEvent p a cell t).2 := .iteSnd h (h.channelEvent ..)

theorem skewFault (p : Nat) (e : EI) (flags cls idx want found : Nat) : Steady τ η s (skewFault p e flags cls idx want found t) :=
  .ite (.failCheck (.coreFault (h.numSkew ..) ..) ..) (.coreFault (h.numSkew ..) ..)

theorem execAload (p : Nat) (skew : Option (Nat × Nat)) : ∃ u, execAload p skew t = .next u ∧ Steady τ η s u := by
  unfold Machine.execAload
  refine ⟨_, rfl, ?_⟩
  refine h.engStep (hf := fun x1 u2 hu2 => ?_) ..
  extract_lets +onlyGivenNames w3 k4 b5 lines6 src7 ssrc8 bad9
  split
  · exact hu2.refuseEi ..
  · extract_lets +onlyGivenNames codes10 h11 put12
    split
    · exact .ite (.retireCore (.skewFault (.channelEvent (.doneEi (hu2.setCore ..) ..) ..) ..) ..) (.skewFault (.channelEvent (.doneEi
        (hu2.setCore ..) ..) ..) ..)
    · exact .doneEi (hu2.setCore ..) ..

theorem eachSlot (p w : Nat) (f : Nat → Slot → Slot) : Steady τ η s (eachSlot p w f t) := .foldl (fun _ _ h => h.setAccSlot ..) _ h

theorem amCount (p w : Nat) : Steady τ η s (amCount p w t) :=
  .ite (.arrErr (.perf (.perf (h.util ..) ..) ..) ..) (.perf (.perf (h.util ..) ..) ..)

theorem amSkew (p : Nat) (e : EI) (hw : Bool) (want found : Nat) : Steady τ η s (amSkew p e hw want found t) := by
  unfold Machine.amSkew
  extract_lets +onlyGivenNames s1 arr
  have h1 : Steady τ η s s1 := .doneEi (h.eachSlot ..) ..
  clear_value s1
  refine .ite (h1.skewFault ..) ?_
  split
  next heq =>
    have h2 := Steady.ofPair heq (.foldlSnd (fun _ _ h => by exact h.arrayEvent ..) _ h1)
    exact .foldl (fun _ _ h => h.retireArray ..) _ (h2.skewFault ..)

theorem amInvalid (p : Nat) (e : EI) (f : Nat → Slot → Slot) : Steady τ η s (amInvalid p e f t) :=
  .ite (.failCheck (.amCount (.doneEi (h.eachSlot ..) ..) ..) ..) (.amCount (.doneEi (h.eachSlot ..) ..) ..)

theorem amFeed (v : State) (p w fed : Nat) : Steady τ η s (amFeed v p w fed t) :=
  .amCount (.useNar (.foldlFst (fun _ _ h => h.aside) _ h) ..) ..

theorem execAmul (p : Nat) (skew : Option (Nat × Nat × Nat)) : ∃ u, execAmul p skew t = .next u ∧ Steady τ η s u := by
  unfold Machine.execAmul
  refine ⟨_, rfl, ?_⟩
  refine h.engStep (hf := fun x1 u2 hu2 => ?_) ..
  extract_lets +onlyGivenNames w3 arr4 k5
  split
  · exact .ite (hu2.illegalEi ..) (.doneEi (.amCount (.ite (hu2.eachSlot ..) hu2) ..) ..)
  · split
    · exact hu2.illegalEi ..
    · split
      · exact hu2.refuseEi ..
      · split
        · exact hu2.amInvalid ..
        · extract_lets +onlyGivenNames s6 seqOf7
          have hs6 : Steady τ η s s6 := hu2.eachSlot ..
          split
          · exact .amSkew (hs6.amCount ..) ..
          · split
            · exact .amSkew (hs6.amFeed ..) ..
            · exact .doneEi (hs6.amFeed ..) ..

theorem arrayFail (p a sl : Nat) (x : Slot) (rows cols : List Nat) : Steady τ η s (arrayFail p a sl x rows cols t) :=
  .ite (.retireArray (.coreFault (.arrayEvent (.ite (.arrErr (h.arrErr ..) ..) (h.arrErr ..)) ..) ..) ..) (.coreFault (.arrayEvent (.ite
      (.arrErr (h.arrErr ..) ..) (h.arrErr ..)) ..) ..)

theorem drainOut (p w : Nat) : Steady τ η s (drainOut p w t) :=
  .ite (.coreFault (.ite (.arrErr (.foldl (fun _ _ h => h.localWrite ..) _ (.foldl (fun _ _ h => h.localWrite ..) _ (h.useNar ..))) ..)
      (.foldl (fun _ _ h => h.localWrite ..) _ (.foldl (fun _ _ h => h.localWrite ..) _ (h.useNar ..)))) ..) (.ite (.arrErr (.foldl (fun
      _ _ h => h.localWrite ..) _ (.foldl (fun _ _ h => h.localWrite ..) _ (h.useNar ..))) ..) (.foldl (fun _ _ h => h.localWrite ..) _
      (.foldl (fun _ _ h => h.localWrite ..) _ (h.useNar ..))))

theorem drainStep (p : Nat) (e : EI) : Steady τ η s (drainStep p e t) :=
  .ite (h.refuseEi ..) (.ite (h.illegalEi ..) (.ite (h.refuseEi ..) (.ite (.doneEi (.drainOut (.ite (h.arrErr ..) h) ..) ..) (.failCheck
      (.doneEi (.foldl (fun _ _ h => h.arrayFail ..) _ (.ite (h.arrErr ..) h)) ..) ..))))

theorem flipSlots (p w : Nat) (flips : List (Nat × Nat × Nat)) : Steady τ η s (flipSlots p w flips t) :=
  .foldl (fun _ _ h => .ite (h.setAccSlot ..) h) _ h

theorem retireMv (p : Nat) : Steady τ η s (retireMv p t) := h.aside.coreFault ..

theorem mvEvent (p : Nat) : Steady τ η s (mvEvent p t).2 := .iteSnd h (h.channelEvent ..)

theorem gemvFail (p : Nat) : Steady τ η s (gemvFail p t) :=
  .ite (.retireMv (.coreFault (.arrErr (.iteSnd (h.mvEvent ..) h) ..) ..) ..) (.coreFault (.arrErr (.iteSnd (h.mvEvent ..) h) ..) ..)

theorem mvCount (p w : Nat) (x : MvDesc) : Steady τ η s (mvCount p w x t) := h.aside

theorem mvOut (p w : Nat) (flips : List (Nat × Nat)) : Steady τ η s (mvOut p w flips t) :=
  .ite (.ite (.arrErr (.localWrite (.localWrite (.mvCount (h.useNar ..) ..) ..) ..) ..) (.localWrite (.localWrite (.mvCount (h.useNar ..)
      ..) ..) ..)) (.coreFault (.ite (.arrErr (.localWrite (.localWrite (.mvCount (h.useNar ..) ..) ..) ..) ..) (.localWrite (.localWrite
      (.mvCount (h.useNar ..) ..) ..) ..)) ..)

theorem execMvmul (p : Nat) (skew : Option (Nat × Nat)) (flips : List (Nat × Nat)) : ∃ u, execMvmul p skew flips t = .next u ∧ Steady τ η
    s u := by
  unfold Machine.execMvmul
  refine ⟨_, rfl, ?_⟩
  refine h.engStep (hf := fun x1 u2 hu2 => ?_) ..
  extract_lets +onlyGivenNames w3 x4 d5
  split
  · exact hu2.refuseEi ..
  · split
    · exact hu2.illegalEi ..
    · extract_lets +onlyGivenNames invalid6 onPath7
      split
      · exact .ite (.failCheck (.doneEi (.mvCount (hu2.localWrite ..) ..) ..) ..) (.doneEi (.mvCount (hu2.localWrite ..) ..) ..)
      · split
        · exact .ite (.retireMv (.skewFault (.iteSnd (.mvEvent (.doneEi (.mvCount (hu2.localWrite ..) ..) ..) ..) (.doneEi (.mvCount
            (hu2.localWrite ..) ..) ..)) ..) ..) (.skewFault (.iteSnd (.mvEvent (.doneEi (.mvCount (hu2.localWrite ..) ..) ..) ..)
            (.doneEi (.mvCount (hu2.localWrite ..) ..) ..)) ..)
        · exact .ite (.failCheck (.doneEi (.ite (.gemvFail (.foldl (fun _ _ h => h.arrayFail ..) _ (.mvCount (hu2.useNar ..) ..)) ..)
            (.foldl (fun _ _ h => h.arrayFail ..) _ (.mvCount (hu2.useNar ..) ..))) ..) ..) (.doneEi (hu2.mvOut ..) ..)

theorem closeSess (i : Nat) : Steady τ η s (closeSess i t) := h.aside

theorem frameOut (i type flags fseq : Nat) (body : Bytes) : Steady τ η s (frameOut i type flags fseq body t) := h.aside

theorem sendClose (i reason : Nat) : Steady τ η s (sendClose i reason t) := h.aside

theorem sendPlain (i type : Nat) (body : Bytes) : Steady τ η s (sendPlain i type body t) := .ite h (.ite (h.sendClose ..) (h.frameOut ..))

theorem txSeq (i type flags : Nat) (body : Bytes) : Steady τ η s (txSeq i type flags body t) :=
  .ite (h.sendClose ..) (.frameOut (h.setSess ..) ..)

theorem sendSeq (i type flags : Nat) (body : Bytes) : Steady τ η s (sendSeq i type flags body t) :=
  .ite h (.ite (h.setSess ..) (h.txSeq ..))

theorem pumpSess (fuel i : Nat) : Steady τ η s (pumpSess fuel i t) := by
  induction fuel generalizing t with
  | zero => exact h
  | succ k ih =>
    unfold Machine.pumpSess
    extract_lets +onlyGivenNames x
    split
    · exact h
    · exact .ite h (ih ((h.setSess ..).txSeq ..))

theorem sendPath (f : Bytes) : Steady τ η s (sendPath f t) := .ite (h.enqueue ..) (h.errc ..)

theorem answerControl (path : Bytes) (dest wid : Nat) (body : Bytes) : Steady τ η s (answerControl path dest wid body t) := by
  unfold Machine.answerControl
  split
  next x1 u2 heq =>
    have hu2 := Steady.ofPair heq (h.newTag ..)
    exact .ite hu2 (.ite (hu2.sendTag ..) (hu2.sendPath ..))

theorem sendResp (m i flags : Nat) (r : Resp) : Steady τ η s (sendResp m i flags r t) := h.sendSeq ..

theorem countCmd (status : Nat) : Steady τ η s (countCmd status t) := .ite (h.perf ..) (h.errc ..)

theorem completeMbx (m : Nat) : Steady τ η s (completeMbx m t) := by
  unfold Machine.completeMbx
  extract_lets +onlyGivenNames x1
  split
  · exact .ite (.sendResp (.countCmd (h.setMbx ..) ..) ..) (.countCmd (h.setMbx ..) ..)
  · exact h

theorem endWait (who status detail : Nat) (out : Bytes) : Steady τ η s (endWait who status detail out t) := by
  unfold Machine.endWait
  split
  · extract_lets +onlyGivenNames x1
    split
    · exact h.setMbx ..
    · exact h
  · split
    · exact h
    · exact .countCmd (h.aside.answerControl ..) ..

theorem ringMbx (m i : Nat) (q : Rq) : Steady τ η s (ringMbx m i q t) := by
  unfold Machine.ringMbx
  extract_lets +onlyGivenNames x1
  split
  · exact .sendResp (.errc (h.aside.setMbx ..) ..) ..
  · split
    · exact .sendResp (h.setMbx ..) ..
    · exact h.aside.setMbx ..

theorem startMbx {f : Call → State → CmdRes} (m : Nat) (cr : Crypto) (hf : ∀ c u, Steady τ η s u → Steady τ η s (f c u).s) :
    Steady τ η s (startMbx f m cr t) := by
  unfold Machine.startMbx
  extract_lets +onlyGivenNames x
  split
  · exact h
  · refine .ite h ?_
    extract_lets +onlyGivenNames y live ver put done
    split
    · exact h.setMbx ..
    · refine .ite (h.setMbx ..) ?_
      extract_lets +onlyGivenNames c s1 r
      have h1 : Steady τ η s r.s := hf c s1 (h.setMbx ..)
      exact .ite h1 (h1.setMbx ..)

theorem mbxRow {f : Call → State → CmdRes} (op : Nat) (r : Req) (hf : ∀ c u, Steady τ η s u → Steady τ η s (f c u).s) :
    Steady τ η s (mbxRow op f r t) :=
  .ite h (.ite (h.ringMbx ..) ((h.ringMbx ..).startMbx _ _ hf))

theorem selectSource (src lnk dom prof : Nat) (delay : ℤ) : Steady τ η s (selectSource src lnk dom prof delay t) := h.aside

theorem chSource (c : Call) : Steady τ η s (chSource c t).s := .rows h (h.selectSource ..)

theorem execChSetTimeout : ∃ u, execChSetTimeout t = .next u ∧ Steady τ η s u := by
  unfold Machine.execChSetTimeout
  refine ⟨_, rfl, ?_⟩
  split
  · exact h
  · exact .ite h (h.aside.endWait ..)

theorem newRate : Steady τ η s (newRate t) := by
  unfold Machine.newRate
  split
  next x1 u2 heq =>
    have hu2 := Steady.ofPair heq h.draw
    exact hu2.aside

theorem noteLock : Steady τ η s (noteLock t) := .ite h.aside h

theorem holdover (detail : Nat) : Steady τ η s (holdover detail t) := by
  unfold Machine.holdover
  extract_lets +onlyGivenNames s1
  have hs1 : Steady τ η s s1 := h.noteLock
  exact hs1.aside.raiseF ..

theorem towardLock (off : ℤ) : Steady τ η s (towardLock off t) := h.aside

theorem writeContext (a : Nat) (cells : Mem) : Steady τ η s (writeContext a cells t) :=
  h.stores fun f => ⟨Mem.foldl_wf _ _ (fun _ _ hm => Mem.write_wf _ _ hm) (Mem.clear_wf _ _ f.1), f.2⟩

theorem ctlWord (q : Nat) (b : Bytes) : Steady τ η s (ctlWord q b t) := h.aside

theorem sendCredit (q n : Nat) : Steady τ η s (sendCredit q n t) := h.aside

theorem sendTrain (q step ver : Nat) : Steady τ η s (sendTrain q step ver t) := h.aside

theorem inlineRise : Steady τ η s (inlineRise t) := .ite h.aside h

theorem startTraining (q : Nat) : Steady τ η s (startTraining q t) := h.aside

theorem trainFail (q : Nat) : Steady τ η s (trainFail q t) := .spErr (h.setPort ..) ..

theorem portTrained (q ver vc rc : Nat) : Steady τ η s (portTrained q ver vc rc t) := .inlineRise (h.setPort ..)

theorem rxTrain (q : Nat) (w : Bytes) : Steady τ η s (rxTrain q w t) := by
  unfold Machine.rxTrain
  extract_lets +onlyGivenNames p1
  split
  · exact h
  · split
    · exact .ite (h.trainFail ..) (.sendTrain (h.setPort ..) ..)
    · split
      · split
        · exact .ite (h.portTrained ..) (h.trainFail ..)
        · exact h
      · exact h

theorem execSpTrainRetry (q : Nat) : ∃ u, execSpTrainRetry q t = .next u ∧ Steady τ η s u := by
  unfold Machine.execSpTrainRetry
  refine ⟨_, rfl, ?_⟩
  split
  · exact .ite (h.startTraining ..) h
  · exact h

theorem sliceLog (q : Nat) (e : Pend) : Steady τ η s (sliceLog q e t) := .ite h (h.logRec ..)

theorem loseVerdicts (q : Nat) : Steady τ η s (loseVerdicts q t) := .foldl (fun _ _ h => h.sliceLog ..) _ (.spErr (h.setPort ..) ..)

theorem portDown (q st : Nat) : Steady τ η s (portDown q st t) := by
  unfold Machine.portDown
  extract_lets +onlyGivenNames s1 p2 s3
  have hs1 : Steady τ η s s1 := h.loseVerdicts ..
  have hs3 : Steady τ η s s3 := hs1.aside.spErr ..
  exact hs3.setPort ..

theorem setPortEn (q : Nat) : Steady τ η s (setPortEn q t) := .ite h (.ite (.startTraining (h.setPort ..) ..) (h.setPort ..))

theorem clrPortEn (q : Nat) : Steady τ η s (clrPortEn q t) := .ite h (.ite (.startQuiesce (h.setPort ..) ..) (.inlineRise (h.setPort ..)))

theorem clearPortCtrs (q : Nat) : Steady τ η s (clearPortCtrs q t) := h.aside

theorem setPortWidth (q : Nat) (two : Bool) : Steady τ η s (setPortWidth q two t) :=
  .ite h (.clearPortCtrs (.setPort (h.setPort ..) ..) ..)

theorem markFb (q seq : Nat) : Steady τ η s (markFb q seq t) := by
  unfold Machine.markFb
  split
  · exact h.setSlice ..
  · exact h

theorem forceAll (q : Nat) (l : List Pend) : Steady τ η s (forceAll q l t).2 := by
  induction l generalizing t with
  | nil => exact h
  | cons e r ih =>
    unfold Machine.forceAll
    exact .iteSnd (ih h) (ih (.raiseF (h.markFb ..) ..))

theorem fallbackRule (q : Nat) (done l : List Pend) : Steady τ η s (fallbackRule q done l t).2 := by
  induction l generalizing done t with
  | nil => exact h
  | cons e r ih =>
    unfold Machine.fallbackRule
    refine .iteSnd (ih h _) (ih (.forceAll ?_ ..) _)
    exact .iteSnd h (.raiseF (h.markFb ..) ..)

theorem sendVerdicts (q : Nat) : Steady τ η s (sendVerdicts q t) :=
  .ite (.foldl (fun _ _ h => h.sliceLog ..) _ (.spPerf (.emit (h.setPort ..) ..) ..)) h

theorem routeResult (q : Nat) (frame : Bytes) : Steady τ η s (routeResult q frame t).2 := .iteSnd h (.iteSnd (h.setPort ..) (h.spErr ..))

theorem sendTime (q : Nat) : Steady τ η s (sendTime q t) := .ite (.ctlWord (h.setPort ..) ..) h

theorem freeWords (q upTo : Nat) : Steady τ η s (freeWords q upTo t) := .ite h (.ite (h.setPort ..) (.sendCredit (h.setPort ..) ..))

theorem holdWords (q upTo : Nat) : Steady τ η s (holdWords q upTo t) := by
  unfold Machine.holdWords
  dsimp only
  split
  · exact h.setSlice ..
  · exact h.freeWords ..

theorem loseFraming (q : Nat) : Steady τ η s (loseFraming q t) := .ite h (.holdWords (.ctlWord (.spErr (h.setPort ..) ..) ..) ..)

theorem takeSlice (q freeTo : Nat) (h0 d : Bytes) : Steady τ η s (takeSlice q freeTo h0 d t) := by
  unfold Machine.takeSlice
  extract_lets +onlyGivenNames s1
  have hs1 : Steady τ η s s1 := h.spPerf ..
  split
  · exact .holdWords (hs1.spErr ..) ..
  · extract_lets +onlyGivenNames s2 p3 ver4 dl5 fl6 frameLen7 sliceLen8 sw9 stamp10 b11 fInst12 x13 e14 n15
    have hs2 : Steady τ η s s2 := by
      unfold s2
      split
      · exact hs1
      · split
        · exact .ite (hs1.sendVerdicts ..) (.sendVerdicts (.setPort (.raiseF (hs1.markFb ..) ..) ..) ..)
        · exact hs1
    exact .setPipe (.setSlice (hs2.aside.setPort ..) ..) ..

theorem cutSlices (q n : Nat) : Steady τ η s (cutSlices q n t) := by
  induction n generalizing t with
  | zero => exact h
  | succ k ih =>
    unfold Machine.cutSlices
    exact .ite h (.ite (ih (h.aside.holdWords ..)) (.ite h (.ite (h.loseFraming ..) (.ite h (ih (.aside (h.takeSlice ..)))))))

theorem rxResync (q : Nat) : Steady τ η s (rxResync q t) := .ite (h.setPort ..) h

theorem rxCredit (q : Nat) (w : Bytes) : Steady τ η s (rxCredit q w t) := .ite (h.setPort ..) h

theorem rxTraining (q : Nat) (w : SpWord) : Steady τ η s (rxTraining q w t) := by
  unfold Machine.rxTraining
  split
  · exact h
  · split
    · exact .ite (h.rxTrain ..) (.ite (h.spErr ..) h)
    · exact h.spErr ..
    · exact h.spErr ..

theorem rxWord (q : Nat) (w : SpWord) : Steady τ η s (rxWord q t w) := by
  unfold Machine.rxWord
  extract_lets +onlyGivenNames p1
  split
  · exact h.rxTraining ..
  · split
    · split
      · exact h
      · exact h.rxCredit ..
      · exact h.rxTrain ..
      · exact h
      · exact h
      · exact h.rxResync ..
      · exact h.spErr ..
    · exact .ite (.loseFraming (h.spErr ..) ..) (.ite (.holdWords (h.setPort ..) ..) (.cutSlices (.setPort (h.setPort ..) ..) ..))
    · exact h.spErr ..

theorem wordsIn (q : Nat) (ws : List SpWord) : Steady τ η s (wordsIn q ws t) :=
  .ite (h.setPort ..) (.foldl (fun _ _ h => h.rxWord ..) _ h)

theorem takeHeld (q : Nat) : Steady τ η s (takeHeld q t) := .ite h (.foldl (fun _ _ h => h.rxWord ..) _ (h.setPort ..))

theorem ctlIn (q code : Nat) (word : Bytes) : Steady τ η s (ctlIn q code word t) := .ite (h.wordsIn ..) h

theorem scErr (d k : Nat) : Steady τ η s (scErr d k t) := h.errc ..

theorem ctxCount (i k : Nat) : Steady τ η s (ctxCount i k t) := h.aside

theorem askPreempt (i : Nat) : Steady τ η s (askPreempt i t) := by
  unfold Machine.askPreempt
  split
  · exact h
  · exact .foldl (fun _ _ h => .ite h (.startQuiesce (h.setCore ..) ..)) _ h

theorem preemptScan : Steady τ η s (preemptScan t) := by
  unfold Machine.preemptScan
  refine .foldl (fun u1 _ hu1 => ?_) _ h
  split
  · exact hu1
  · split
    · refine .foldl (fun u2 _ hu2 => ?_) _ hu1
      split
      · exact hu2
      · exact .ite (hu2.askPreempt ..) hu2

theorem queueJob (i : Nat) (j : Job) : Steady τ η s (queueJob i j t) := by
  unfold Machine.queueJob
  split
  · exact h
  · exact .preemptScan (h.setInst ..)

theorem newWorkId : Steady τ η s (newWorkId t).2 := h.aside

theorem cadence (i : Nat) (x : Bytes) : Steady τ η s (cadence i x t) := by
  unfold Machine.cadence
  extract_lets +onlyGivenNames c d o room
  cases room with
  | none => exact .scErr (h.ctxCount ..) ..
  | some k => exact .ite (.scErr (h.ctxCount ..) ..) (.queueJob (.perf (.ctxCount (h.newWorkId.setCtx ..) ..) ..) ..)

theorem ringChange (old new : Objs) (v i : Nat) : Steady τ η s (ringChange old new v i t) := .ite h (h.setCtx ..)

theorem ringRetire (v : Nat) : Steady τ η s (ringRetire v t) := h.aside

theorem dropRecord (d row : Nat) (i : Option Nat) : Steady τ η s (dropRecord d row i t) := by
  unfold Machine.dropRecord
  split
  · exact h.scErr ..
  · exact h.scErr ..
  · exact .scErr (h.ctxCount ..) ..
  · exact h

theorem recordCadence (i : Nat) (t0 : Bytes) : Steady τ η s (recordCadence i t0 t) := .ite (.setCtx (h.cadence ..) ..) h

theorem pushRecord (d a : Nat) (r : Bytes) : Steady τ η s (pushRecord d a r t) := .ite h.aside (h.dropRecord ..)

theorem appendRecord (d : Nat) (r : Bytes) : Steady τ η s (appendRecord d r t) := by
  unfold Machine.appendRecord
  dsimp only
  split
  · exact .recordCadence (.perf (.devWrite (h.setCtx ..) ..) ..) ..
  · exact h.dropRecord ..

theorem execRecordAppend (d : Nat) : ∃ u, execRecordAppend d t = .next u ∧ Steady τ η s u := by
  unfold Machine.execRecordAppend
  refine ⟨_, rfl, ?_⟩
  split
  · exact h
  · split
    · exact h
    · exact .ite (h.aside.appendRecord ..) h

theorem execCadenceTick (i : Nat) : ∃ u, execCadenceTick i t = .next u ∧ Steady τ η s u := by
  unfold Machine.execCadenceTick
  refine ⟨_, rfl, ?_⟩
  extract_lets +onlyGivenNames o1 t2 m3 x4
  split
  · exact h
  · split
    · exact h
    · exact .ite h (.ite (h.setCtx ..) (.ite (.scErr (.ctxCount (.setCtx (h.setCtx ..) ..) ..) ..) (.cadence (.setCtx (h.setCtx ..) ..)
        ..)))

theorem parseErr (n k : Nat) : Steady τ η s (parseErr n k t) := h.errc ..

theorem retirePipe (n : Nat) : Steady τ η s (retirePipe n t) := .raiseF (.foldl (fun _ _ h => h.setPipe ..) _ (h.aside.setPipe ..)) ..

theorem fallbackNow (q seq : Nat) : Steady τ η s (fallbackNow q seq t) := h.aside

theorem pipeCheck (n : Nat) (x : Slice) : Steady τ η s (pipeCheck n x t) :=
  .ite (.retirePipe (.raiseF (.iteSnd (.delSlice (h.fallbackNow ..) ..) (.channelEvent (.delSlice (h.fallbackNow ..) ..) ..)) ..) ..)
      (.raiseF (.iteSnd (.delSlice (h.fallbackNow ..) ..) (.channelEvent (.delSlice (h.fallbackNow ..) ..) ..)) ..)

theorem parseWalk (n : Nat) (parity : Bool) : Steady τ η s (parseWalk n parity t) := by
  unfold Machine.parseWalk
  split
  · exact h
  · extract_lets +onlyGivenNames src1 s2
    have hs2 : Steady τ η s s2 := h.setPipe ..
    split
    · exact hs2
    · extract_lets +onlyGivenNames s3
      have hs3 : Steady τ η s s3 := hs2.freeWords ..
      split
      · exact hs3.pipeCheck ..
      · split
        · extract_lets +onlyGivenNames s4 s5 s6 s7 src8 s9
          have hs4 : Steady τ η s s4 := .setSlice (hs3.perf ..) ..
          have hs5 : Steady τ η s s5 := .ite (hs4.parseErr ..) hs4
          have hs6 : Steady τ η s s6 := .ite (hs5.parseErr ..) hs5
          have hs7 : Steady τ η s s7 := .ite (hs6.parseErr ..) hs6
          have hs9 : Steady τ η s s9 := by
            unfold s9
            split
            · exact hs7.setPipe ..
            · exact hs7
          split
          · exact .pushRecord (hs9.perf ..) ..
          · exact hs9

theorem markBad (place v : Nat) (r : PRef) : Steady τ η s (markBad place v r t) := h.aside

theorem noteParity (d unit version : Nat) (r : PRef) : Steady τ η s (noteParity d unit version r t) := by
  unfold Machine.noteParity
  split
  · exact h
  · extract_lets +onlyGivenNames s1 s2
    have hs1 : Steady τ η s s1 := h.markBad ..
    have hs2 : Steady τ η s s2 := by
      unfold s2
      split
      · exact hs1.errc ..
      · exact hs1.errc ..
      · exact hs1.errc ..
    exact hs2.raiseF ..

theorem verdErr (d k : Nat) : Steady τ η s (verdErr d k t) := h.errc ..

theorem placeVerdict (x : Slice) (v : Bytes) : Steady τ η s (placeVerdict x v t) := .ite (h.spErr ..) (h.setPort ..)

theorem execVerdictCompose (q seq : Nat) (pf : List PRef) : ∃ u, execVerdictCompose q seq pf t = .next u ∧ Steady τ η s u := by
  unfold Machine.execVerdictCompose
  refine ⟨_, rfl, ?_⟩
  split
  · exact h
  · split
    · exact h
    · split
      · exact h
      · extract_lets +onlyGivenNames d1
        split
        · extract_lets +onlyGivenNames s2 s3 s4 s5
          have hs2 : Steady τ η s s2 := by
            unfold s2
            split
            · exact h.noteParity ..
            · exact h
          have hs3 : Steady τ η s s3 := .ite (hs2.perf ..) (.ite (hs2.perf ..) hs2)
          have hs4 : Steady τ η s s4 := .ite (hs3.perf ..) hs3
          have hs5 : Steady τ η s s5 := .ite (hs4.verdErr ..) hs4
          exact .delSlice (hs5.placeVerdict ..) ..

theorem tblErr (d k n : Nat) : Steady τ η s (tblErr d k n t) := h.errc ..

theorem setLearn (b w : Nat) (e : LEnt) : Steady τ η s (setLearn b w e t) := h.aside

theorem ownerLearn (d : Nat) (e : LEvt) : Steady τ η s (ownerLearn d e t) := by
  unfold Machine.ownerLearn
  extract_lets +onlyGivenNames b1
  split
  · exact .ite (h.setLearn ..) (.ite (h.tblErr ..) (.setLearn (h.tblErr ..) ..))
  · split
    · exact .perf (h.setLearn ..) ..
    · exact .raise1s (h.tblErr ..) ..

theorem execLearnEventForward (d : Nat) : ∃ u, execLearnEventForward d t = .next u ∧ Steady τ η s u := by
  unfold Machine.execLearnEventForward
  refine ⟨_, rfl, ?_⟩
  split
  · exact h
  · split
    · exact h
    · exact .ownerLearn (h.setDie ..) ..

theorem ageLearn (own : Nat → Bool) (a : Nat) : Steady τ η s (ageLearn own a t).2 := h.aside

theorem execLearnAgeSweep (d : Nat) : ∃ u, execLearnAgeSweep d t = .next u ∧ Steady τ η s u := by
  unfold Machine.execLearnAgeSweep
  refine ⟨_, rfl, .ite h (.ite h ?_)⟩
  extract_lets +onlyGivenNames src s1
  have h1 : Steady τ η s s1 := h.setDie ..
  refine .ite h1 ?_
  split
  next heq =>
  exact .perf (.ofPair heq (h1.ageLearn ..)) ..

theorem flowLost (d n version : Nat) : Steady τ η s (flowLost d n version t) := .raise1s (.tblErr (h.setDie ..) ..) ..

theorem queueMiss (d bucket tag : Nat) (count : Bool) (u0 : FUpd) : Steady τ η s (queueMiss d bucket tag count u0 t).2 :=
  .iteSnd (.setDie (.ite (h.perf ..) h) ..) (.iteSnd (.setDie (.ite (h.perf ..) h) ..) h)

theorem flowSearch (d version bucket tag : Nat) (x : FUpd) (pf : List PRef) :
    Steady τ η s (flowSearch d version bucket tag x pf t).2.2.2 := by
  unfold Machine.flowSearch
  extract_lets +onlyGivenNames y
  split
  · extract_lets +onlyGivenNames i
    split
    · exact h
    · split
      · exact .queueMiss (.setDie (.ite (h.tblErr ..) h) ..) ..
      · exact .perf (h.setDie ..) ..
  · split
    next heq =>
      have h1 := Steady.ofPair heq (h.queueMiss ..)
      split
      · exact h1
      · exact h1.flowLost ..

theorem unavail (u0 : FUpd) : Steady τ η s (unavail u0 t) := by
  unfold Machine.unavail
  split
  · exact h.setSlice ..
  · exact h

theorem fetchReturn (d bucket tag poison : Nat) : Steady τ η s (fetchReturn d bucket tag poison t) := by
  unfold Machine.fetchReturn
  extract_lets +onlyGivenNames x
  split
  · exact h
  · extract_lets +onlyGivenNames lost y src s1 idx
    have h0 : Steady τ η s src := .tblErr (.ite h (.foldl (fun _ _ h => h.unavail ..) _ h)) ..
    have h1 : Steady τ η s s1 := h0.aside
    split
    · exact h1.setDie ..
    · split
      · exact .flowLost (h1.setDie ..) ..
      · exact .ite (.tblErr (h1.setDie ..) ..) (h1.setDie ..)

theorem clearOverride (d i : Nat) : Steady τ η s (clearOverride d i t) := by
  unfold Machine.clearOverride
  extract_lets +onlyGivenNames x1 clr2
  split
  · exact h.setDie ..
  · exact h.setDie ..

theorem learnEvent (d : Nat) (e : LEvt) : Steady τ η s (learnEvent d e t) := .ite (h.ownerLearn ..) (h.setDie ..)

theorem judgeOverride (d : Nat) (x : Slice) (bucket tag : Nat) (r : FRec) : Steady τ η s (judgeOverride d x bucket tag r t).2 := by
  unfold Machine.judgeOverride
  split
  · exact h
  · split
    · exact h
    · extract_lets +onlyGivenNames s1
      have hs1 : Steady τ η s s1 := h.verdErr ..
      split
      · exact hs1
      · split
        · exact .verdErr (hs1.clearOverride ..) ..
        · exact hs1

theorem sliceLookup (x : Slice) (pf : List PRef) : Steady τ η s (sliceLookup x pf t) := by
  unfold Machine.sliceLookup
  extract_lets +onlyGivenNames o p g d
  split
  split
  split
  extract_lets +onlyGivenNames set
  split
  extract_lets +onlyGivenNames s1 k on key bucket tag ts sref upd
  have h1 : Steady τ η s s1 := .ite (h.perf ..) h
  split
  next rec f b s2 e2 =>
  have h2 : Steady τ η s s2 := by
    have hp : Steady τ η s (if on = true then Machine.flowSearch d x.version bucket tag upd pf s1 else (none, 0, none, s1)).2.2.2 := by
      split
      · exact h1.flowSearch ..
      · exact h1
    rwa [e2] at hp
  split
  next ovr s3 e3 =>
  have h3 : Steady τ η s s3 := by
    refine .ofPair e3 ?_
    split
    · exact h2.judgeOverride ..
    · exact h2
  extract_lets +onlyGivenNames s4 s5 s6 s7 ens noEns s8 flags lk
  have h4 : Steady τ η s s4 := .foldl (fun _ _ h => h.noteParity ..) _ h3
  have h5 : Steady τ η s s5 := by
    unfold s5
    split
    · exact h4.learnEvent ..
    · exact h4
  have h7 : Steady τ η s s7 := .foldl (fun _ _ h => h.noteParity ..) _ (.foldl (fun _ _ h => h.noteParity ..) _ h5)
  exact .setSlice (.ite (h7.errc ..) h7) ..

theorem execSliceLookup (q seq : Nat) (pf : List PRef) : ∃ u, execSliceLookup q seq pf t = .next u ∧ Steady τ η s u := by
  unfold Machine.execSliceLookup
  refine ⟨_, rfl, ?_⟩
  split
  · exact h
  · split
    · exact h
    · exact .ite (h.sliceLookup ..) h

theorem tableRepair (place : Nat) (r : PRef) (ok : Bool) : Steady τ η s (tableRepair place r ok t) := by
  unfold Machine.tableRepair
  split
  · exact h
  · split
    · split
      · exact h.aside
      · exact h
      · exact h.aside
    · exact .ite h (.ite (h.tblErr ..) (h.tblErr ..))

theorem scaStep (p eng op : Nat) (f : EI → Nat → Core → Core) : Steady τ η s (scaStep p eng op f t) :=
  h.engDone (hf := fun _ _ h => h.setCore ..) ..

theorem sendCopy (p : Nat) (e : EI) (j : Option Job) (d : Bytes) : Steady τ η s (sendCopy p e j d t) := by
  unfold Machine.sendCopy
  extract_lets +onlyGivenNames parts1 dest2
  refine .foldl (fun u3 _ hu3 => ?_) _ h
  split
  next x4 u5 heq =>
    have hu5 := Steady.ofPair heq (hu3.newTag ..)
    exact hu5.sendTag ..

theorem execDcopy (p : Nat) : ∃ u, execDcopy p t = .next u ∧ Steady τ η s u := by
  unfold Machine.execDcopy
  refine ⟨_, rfl, ?_⟩
  refine h.engStep (hf := fun x1 u2 hu2 => ?_) ..
  extract_lets +onlyGivenNames w3 at_4 d5 remote6
  split
  · exact hu2.refuseEi ..
  · split
    · exact hu2.illegalEi ..
    · extract_lets +onlyGivenNames parts7
      split
      · exact hu2
      · split
        · exact .refuseEi (hu2.poisonRead ..) ..
        · exact .ite (.util (.doneEi (.foldl (fun _ _ h => h.devWrite ..) _ hu2) ..) ..) (.ite (hu2.refuseEi ..) (.util (.putRun
            (hu2.sendCopy ..) ..) ..))

theorem acceptDjob (p : Nat) (e : EI) (status : Nat) : Steady τ η s (acceptDjob p e status t) := .doneEi (h.localWrite ..) ..

theorem djobStatus (p chip wid status : Nat) : Steady τ η s (djobStatus p chip wid status t) := by
  unfold Machine.djobStatus
  split
  · exact h
  · exact h.acceptDjob ..

theorem dropAway (chip wid : Nat) : Steady τ η s (dropAway chip wid t) := h.aside

theorem sendDjob (p : Nat) : Steady τ η s (sendDjob p t) := by
  unfold Machine.sendDjob
  refine h.engStep (hf := fun x1 u2 hu2 => ?_) ..
  extract_lets +onlyGivenNames at_3 d4
  split
  · exact hu2.refuseEi ..
  · split
    · exact hu2.illegalEi ..
    · extract_lets +onlyGivenNames remote5 dest6 cls7 dl8 v9
      split
      next x10 u11 heq =>
        have hu11 := Steady.ofPair heq (hu2.newTag ..)
        exact .putRun (.sendTag (.ite hu11 hu11.aside) ..) ..

theorem execDjob (d : DjobAt) : ∃ u, execDjob d t = .next u ∧ Steady τ η s u := by
  unfold Machine.execDjob
  refine ⟨_, rfl, ?_⟩
  split
  · exact h.sendDjob ..
  · split
    · exact h
    · split
      · exact h
      · exact .acceptDjob (.ite h (h.dropAway ..)) ..

theorem setObj (r : ORef) (x : SObj) : Steady τ η s (setObj r x t) := .ite h.aside (h.setCore ..)

theorem syncErrAt (b k : Nat) : Steady τ η s (syncErrAt b k t) := h.errc ..

theorem syncFault (code extra : Nat) (r : ORef) : Steady τ η s (syncFault code extra r t) := h.raiseF ..

theorem sendSync (unit dest wid version : Nat) (pay : Bytes) : Steady τ η s (sendSync unit dest wid version pay t) := by
  unfold Machine.sendSync
  split
  next x1 u2 heq =>
    have hu2 := Steady.ofPair heq (h.newTag ..)
    exact hu2.sendTag ..

theorem sendTree (n k op version : Nat) : Steady τ η s (sendTree n k op version t) := by
  unfold Machine.sendTree
  extract_lets +onlyGivenNames dest1
  split
  next x2 u3 heq =>
    have hu3 := Steady.ofPair heq (h.newTag ..)
    exact hu3.enqueue ..

theorem finishSync (p : Nat) (e : EI) (word : Nat) : Steady τ η s (finishSync p e word t) :=
  .util (.doneEi (.setCore (h.coreLog ..) ..) ..) ..

theorem answerHeld (r : ORef) (w : Waiter) (status value : Nat) : Steady τ η s (answerHeld r w status value t) := by
  unfold Machine.answerHeld
  extract_lets +onlyGivenNames s1
  have hs1 : Steady τ η s s1 := .ite (h.syncErrAt ..) h
  split
  · split
    · exact hs1.finishSync ..
    · exact hs1
  · exact hs1.sendSync ..

theorem releaseRound (r : ORef) : Steady τ η s (releaseRound r t) :=
  .foldl (fun _ _ h => h.sendTree ..) _ (.foldl (fun _ _ h => h.answerHeld ..) _ (.ite (.syncFault (.ite (.syncErrAt (.perf (h.setObj ..)
      ..) ..) (.perf (h.setObj ..) ..)) ..) (.ite (.syncErrAt (.perf (h.setObj ..) ..) ..) (.perf (h.setObj ..) ..))))

theorem completeRound (r : ORef) : Steady τ η s (completeRound r t) := .ite (.sendTree (h.setObj ..) ..) (h.releaseRound ..)

theorem arrive (r : ORef) : Steady τ η s (arrive r t).2 :=
  .iteSnd (.ite (.completeRound (h.setObj ..) ..) (h.setObj ..)) (.iteSnd (h.setObj ..) h)

theorem left_ (r : ORef) (w : Waiter) : Steady τ η s (left_ r w t) :=
  .ite h (.ite (.ite (.completeRound (h.setObj ..) ..) (h.setObj ..)) (h.setObj ..))

theorem overrun (r : ORef) (w : Waiter) (op : Nat) : Steady τ η s (overrun r w op t) :=
  .ite (h.syncErrAt ..) (.syncFault (.syncErrAt (h.setObj ..) ..) ..)

theorem syncReject (r : ORef) (status : Nat) : Steady τ η s (syncReject r status t).2 := h.syncErrAt ..

theorem hold (r : ORef) (w : Waiter) : Steady τ η s (hold r w t).2 := h.setObj ..

theorem syncOp (r : ORef) (op arg : Nat) (w : Waiter) : Steady τ η s (syncOp r op arg w t).2 := by
  unfold Machine.syncOp
  extract_lets +onlyGivenNames x1 s2 count3
  have hs2 : Steady τ η s s2 := .ite h (h.brkMatch ..)
  split
  · exact hs2.syncReject ..
  · split
    · exact hs2.syncReject ..
    · split
      · exact .iteSnd (hs2.syncReject ..) (.perf (.ite (.syncFault (.ite (.syncErrAt (.ite hs2 (hs2.setObj ..)) ..) (.ite hs2 (hs2.setObj
          ..))) ..) (.ite (.syncErrAt (.ite hs2 (hs2.setObj ..)) ..) (.ite hs2 (hs2.setObj ..)))) ..)
      · exact .iteSnd (hs2.syncReject ..) (.perf (.ite (.syncFault (.ite (.syncErrAt (hs2.setObj ..) ..) (hs2.setObj ..)) ..) (.ite
          (.syncErrAt (hs2.setObj ..) ..) (hs2.setObj ..))) ..)
      · exact hs2.hold ..
      · exact .iteSnd (hs2.syncReject ..) (.iteSnd (hs2.syncReject ..) (.iteSnd (hs2.syncReject ..) (.iteSnd (.arrive (.perf (hs2.setObj
          ..) ..) ..) (hs2.overrun ..))))
      · exact .iteSnd (hs2.syncReject ..) (.iteSnd (hs2.syncReject ..) (.iteSnd (hs2.syncReject ..) (.perf (hs2.setObj ..) ..)))

theorem judgeWait (r : ORef) (w : Waiter) : Steady τ η s (judgeWait r w t) :=
  .ite (.answerHeld (.ite (.perf (h.setObj ..) ..) (h.setObj ..)) ..) (.ite h (.ite (.answerHeld (.syncErrAt (h.setObj ..) ..) ..) (.ite
      (.ite (.perf (h.setObj ..) ..) (h.setObj ..)) (.sendSync (.ite (.perf (h.setObj ..) ..) (h.setObj ..)) ..))))

theorem judgeWaits (r : ORef) : Steady τ η s (judgeWaits r t) := .foldl (fun _ _ h => h.judgeWait ..) _ h

theorem endCycle : Steady τ η s (endCycle t) :=
  .ite h (.foldl (fun _ _ h => h.judgeWaits ..) _ (.foldl (fun _ _ h => .ite (.foldl (fun _ _ h => h.judgeWaits ..) _ h) h) _ h))

theorem orphanObj (r : ORef) (f : SObj → SObj) : Steady τ η s (orphanObj r f t).2 := .foldl (fun _ _ h => h.answerHeld ..) _ (h.setObj ..)

theorem orphanCore (p : Nat) (f : SObj → SObj) : Steady τ η s (orphanCore p f t) := by
  unfold Machine.orphanCore
  extract_lets +onlyGivenNames live own hubs
  split
  next e1 =>
  have h1 := Steady.ofPair e1 (.foldlSnd (fun _ _ h => by exact h.orphanObj ..) _ h)
  split
  next e2 =>
  have h2 := Steady.ofPair e2 (.foldlSnd (fun _ _ h => by exact h.orphanObj ..) _ h1)
  exact .ite h2 (h2.raiseF ..)

theorem nodesOrphaned (k n : Nat) : Steady τ η s (nodesOrphaned k n t) := .ite h (h.raiseF ..)

theorem orphanNode (k lost : Nat) : Steady τ η s (orphanNode k lost t).2 :=
  .iteSnd h (.foldl (fun _ _ h => h.sendTree ..) _ (h.orphanObj ..))

theorem treeLinkLost (n : Nat) : Steady τ η s (treeLinkLost n t) := by
  unfold Machine.treeLinkLost
  split
  next e1 =>
  have h1 := Steady.ofPair e1 (.foldlSnd (fun _ _ h => by exact h.orphanNode ..) _ h)
  exact h1.nodesOrphaned ..

theorem orphanToward (chip : Nat) : Steady τ η s (orphanToward chip t) :=
  .foldl (fun _ _ h => .foldl (fun _ _ h => .ite (.finishSync (h.syncErrAt ..) ..) h) _ h) _ h

theorem withdrawCore (p : Nat) : Steady τ η s (withdrawCore p t) := .foldl (fun _ _ h => .ite (h.sendSync ..) h) _ h

theorem loadObjects (p : Nat) (g : Prog) : Steady τ η s (loadObjects p g t) :=
  .foldl (fun _ _ h => .foldl (fun _ _ h => h.answerHeld ..) _ (h.setObj ..)) _ h

theorem startSync (p : Nat) (e : EI) (posted : Bool) : Steady τ η s (startSync p e posted t).2 := by
  unfold Machine.startSync
  extract_lets +onlyGivenNames w1 wid2 own3
  split
  · exact .iteSnd (h.syncReject ..) (.iteSnd (h.syncReject ..) (h.sendSync ..))
  · split
    · exact h.syncReject ..
    · exact .iteSnd (h.syncOp ..) (h.sendSync ..)

theorem syncInstr (p op : Nat) : Steady τ η s (syncInstr p op t) := by
  unfold Machine.syncInstr
  refine h.engStep _ _ _ _ fun e v hv => ?_
  extract_lets +onlyGivenNames w inRegion
  split
  · exact .ite (hv.illegalEi ..) (hv.aside.draw.finishSync ..)
  · extract_lets +onlyGivenNames tgt mine
    split
    · exact hv.illegalEi ..
    · extract_lets +onlyGivenNames posted e'
      have hs : Steady τ η s (Machine.startSync p e posted (Machine.putRun p 13 e' v)).2 := .startSync hv.aside ..
      split
      next heq => exact .finishSync (.ofPair heq hs) ..
      next heq => exact .ofPair heq hs

theorem takeSync {x : InTag} {i : Nat} {f : Nat → Bool} (e : takeSync i f t = some (x, u)) : Steady τ η s u := by
  unfold Machine.takeSync at e
  split at e
  · cases e
  · dsimp only at e
    split at e
    · cases e
      exact h.aside
    · cases e

theorem execSyncRemoteRequest (i : Nat) : ∃ u, execSyncRemoteRequest i t = .next u ∧ Steady τ η s u := by
  unfold Machine.execSyncRemoteRequest
  refine ⟨_, rfl, ?_⟩
  split
  · exact h
  · split
    · exact h
    next x1 u2 heq =>
      have hu2 := h.takeSync heq
      extract_lets +onlyGivenNames g3 posted4 reply5
      split
      · exact .ite (hu2.syncErrAt ..) (.sendSync (hu2.syncErrAt ..) ..)
      · extract_lets +onlyGivenNames w6
        split
        next x7 u8 heq =>
          have hu8 := Steady.ofPair heq (hu2.syncOp ..)
          split
          · exact .ite hu8 (hu8.sendSync ..)
          · exact .ite hu8 (.syncOp (.ite hu2 (hu2.sendSync ..)) ..)

theorem execSyncReply (i : Nat) : ∃ u, execSyncReply i t = .next u ∧ Steady τ η s u := by
  unfold Machine.execSyncReply
  refine ⟨_, rfl, ?_⟩
  split
  · exact h
  · split
    · exact h
    next x1 u2 heq =>
      have hu2 := h.takeSync heq
      extract_lets +onlyGivenNames g3 p4 fl5
      split
      · exact hu2
      · exact .ite (hu2.putRun ..) (hu2.finishSync ..)

theorem execSyncRelease (i : Nat) : ∃ u, execSyncRelease i t = .next u ∧ Steady τ η s u := by
  unfold Machine.execSyncRelease
  refine ⟨_, rfl, ?_⟩
  split
  · exact h
  · split
    · exact h
    next x1 u2 heq =>
      have hu2 := h.takeSync heq
      extract_lets +onlyGivenNames g3 p4 s5
      have hs5 : Steady τ η s s5 := hu2.sendSync ..
      split
      · exact hs5
      · exact hs5.finishSync ..

theorem execReleaseAck (i : Nat) : ∃ u, execReleaseAck i t = .next u ∧ Steady τ η s u := by
  unfold Machine.execReleaseAck
  refine ⟨_, rfl, ?_⟩
  split
  · exact h
  · split
    · exact h
    next x1 u2 heq =>
      have hu2 := h.takeSync heq
      extract_lets +onlyGivenNames g3
      split
      · exact hu2
      · exact .ite (.left_ (hu2.setObj ..) ..) hu2

theorem execTreeArrive (i : Nat) : ∃ u, execTreeArrive i t = .next u ∧ Steady τ η s u := by
  unfold Machine.execTreeArrive
  refine ⟨_, rfl, ?_⟩
  split
  · exact h
  · split
    · exact h
    next x1 u2 heq =>
      have hu2 := h.takeSync heq
      exact .ite (hu2.syncErrAt ..) (.ite (hu2.syncErrAt ..) (.ite (hu2.syncErrAt ..) (.ite (.arrive (.perf (hu2.setObj ..) ..) ..)
          (hu2.overrun ..))))

theorem execTreeRelease (i : Nat) : ∃ u, execTreeRelease i t = .next u ∧ Steady τ η s u := by
  unfold Machine.execTreeRelease
  refine ⟨_, rfl, ?_⟩
  split
  · exact h
  · split
    · exact h
    next x1 u2 heq =>
      have hu2 := h.takeSync heq
      exact .ite hu2 (.releaseRound (.sendTree (hu2.setObj ..) ..) ..)

theorem execOrphan (i : Nat) : ∃ u, execOrphan i t = .next u ∧ Steady τ η s u := by
  unfold Machine.execOrphan
  refine ⟨_, rfl, ?_⟩
  split
  · exact h
  · split
    · exact h
    next x1 u2 heq =>
      have hu2 := h.takeSync heq
      exact .ite (.nodesOrphaned (.orphanNode (.ite (hu2.setObj ..) hu2) ..) ..) hu2

theorem execWithdraw (i : Nat) : ∃ u, execWithdraw i t = .next u ∧ Steady τ η s u := by
  unfold Machine.execWithdraw
  refine ⟨_, rfl, ?_⟩
  split
  · exact h
  · split
    · exact h
    next x1 u2 heq =>
      have hu2 := h.takeSync heq
      extract_lets +onlyGivenNames g3
      split
      · exact hu2
      · exact hu2.setObj ..

theorem execSyncTimeout (p : Nat) : ∃ u, execSyncTimeout p t = .next u ∧ Steady τ η s u := by
  unfold Machine.execSyncTimeout
  refine ⟨_, rfl, ?_⟩
  split
  · exact h
  · split
    · exact h
    · exact .finishSync (h.syncErrAt ..) ..

theorem copyToCs (p dst src n : Nat) : Steady τ η s (copyToCs p dst src n t) := by
  refine .foldl (fun _ _ h => h.poisonRead ..) _ (h.stores fun f => ⟨f.1, Mem.foldl_wf _ _ (fun m c hm => ?_) (Mem.filter_wf _ f.2)⟩)
  split
  · exact Mem.write_wf _ _ hm
  · exact hm

theorem placeProgram (p : Nat) (g : Option Prog) : Steady τ η s (placeProgram p g t) := by
  unfold Machine.placeProgram
  extract_lets +onlyGivenNames c1 s2
  have hs2 : Steady τ η s s2 := h.setCore ..
  split
  · exact hs2.loadObjects ..
  · exact hs2

theorem loadRank (p model r : Nat) (m : Model) : Steady τ η s (loadRank p model r m t) := by
  unfold Machine.loadRank
  extract_lets +onlyGivenNames l s1 c new s2
  have h1 : Steady τ η s s1 := .foldl (fun _ _ h => h.copyToCs ..) _ h
  have h2 : Steady τ η s s2 := h1.setCore ..
  clear_value s2
  exact .ite (h2.placeProgram ..) h2

theorem haveProgram (p model r : Nat) (m : Model) : Steady τ η s (haveProgram p model r m t) := .ite h (h.placeProgram ..)

theorem loadCore (o : Objs) (l : Nat) : Steady τ η s (loadCore o l t) := .foldl (fun _ _ h => .ite (h.loadRank ..) h) _ h

theorem loadInst (o : Objs) (i : Nat) : Steady τ η s (loadInst o i t) := by
  unfold Machine.loadInst
  split
  · exact h
  · split
    · split
      · extract_lets +onlyGivenNames s1
        have hs1 : Steady τ η s s1 := .foldl (fun _ _ h => h.setCore ..) _ h
        split
        · exact hs1.setInst ..
        · exact hs1
      · exact .foldl (fun _ _ h => h.loadRank ..) _ h

theorem execPlacementReloadComplete (i : Nat) : ∃ u, execPlacementReloadComplete i t = .next u ∧ Steady τ η s u := by
  unfold Machine.execPlacementReloadComplete
  refine ⟨_, rfl, ?_⟩
  split
  · exact h
  · split
    · exact h
    · split
      · extract_lets +onlyGivenNames s1 insts5
        have hs1 : Steady τ η s s1 := by
          unfold s1
          refine .foldl (fun u2 _ hu2 => ?_) _ h
          extract_lets +onlyGivenNames s3 s4
          have hs3 : Steady τ η s s3 := by
            unfold s3
            split
            · exact hu2.loadCore ..
            · exact hu2
          have hs4 : Steady τ η s s4 := hs3.loadCore ..
          exact hs4.setCore ..
        exact hs1.aside
      · exact .ite (.setInst (h.loadInst ..) ..) h

theorem resultEvent (type : Nat) (j : Job) (body : Bytes) : Steady τ η s (resultEvent type j body t).2 :=
  .iteSnd (h.queueEvent ..) (h.sendEvent ..)

theorem notify (j : Job) (inst status : Nat) (late lost : Bool) : Steady τ η s (notify j inst status late lost t) :=
  .ite (h.resultEvent ..) h

theorem failed_ (j : Job) : Steady τ η s (failed_ j t) := .ite h (h.ctxCount ..)

theorem jobMiss (unit die : Nat) (j : Job) : Steady τ η s (jobMiss unit die j t) := h.raiseF ..

theorem sendReturn (j : Job) (status : Nat) (late : Bool) (area : Mem) : Steady τ η s (sendReturn j status late area t) := by
  unfold Machine.sendReturn
  extract_lets +onlyGivenNames a1 data2 dest3 parts4
  refine .foldl (fun u5 _ hu5 => ?_) _ h
  split
  next x6 u7 heq =>
    have hu7 := Steady.ofPair heq (hu5.newTag ..)
    exact hu7.sendTag ..

theorem closeStream (j : Job) (status tokens : Nat) : Steady τ η s (closeStream j status tokens t) := .ite h (h.setCtx ..)

theorem finishJob (i : Nat) (j : Job) (status : Nat) : Steady τ η s (finishJob i j status t) := by
  unfold Machine.finishJob
  extract_lets +onlyGivenNames s1 s2
  have hs1 : Steady τ η s s1 := h.closeStream ..
  have hs2 : Steady τ η s s2 := .ite hs1 (.notify (.failed_ (hs1.scErr ..) ..) ..)
  exact hs2.aside

theorem execJobComplete (i : Nat) : ∃ u, execJobComplete i t = .next u ∧ Steady τ η s u := by
  unfold Machine.execJobComplete
  refine ⟨_, rfl, ?_⟩
  split
  · exact h
  · split
    · exact h
    · split
      · exact h
      · exact .ite h (.preemptScan (.finishJob (h.setInst ..) ..))

theorem takeTag {x : InTag} {i : Nat} {f : Tag → Bool} (e : takeTag i f t = some (x, u)) : Steady τ η s u := by
  unfold Machine.takeTag at e
  split at e
  · cases e
  · split at e
    · cases e
      exact h.aside
    · cases e

theorem discardLate (i : Nat) (j : Job) : Steady τ η s (discardLate i j t) := by
  unfold Machine.discardLate
  extract_lets +onlyGivenNames s1 s2 s3
  have hs1 : Steady τ η s s1 := h.jobMiss ..
  have hs2 : Steady τ η s s2 := .closeStream (.failed_ (hs1.scErr ..) ..) ..
  have hs3 : Steady τ η s s3 := hs2.notify ..
  exact hs3.aside

theorem execJobArrive (i : Nat) : ∃ u, execJobArrive i t = .next u ∧ Steady τ η s u := by
  unfold Machine.execJobArrive
  refine ⟨_, rfl, .ite h ?_⟩
  split
  · exact h
  next heq =>
    have h1 := h.takeTag heq
    extract_lets +onlyGivenNames g here o inst late status j s2
    have h2 : Steady τ η s s2 := .ite (h1.djobStatus ..) h1
    clear_value status inst
    split
    · exact h2.queueJob ..
    · exact h2.discardLate ..
    · exact .ite h2 (h2.sendReturn ..)

theorem startRank (p i : Nat) (j : Job) : Steady τ η s (startRank p i j t) :=
  .ite (.stopJob (.coreLog (.csWrite (h.setCore ..) ..) ..) ..) (.coreLog (.csWrite (h.setCore ..) ..) ..)

theorem execJobStart (i : Nat) : ∃ u, execJobStart i t = .next u ∧ Steady τ η s u := by
  unfold Machine.execJobStart
  refine ⟨_, rfl, ?_⟩
  split
  · exact h
  · split
    · exact h
    · split
      · extract_lets +onlyGivenNames o1
        split
        · extract_lets +onlyGivenNames late2 refused3
          split
          · exact h
          · split
            · exact .preemptScan (.finishJob (h.setInst ..) ..)
            · split
              · exact .preemptScan (.discardLate (h.setInst ..) ..)
              · split
                · exact .queueJob (h.setInst ..) ..
                · split
                  · exact h
                  · extract_lets +onlyGivenNames j'4 m5 src6 s7 ranks8 s9 s10
                    have hs7 : Steady τ η s s7 := h.setInst ..
                    have hs9 : Steady τ η s s9 := .foldl (fun _ _ h => h.haveProgram ..) _ hs7
                    have hs10 : Steady τ η s s10 := by
                      unfold s10
                      refine .foldl (fun u11 _ hu11 => ?_) _ hs9
                      split
                      · exact hu11.loadObjects ..
                      · exact hu11
                    exact .preemptScan (.foldl (fun _ _ h => h.startRank ..) _ hs10)
      · exact h

theorem execContextSave (w : SaveAt) : ∃ u, execContextSave w t = .next u ∧ Steady τ η s u := by
  unfold Machine.execContextSave
  refine ⟨_, rfl, ?_⟩
  extract_lets +onlyGivenNames c1
  split
  · split
    · exact h
    · split
      · exact h
      · exact h.endRank ..
      · exact .requeueSaved (.dropPreempt (.coreLog (.ccErr (.orphanCore (.setCore (.setInst (h.writeContext ..) ..) ..) ..) ..) ..) ..)
          ..
  · exact h

theorem restoreRank (p i wid : Nat) (sv : Saved) : Steady τ η s (restoreRank p i wid sv t) :=
  .setCore (.foldl (fun _ _ h => .ite (h.setObj ..) h) _ (.foldl (fun _ _ h => .foldl (fun _ _ h => h.answerHeld ..) _ (h.setObj ..)) _
      (h.coreLog ..))) ..

theorem execJobResume (i wid : Nat) : ∃ u, execJobResume i wid t = .next u ∧ Steady τ η s u := by
  unfold Machine.execJobResume
  refine ⟨_, rfl, ?_⟩
  split
  · exact h
  · split
    · exact h
    · split
      · extract_lets +onlyGivenNames o1
        split
        · split
          · exact h
          · extract_lets +onlyGivenNames bad2 good3 j'4 src5 s6 s7 s9
            have hs6 : Steady τ η s s6 := h.setInst ..
            have hs7 : Steady τ η s s7 := by
              unfold s7
              refine .foldl (fun u8 _ hu8 => ?_) _ hs6
              split
              · exact hu8.poisonRead ..
              · exact hu8
            have hs9 : Steady τ η s s9 := by
              unfold s9
              refine .foldl (fun u10 _ hu10 => ?_) _ hs7
              extract_lets +onlyGivenNames p11 s12
              have hs12 : Steady τ η s s12 := by
                unfold s12
                split
                · exact hu10.haveProgram ..
                · exact hu10
              exact hs12.restoreRank ..
            exact hs9.preemptScan
      · exact h

theorem writeOverride (d bucket tag : Nat) (v : Option Bytes) : Steady τ η s (writeOverride d bucket tag v t).2 := by
  unfold Machine.writeOverride
  extract_lets +onlyGivenNames x idx hit
  clear_value hit
  split
  · exact h
  · exact h.clearOverride ..
  · exact .iteSnd (h.tblErr ..) (h.setDie ..)
  · refine .iteSnd (h.tblErr ..) ?_
    split
    · exact h.tblErr ..
    · exact .ite (.tblErr (h.setDie ..) ..) (h.setDie ..)

theorem writeOverrides (j : Job) (area : Mem) : Steady τ η s (writeOverrides j area t).2 := by
  unfold Machine.writeOverrides
  refine .foldlSnd (fun a k h => ?_) _ h
  extract_lets +onlyGivenNames e
  split
  split
  next e1 =>
  split
  next e2 =>
  exact .ofPair e2 (.writeOverride (.ofPair e1 (h.writeOverride ..)) ..)

theorem undelivered (j : Job) (inst status : Nat) (late : Bool) : Steady τ η s (undelivered j inst status late t) :=
  .notify (.failed_ (h.scErr ..) ..) ..

theorem giveReturn (j : Job) (inst status : Nat) (late : Bool) (area : Mem) : Steady τ η s (giveReturn j inst status late area t) :=
  .ite h (.ite (.ite (h.devWrite ..) (h.undelivered ..)) (.ite (h.undelivered ..) (h.sendReturn ..)))

theorem deliverParts (x : Res) (late : Bool) : Steady τ η s (deliverParts x late t) :=
  .giveReturn (.ite (.ite (.writeOverrides (.ite (.ite (.resultEvent (.ite (.ite (h.routeResult ..) (.undelivered (h.routeResult ..) ..))
      h) ..) (.undelivered (.resultEvent (.ite (.ite (h.routeResult ..) (.undelivered (h.routeResult ..) ..)) h) ..) ..)) (.ite (.ite
      (.resultEvent (.ite (.ite (h.routeResult ..) (.undelivered (h.routeResult ..) ..)) h) ..) (.undelivered (.resultEvent (.ite (.ite
      (h.routeResult ..) (.undelivered (h.routeResult ..) ..)) h) ..) ..)) (.ite (.ite (h.routeResult ..) (.undelivered (h.routeResult
      ..) ..)) h))) ..) (.undelivered (.writeOverrides (.ite (.ite (.resultEvent (.ite (.ite (h.routeResult ..) (.undelivered
      (h.routeResult ..) ..)) h) ..) (.undelivered (.resultEvent (.ite (.ite (h.routeResult ..) (.undelivered (h.routeResult ..) ..)) h)
      ..) ..)) (.ite (.ite (.resultEvent (.ite (.ite (h.routeResult ..) (.undelivered (h.routeResult ..) ..)) h) ..) (.undelivered
      (.resultEvent (.ite (.ite (h.routeResult ..) (.undelivered (h.routeResult ..) ..)) h) ..) ..)) (.ite (.ite (h.routeResult ..)
      (.undelivered (h.routeResult ..) ..)) h))) ..) ..)) (.ite (.ite (.resultEvent (.ite (.ite (h.routeResult ..) (.undelivered
      (h.routeResult ..) ..)) h) ..) (.undelivered (.resultEvent (.ite (.ite (h.routeResult ..) (.undelivered (h.routeResult ..) ..)) h)
      ..) ..)) (.ite (.ite (.resultEvent (.ite (.ite (h.routeResult ..) (.undelivered (h.routeResult ..) ..)) h) ..) (.undelivered
      (.resultEvent (.ite (.ite (h.routeResult ..) (.undelivered (h.routeResult ..) ..)) h) ..) ..)) (.ite (.ite (h.routeResult ..)
      (.undelivered (h.routeResult ..) ..)) h)))) ..

theorem execResultRoute (d : Nat) : ∃ u, execResultRoute d t = .next u ∧ Steady τ η s u := by
  unfold Machine.execResultRoute
  refine ⟨_, rfl, ?_⟩
  split
  · exact h
  · split
    · exact h
    · exact .ite (.giveReturn (.ite (h.aside.resultEvent ..) h.aside) ..) (.ite (.notify (.failed_ (.scErr (.ite (h.aside.jobMiss ..)
        h.aside) ..) ..) ..) (.deliverParts (.ite (.perf (.ite (.ite (.scErr (.ite (h.aside.jobMiss ..) h.aside) ..) (.ctxCount (.scErr
        (.ite (h.aside.jobMiss ..) h.aside) ..) ..)) (.ite (h.aside.jobMiss ..) h.aside)) ..) (.setCtx (.perf (.ite (.ite (.scErr (.ite
        (h.aside.jobMiss ..) h.aside) ..) (.ctxCount (.scErr (.ite (h.aside.jobMiss ..) h.aside) ..) ..)) (.ite (h.aside.jobMiss ..)
        h.aside)) ..) ..)) ..))

theorem returnAccept (chip wid status : Nat) : Steady τ η s (returnAccept chip wid status t) := .foldl (fun _ _ h => h.djobStatus ..) _ h

theorem execReturnArrive (i : Nat) : ∃ u, execReturnArrive i t = .next u ∧ Steady τ η s u := by
  unfold Machine.execReturnArrive
  refine ⟨_, rfl, ?_⟩
  split
  · exact h
  · split
    · exact h
    next x1 u2 heq =>
      have hu2 := h.takeTag heq
      exact .ite (.ite (.raiseF (.scErr (.ite (.returnAccept (.ite (hu2.dropAway ..) hu2) ..) (.ite (hu2.dropAway ..) hu2)) ..) ..) (.ite
          (.returnAccept (.ite (hu2.dropAway ..) hu2) ..) (.ite (hu2.dropAway ..) hu2))) (.ite (.ite (.returnAccept (.ite (hu2.dropAway
          ..) hu2) ..) (.ite (hu2.dropAway ..) hu2)) (.ite (.devWrite (.ite (.raiseF (.scErr (.ite (.returnAccept (.ite (hu2.dropAway ..)
          hu2) ..) (.ite (hu2.dropAway ..) hu2)) ..) ..) (.ite (.returnAccept (.ite (hu2.dropAway ..) hu2) ..) (.ite (hu2.dropAway ..)
          hu2))) ..) (.ite (.scErr (.ite (.raiseF (.scErr (.ite (.returnAccept (.ite (hu2.dropAway ..) hu2) ..) (.ite (hu2.dropAway ..)
          hu2)) ..) ..) (.ite (.returnAccept (.ite (hu2.dropAway ..) hu2) ..) (.ite (hu2.dropAway ..) hu2))) ..) (.ite (.raiseF (.scErr
          (.ite (.returnAccept (.ite (hu2.dropAway ..) hu2) ..) (.ite (hu2.dropAway ..) hu2)) ..) ..) (.ite (.returnAccept (.ite
          (hu2.dropAway ..) hu2) ..) (.ite (hu2.dropAway ..) hu2))))))

theorem utilClear (p : Nat) : Steady τ η s (utilClear p t) := h.aside

theorem obsCoreRead (c : Call) : Steady τ η s (obsCoreRead c t).s := .rows h (.ite (h.utilClear ..) h)

theorem obsWrite (a : Nat) (b : Bytes) : Steady τ η s (obsWrite a b t) := .ite (h.aside.hbmWrite ..) h.aside

theorem setLog (k : Nat) (x : Logbook) : Steady τ η s (setLog k x t) := h.aside

theorem putObs (k chip wid a : Nat) (b : Bytes) : Steady τ η s (putObs k chip wid a b t) := by
  unfold Machine.putObs
  split
  · exact h.obsWrite ..
  · split
    next x1 u2 heq =>
      have hu2 := Steady.ofPair heq (h.newTag ..)
      exact hu2.sendTag ..

theorem ringOut (k : Nat) (x : Logbook) (l : List Bytes) : Steady τ η s (ringOut k x l t) :=
  .putObs (.foldl (fun _ _ h => h.putObs ..) _ h) ..

theorem brixviaOut (fuel : Nat) (x : Logbook) (l : List Bytes) : Steady τ η s (brixviaOut fuel x l t) := by
  induction fuel generalizing l t with
  | zero => exact h
  | succ k ih =>
    unfold Machine.brixviaOut
    exact .ite h (ih (h.sendSeq ..) _)

theorem drainLog (k : Nat) : Steady τ η s (drainLog k t) :=
  .ite (.ite (.brixviaOut (h.setLog ..) ..) (.ite (.errc (h.setLog ..) ..) (.errc (h.setLog ..) ..))) (.ite h (.ringOut (h.setLog ..) ..))

theorem logCtl (c : Call) : Steady τ η s (logCtl c t).s := by
  unfold Machine.logCtl
  extract_lets +onlyGivenNames k1 op2 die3 b4 size5 a6 chip7 ring8
  refine .rows h ?_
  extract_lets +onlyGivenNames x9
  split
  · exact h.setLog ..
  · exact .setLog (h.drainLog ..) ..

theorem fireDump (p : Nat) (e : EI) (i : Nat) (d : DumpSlot) : Steady τ η s (fireDump p e i d t) := .coreLog (h.setCore ..) ..

theorem execDump (p q : Nat) : ∃ u, execDump p q t = .next u ∧ Steady τ η s u := by
  unfold Machine.execDump
  refine ⟨_, rfl, ?_⟩
  refine h.engStep (hf := fun x1 u2 hu2 => ?_) ..
  extract_lets +onlyGivenNames c3
  split
  · exact hu2.doneEi ..
  · exact .ite hu2 (.ite (hu2.illegalEi ..) (.ite (hu2.refuseEi ..) (.doneEi (hu2.fireDump ..) ..)))

theorem execDumpCopy (p : Nat) : ∃ u, execDumpCopy p t = .next u ∧ Steady τ η s u := by
  unfold Machine.execDumpCopy
  refine ⟨_, rfl, ?_⟩
  extract_lets +onlyGivenNames c1
  split
  · exact h
  · exact .ite h (.ite (.setCore (h.obsWrite ..) ..) (.ite (.errc (.errc (.setCore (h.obsWrite ..) ..) ..) ..) (.errc (.setCore
      (h.obsWrite ..) ..) ..)))

theorem dumpArm (c : Call) : Steady τ η s (dumpArm c t).s := .rows h (h.setCore ..)

theorem sendMarker (num t0 n : Nat) : Steady τ η s (sendMarker num t0 n t) := by
  unfold Machine.sendMarker
  extract_lets +onlyGivenNames dest1
  split
  next x2 u3 heq =>
    have hu3 := Steady.ofPair heq (h.newTag ..)
    exact .perf (.emit (hu3.setLink ..) ..) ..

theorem hvRead (c : Call) : Steady τ η s (hvRead c t).s := .rows h h

theorem refuseCopies (bad : EI → Bool) : Steady τ η s (refuseCopies bad t) :=
  .foldl (fun _ _ h => .foldl (fun _ _ h => h.refuseEi ..) _ h) _ h

theorem endLost : Steady τ η s (endLost t) := .refuseCopies (.foldl (fun _ _ h => h.orphanToward ..) _ h) ..

theorem reroute (f : Bytes) : Steady τ η s (reroute f t) := .ite (h.sendRouted ..) (h.sendPath ..)

theorem rstAcked (n status : Nat) : Steady τ η s (rstAcked n status t) := .foldl (fun _ _ h => h.endWait ..) _ h.aside

theorem dropLink (n st : Nat) : Steady τ η s (dropLink n st t) :=
  .ite (.endLost (.rstAcked (.foldl (fun _ _ h => h.reroute ..) _ (.ite (h.setLink ..) (.clErr (h.setLink ..) ..))) ..)) (.foldl (fun _ _
      h => h.reroute ..) _ (.ite (h.setLink ..) (.clErr (h.setLink ..) ..)))

theorem startLink (n : Nat) : Steady τ η s (startLink n t) := h.aside

theorem retrainLink (n : Nat) : Steady τ η s (retrainLink n t) := .startLink (h.dropLink ..) ..

theorem failLink (n : Nat) : Steady τ η s (failLink n t) := .clErr (h.setLink ..) ..

theorem retireLink (n : Nat) : Steady τ η s (retireLink n t) := .raiseF (.treeLinkLost (h.aside.dropLink ..) ..) ..

theorem frameErr (n : Nat) : Steady τ η s (frameErr n t) := h.clErr ..

theorem tagMalformed (n : Nat) (t0 : Tag) : Steady τ η s (tagMalformed n t0 t) := .raiseF (h.errc ..) ..

theorem versionResult (t0 : Tag) (body : Bytes) : Steady τ η s (versionResult t0 body t) := h.sendReturn ..

theorem verCount (k : Nat) : Steady τ η s (verCount k t) := h.errc ..

theorem returnGone (t0 : Tag) : Steady τ η s (returnGone t0 t) := .ite (h.dropAway ..) h

theorem checkTag (n : Nat) (v1 : Bool) (t0 : Tag) (body : Bytes) : Steady τ η s (checkTag n v1 t0 body t).2 := by
  unfold Machine.checkTag
  split
  · exact h.tagMalformed ..
  · split
    · exact h
    · split
      · exact .ite (.versionResult (.returnGone (h.verCount ..) ..) ..) (.returnGone (h.verCount ..) ..)
      · split
        · exact h
        · split
          next x1 u2 heq =>
            have hu2 := Steady.ofPair heq h.draw
            exact .iteSnd hu2 (.iteSnd (.ite (.versionResult (.returnGone (.verCount (.raise1s (hu2.aside.clErr ..) ..) ..) ..) ..)
                (.returnGone (.verCount (.raise1s (hu2.aside.clErr ..) ..) ..) ..)) (.raise1s (hu2.aside.clErr ..) ..))

theorem takeCopy (t0 : Tag) (body : Bytes) : Steady τ η s (takeCopy t0 body t) := by
  unfold Machine.takeCopy
  extract_lets +onlyGivenNames w1 a2 d3
  split
  · exact h
  · extract_lets +onlyGivenNames s4
    have hs4 : Steady τ η s s4 := h.devWrite ..
    split
    · split
      next x5 u6 heq =>
        have hu6 := Steady.ofPair heq (hs4.newTag ..)
        exact hu6.sendTag ..
    · exact hs4

theorem deliver (n : Nat) (v1 mark : Bool) (f : Bytes) : Steady τ η s (deliver n v1 mark f t) := by
  unfold Machine.deliver
  extract_lets +onlyGivenNames tag1 t2 body3 s4 s5
  have hs4 : Steady τ η s s4 := h.noteSeq ..
  have hs5 : Steady τ η s s5 := hs4.aside
  split
  · exact .ite (hs4.takeCopy ..) hs5
  · exact .ite (hs4.obsWrite ..) hs4
  · exact hs4
  · exact hs5

theorem rxFrame (n t0 : Nat) (g : Bytes) : Steady τ η s (rxFrame n t0 g t) := by
  unfold Machine.rxFrame
  extract_lets +onlyGivenNames v11 f2
  split
  · exact h.frameErr ..
  · split
    · exact h
    · extract_lets +onlyGivenNames t3 s4
      have hs4 : Steady τ η s s4 := h.linkMark ..
      split
      next u5 heq =>
        have hu5 := Steady.ofPair heq (hs4.checkTag ..)
        exact hu5
      next x6 u7 heq =>
        have hu7 := Steady.ofPair heq (hs4.checkTag ..)
        exact .ite (.ite (hu7.deliver ..) hu7) (.ite (.ite (hu7.deliver ..) (hu7.sendRouted ..)) (.ite (hu7.deliver ..) (hu7.sendPath
            ..)))

theorem takeFlit (n t0 : Nat) (r : Bytes) : Steady τ η s (takeFlit n t0 r t) :=
  .ite (.frameErr (.ite (.frameErr (h.setLink ..) ..) (h.setLink ..)) ..) (.ite (.setLink (.ite (.frameErr (h.setLink ..) ..) (h.setLink
      ..)) ..) (.rxFrame (.ite (.frameErr (h.setLink ..) ..) (h.setLink ..)) ..))

theorem giveBack (n v : Nat) : Steady τ η s (giveBack n v t) := h.aside

theorem takeMarker (n : Nat) (r : Bytes) : Steady τ η s (takeMarker n r t) := by
  unfold Machine.takeMarker
  extract_lets +onlyGivenNames f1
  split
  · exact h.frameErr ..
  · split
    · exact h
    · extract_lets +onlyGivenNames t2
      split
      next u3 heq =>
        have hu3 := Steady.ofPair heq (h.checkTag ..)
        exact hu3
      next x4 u5 heq =>
        have hu5 := Steady.ofPair heq (h.checkTag ..)
        exact .setLink (hu5.noteSeq ..) ..

theorem acceptFlit (n : Nat) (flit : Bytes) : Steady τ η s (acceptFlit n flit t) := by
  unfold Machine.acceptFlit
  extract_lets +onlyGivenNames r1 v2 s3
  have hs3 : Steady τ η s s3 := h.perf ..
  split
  · exact hs3.takeMarker ..
  · extract_lets +onlyGivenNames x4 s5
    have hs5 : Steady τ η s s5 := hs3.setLink ..
    exact .ite (.setLink (.ite hs5.aside hs5) ..) (.takeFlit (hs5.giveBack ..) ..)

theorem ackLink (n a : Nat) : Steady τ η s (ackLink n a t) := .ite h (.rstAcked (.pumpLink (h.setLink ..) ..) ..)

theorem sendNack (n : Nat) : Steady τ η s (sendNack n t) := .ite h (.emit (h.setLink ..) ..)

theorem sendCtl (n : Nat) (b : Bytes) : Steady τ η s (sendCtl n b t) := h.aside

theorem rxCtl {f : State → State} (code n : Nat) (flit : Bytes) (hf : ∀ u, Steady τ η s u → Steady τ η s (f u)) :
    Steady τ η s (rxCtl code n flit f t) :=
  .ite h (.ite (h.clErr ..) (.ite h (hf _ h)))

theorem replayFrom (n q : Nat) : Steady τ η s (replayFrom n q t) := by
  unfold Machine.replayFrom
  extract_lets +onlyGivenNames s1 x d s2 s3 f s4
  have h1 : Steady τ η s s1 := h.ackLink ..
  have h2 : Steady τ η s s2 := .clErr (h1.setLink ..) ..
  have h3 : Steady τ η s s3 := .foldl (fun _ _ h => .ite (.linkMark (.perf (h.emit ..) ..) ..) (.perf (h.emit ..) ..)) _ h2
  have h4 : Steady τ η s s4 := h3.raise1s ..
  clear_value s4
  refine .ite h1 ?_
  split
  next heq =>
  have h5 := Steady.ofPair heq (h4.channelEvent ..)
  exact .ite (h5.retireLink ..) (.ite (h5.retrainLink ..) h5)

theorem retireLane (n lane : Nat) : Steady τ η s (retireLane n lane t) :=
  .ite (.retireLink (h.aside.raiseF ..) ..) (.ite (.sendCtl (.setLink (.draw (h.aside.raiseF ..)) ..) ..) (h.aside.raiseF ..))

theorem sendTrainFlit (n step ver : Nat) : Steady τ η s (sendTrainFlit n step ver t) := h.aside

theorem linkComesUp (n : Nat) (o : ClOffer) : Steady τ η s (linkComesUp n o t) := .ite (.raiseF (h.setLink ..) ..) (h.setLink ..)

theorem execClTrain (n : Nat) (flit : Bytes) : ∃ u, execClTrain n flit t = .next u ∧ Steady τ η s u := by
  unfold Machine.execClTrain
  refine ⟨_, rfl, ?_⟩
  refine h.rxCtl (hf := fun u1 hu1 => ?_) ..
  extract_lets +onlyGivenNames x2
  split
  · exact hu1
  · split
    · exact .ite (hu1.retireLink ..) (.ite (hu1.failLink ..) (.sendTrainFlit (hu1.setLink ..) ..))
    · split
      · split
        · exact .ite (hu1.linkComesUp ..) (hu1.failLink ..)
        · exact hu1
      · exact hu1

theorem execClTrainRetry (n : Nat) : ∃ u, execClTrainRetry n t = .next u ∧ Steady τ η s u := by
  unfold Machine.execClTrainRetry
  refine ⟨_, rfl, ?_⟩
  extract_lets +onlyGivenNames x1
  split
  · exact .ite (h.startLink ..) h
  · exact .ite (h.failLink ..) h

theorem adoptMask (n m e : Nat) : Steady τ η s (adoptMask n m e t) := .foldl (fun _ _ h => .ite h (h.aside.raiseF ..)) _ (h.setLink ..)

theorem execLaneAck (n : Nat) (flit : Bytes) : ∃ u, execLaneAck n flit t = .next u ∧ Steady τ η s u := by
  unfold Machine.execLaneAck
  refine ⟨_, rfl, ?_⟩
  refine h.rxCtl (hf := fun u1 hu1 => ?_) ..
  extract_lets +onlyGivenNames x2
  split
  · exact .ite (hu1.adoptMask ..) hu1
  · exact hu1

theorem execLaneAckTimeout (n : Nat) : ∃ u, execLaneAckTimeout n t = .next u ∧ Steady τ η s u := by
  unfold Machine.execLaneAckTimeout
  refine ⟨_, rfl, ?_⟩
  split
  · exact .ite (h.retrainLink ..) h
  · exact h

theorem setRound (r : Round) : Steady τ η s (setRound r t) := h.aside

theorem onRound (f : Round → Round) : Steady τ η s (onRound f t) := by
  unfold Machine.onRound
  split
  · exact h.setRound ..
  · exact h

theorem verOpen (c : Call) : Steady τ η s (verOpen c t).s := .rows h (h.setRound ..)

theorem verAbort (c : Call) : Steady τ η s (verAbort c t).s := .rows h h.aside

theorem commitAt (c : Call) : Steady τ η s (commitAt c t).s := .rows h (h.onRound ..)

theorem verStatus (c : Call) : Steady τ η s (verStatus c t).s := .rows h h

theorem verCtl (c : Call) : Steady τ η s (verCtl c t).s := .rows h h.aside

theorem dlcStage (c : Call) : Steady τ η s (dlcStage c t).s := .rows h (h.onRound ..)

theorem fltThreshStage (c : Call) : Steady τ η s (fltThreshStage c t).s := .rows h (h.onRound ..)

theorem setLinkEn (n : Nat) : Steady τ η s (setLinkEn n t) := .ite h (.ite (.startLink (h.setLink ..) ..) (h.setLink ..))

theorem quiesceLink (n : Nat) : Steady τ η s (quiesceLink n t) := .foldl (fun _ _ h => h.reroute ..) _ (.startQuiesce (h.setLink ..) ..)

theorem clrLinkEn (n : Nat) : Steady τ η s (clrLinkEn n t) :=
  .ite h (.ite (.quiesceLink (h.setLink ..) ..) (.ite (.setLink (h.setLink ..) ..) (h.setLink ..)))

theorem clChipId (c : Call) : Steady τ η s (clChipId c t).s := .rows h h.aside

theorem clRouteSet (c : Call) : Steady τ η s (clRouteSet c t).s := .rows h h.aside.endLost

theorem clUnretire (c : Call) : Steady τ η s (clUnretire c t).s := .rows h (h.aside.retrainLink ..)

theorem clRelay (c : Call) : Steady τ η s (clRelay c t).s := by
  unfold Machine.clRelay
  extract_lets +onlyGivenNames dest1 mode2 plen3 path4 ms5 inner6
  refine .rows h ?_
  extract_lets +onlyGivenNames wid7
  split
  next x8 u9 heq =>
    have hu9 := Steady.ofPair heq (h.newTag ..)
    exact .ite (hu9.aside.sendTag ..) (hu9.aside.sendPath ..)

theorem takeIn {x : InTag} {i : Nat} {f : InTag → Bool} (e : takeIn i f t = some (x, u)) : Steady τ η s u := by
  unfold Machine.takeIn at e
  split at e
  · cases e
  · split at e
    · cases e
      exact h.aside
    · cases e

theorem execUnreach (i : Nat) : ∃ u, execUnreach i t = .next u ∧ Steady τ η s u := by
  unfold Machine.execUnreach
  refine ⟨_, rfl, ?_⟩
  split
  · exact h
  next x1 u2 heq =>
    have hu2 := h.takeIn heq
    extract_lets +onlyGivenNames s3
    have hs3 : Steady τ η s s3 := hu2.errc ..
    exact hs3.aside.endLost

theorem execDcopyConfirm (i : Nat) : ∃ u, execDcopyConfirm i t = .next u ∧ Steady τ η s u := by
  unfold Machine.execDcopyConfirm
  refine ⟨_, rfl, ?_⟩
  split
  · exact h
  next x1 u2 heq =>
    have hu2 := h.takeIn heq
    split
    · exact hu2.doneEi ..
    · exact hu2

theorem execBearingExchangeSend (n : Nat) : ∃ u, execBearingExchangeSend n t = .next u ∧ Steady τ η s u := by
  unfold Machine.execBearingExchangeSend
  refine ⟨_, rfl, ?_⟩
  extract_lets +onlyGivenNames x1 k2
  split
  · split
    · exact h
    · extract_lets +onlyGivenNames s3
      have hs3 : Steady τ η s s3 := h.setLink ..
      split
      next x4 u5 heq =>
        have hu5 := Steady.ofPair heq (hs3.newTag ..)
        exact hu5.enqueue ..
  · exact h

theorem execBearingExchange (i : Nat) : ∃ u, execBearingExchange i t = .next u ∧ Steady τ η s u := by
  unfold Machine.execBearingExchange
  refine ⟨_, rfl, ?_⟩
  split
  · exact h
  next heq =>
    have h1 := h.takeIn heq
    extract_lets +onlyGivenNames n d st src s2
    have h2 : Steady τ η s s2 := h1.aside
    clear_value d s2
    split
    · exact .raise1s (h2.verCount ..) ..
    · exact h2

theorem countSelf : Steady τ η s (countSelf t) := h.aside

theorem execAggReportSend : ∃ u, execAggReportSend t = .next u ∧ Steady τ η s u := by
  unfold Machine.execAggReportSend
  refine ⟨_, rfl, ?_⟩
  extract_lets +onlyGivenNames k1 t2 kids3 got4 all5
  split
  · exact h
  · extract_lets +onlyGivenNames late6 s7 own8 sum9 src10 s11
    have hs7 : Steady τ η s s7 := .ite h h.countSelf
    have hs11 : Steady τ η s s11 := hs7.aside
    split
    · exact hs11.sendEvent ..
    · split
      · exact hs11
      · extract_lets +onlyGivenNames dest12
        split
        next x13 u14 heq =>
          have hu14 := Steady.ofPair heq (hs11.newTag ..)
          exact hu14.sendPath ..

theorem execAggChildReport (i : Nat) : ∃ u, execAggChildReport i t = .next u ∧ Steady τ η s u := by
  unfold Machine.execAggChildReport
  refine ⟨_, rfl, ?_⟩
  split
  · exact h
  next x1 u2 heq =>
    have hu2 := h.takeIn heq
    exact .ite hu2 hu2.aside

theorem retireCmp (u0 : Nat) : Steady τ η s (retireCmp u0 t) := h.aside.raiseF ..

theorem cmpEvent (u0 : Nat) : Steady τ η s (cmpEvent u0 t).2 := .iteSnd h (h.channelEvent ..)

theorem cmpParity (u0 version : Nat) (r : PRef) : Steady τ η s (cmpParity u0 version r t) :=
  .ite (h.errc ..) (.ite (.retireCmp (.raiseF (.cmpEvent (.markBad (h.errc ..) ..) ..) ..) ..) (.raiseF (.cmpEvent (.markBad (h.errc ..)
      ..) ..) ..))

theorem treeBad (u0 version ens b t0 : Nat) : Steady τ η s (treeBad u0 version ens b t0 t) := by
  unfold Machine.treeBad
  extract_lets +onlyGivenNames m1 r2 s3 s4 k5
  have hs3 : Steady τ η s s3 := .ite h h.aside
  have hs4 : Steady τ η s s4 := hs3.errc ..
  exact .ite hs4 (.ite (.retireCmp (.raiseLim (hs4.aside.cmpEvent ..) ..) ..) (.raiseLim (hs4.aside.cmpEvent ..) ..))

theorem noteBlock (u0 version ens b : Nat) (o : BlockOut) : Steady τ η s (noteBlock u0 version ens b o t) :=
  .ite (.errc (.foldl (fun _ _ h => h.treeBad ..) _ (.foldl (fun _ _ h => h.cmpParity ..) _ h)) ..) (.foldl (fun _ _ h => h.treeBad ..) _
      (.foldl (fun _ _ h => h.cmpParity ..) _ h))

theorem entered (u0 o : Nat) : Steady τ η s (entered u0 o t) := h.aside

theorem sliceBlock (u0 : Nat) (x : Slice) (pf : List PRef) (bad : List Nat) : Steady τ η s (sliceBlock u0 x pf bad t) :=
  .ite h (.setSlice (.entered (h.noteBlock ..) ..) ..)

theorem setCjobs (d : Nat) (l : List CJobSt) : Steady τ η s (setCjobs d l t) := h.aside

theorem jobBlock (u0 : Nat) (pf : List PRef) (bad : List Nat) : Steady τ η s (jobBlock u0 pf bad t) := by
  unfold Machine.jobBlock
  extract_lets +onlyGivenNames d1
  split
  · exact h
  · split
    · exact h
    · extract_lets +onlyGivenNames put2 m3 at_4 n5
      split
      · exact h
      · split
        · exact .setCjobs (h.poisonRead ..) ..
        · exact .ite (.setCjobs (.entered (h.noteBlock ..) ..) ..) (.setCjobs (.devWrite (.entered (h.noteBlock ..) ..) ..) ..)

theorem execCompassBlockEval (u0 : Nat) (wk : CWork) (pf : List PRef) (bad : List Nat) : ∃ u, execCompassBlockEval u0 wk pf bad t = .next
    u ∧ Steady τ η s u := by
  unfold Machine.execCompassBlockEval
  refine ⟨_, rfl, ?_⟩
  split
  · exact h
  · split
    · split
      · exact h.sliceBlock ..
      · exact h
    · exact h.jobBlock ..

theorem execCompassJobComplete (d : Nat) : ∃ u, execCompassJobComplete d t = .next u ∧ Steady τ η s u := by
  unfold Machine.execCompassJobComplete
  refine ⟨_, rfl, ?_⟩
  split
  · exact h
  · split
    · exact h
    · extract_lets +onlyGivenNames s1 s2
      have hs1 : Steady τ η s s1 := h.setCjobs ..
      have hs2 : Steady τ η s s2 := .ite (hs1.perf ..) hs1
      split
      · exact hs2
      · exact .util (.doneEi (hs2.setCore ..) ..) ..

theorem clearCoreCtrs : Steady τ η s (clearCoreCtrs t) := h.aside

theorem clearStreams (hit : Nat → Bool) : Steady τ η s (clearStreams hit t) :=
  .foldl (fun _ _ h => .ite h (.ite (.scErr (.setCtx (.ite (h.setCtx ..) h) ..) ..) (.ite (h.setCtx ..) h))) _ h

theorem clearCore (p : Nat) : Steady τ η s (clearCore p t) := h.stores fun f => ⟨f.1, Mem.clear_wf _ _ f.2⟩

theorem markLoading : Steady τ η s (markLoading t) := h.aside

theorem abortRank (p : Nat) : Steady τ η s (abortRank p t) := .ite h (h.endRank ..)

theorem resetOneCore (p : Nat) : Steady τ η s (resetOneCore p t) :=
  .markLoading (.clearStreams (.clearCore (.abortRank (.withdrawCore (h.orphanCore ..) ..) ..) ..) ..)

theorem needReload (l : Nat) : Steady τ η s (needReload l t) := h.aside

theorem finishRetire (p : Nat) : Steady τ η s (finishRetire p t) := by
  unfold Machine.finishRetire
  extract_lets +onlyGivenNames l s1 src s2 rec_
  have h1 : Steady τ η s s1 := h.resetOneCore ..
  clear_value s1
  have h2 : Steady τ η s s2 := .setCore (t := { s1 with nv := { s1.nv with coreRetired := setBit s1.nv.coreRetired p } }) h1.aside ..
  clear_value l s2
  split
  · exact h2.raiseF ..
  · split
    · exact .raiseF (h2.aside.needReload ..) ..
    · extract_lets +onlyGivenNames k q s3 s4 src s5
      have h3 : Steady τ η s s3 := h2.aside
      have h4 : Steady τ η s s4 := .ite h3 (h3.resetOneCore ..)
      clear_value s4
      have h5 : Steady τ η s s5 := h4.aside
      exact .raiseF (.ite h5 (h5.needReload ..)) ..

theorem clearUnit (u0 i : Nat) : Steady τ η s (clearUnit u0 i t) := by
  unfold Machine.clearUnit
  split
  · exact h.resetOneCore ..
  · exact h.aside
  · exact h.portDown ..
  · exact .ite h (h.dropLink ..)
  · exact h.aside
  · exact h.aside
  · exact h

theorem answerBlk (b : Blk) : Steady τ η s (answerBlk b t) := by
  unfold Machine.answerBlk
  split
  · exact h.endWait ..
  · exact h

theorem quiesced (u0 i n : Nat) : Steady τ η s (quiesced u0 i n t) := by
  unfold Machine.quiesced
  extract_lets +onlyGivenNames src1 b2
  split
  · exact .setBlk (h.clearUnit ..) ..
  · extract_lets +onlyGivenNames s3
    have hs3 : Steady τ η s s3 := by
      unfold s3
      split
      · exact .setBlk (h.portDown ..) ..
      · exact .setBlk (.dropLink (h.sendCtl ..) ..) ..
      · exact h.setBlk ..
    exact hs3.answerBlk ..
  · exact .finishRetire (h.setBlk ..) ..
  · extract_lets +onlyGivenNames s4
    have hs4 : Steady τ η s s4 := h.setBlk ..
    split
    · exact hs4.portDown ..
    · exact .dropLink (hs4.sendCtl ..) ..
    · exact hs4
  · extract_lets +onlyGivenNames s5
    have hs5 : Steady τ η s s5 := h.setBlk ..
    split
    · exact .ite (.startTraining (hs5.portDown ..) ..) (hs5.portDown ..)
    · exact .startLink (.dropLink (hs5.sendCtl ..) ..) ..
    · exact hs5

theorem abortWork (u0 i reads : Nat) (lines : List Nat) : Steady τ η s (abortWork u0 i reads lines t).2 := by
  unfold Machine.abortWork
  split
  · exact h.abortRank ..
  · exact h.loseVerdicts ..
  · exact h
  · exact h.aside
  · exact h

theorem forcedReset (u0 i n : Nat) : Steady τ η s (forcedReset u0 i n t) := h.raiseF ..

theorem execBlockResetDone (u0 i : Nat) : ∃ u, execBlockResetDone u0 i t = .next u ∧ Steady τ η s u := by
  unfold Machine.execBlockResetDone
  refine ⟨_, rfl, ?_⟩
  extract_lets +onlyGivenNames b1
  split
  · exact h
  · extract_lets +onlyGivenNames s2 src3 src4 s5
    have hs2 : Steady τ η s s2 := h.setBlk ..
    have hs5 : Steady τ η s s5 := by
      unfold s5
      split
      · exact .ite (hs2.startTraining ..) hs2
      · exact hs2.startLink ..
      · exact .ite hs2.aside hs2
      · exact hs2.aside
      · exact hs2
    exact hs5.answerBlk ..

theorem coreReset : Steady τ η s (coreReset t) := by
  unfold Machine.coreReset
  extract_lets +onlyGivenNames ps s1 s2 s3 s4 s5 s6 s7 src s8 s9
  have h2 : Steady τ η s s2 := .foldl (fun _ _ h => h.withdrawCore ..) _ (.foldl (fun _ _ h => h.orphanCore ..) _ h)
  have h3 : Steady τ η s s3 := h2.aside
  have h4 : Steady τ η s s4 := .foldl (fun _ _ h => h.abortRank ..) _ h3
  have h5 : Steady τ η s s5 := h4.aside
  have h7 : Steady τ η s s7 := .foldl (fun _ _ h => h.clearCore ..) _ (h5.clearStreams ..)
  have h8 : Steady τ η s s8 :=
    .markLoading (.clearCoreCtrs (t := { s7 with cjobs := [], mem := { s7.mem with cs := [], csPoison := [], csCorr := [] } })
      (h7.stores fun f => ⟨f.1, rfl⟩))
  have h9 : Steady τ η s s9 := h8.aside
  exact .foldl (fun _ _ h => .ite (.ite (h.setBlk ..) (h.quiesced ..)) h) _ h9

theorem countReset (n : Nat) : Steady τ η s (countReset n t) := h.aside

theorem coresLeft : Steady τ η s (coresLeft t) := .ite h (.foldl (fun _ _ h => h.endWait ..) _ h.aside)

theorem releaseSrc (k : Nat) : Steady τ η s (releaseSrc k t) := by
  unfold Machine.releaseSrc
  extract_lets +onlyGivenNames m1 src2 s3
  have hs3 : Steady τ η s s3 := h.aside
  exact hs3.aside.inlineRise.coresLeft

theorem discardCore (p : Nat) : Steady τ η s (discardCore p t) := .clearCore (.withdrawCore (h.orphanCore ..) ..) ..

theorem sleepUnit (u0 i : Nat) : Steady τ η s (sleepUnit u0 i t) := by
  unfold Machine.sleepUnit
  split
  · exact h
  · split
    · exact .ite h (h.startQuiesce ..)
    · exact .ite (.startQuiesce (h.setPort ..) ..) h
    · exact .ite (.quiesceLink (h.startQuiesce ..) ..) h
    · exact h.startQuiesce ..
    · exact h

theorem sleepBegin : Steady τ η s (sleepBegin t) :=
  .ite h (.foldl (fun _ _ h => h.sleepUnit ..) _ (.foldl (fun _ _ h => h.discardCore ..) _ h.aside))

theorem closeDoomed : Steady τ η s (closeDoomed t) := .foldl (fun _ _ h => .ite (h.sendClose ..) h) _ h

theorem afterCmd (op : Nat) (p : Bytes) : Steady τ η s (afterCmd op p t) := .ite h.aside (.ite h.sleepBegin (.ite h.closeDoomed h))

theorem finishMbx (m : Nat) : Steady τ η s (finishMbx m t) := by
  unfold Machine.finishMbx
  split
  · exact .afterCmd (h.completeMbx ..) ..
  · exact h.completeMbx ..

theorem endBulk (i xid status detail : Nat) : Steady τ η s (endBulk i xid status detail t) := .sendSeq (h.setSess ..) ..

theorem resend (i : Nat) : Steady τ η s (resend i t) := .ite h (.errc (.foldl (fun _ _ h => h.frameOut ..) _ (h.setSess ..)) ..)

theorem takeover : Steady τ η s (takeover t) := by
  unfold Machine.takeover
  extract_lets +onlyGivenNames old1 rerun2 bulks3 after4 src5 s6 src7 s8 s9 s10 s11 src12 s13 s14 s15
  have hs6 : Steady τ η s s6 := h.aside
  have hs8 : Steady τ η s s8 := hs6.setBlk ..
  have hs9 : Steady τ η s s9 := .foldl (fun _ _ h => h.completeMbx ..) _ hs8
  have hs10 : Steady τ η s s10 := .foldl (fun _ _ h => .ite (h.resend ..) h) _ hs9
  have hs11 : Steady τ η s s11 := .foldl (fun _ _ h => h.endBulk ..) _ hs10
  have hs13 : Steady τ η s s13 := hs11.aside
  have hs14 : Steady τ η s s14 := hs13.raiseF ..
  have hs15 : Steady τ η s s15 := hs14.sendEvent ..
  exact .foldl (fun _ _ h => h.afterCmd ..) _ hs15

theorem blkCtl (c : Call) : Steady τ η s (blkCtl c t).s := by
  unfold Machine.blkCtl
  extract_lets +onlyGivenNames k op n i
  clear_value k
  refine .rows h ?_
  split
  · split
    · exact h.takeover.setBlk ..
    · split
      · exact h.clearUnit ..
      · refine .startQuiesce ?_ ..
        split
        · exact .ite (h.setPort ..) h
        · exact .ite (h.quiesceLink ..) h
        · exact h
  · split
    · split
      · exact h
      · refine .startQuiesce ?_ ..
        split
        · exact h.clrPortEn ..
        · exact h.clrLinkEn ..
        · exact h
    · extract_lets +onlyGivenNames s1
      have h1 : Steady τ η s s1 := h.setBlk ..
      dsimp only [okay, reply]
      split
      · exact h1.setPortEn ..
      · exact h1.setLinkEn ..
      · exact h1

theorem quiesceSet (c : Call) : Steady τ η s (quiesceSet c t).s := .rows h h.aside

theorem rstRemote (c : Call) : Steady τ η s (rstRemote c t).s := by
  unfold Machine.rstRemote
  extract_lets +onlyGivenNames n1
  refine .rows h ?_
  extract_lets +onlyGivenNames dest2
  split
  next x3 u4 heq =>
    have hu4 := Steady.ofPair heq (h.newTag ..)
    exact hu4.aside.enqueue ..

theorem releaseHeld (n : Nat) : Steady τ η s (releaseHeld n t) :=
  .pumpLink (.foldl (fun _ _ h => .takeFlit (h.giveBack ..) ..) _ (h.setLink ..)) ..

theorem shiftTimeouts (d : Nat) : Steady τ η s (shiftTimeouts d t) := h.aside

theorem fromReset (code unit detail : Nat) : Steady τ η s (fromReset code unit detail t) := h.raiseF ..

theorem bootRecords : Steady τ η s (bootRecords t) := by
  unfold Machine.bootRecords
  extract_lets +onlyGivenNames c1 s2 s3 s4
  have hs2 : Steady τ η s s2 := .ite (h.fromReset ..) h
  have hs3 : Steady τ η s s3 := .ite (hs2.fromReset ..) hs2
  have hs4 : Steady τ η s s4 := .ite (hs3.fromReset ..) hs3
  exact hs4.aside

theorem startFw (m : Mem) (slot : Option Nat) : Steady τ η s (startFw m slot t) :=
  .foldl (fun _ _ h => h.startLink ..) _ h.aside.bootRecords

theorem execFirmwareStart (sig : Nat) : ∃ u, execFirmwareStart sig t = .next u ∧ Steady τ η s u := by
  unfold Machine.execFirmwareStart
  refine ⟨_, rfl, ?_⟩
  split
  · exact h
  · extract_lets +onlyGivenNames tried1 good2 src3 s4
    have hs4 : Steady τ η s s4 := h.aside
    split
    · exact hs4.startFw ..
    · exact hs4.aside.raiseF ..

theorem fwLoad (c : Call) : Steady τ η s (fwLoad c t).s := .rows h h.aside

theorem fwInstall (c : Call) : Steady τ η s (fwInstall c t).s := by
  unfold Machine.fwInstall
  extract_lets +onlyGivenNames op1 m2 bad3
  refine .rows h ?_
  split
  · exact h
  · refine .rows h ?_
    split
    · exact h.startFw ..
    · exact h.aside

theorem fwConfirm (c : Call) : Steady τ η s (fwConfirm c t).s := .rows h h.aside

theorem attest (c : Call) : Steady τ η s (attest c t).s := .rows h h.draw

theorem certRead (c : Call) : Steady τ η s (certRead c t).s := .rows h h

theorem taAdd (c : Call) : Steady τ η s (taAdd c t).s := by
  unfold Machine.taAdd
  extract_lets +onlyGivenNames k1 n2
  refine .rows h ?_
  extract_lets +onlyGivenNames first3 s4
  have hs4 : Steady τ η s s4 := .foldl (fun _ _ h => .ite h (.ite (h.setSess ..) (.ite (h.setSess ..) h))) _ h
  exact hs4.aside

theorem taRemove (c : Call) : Steady τ η s (taRemove c t).s := by
  unfold Machine.taRemove
  extract_lets +onlyGivenNames k1
  refine .rows h ?_
  extract_lets +onlyGivenNames s2
  have hs2 : Steady τ η s s2 := .foldl (fun _ _ h => .ite (h.setSess ..) h) _ h
  exact hs2.aside

theorem lockDebug : Steady τ η s (lockDebug t) := h.aside

theorem unlockDebug (scopes : Nat) (exp : Option Nat) (free : Bool) : Steady τ η s (unlockDebug scopes exp free t) := h.aside.raiseF ..

theorem dbgChallenge (c : Call) : Steady τ η s (dbgChallenge c t).s := by
  unfold Machine.dbgChallenge
  refine .rows h ?_
  split
  next x1 u2 heq =>
    have hu2 := Steady.ofPair heq h.draw
    exact hu2.aside

theorem dbgUnlock (c : Call) : Steady τ η s (dbgUnlock c t).s := by
  unfold Machine.dbgUnlock
  extract_lets +onlyGivenNames n1
  split
  · exact .rows h (h.unlockDebug ..)
  · exact .rows h (.rows h.aside (h.aside.unlockDebug ..))

theorem execDebugExpiry : ∃ u, execDebugExpiry t = .next u ∧ Steady τ η s u := by
  unfold Machine.execDebugExpiry
  refine ⟨_, rfl, ?_⟩
  split
  · exact .ite h.lockDebug h
  · exact h

theorem readTj (l : List Nat) : Steady τ η s (readTj l t) := h.aside

theorem execThermalWarning (sensor temp : Nat) : ∃ u, execThermalWarning sensor temp t = .next u ∧ Steady τ η s u := by
  unfold Machine.execThermalWarning
  refine ⟨_, rfl, ?_⟩
  split
  · exact h
  · extract_lets +onlyGivenNames src1 s2
    have hs2 : Steady τ η s s2 := h.aside
    exact .ite hs2 (hs2.aside.raiseF ..)

theorem execThermalWarningClear (tj : List Nat) : ∃ u, execThermalWarningClear tj t = .next u ∧ Steady τ η s u := by
  unfold Machine.execThermalWarningClear
  refine ⟨_, rfl, ?_⟩
  split
  · exact h
  · extract_lets +onlyGivenNames s1
    have hs1 : Steady τ η s s1 := h.readTj ..
    exact hs1.aside

theorem execWorkingCapStep (tj : List Nat) : ∃ u, execWorkingCapStep tj t = .next u ∧ Steady τ η s u := by
  unfold Machine.execWorkingCapStep
  refine ⟨_, rfl, ?_⟩
  split
  · exact h
  · extract_lets +onlyGivenNames s1 w2 w'3
    have hs1 : Steady τ η s s1 := h.readTj ..
    exact hs1.aside

theorem damperStep (busy : Nat) : Steady τ η s (damperStep busy t) := by
  unfold Machine.damperStep
  split
  · exact h.aside
  · exact .ite h.aside (.ite h (h.aside.errc ..))

theorem damperUndo : Steady τ η s (damperUndo t) := by
  unfold Machine.damperUndo
  split
  · exact h
  · extract_lets +onlyGivenNames src1 s2
    have hs2 : Steady τ η s s2 := h.aside
    exact .ite hs2.aside hs2.aside

theorem measure (rails : List Nat) (mw : Nat) : Steady τ η s (measure rails mw t) := h.aside

theorem execDamperMeasure (rails : List Nat) (mw busy : Nat) : ∃ u, execDamperMeasure rails mw busy t = .next u ∧ Steady τ η s u := by
  unfold Machine.execDamperMeasure
  refine ⟨_, rfl, ?_⟩
  split
  · exact h
  · extract_lets +onlyGivenNames s1 a2
    have hs1 : Steady τ η s s1 := h.measure ..
    split
    · exact hs1.aside.damperStep ..
    · extract_lets +onlyGivenNames src3 s4
      have hs4 : Steady τ η s s4 := hs1.aside
      split
      · exact hs4.aside
      · split
        · exact hs4.aside
        · exact .ite hs4.damperUndo hs4

theorem pwrCap (c : Call) : Steady τ η s (pwrCap c t).s := .rows h h.aside

theorem pwrRead (c : Call) : Steady τ η s (pwrRead c t).s := .rows h h

theorem pwrState (c : Call) : Steady τ η s (pwrState c t).s := by
  unfold Machine.pwrState
  extract_lets +onlyGivenNames k m
  clear_value k
  refine .rows h ?_
  split
  · exact h.aside
  · extract_lets +onlyGivenNames s1
    have h1 : Steady τ η s s1 := .foldl (fun _ _ h => .ite (h.startQuiesce ..) h) _ h
    exact h1.aside
  · exact h.aside

theorem pgStage (c : Call) : Steady τ η s (pgStage c t).s := .rows h (h.onRound ..)

theorem pgSeal (c : Call) : Steady τ η s (pgSeal c t).s := by
  unfold Machine.pgSeal
  refine .rows h ?_
  split
  · exact h
  · split
    · exact h
    · split
      · exact h
      · exact h.setRound ..

theorem rcStage (c : Call) : Steady τ η s (rcStage c t).s := .rows h (h.onRound ..)

theorem rcDelete (c : Call) : Steady τ η s (rcDelete c t).s := .rows h (h.onRound ..)

theorem rcSeal (c : Call) : Steady τ η s (rcSeal c t).s := by
  unfold Machine.rcSeal
  refine .rows h ?_
  split
  · exact h
  · split
    · exact h
    · split
      · exact h
      · split
        · exact h
        · exact h.setRound ..

theorem tblRej (status : Nat) : Steady τ η s (tblRej status t).2 := h

theorem changeTables (o : Objs) : Steady τ η s (changeTables o t) := h.onRound ..

theorem tblPrefix (c : TblOp) : Steady τ η s (tblPrefix c t).2 := by
  unfold Machine.tblPrefix
  extract_lets +onlyGivenNames f1 w2 a3 o4 l5 k6
  split
  · exact h.tblRej ..
  · split
    · split
      · exact h.tblRej ..
      · exact h
    · exact .iteSnd (h.tblRej ..) (.onRound (h.changeTables ..) ..)
    · split
      · exact h.tblRej ..
      · exact .onRound (h.changeTables ..) ..
    · split
      · exact h.tblRej ..
      · exact h

theorem wroteExact (k : Nat) : Steady τ η s (wroteExact k t) := h.onRound ..

theorem tblExact (c : TblOp) : Steady τ η s (tblExact c t).2 := by
  unfold Machine.tblExact
  extract_lets +onlyGivenNames o1 k2 b3
  split
  · exact h.tblRej ..
  · split
    · exact h
    · exact .wroteExact (h.changeTables ..) ..
    · exact .wroteExact (h.changeTables ..) ..

theorem tblLearn (c : TblOp) : Steady τ η s (tblLearn c t).2 := by
  unfold Machine.tblLearn
  extract_lets +onlyGivenNames kb mac vlan b hit
  clear_value hit
  split
  · exact .iteSnd (h.tblRej ..) h
  · exact .iteSnd (h.tblRej ..) (h.setLearn (c.arg / 4) (c.arg % 4) (lentOf (le 16 c.data))).aside
  · split
    · exact h
    · exact h.tblRej ..
    · exact h.setLearn ..
  · exact .iteSnd (h.tblRej ..) (.iteSnd h (.perf (.perf (h.ageLearn ..) ..) ..))
  · split
    · exact h.tblRej ..
    · exact .iteSnd (h.setLearn ..) h

theorem dropFlow (d i : Nat) : Steady τ η s (dropFlow d i t) := h.aside

theorem tblFlow (c : TblOp) : Steady τ η s (tblFlow c t).2 := by
  unfold Machine.tblFlow
  extract_lets +onlyGivenNames x bucket tag hit
  clear_value hit
  split
  · exact .iteSnd (h.tblRej ..) h
  · extract_lets +onlyGivenNames r
    refine .iteSnd (h.tblRej ..) (.iteSnd (h.tblErr ..) (.iteSnd (h.setDie ..) ?_))
    exact (h.setDie c.die (putLine c.arg r true x)).aside
  · exact .iteSnd (h.tblRej ..) (.foldl (fun _ _ h => h.dropFlow ..) _ h)
  · split
    · exact h.tblRej ..
    · exact .iteSnd (h.dropFlow ..) h

theorem tblRun (c : TblOp) : Steady τ η s (tblRun c t).2 := by
  unfold Machine.tblRun
  refine .iteSnd (h.tblRej ..) (.iteSnd (h.tblRej ..) ?_)
  split
  · exact h.tblPrefix ..
  · exact h.tblExact ..
  · exact h.tblLearn ..
  · exact h.tblFlow ..

theorem tblWrite (u0 off v : Nat) : Steady τ η s (tblWrite u0 off v t) :=
  .ite (h.setTunit ..) (.ite (h.setTunit ..) (.ite (.ite (h.setTunit ..) (.setTunit (h.tblRun ..) ..)) (.ite (h.setTunit ..) (.ite
      (h.setTunit ..) (.ite (h.setTunit ..) h)))))

theorem tblComplete (u0 : Nat) : Steady τ η s (tblComplete u0 t) := by
  unfold Machine.tblComplete
  extract_lets +onlyGivenNames x1
  split
  · exact h.setTunit ..
  · exact h

theorem tblGo (op u0 v : Nat) : Steady τ η s (tblGo op u0 v t) := .ite (h.tblWrite ..) h

theorem tbPlanStage (c : Call) : Steady τ η s (tbPlanStage c t).s := .rows h (h.onRound ..)

theorem tbSeal (c : Call) : Steady τ η s (tbSeal c t).s := by
  unfold Machine.tbSeal
  refine .rows h ?_
  split
  · exact h
  · split
    · exact h
    · split
      · exact h
      · split
        · exact h
        · exact h.setRound ..

theorem regRead (acc off : Nat) : Steady τ η s (regRead acc off t).2 := by
  unfold Machine.regRead
  split
  · exact h.aside
  · exact h
  · exact h

theorem ctrClear (off : Nat) : Steady τ η s (ctrClear off t) := by
  unfold Machine.ctrClear
  split
  · exact h.aside
  · extract_lets +onlyGivenNames s1
    have hs1 : Steady τ η s s1 := h.aside
    split
    · exact hs1.aside
    · exact hs1
  · exact h

theorem clearDone (mask : Nat) : Steady τ η s (clearDone mask t) := h.aside

theorem ringMask (i mask : Nat) : Steady τ η s (ringMask i mask t) := .foldl (fun _ _ h => .ite (h.ringMbx ..) h) _ h

theorem spWrite (q v : Nat) : Steady τ η s (spWrite q v t) :=
  .ite h (.ite (.setPortEn (.setPort (h.setPortWidth ..) ..) ..) (.clrPortEn (.setPort (h.setPortWidth ..) ..) ..))

theorem clWrite (n off v : Nat) : Steady τ η s (clWrite n off v t) := by
  unfold Machine.clWrite
  extract_lets +onlyGivenNames x1
  split
  · exact .ite (.setLinkEn (h.setLink ..) ..) (.clrLinkEn (h.setLink ..) ..)
  · exact h.setLink ..
  · exact h

theorem accRead (acc off : Nat) : Steady τ η s (accRead acc off t).2 := by
  unfold Machine.accRead
  split
  · exact .iteSnd (h.regRead ..) h
  · exact h

theorem regReadCmd (c : Call) : Steady τ η s (regReadCmd c t).s := .rows h (.foldlSnd (z := ([], t)) (fun _ _ h => h.regRead ..) _ h)

theorem execSmbusRead (code : Nat) : ∃ u, execSmbusRead code t = .next u ∧ Steady τ η s u := by
  unfold Machine.execSmbusRead
  refine ⟨_, rfl, ?_⟩
  split
  · exact h
  · split
    · exact h.emit ..
    · split
      · exact h.emit ..
      · exact h

theorem scan (dr : Bytes) : Steady τ η s (scan dr t) := by
  unfold Machine.scan
  split
  next x1 u2 heq =>
    have hu2 := Steady.ofPair heq h.draw
    exact hu2.aside.emit ..

theorem discard : Steady τ η s (discard t) := h.errc ..

theorem authFail (i : Nat) : Steady τ η s (authFail i t) := .raise1s (.errc (h.setSess ..) ..) ..

theorem takeFack (i fack : Nat) : Steady τ η s (takeFack i fack t) := .pumpSess (.ite h (h.setSess ..)) ..

theorem authentic (f : BxFrame) : Steady τ η s (authentic f t).2 :=
  .iteSnd h (.iteSnd (h.errc ..) (.iteSnd (h.authFail ..) (.takeFack (h.setSess ..) ..)))

theorem rxPlain (f : BxFrame) : Steady τ η s (rxPlain f t) := h.authentic ..

theorem rxSeq {k : State → State} (f : BxFrame) (hf : ∀ u, Steady τ η s u → Steady τ η s (k u)) : Steady τ η s (rxSeq f k t) := by
  have ha := h.authentic f
  exact .ite ha (.ite (hf _ ha.aside) (.ite ha.aside ha.discard))

theorem mbxWrite (i : Nat) (b : Bytes) : Steady τ η s (mbxWrite i b t) :=
  .ite h.discard (.ite (.ite (h.ringMbx ..) (h.aside.errc ..)) (.ite (.ringMbx (h.setMbx ..) ..) (h.setMbx ..)))

theorem mbxRead (i : Nat) (b : Bytes) : Steady τ η s (mbxRead i b t) := .ite h.discard (h.sendResp ..)

theorem bulkWrite (i : Nat) (last : Bool) (b : Bytes) : Steady τ η s (bulkWrite i last b t) := by
  unfold Machine.bulkWrite
  extract_lets +onlyGivenNames xid1 a2 d3 old4
  split
  · exact h
  · split
    · exact h.endBulk ..
    · split
      · exact h.endBulk ..
      · exact .ite (h.endBulk ..) (.ite (h.endBulk ..) (.ite (.sendSeq (.setSess (h.hbmWrite ..) ..) ..) (.setSess (h.hbmWrite ..) ..)))

theorem bulkData (i : Nat) : Steady τ η s (bulkData i t) := by
  unfold Machine.bulkData
  extract_lets +onlyGivenNames x1
  split
  · exact h
  · extract_lets +onlyGivenNames n2
    split
    · exact .endBulk (h.poisonRead ..) ..
    · exact .txSeq (h.draw.setSess ..) ..

theorem pumpBulk (fuel i : Nat) : Steady τ η s (pumpBulk fuel i t) := by
  induction fuel generalizing t with
  | zero => exact h
  | succ k ih =>
    unfold Machine.pumpBulk
    exact .ite h (ih (h.bulkData ..))

theorem bulkRead (i : Nat) (b : Bytes) : Steady τ η s (bulkRead i b t) := by
  unfold Machine.bulkRead
  extract_lets +onlyGivenNames xid1 a2 n3 old4
  split
  · exact h
  · split
    · exact h.endBulk ..
    · split
      · exact h.endBulk ..
      · exact .ite (h.endBulk ..) (.pumpBulk (h.setSess ..) ..)

theorem keepOn (i p : Nat) : Steady τ η s (keepOn i p t) := .ite h (.ite (h.sendClose ..) (.setSess (h.emit ..) ..))

theorem execActivePortSwitch (sess : Nat) : ∃ u, execActivePortSwitch sess t = .next u ∧ Steady τ η s u := by
  unfold Machine.execActivePortSwitch
  refine ⟨_, rfl, ?_⟩
  extract_lets +onlyGivenNames x1
  split
  · exact h
  · extract_lets +onlyGivenNames p2 s3
    have hs3 : Steady τ η s s3 := h.setSess ..
    exact .ite hs3.aside hs3

theorem execEventFrameSend (sess : Nat) : ∃ u, execEventFrameSend sess t = .next u ∧ Steady τ η s u := by
  unfold Machine.execEventFrameSend
  refine ⟨_, rfl, ?_⟩
  extract_lets +onlyGivenNames x1
  split
  · exact h
  · exact .ite h (.perf (.txSeq (h.setSess ..) ..) ..)

theorem hsFail (p i status : Nat) : Steady τ η s (hsFail p i status t) := h.aside

theorem execHsInit (port : Nat) (body : Bytes) : ∃ u, execHsInit port body t = .next u ∧ Steady τ η s u := by
  unfold Machine.execHsInit
  refine ⟨_, rfl, ?_⟩
  split
  · exact h
  · extract_lets +onlyGivenNames x1 l2 s3
    have hs3 : Steady τ η s s3 := h.setBxPort ..
    split
    · exact hs3.hsFail ..
    · split
      · exact hs3.discard
      · split
        · exact hs3.hsFail ..
        · split
          · exact hs3.hsFail ..
          · split
            next x4 u5 heq =>
              have hu5 := Steady.ofPair heq hs3.draw
              exact hu5.aside.emit ..

theorem execHsFin (port sess : Nat) (body : Bytes) (peer : Nat) (cr : Crypto) : ∃ u, execHsFin port sess body peer cr t = .next u ∧
    Steady τ η s u := by
  unfold Machine.execHsFin
  refine ⟨_, rfl, ?_⟩
  split
  · exact h
  · split
    · exact h.discard
    · extract_lets +onlyGivenNames n1 mine2 src3 s4
      have hs4 : Steady τ η s s4 := h.aside
      exact .ite (.hsFail (hs4.errc ..) ..) (.ite (hs4.hsFail ..) (.sendPlain (hs4.aside.setSess ..) ..))

theorem cpStage (c : Call) : Steady τ η s (cpStage c t).s := .rows h (h.onRound ..)

theorem cpDelete (c : Call) : Steady τ η s (cpDelete c t).s := .rows h (h.onRound ..)

theorem cpSeal (c : Call) : Steady τ η s (cpSeal c t).s := by
  unfold Machine.cpSeal
  refine .rows h ?_
  split
  · exact h
  · split
    · exact h
    · split
      · exact h
      · split
        · exact h
        · exact h.setRound ..

theorem jobSubmit (c : Call) : Steady τ η s (jobSubmit c t).s := by
  unfold Machine.jobSubmit
  extract_lets +onlyGivenNames o inst stream budget
  clear_value inst
  refine .rows h ?_
  split
  · exact h
  · exact h.newWorkId.queueJob ..

theorem modelStage (c : Call) : Steady τ η s (modelStage c t).s := by
  unfold Machine.modelStage
  extract_lets +onlyGivenNames k1 n2 a3 len4 here5 whole6 h7 g8
  refine .rows h ?_
  split
  · exact h
  · split
    · exact h.poisonRead ..
    · exact .rows h (h.onRound ..)

theorem modelDelete (c : Call) : Steady τ η s (modelDelete c t).s := .rows h (h.onRound ..)

theorem scStage (c : Call) : Steady τ η s (scStage c t).s := .rows h (h.onRound ..)

theorem scSeal (c : Call) : Steady τ η s (scSeal c t).s := by
  unfold Machine.scSeal
  refine .rows h ?_
  split
  · exact h
  · split
    · exact h
    · split
      · exact h
      · exact h.setRound ..

theorem scCtl (c : Call) : Steady τ η s (scCtl c t).s := by
  unfold Machine.scCtl
  extract_lets +onlyGivenNames i op st x
  clear_value op
  refine .rows h ?_
  split
  · exact h
  · exact h.setCtx ..
  · exact h.setCtx ..
  · exact h.setCtx ..
  · exact h.setCtx ..

theorem coreBrkSet (c : Call) : Steady τ η s (coreBrkSet c t).s := .rows h (.foldl (fun _ _ h => h.setCore ..) _ h)

theorem coreCont (c : Call) : Steady τ η s (coreCont c t).s := .rows h (.settle (h.setCore ..) ..)

theorem coreStateRead (c : Call) : Steady τ η s (coreStateRead c t).s := .rows h h

theorem syncRead (c : Call) : Steady τ η s (syncRead c t).s := .rows h h

theorem syncTree (c : Call) : Steady τ η s (syncTree c t).s := by
  unfold Machine.syncTree
  extract_lets +onlyGivenNames r
  refine .rows h ?_
  split
  · exact h.setObj r _
  · exact h.setObj r _

theorem memPchRetire (c : Call) : Steady τ η s (memPchRetire c t).s := .rows h (h.retirePch ..)

theorem fltRingRead (c : Call) : Steady τ η s (fltRingRead c t).s := .rows h (.ite h.aside h)

theorem hello (c : Call) : Steady τ η s (hello c t).s := .rows h (.ite (h.setSess ..) h)

theorem evtCtl (c : Call) : Steady τ η s (evtCtl c t).s := .rows h (.ite (h.setSess ..) h)

theorem relayAnswer (t0 : InTag) : Steady τ η s (relayAnswer t0 t) := by
  unfold Machine.relayAnswer
  extract_lets +onlyGivenNames g1 chip2
  split
  · exact h
  · exact h.aside.endWait ..

theorem execWaitq (p : Nat) : ∃ u, execWaitq p t = .next u ∧ Steady τ η s u := by
  unfold Machine.execWaitq
  refine ⟨_, rfl, ?_⟩
  refine h.ctlStep (hf := fun x1 u2 hu2 => ?_) ..
  extract_lets +onlyGivenNames c3
  split
  · exact Steady.ofNone
  · refine .ofSome ?_
    exact hu2.setCore ..

theorem execRbegin (p : Nat) : ∃ u, execRbegin p t = .next u ∧ Steady τ η s u := by
  unfold Machine.execRbegin
  refine ⟨_, rfl, ?_⟩
  refine h.ctlStep (hf := fun x1 u2 hu2 => ?_) ..
  extract_lets +onlyGivenNames c3
  split
  · refine .ofSome ?_
    exact hu2.illegal ..
  · split
    · refine .ofSome ?_
      exact hu2.setCore ..
    · extract_lets +onlyGivenNames c4
      refine .ofSome ?_
      exact .coreLog (hu2.setCore ..) ..

theorem execRend (p : Nat) : ∃ u, execRend p t = .next u ∧ Steady τ η s u := by
  unfold Machine.execRend
  refine ⟨_, rfl, ?_⟩
  refine h.ctlStep (hf := fun x1 u2 hu2 => ?_) ..
  extract_lets +onlyGivenNames c3
  split
  · refine .ofSome ?_
    exact hu2.illegal ..
  · refine .ofSome ?_
    exact hu2.setCore ..

theorem execEndJob (p : Nat) : ∃ u, execEndJob p t = .next u ∧ Steady τ η s u := by
  unfold Machine.execEndJob
  refine ⟨_, rfl, ?_⟩
  refine h.ctlStep (hf := fun x1 u2 hu2 => ?_) ..
  extract_lets +onlyGivenNames c3
  split
  · refine .ofSome ?_
    exact hu2.illegal ..
  · split
    · exact Steady.ofNone
    · refine .ofSome ?_
      exact hu2.endRank ..

theorem execIssue (p : Nat) : ∃ u, execIssue p t = .next u ∧ Steady τ η s u := by
  unfold Machine.execIssue
  refine ⟨_, rfl, ?_⟩
  refine h.ctlStep (hf := fun x1 u2 hu2 => ?_) ..
  extract_lets +onlyGivenNames c3 t4
  split
  · refine .ofSome ?_
    exact hu2.illegal ..
  · split
    · refine .ofSome ?_
      exact hu2.illegal ..
    · split
      · refine .ofSome ?_
        exact hu2.illegal ..
      · split
        · exact Steady.ofNone
        · refine .ofSome ?_
          exact hu2.setCore ..

theorem execInstrRelease (p q : Nat) : ∃ u, execInstrRelease p q t = .next u ∧ Steady τ η s u := by
  unfold Machine.execInstrRelease
  refine ⟨_, rfl, ?_⟩
  extract_lets +onlyGivenNames c1
  split
  · exact h
  · exact .ite h (.brkMatch (.perf (h.setCore ..) ..) ..)

theorem utilDone (p : Nat) (e : EI) : Steady τ η s (utilDone p e t) := by
  unfold Machine.utilDone
  extract_lets +onlyGivenNames w1 lanes2 el3
  split
  · exact h.util ..
  · exact h.util ..
  · exact h.util ..
  · exact h.util ..
  · exact h.util ..
  · exact h.util ..
  · exact h.util ..
  · exact h

theorem execInstrComplete (p q : Nat) : ∃ u, execInstrComplete p q t = .next u ∧ Steady τ η s u := by
  unfold Machine.execInstrComplete
  refine ⟨_, rfl, ?_⟩
  extract_lets +onlyGivenNames c1
  split
  · exact h
  · exact .ite h (.settle (.utilDone (h.setCore ..) ..) ..)

theorem retireVec (p e : Nat) : Steady τ η s (retireVec p e t) := .ite (.retireCore (h.aside.coreFault ..) ..) (h.aside.coreFault ..)

theorem vecResidue (p q : Nat) (e : EI) : Steady τ η s (vecResidue p q e t) :=
  .failCheck (.doneEi (.ite (.retireVec (.coreFault (.channelEvent (h.ccErr ..) ..) ..) ..) (.coreFault (.channelEvent (h.ccErr ..) ..)
      ..)) ..) ..

theorem vecStep (p eng op : Nat) (r : Option Nat) (f : EI → Nat → Core → Core) : Steady τ η s (vecStep p eng op r f t) :=
  h.engStep (hf := fun _ _ h => .ite (.vecResidue (h.setCore ..) ..) (.doneEi (h.setCore ..) ..)) ..

theorem execVst (p eng : Nat) : ∃ u, execVst p eng t = .next u ∧ Steady τ η s u := by
  refine ⟨_, rfl, h.engStep _ _ _ _ fun e v hv => .aside (.useNar (.foldlFst (fun a g ha => ?_) _ hv) ..)⟩
  dsimp only
  split
  · exact ha.localWrite ..
  · exact ha

theorem addCheck (p : Nat) (d : QDesc) (sign : ℤ) (xs : List ℤ) : Steady τ η s (addCheck p d sign xs t) :=
  .foldl (fun _ _ h => h.localWrite ..) _ h

theorem execVquant (p eng : Nat) (r : Option Nat) : ∃ u, execVquant p eng r t = .next u ∧ Steady τ η s u := by
  refine ⟨_, rfl, h.engStep _ _ _ _ fun e v hv => ?_⟩
  extract_lets +onlyGivenNames w d n f
  refine .ite (hv.refuseEi ..) (.ite (hv.illegalEi ..) (.ite (hv.refuseEi ..) (.ite (hv.vecResidue ..) ?_)))
  extract_lets +onlyGivenNames n0
  split
  next v1 n1 e1 =>
  have h1 : Steady τ η s v1 := by
    refine .ofFst e1 ?_
    split
    · exact hv.addCheck ..
    · exact hv
  extract_lets +onlyGivenNames c
  split
  extract_lets +onlyGivenNames v2 v3 v4
  have h4 : Steady τ η s v4 := .localWrite (.localWrite (h1.localWrite ..) ..) ..
  split
  next v5 n5 e5 =>
  have h5 : Steady τ η s v5 := by
    refine .ofFst e5 ?_
    split
    · exact h4.addCheck ..
    · exact h4
  exact .aside (h5.useNar ..)

theorem verErr' (k : Nat) : Steady τ η s (verErr' k t) := h.errc ..

theorem commitCtx (old new : Objs) : Steady τ η s (commitCtx old new t) :=
  .foldl (fun _ _ h => h.ringChange ..) _ (.foldl (fun _ _ h => h.setCtx ..) _ (.foldl (fun _ _ h => h.setCtx ..) _ h))

theorem commitInsts (old new : Objs) (num : Nat) : Steady τ η s (commitInsts old new num t) := by
  unfold Machine.commitInsts
  refine .foldl (fun u1 _ hu1 => ?_) _ h
  extract_lets +onlyGivenNames k2 m3
  split
  · exact hu1
  · refine .foldl (fun u4 _ hu4 => ?_) _ hu1
    extract_lets +onlyGivenNames first5 fresh6
    split
    · exact .loadInst (hu4.setInst ..) ..
    · exact .ite (hu4.setInst ..) (.loadInst (hu4.setInst ..) ..)

theorem trainPorts : Steady τ η s (trainPorts t) := .foldl (fun _ _ h => .ite (h.startTraining ..) h) _ h

theorem commitRound (r : Round) (t0 : Nat) : Steady τ η s (commitRound r t0 t) :=
  .inlineRise (.ite (.trainPorts (.commitInsts (.commitCtx (h.aside.perf ..) ..) ..)) (.commitInsts (.commitCtx (h.aside.perf ..) ..) ..))

theorem execCommitInstant : ∃ u, execCommitInstant t = .next u ∧ Steady τ η s u := by
  unfold Machine.execCommitInstant
  refine ⟨_, rfl, ?_⟩
  split
  · exact h
  · split
    · exact h
    · split
      · exact h
      · extract_lets +onlyGivenNames j1
        split
        · exact h.commitRound ..
        · exact .raiseF (h.aside.verErr' ..) ..

theorem execVersionRetire : ∃ u, execVersionRetire t = .next u ∧ Steady τ η s u := by
  unfold Machine.execVersionRetire
  refine ⟨_, rfl, ?_⟩
  split
  · exact h
  · split
    · exact h
    · extract_lets +onlyGivenNames o1 live2 keeps3 s4
      have hs4 : Steady τ η s s4 := h.ringRetire ..
      exact hs4.aside

theorem tickIsland (t0 u0 i : Nat) : Steady τ η s (tickIsland t0 u0 i t) := .ite (h.perf ..) (h.perf ..)

theorem tickEngine (p n e : Nat) (st : EngState) : Steady τ η s (tickEngine p n e st t) := by
  unfold Machine.tickEngine
  split
  · exact h.util ..
  · exact h.util ..
  · exact .util (h.util ..) ..

theorem tickCore (k t0 u0 p : Nat) : Steady τ η s (tickCore k t0 u0 p t) :=
  .ite (h.perf ..) (.foldl (fun _ _ h => h.tickEngine ..) _ (.ite (.ite (.perf (.perf (h.aside.perf ..) ..) ..) (.perf (h.aside.perf ..)
      ..)) (.setCore (.ite (.perf (.perf (h.aside.perf ..) ..) ..) (.perf (h.aside.perf ..) ..)) ..)))

theorem tickUnit (t0 u0 k : Nat) : Steady τ η s (tickUnit t0 u0 k t) := .ite h (h.aside.perf ..)

theorem tickPort (t0 u0 q : Nat) : Steady τ η s (tickPort t0 u0 q t) := .ite (h.spPerf ..) h

theorem tickWhole (d : Nat) : Steady τ η s (tickWhole d t) :=
  .ite (.perf (.ite (.perf (.ite (h.perf ..) h) ..) (.ite (h.perf ..) h)) ..) (.ite (.perf (.ite (h.perf ..) h) ..) (.ite (h.perf ..) h))

theorem tickStandby (t0 u0 : Nat) : Steady τ η s (tickStandby t0 u0 t) := .ite h.aside h

end Functions

/-! ### Functions that may set the count or the state of the heave-to -/

theorem stepTo (h : Steady False η s t) (cnt : Nat) : Steady False η s (stepTo cnt t) := h.retimed

theorem chSet (h : Steady False η s t) (c : Call) : Steady False η s (chSet c t).s := by
  unfold Machine.chSet
  extract_lets +onlyGivenNames op1 v2 at_3
  refine .rows h ?_
  split
  · exact h.aside
  · extract_lets +onlyGivenNames s4
    have hs4 : Steady False η s s4 := h.stepTo ..
    exact hs4.aside

/-- The count is set and marked as valid (R394). -/
theorem stepTo_valid (h : Steady False η s t) (n : Nat) :
    Steady False η s (setCh { (Machine.stepTo n t).ch with valid := true } (Machine.stepTo n t)) := by
  have h1 := h.stepTo n
  exact h1.aside

theorem execChSetPpsEdge (h : Steady False η s t) : ∃ u, execChSetPpsEdge t = .next u ∧ Steady False η s u := by
  unfold Machine.execChSetPpsEdge
  refine ⟨_, rfl, ?_⟩
  split
  · exact h
  next w _ =>
    extract_lets +onlyGivenNames src s1
    have h1 : Steady False η s s1 := h.aside
    clear_value s1
    exact .ite (h1.endWait ..) (.endWait (h1.stepTo_valid _) ..)

theorem refCompare (h : Steady False η s t) (raw : ℤ) : Steady False η s (refCompare raw t) := by
  unfold Machine.refCompare
  split
  · exact h
  · extract_lets +onlyGivenNames first1 off2 src3 s4 s5
    have hs4 : Steady False η s s4 := h.aside
    have hs5 : Steady False η s s5 := .ite hs4 hs4.noteLock.newRate
    split
    · split
      · extract_lets +onlyGivenNames s6
        have hs6 : Steady False η s s6 := hs5.stepTo ..
        exact hs6.aside
      · exact .ite (hs5.holdover ..) (hs5.towardLock ..)
    · exact .ite (hs5.holdover ..) hs5
    · exact .ite hs5.aside hs5
    · exact hs5

theorem armHeave (h : Steady τ False s t) (num : Nat) (t0 : Nat) : Steady τ False s (armHeave num t0 t) := h.hove

theorem hvArm (h : Steady τ False s t) (c : Call) : Steady τ False s (hvArm c t).s := by
  unfold Machine.hvArm
  extract_lets +onlyGivenNames op num v
  clear_value op
  refine .rows h ?_
  dsimp only [okay, reply]
  split
  · exact h.armHeave ..
  · exact h.hove
  · exact h.hove

theorem heaveCtl (h : Steady τ False s t) (v : Nat) : Steady τ False s (heaveCtl v t) := by
  unfold Machine.heaveCtl
  extract_lets +onlyGivenNames s1 src2 s3
  have hs1 : Steady τ False s s1 := .ite (h.armHeave ..) h
  have hs3 : Steady τ False s s3 := .ite hs1.hove hs1
  exact .ite hs3.hove hs3

theorem heaveStop (h : Steady τ False s t) (num : Nat) (t0 : Nat) (byMarker : Bool) : Steady τ False s (heaveStop num t0 byMarker t) := by
  unfold Machine.heaveStop
  extract_lets +onlyGivenNames isl1 hl2 marks3 s4 src5 s6 s7
  have hs4 : Steady τ False s s4 := .foldl (fun _ _ h => h.logRec ..) _ h
  have hs6 : Steady τ False s s6 := hs4.hove
  have hs7 : Steady τ False s s7 := hs6.errc ..
  exact .foldl (fun _ _ h => h.sendMarker ..) _ hs7

theorem execTimeResp (h : Steady False η s t) (n : Nat) (flit : Bytes) : ∃ u, execTimeResp n flit t = .next u ∧ Steady False η s u := by
  unfold Machine.execTimeResp
  refine ⟨_, rfl, ?_⟩
  refine h.rxCtl (hf := fun u1 hu1 => ?_) ..
  extract_lets +onlyGivenNames x2
  split
  · exact hu1
  · exact .ite hu1 (.refCompare (hu1.setLink ..) ..)

theorem sysReset (h : Steady τ False s t) (por : Bool) : Steady τ False s (sysReset por t) :=
  h.trans ⟨rfl, fun _ => ⟨rfl, rfl⟩, fun _ => by cases por <;> rfl, False.elim⟩

theorem assertSrc1 (h : Steady τ False s t) (k : Nat) : Steady τ False s (assertSrc1 k t) := by
  unfold Machine.assertSrc1
  extract_lets +onlyGivenNames old1 new2 src3 s4 src5 s6 src7 s8
  have hs4 : Steady τ False s s4 := h.aside
  have hs6 : Steady τ False s s6 := .ite hs4.aside hs4
  have hs8 : Steady τ False s s8 := hs6.aside
  split
  · exact hs8
  · extract_lets +onlyGivenNames src9 s10
    have hs10 : Steady τ False s s10 := hs8.aside.countReset ..
    split
    · extract_lets +onlyGivenNames src11 s12
      have hs12 : Steady τ False s s12 := hs10.aside
      exact .ite hs12.aside hs12.coreReset
    · extract_lets +onlyGivenNames s13
      have hs13 : Steady τ False s s13 := hs10.sysReset ..
      exact .ite hs13.aside hs13

theorem leaveSleep (h : Steady τ False s t) : Steady τ False s (leaveSleep t) := h.aside.assertSrc1 ..

theorem sleepEnter (h : Steady τ False s t) : Steady τ False s (sleepEnter t) := by
  unfold Machine.sleepEnter
  extract_lets +onlyGivenNames c1 s2 src3 s4
  have hs2 : Steady τ False s s2 := h.sysReset ..
  have hs4 : Steady τ False s s4 := hs2.aside
  exact .ite hs4 hs4.leaveSleep

theorem sleepGate (h : Steady τ False s t) : Steady τ False s (sleepGate t) := .ite h.sleepEnter h

theorem assertSrc (h : Steady τ False s t) (k : Nat) : Steady τ False s (assertSrc k t) := .assertSrc1 (.ite h.leaveSleep h) ..

theorem execSupplyTrip (h : Steady τ False s t) (rail : Nat) : ∃ u, execSupplyTrip rail t = .next u ∧ Steady τ False s u := by
  unfold Machine.execSupplyTrip
  refine ⟨_, rfl, ?_⟩
  split
  · exact h
  · extract_lets +onlyGivenNames s1
    have hs1 : Steady τ False s s1 := h.assertSrc ..
    exact hs1.aside

theorem execRefclkLoss (h : Steady τ False s t) : ∃ u, execRefclkLoss t = .next u ∧ Steady τ False s u := by
  unfold Machine.execRefclkLoss
  refine ⟨_, rfl, ?_⟩
  extract_lets +onlyGivenNames s1
  have hs1 : Steady τ False s s1 := h.assertSrc ..
  exact hs1.aside

theorem execMbxSysAssert (h : Steady τ False s t) : ∃ u, execMbxSysAssert t = .next u ∧ Steady τ False s u := by
  unfold Machine.execMbxSysAssert
  refine ⟨_, rfl, ?_⟩
  split
  · exact .ite (h.assertSrc ..) h
  · exact h

theorem execRemoteResetRequest (h : Steady τ False s t) (i : Nat) : ∃ u, execRemoteResetRequest i t = .next u ∧ Steady τ False s u := by
  unfold Machine.execRemoteResetRequest
  refine ⟨_, rfl, ?_⟩
  split
  · exact h
  next x1 u2 heq =>
    have hu2 := h.takeIn heq
    exact .ite (hu2.assertSrc ..) hu2

theorem wakeFire (h : Steady τ False s t) (b : Nat) : Steady τ False s (wakeFire b t) := .ite (.ite h.aside.leaveSleep h.aside) h

theorem stopActive (h : Steady τ False s t) : Steady τ False s (stopActive t) := .ite h.aside (h.assertSrc ..)

theorem rst (h : Steady τ False s t) (c : Call) : Steady τ False s (rst c t).s := by
  unfold Machine.rst
  extract_lets +onlyGivenNames l1
  refine .rows h ?_
  split
  · exact h
  · exact h.aside.assertSrc ..

theorem execHeaveToMarker (h : Steady τ False s t) (n : Nat) : ∃ u, execHeaveToMarker n t = .next u ∧ Steady τ False s u := by
  unfold Machine.execHeaveToMarker
  refine ⟨_, rfl, ?_⟩
  split
  · exact h
  · extract_lets +onlyGivenNames src s1 close
    have h1 : Steady τ False s s1 := h.setLink ..
    refine .ite h1.aside (.ite (h1.releaseHeld ..) ?_)
    exact (h1.heaveStop ..).aside

theorem resume (h : Steady τ False s t) : Steady τ False s (resume t) := by
  unfold Machine.resume
  extract_lets +onlyGivenNames d1 src2 s3 src4 s5 s6 s7 s8 s9
  have hs3 : Steady τ False s s3 := h.hove
  have hs5 : Steady τ False s s5 := .ite hs3.aside.coreReset.coresLeft hs3
  have hs6 : Steady τ False s s6 := hs5.shiftTimeouts ..
  have hs7 : Steady τ False s s7 := .foldl (fun _ _ h => .ite h (h.loseVerdicts ..)) _ hs6
  have hs8 : Steady τ False s s8 := .foldl (fun _ _ h => h.takeHeld ..) _ hs7
  have hs9 : Steady τ False s s9 := .foldl (fun _ _ h => h.releaseHeld ..) _ hs8
  exact hs9.inlineRise

theorem alarmFire (h : Steady τ False s t) (n : Nat) : Steady τ False s (alarmFire n t) :=
  .ite h (.wakeFire (.ite (h.aside.sendEvent ..) h.aside) ..)

theorem cwWrite (h : Steady τ False s t) (acc : Nat) (off : Nat) (v : Nat) : Steady τ False s (cwWrite acc off v t) := by
  unfold Machine.cwWrite
  split
  · exact h.aside
  · exact h.aside
  · exact h.aside
  · exact .ite h.aside h
  · exact .ite h.aside h
  · exact .ite (h.heaveCtl ..) h
  · exact .ite h.lockDebug h
  · exact .ite (h.ringMask ..) h
  · exact h.clearDone ..
  · exact h.aside
  · exact h

theorem chWrite (h : Steady τ False s t) (off : Nat) (v : Nat) : Steady τ False s (chWrite off v t) := by
  unfold Machine.chWrite
  extract_lets +onlyGivenNames s1 c2
  have hs1 : Steady τ False s s1 := .ite (h.alarmFire ..) h
  split
  · exact hs1.aside
  · exact hs1.aside
  · exact hs1.aside
  · exact .ite hs1.aside hs1

theorem regWrite (h : Steady τ False s t) (acc : Nat) (off : Nat) (v : Nat) : Steady τ False s (regWrite acc off v t) := by
  unfold Machine.regWrite
  split
  · exact h.aside
  · exact .ite (h.ctrClear ..) h
  · exact .ite h (.ite (h.cwWrite ..) (.ite (h.tblWrite ..) (.ite (.ite (h.spWrite ..) h) (.ite h.aside (.ite h.aside (.ite (h.clWrite
      ..) (.ite (h.chWrite ..) (.ite h.aside h))))))))

theorem accWrite (h : Steady τ False s t) (acc : Nat) (off : Nat) (v : Nat) : Steady τ False s (accWrite acc off v t) := by
  unfold Machine.accWrite
  split
  · exact .ite (h.regWrite ..) h
  · exact h

theorem regWriteCmd (h : Steady τ False s t) (c : Call) : Steady τ False s (regWriteCmd c t).s :=
  .rows h (.foldl (fun _ _ h => h.regWrite ..) _ h)

theorem execJtagInstruction (h : Steady τ False s t) (op : JtagOp) (dr : Bytes) (hop : op ≠ .vendor) :
    ∃ u, execJtagInstruction op dr t = .next u ∧ Steady τ False s u := by
  unfold Machine.execJtagInstruction
  split
  · exact ⟨_, rfl, h⟩
  · extract_lets +onlyGivenNames src s1
    have h1 : Steady τ False s s1 := h.aside
    cases op with
    | vendor => exact absurd rfl hop
    | bypass => exact ⟨_, rfl, h1.emit ..⟩
    | idcode => exact ⟨_, rfl, h1.emit ..⟩
    | samplePreload => exact ⟨_, rfl, h1.scan ..⟩
    | ac => exact ⟨_, rfl, h1.scan ..⟩
    | extest => exact ⟨_, rfl, h1.scan ..⟩
    | extestPulse => exact ⟨_, rfl, h1.scan ..⟩
    | extestTrain => exact ⟨_, rfl, h1.scan ..⟩
    | access off v =>
      cases v with
      | none => exact ⟨_, rfl, .emit (h1.accRead ..) ..⟩
      | some v => exact ⟨_, rfl, h1.accWrite ..⟩

theorem execPtpMessage (h : Steady False η s t) (port : Nat) (m : PtpMsg) : ∃ u, execPtpMessage port m t = .next u ∧ Steady False η s u
    := by
  have hsync : Steady False η s
      (if followed t ≠ some m.src then t
      else
        let ask := if t.ch.profile = 1 then PtpKind.pdelayReq else .delayReq
        let t := if m.kind = .sync then Machine.emit (.ptp port ask) t else t
        match m.off with
        | some o => if servoUp t then Machine.refCompare o t else t
        | none => t) := by
    refine .ite h ?_
    extract_lets +onlyGivenNames ask s1
    have h1 : Steady False η s s1 := .ite (h.emit ..) h
    split
    · exact .ite (h1.refCompare ..) h1
    · exact h1
  unfold Machine.execPtpMessage
  refine ⟨_, rfl, .ite h (.ite h.discard ?_)⟩
  split
  · exact .emit (h.emit ..) ..
  · split
    · exact h.aside
    · exact h
  · exact hsync
  · exact hsync
  · exact h

theorem handlerOf (h : Steady False False s t) (op : Nat) (c : Call) : Steady False False s (handlerOf op c t).s := by
  unfold Machine.handlerOf
  split
  · exact h.hello ..
  · exact h.regReadCmd ..
  · exact h.regWriteCmd ..
  · exact h.evtCtl ..
  · exact h.dlcStage ..
  · exact h.pgStage ..
  · exact h.pgSeal ..
  · exact h.rcStage ..
  · exact h.rcSeal ..
  · exact h.rcDelete ..
  · exact h.tbPlanStage ..
  · exact h.tbSeal ..
  · exact h.cpStage ..
  · exact h.cpSeal ..
  · exact h.cpDelete ..
  · exact h.jobSubmit ..
  · exact h.modelStage ..
  · exact h.modelDelete ..
  · exact h.coreBrkSet ..
  · exact h.coreCont ..
  · exact h.coreStateRead ..
  · exact h.scStage ..
  · exact h.scSeal ..
  · exact h.scCtl ..
  · exact h.syncRead ..
  · exact h.syncTree ..
  · exact h.memPchRetire ..
  · exact h.chSource ..
  · exact h.chSet ..
  · exact h.pwrState ..
  · exact h.clChipId ..
  · exact h.clRouteSet ..
  · exact h.clUnretire ..
  · exact h.clRelay ..
  · exact h.verOpen ..
  · exact h.verAbort ..
  · exact h.commitAt ..
  · exact h.verStatus ..
  · exact h.verCtl ..
  · exact h.rst ..
  · exact h.blkCtl ..
  · exact h.quiesceSet ..
  · exact h.rstRemote ..
  · exact h.taAdd ..
  · exact h.taRemove ..
  · exact h.attest ..
  · exact h.certRead ..
  · exact h.dbgChallenge ..
  · exact h.dbgUnlock ..
  · exact h.fwLoad ..
  · exact h.fwInstall ..
  · exact h.fwConfirm ..
  · exact h.fltThreshStage ..
  · exact h.fltRingRead ..
  · exact h.obsCoreRead ..
  · exact h.logCtl ..
  · exact h.dumpArm ..
  · exact h.hvArm ..
  · exact h.hvRead ..
  · exact h.pwrCap ..
  · exact h.pwrRead ..
  · exact h

theorem execMbxStart (h : Steady False False s t) (m : Nat) (cr : Crypto) : ∃ u, execMbxStart m cr t = .next u ∧ Steady False False s u
    := by
  unfold Machine.execMbxStart
  refine ⟨_, rfl, ?_⟩
  split
  · exact .ite (h.startMbx (hf := fun _ _ h => h.handlerOf ..) ..) h
  · exact h

theorem runInner (h : Steady False False s t) (t0 : InTag) (cr : Crypto) : Steady False False s (runInner t0 cr t) := by
  unfold Machine.runInner
  extract_lets +onlyGivenNames q1 g2 id3 who4 src5 s6 anchored7 ver8
  have hs6 : Steady False False s s6 := h.aside
  split
  · exact hs6.endWait ..
  · exact .ite (hs6.handlerOf ..) (.ite (.afterCmd (.endWait (hs6.handlerOf ..) ..) ..) (.endWait (hs6.handlerOf ..) ..))

theorem execControlFrame (h : Steady False False s t) (i : Nat) (cr : Crypto) : ∃ u, execControlFrame i cr t = .next u ∧ Steady False
    False s u := by
  unfold Machine.execControlFrame
  refine ⟨_, rfl, ?_⟩
  split
  · exact h
  · split
    · exact h
    next x1 u2 heq =>
      have hu2 := h.takeIn heq
      exact .ite (hu2.relayAnswer ..) (.ite h (hu2.runInner ..))

theorem tickTime (h : Steady False η s t) : Steady False η s (tickTime t) := .ite h.retimed h

end Steady

/-! ### The time clock (R376) -/

/-- A tick, once its instant has come, keeps the queue, the memories' form and the count. -/
theorem tick_steady {τ : Prop} (s : State) : Steady τ False (tickTime s) (tick s) := by
  have h : Steady τ False (tickTime s) (tickTime s) := .refl _
  unfold tick
  extract_lets +onlyGivenNames t s0 u
  split
  · exact h
  · split
    next k s1 heq =>
    have h1 : Steady τ False s0 s1 := .ofPair heq h.draw
    extract_lets +onlyGivenNames s2 s3 s4 s5 e s6
    have h2 : Steady τ False s0 s2 := .foldl (fun _ _ h => h.tickCore ..) _ h1
    have h3 : Steady τ False s0 s3 := .foldl (fun _ _ h => h.tickIsland ..) _ h2
    have h4 : Steady τ False s0 s4 := .foldl (fun _ _ h => h.tickUnit ..) _ h3
    have h5 : Steady τ False s0 s5 := .foldl (fun _ _ h => h.tickPort ..) _ h4
    have h6 : Steady τ False s0 s6 := .ite h5.countSelf h5
    exact .sleepGate (.inlineRise (.tickStandby (.tickWhole (h6.endCycle ..) ..) ..))

/-! ### Every command (95) -/

/-- Every command but the vendor's test logic answers a next state with the queue and the memories' form it was given. -/
theorem exec_steady {c : Instr} (hc : refusable c = false) (s : State) : ∃ u, exec c s = .next u ∧ Steady False False s u := by
  have h : Steady False False s s := .refl s
  cases c with
  | hello _ => exact ⟨_, rfl, h.mbxRow (hf := fun _ _ h => h.hello ..) ..⟩
  | regRead _ => exact ⟨_, rfl, h.mbxRow (hf := fun _ _ h => h.regReadCmd ..) ..⟩
  | regWrite _ => exact ⟨_, rfl, h.mbxRow (hf := fun _ _ h => h.regWriteCmd ..) ..⟩
  | evtCtl _ => exact ⟨_, rfl, h.mbxRow (hf := fun _ _ h => h.evtCtl ..) ..⟩
  | dlcStage _ => exact ⟨_, rfl, h.mbxRow (hf := fun _ _ h => h.dlcStage ..) ..⟩
  | pgStage _ => exact ⟨_, rfl, h.mbxRow (hf := fun _ _ h => h.pgStage ..) ..⟩
  | pgSeal _ => exact ⟨_, rfl, h.mbxRow (hf := fun _ _ h => h.pgSeal ..) ..⟩
  | rcStage _ => exact ⟨_, rfl, h.mbxRow (hf := fun _ _ h => h.rcStage ..) ..⟩
  | rcDelete _ => exact ⟨_, rfl, h.mbxRow (hf := fun _ _ h => h.rcDelete ..) ..⟩
  | rcSeal _ => exact ⟨_, rfl, h.mbxRow (hf := fun _ _ h => h.rcSeal ..) ..⟩
  | tbPlanStage _ => exact ⟨_, rfl, h.mbxRow (hf := fun _ _ h => h.tbPlanStage ..) ..⟩
  | tbSeal _ => exact ⟨_, rfl, h.mbxRow (hf := fun _ _ h => h.tbSeal ..) ..⟩
  | cpStage _ => exact ⟨_, rfl, h.mbxRow (hf := fun _ _ h => h.cpStage ..) ..⟩
  | cpDelete _ => exact ⟨_, rfl, h.mbxRow (hf := fun _ _ h => h.cpDelete ..) ..⟩
  | cpSeal _ => exact ⟨_, rfl, h.mbxRow (hf := fun _ _ h => h.cpSeal ..) ..⟩
  | jobSubmit _ => exact ⟨_, rfl, h.mbxRow (hf := fun _ _ h => h.jobSubmit ..) ..⟩
  | modelStage _ => exact ⟨_, rfl, h.mbxRow (hf := fun _ _ h => h.modelStage ..) ..⟩
  | modelDelete _ => exact ⟨_, rfl, h.mbxRow (hf := fun _ _ h => h.modelDelete ..) ..⟩
  | coreBrkSet _ => exact ⟨_, rfl, h.mbxRow (hf := fun _ _ h => h.coreBrkSet ..) ..⟩
  | coreCont _ => exact ⟨_, rfl, h.mbxRow (hf := fun _ _ h => h.coreCont ..) ..⟩
  | coreStateRead _ => exact ⟨_, rfl, h.mbxRow (hf := fun _ _ h => h.coreStateRead ..) ..⟩
  | scStage _ => exact ⟨_, rfl, h.mbxRow (hf := fun _ _ h => h.scStage ..) ..⟩
  | scSeal _ => exact ⟨_, rfl, h.mbxRow (hf := fun _ _ h => h.scSeal ..) ..⟩
  | scCtl _ => exact ⟨_, rfl, h.mbxRow (hf := fun _ _ h => h.scCtl ..) ..⟩
  | syncRead _ => exact ⟨_, rfl, h.mbxRow (hf := fun _ _ h => h.syncRead ..) ..⟩
  | syncTree _ => exact ⟨_, rfl, h.mbxRow (hf := fun _ _ h => h.syncTree ..) ..⟩
  | memPchRetire _ => exact ⟨_, rfl, h.mbxRow (hf := fun _ _ h => h.memPchRetire ..) ..⟩
  | chSource _ => exact ⟨_, rfl, h.mbxRow (hf := fun _ _ h => h.chSource ..) ..⟩
  | chSet _ => exact ⟨_, rfl, h.mbxRow (hf := fun _ _ h => h.chSet ..) ..⟩
  | pwrState _ => exact ⟨_, rfl, h.mbxRow (hf := fun _ _ h => h.pwrState ..) ..⟩
  | clChipId _ => exact ⟨_, rfl, h.mbxRow (hf := fun _ _ h => h.clChipId ..) ..⟩
  | clRouteSet _ => exact ⟨_, rfl, h.mbxRow (hf := fun _ _ h => h.clRouteSet ..) ..⟩
  | clUnretire _ => exact ⟨_, rfl, h.mbxRow (hf := fun _ _ h => h.clUnretire ..) ..⟩
  | clRelay _ => exact ⟨_, rfl, h.mbxRow (hf := fun _ _ h => h.clRelay ..) ..⟩
  | verOpen _ => exact ⟨_, rfl, h.mbxRow (hf := fun _ _ h => h.verOpen ..) ..⟩
  | verAbort _ => exact ⟨_, rfl, h.mbxRow (hf := fun _ _ h => h.verAbort ..) ..⟩
  | commitAt _ => exact ⟨_, rfl, h.mbxRow (hf := fun _ _ h => h.commitAt ..) ..⟩
  | verStatus _ => exact ⟨_, rfl, h.mbxRow (hf := fun _ _ h => h.verStatus ..) ..⟩
  | verCtl _ => exact ⟨_, rfl, h.mbxRow (hf := fun _ _ h => h.verCtl ..) ..⟩
  | rst _ => exact ⟨_, rfl, h.mbxRow (hf := fun _ _ h => h.rst ..) ..⟩
  | blkCtl _ => exact ⟨_, rfl, h.mbxRow (hf := fun _ _ h => h.blkCtl ..) ..⟩
  | quiesceSet _ => exact ⟨_, rfl, h.mbxRow (hf := fun _ _ h => h.quiesceSet ..) ..⟩
  | rstRemote _ => exact ⟨_, rfl, h.mbxRow (hf := fun _ _ h => h.rstRemote ..) ..⟩
  | taAdd _ => exact ⟨_, rfl, h.mbxRow (hf := fun _ _ h => h.taAdd ..) ..⟩
  | taRemove _ => exact ⟨_, rfl, h.mbxRow (hf := fun _ _ h => h.taRemove ..) ..⟩
  | attest _ => exact ⟨_, rfl, h.mbxRow (hf := fun _ _ h => h.attest ..) ..⟩
  | certRead _ => exact ⟨_, rfl, h.mbxRow (hf := fun _ _ h => h.certRead ..) ..⟩
  | dbgChallenge _ => exact ⟨_, rfl, h.mbxRow (hf := fun _ _ h => h.dbgChallenge ..) ..⟩
  | dbgUnlock _ => exact ⟨_, rfl, h.mbxRow (hf := fun _ _ h => h.dbgUnlock ..) ..⟩
  | fwLoad _ => exact ⟨_, rfl, h.mbxRow (hf := fun _ _ h => h.fwLoad ..) ..⟩
  | fwInstall _ => exact ⟨_, rfl, h.mbxRow (hf := fun _ _ h => h.fwInstall ..) ..⟩
  | fwConfirm _ => exact ⟨_, rfl, h.mbxRow (hf := fun _ _ h => h.fwConfirm ..) ..⟩
  | fltThreshStage _ => exact ⟨_, rfl, h.mbxRow (hf := fun _ _ h => h.fltThreshStage ..) ..⟩
  | fltRingRead _ => exact ⟨_, rfl, h.mbxRow (hf := fun _ _ h => h.fltRingRead ..) ..⟩
  | obsCoreRead _ => exact ⟨_, rfl, h.mbxRow (hf := fun _ _ h => h.obsCoreRead ..) ..⟩
  | logCtl _ => exact ⟨_, rfl, h.mbxRow (hf := fun _ _ h => h.logCtl ..) ..⟩
  | dumpArm _ => exact ⟨_, rfl, h.mbxRow (hf := fun _ _ h => h.dumpArm ..) ..⟩
  | hvArm _ => exact ⟨_, rfl, h.mbxRow (hf := fun _ _ h => h.hvArm ..) ..⟩
  | hvRead _ => exact ⟨_, rfl, h.mbxRow (hf := fun _ _ h => h.hvRead ..) ..⟩
  | pwrCap _ => exact ⟨_, rfl, h.mbxRow (hf := fun _ _ h => h.pwrCap ..) ..⟩
  | pwrRead _ => exact ⟨_, rfl, h.mbxRow (hf := fun _ _ h => h.pwrRead ..) ..⟩
  | tblRead _ _ => exact ⟨_, rfl, h.tblGo ..⟩
  | tblWrite _ _ => exact ⟨_, rfl, h.tblGo ..⟩
  | tblInsert _ _ => exact ⟨_, rfl, h.tblGo ..⟩
  | tblDelete _ _ => exact ⟨_, rfl, h.tblGo ..⟩
  | tblSearch _ _ => exact ⟨_, rfl, h.tblGo ..⟩
  | tblAgeScan _ _ => exact ⟨_, rfl, h.tblGo ..⟩
  | tblCmdComplete _ => exact ⟨_, rfl, .ite h (h.tblComplete ..)⟩
  | tblRegCollide _ _ _ => exact ⟨_, rfl, .ite (h.tblWrite ..) h⟩
  | cwMbxDbRing _ _ => exact ⟨_, rfl, .ite (h.ringMask ..) h⟩
  | cwMbxDoneClear _ => exact ⟨_, rfl, .ite (h.clearDone ..) h⟩
  | heaveCtlArm => exact ⟨_, rfl, .ite (h.heaveCtl ..) h⟩
  | heaveCtlResume => exact ⟨_, rfl, .ite (h.heaveCtl ..) h⟩
  | heaveCtlCancel => exact ⟨_, rfl, .ite (h.heaveCtl ..) h⟩
  | cwDbgLock => exact ⟨_, rfl, .ite h.lockDebug h⟩
  | spPortEnable _ => exact ⟨_, rfl, .ite (h.setPortEn ..) h⟩
  | spPortDisable _ => exact ⟨_, rfl, .ite (h.clrPortEn ..) h⟩
  | spPortWidthSet _ _ => exact ⟨_, rfl, .ite (h.setPortWidth ..) h⟩
  | clLinkEnable _ => exact ⟨_, rfl, .ite (h.setLinkEn ..) h⟩
  | clLinkDisable _ => exact ⟨_, rfl, .ite (h.clrLinkEn ..) h⟩
  | counterClear _ => exact ⟨_, rfl, .ite h (h.ctrClear ..)⟩
  | lowWordReadLatch _ _ => exact ⟨_, rfl, .ite (h.accRead ..) h⟩
  | registerWrite _ _ _ => exact ⟨_, rfl, .ite (h.accWrite ..) h⟩
  | mbxStart _ _ => exact h.execMbxStart ..
  | mbxComplete _ => exact ⟨_, rfl, .ite (h.finishMbx ..) h⟩
  | hsInit _ _ => exact h.execHsInit ..
  | hsFin _ _ _ _ _ => exact h.execHsFin ..
  | mbxWrite _ => exact ⟨_, rfl, h.rxSeq (hf := fun _ h => h.mbxWrite ..) ..⟩
  | mbxRead _ => exact ⟨_, rfl, h.rxSeq (hf := fun _ h => h.mbxRead ..) ..⟩
  | bulkWrite _ => exact ⟨_, rfl, .ite h (h.rxSeq (hf := fun _ h => h.bulkWrite ..) ..)⟩
  | bulkRead _ => exact ⟨_, rfl, h.rxSeq (hf := fun _ h => h.bulkRead ..) ..⟩
  | bxAck _ => exact ⟨_, rfl, .pumpBulk (h.rxPlain ..) ..⟩
  | keepalive _ => exact ⟨_, rfl, .pumpBulk (h.rxPlain ..) ..⟩
  | close _ => exact ⟨_, rfl, h.rxSeq (hf := fun _ h => .closeSess (h.sendPlain ..) ..) ..⟩
  | ptpMessage _ _ => exact h.execPtpMessage ..
  | bxRetxTimeout _ => exact ⟨_, rfl, .ite (h.resend ..) h⟩
  | bxAckSend _ => exact ⟨_, rfl, .ite (h.sendPlain ..) h⟩
  | keepaliveSend => exact ⟨_, rfl, .ite h (.foldl (fun _ _ h => .ite h (.keepOn (.keepOn (h.setSess ..) ..) ..)) _ h)⟩
  | sessionIdleTimeout _ => exact ⟨_, rfl, .ite (h.sendClose ..) h⟩
  | handshakeTimeout _ => exact ⟨_, rfl, h.aside⟩
  | activePortSwitch _ => exact h.execActivePortSwitch ..
  | eventFrameSend _ => exact h.execEventFrameSend ..
  | helmTakeover => exact ⟨_, rfl, .ite h.takeover h⟩
  | helmLockstepStop _ => exact ⟨_, rfl, .ite h (.ite h.stopActive h.aside)⟩
  | sliceArrival _ _ => exact ⟨_, rfl, h.wordsIn ..⟩
  | resync _ _ => exact ⟨_, rfl, h.ctlIn ..⟩
  | spCredit _ _ => exact ⟨_, rfl, h.ctlIn ..⟩
  | spTrain _ _ => exact ⟨_, rfl, h.ctlIn ..⟩
  | spTrainTimeout _ => exact ⟨_, rfl, .ite (h.trainFail ..) h⟩
  | spTrainRetry _ => exact h.execSpTrainRetry ..
  | spLockLoss _ => exact ⟨_, rfl, .ite (h.portDown ..) h⟩
  | spTimeSend => exact ⟨_, rfl, .ite h (.foldl (fun _ _ h => h.sendTime ..) _ h)⟩
  | parseWalk _ _ => exact ⟨_, rfl, .ite h (h.parseWalk ..)⟩
  | sliceLookup _ _ _ => exact h.execSliceLookup ..
  | learnEventForward _ => exact h.execLearnEventForward ..
  | learnAgeSweep _ => exact h.execLearnAgeSweep ..
  | flowFetchReturn _ _ _ _ => exact ⟨_, rfl, .ite h (h.fetchReturn ..)⟩
  | tableRepair _ _ _ => exact ⟨_, rfl, .ite h (h.tableRepair ..)⟩
  | compassBlockEval _ _ _ _ => exact h.execCompassBlockEval ..
  | verdictCompose _ _ _ => exact h.execVerdictCompose ..
  | fallbackInstant _ => exact ⟨_, rfl, .ite h (.setPort (h.fallbackRule ..) ..)⟩
  | verdictWordSend _ => exact ⟨_, rfl, .ite h (h.sendVerdicts ..)⟩
  | resultFrameSend _ => exact ⟨_, rfl, .ite h (.foldl (fun _ _ h => h.emit ..) _ (h.setPort ..))⟩
  | recordAppend _ => exact h.execRecordAppend ..
  | cadenceTick _ => exact h.execCadenceTick ..
  | jobArrive _ => exact h.execJobArrive ..
  | jobStart _ => exact h.execJobStart ..
  | contextSave _ => exact h.execContextSave ..
  | jobResume _ _ => exact h.execJobResume ..
  | jobComplete _ => exact h.execJobComplete ..
  | resultRoute _ => exact h.execResultRoute ..
  | returnArrive _ => exact h.execReturnArrive ..
  | nop _ => exact ⟨_, rfl, h.ctlPure ..⟩
  | issue _ => exact h.execIssue ..
  | setk _ => exact ⟨_, rfl, h.ctlPure ..⟩
  | addk _ => exact ⟨_, rfl, h.ctlPure ..⟩
  | alu _ => exact ⟨_, rfl, h.ctlPure ..⟩
  | br _ => exact ⟨_, rfl, h.ctlStep (hf := fun _ _ h => Steady.ofSome (h.setCore ..)) ..⟩
  | loopK _ => exact ⟨_, rfl, h.ctlStep (hf := fun _ _ h => Steady.ofSome (h.setCore ..)) ..⟩
  | rbegin _ => exact h.execRbegin ..
  | rend _ => exact h.execRend ..
  | psafe _ => exact ⟨_, rfl, h.ctlStep (hf := fun _ _ h => Steady.ofSome (h.setCore ..)) ..⟩
  | stepi _ => exact ⟨_, rfl, h.ctlStep (hf := fun _ _ h => Steady.ofSome (.brkMatch (h.setCore ..) ..)) ..⟩
  | waitq _ => exact h.execWaitq ..
  | getj _ => exact ⟨_, rfl, h.ctlStep (hf := fun _ _ h => Steady.ofSome (h.setCore ..)) ..⟩
  | endJob _ => exact h.execEndJob ..
  | brk _ => exact ⟨_, rfl, h.ctlStep (hf := fun _ _ h => Steady.ofSome (h.setCore ..)) ..⟩
  | instrRelease _ _ => exact h.execInstrRelease ..
  | instrComplete _ _ => exact h.execInstrComplete ..
  | regionPass _ => exact ⟨_, rfl, .ite h (.foldl (fun _ _ h => h.startSync ..) _ (.coreLog (h.setCore ..) ..))⟩
  | regionRetry _ => exact ⟨_, rfl, .ite h (.ite (.settle (h.setCore ..) ..) (.ccErr (h.setCore ..) ..))⟩
  | breakpointHit _ => exact ⟨_, rfl, .ite h (.ite (.ite (h.setCore ..) (.coreLog (h.setCore ..) ..)) (.ite (.foldl (fun _ _ h => .ite
      (h.setCore ..) h) _ (.sendEvent (.ccErr (.ite (h.setCore ..) (.coreLog (h.setCore ..) ..)) ..) ..)) (.sendEvent (.ccErr (.ite
      (h.setCore ..) (.coreLog (h.setCore ..) ..)) ..) ..)))⟩
  | aload _ _ => exact h.execAload ..
  | amul _ _ => exact h.execAmul ..
  | adrain _ _ => exact ⟨_, rfl, h.engStep (hf := fun _ _ h => .drainStep (h.flipSlots ..) ..) ..⟩
  | mvmul _ _ _ => exact h.execMvmul ..
  | vld _ _ => exact ⟨_, rfl, h.engStep (hf := fun _ _ h => .ite (h.refuseEi ..) (.doneEi (.useNar (h.setCore ..) ..) ..)) ..⟩
  | vst _ _ => exact h.execVst ..
  | varith _ _ _ => exact ⟨_, rfl, h.vecStep ..⟩
  | vcmp _ _ => exact ⟨_, rfl, h.vecStep ..⟩
  | vsel _ _ => exact ⟨_, rfl, h.vecStep ..⟩
  | vred _ _ _ => exact ⟨_, rfl, h.vecStep ..⟩
  | vsfn _ _ _ => exact ⟨_, rfl, h.vecStep ..⟩
  | vquant _ _ _ => exact h.execVquant ..
  | vdeq _ _ _ => exact ⟨_, rfl, h.engStep (hf := fun _ _ h => .ite (h.refuseEi ..) (.ite (h.illegalEi ..) (.ite (h.refuseEi ..) (.ite
      (.vecResidue (h.setCore ..) ..) (.doneEi (h.setCore ..) ..))))) ..⟩
  | vbc _ _ => exact ⟨_, rfl, h.vecStep ..⟩
  | vkx _ _ => exact ⟨_, rfl, h.vecStep ..⟩
  | salu _ _ => exact ⟨_, rfl, h.scaStep ..⟩
  | sli _ _ => exact ⟨_, rfl, h.scaStep ..⟩
  | saddi _ _ => exact ⟨_, rfl, h.scaStep ..⟩
  | sld _ _ => exact ⟨_, rfl, h.engStep (hf := fun _ _ h => .ite (h.illegalEi ..) (.ite (h.refuseEi ..) (.doneEi (h.setCore ..) ..))) ..⟩
  | sst _ _ => exact ⟨_, rfl, h.engStep (hf := fun _ _ h => .ite (h.illegalEi ..) (.doneEi (h.localWrite ..) ..)) ..⟩
  | smovk _ _ => exact ⟨_, rfl, h.scaStep ..⟩
  | sgetk _ _ => exact ⟨_, rfl, h.scaStep ..⟩
  | dcopy _ => exact h.execDcopy ..
  | djob _ => exact h.execDjob ..
  | signal _ => exact ⟨_, rfl, h.syncInstr ..⟩
  | waitSync _ => exact ⟨_, rfl, h.syncInstr ..⟩
  | decrement _ => exact ⟨_, rfl, h.syncInstr ..⟩
  | barrier _ => exact ⟨_, rfl, h.syncInstr ..⟩
  | initSync _ => exact ⟨_, rfl, h.syncInstr ..⟩
  | cjob _ => exact ⟨_, rfl, h.engStep (hf := fun _ _ h => .ite (h.refuseEi ..) (.putRun (.setCjobs (.ite h (h.errc ..)) ..) ..)) ..⟩
  | qwait _ _ => exact ⟨_, rfl, h.engDone (hf := fun _ _ h => h) ..⟩
  | tmark _ _ => exact ⟨_, rfl, h.engDone (hf := fun _ _ h => h.coreLog ..) ..⟩
  | dump _ _ => exact h.execDump ..
  | dumpCopy _ => exact h.execDumpCopy ..
  | compassJobComplete _ => exact h.execCompassJobComplete ..
  | syncRemoteRequest _ => exact h.execSyncRemoteRequest ..
  | syncReply _ => exact h.execSyncReply ..
  | syncRelease _ => exact h.execSyncRelease ..
  | releaseAck _ => exact h.execReleaseAck ..
  | treeArrive _ => exact h.execTreeArrive ..
  | treeRelease _ => exact h.execTreeRelease ..
  | orphan _ => exact h.execOrphan ..
  | withdraw _ => exact h.execWithdraw ..
  | syncTimeout _ => exact h.execSyncTimeout ..
  | hbmReread _ _ _ => exact h.execHbmReread ..
  | hbmRowRepair _ _ _ _ => exact h.execHbmRowRepair ..
  | migrationComplete _ _ => exact h.execMigrationComplete ..
  | hbmTempRead _ _ _ => exact ⟨_, rfl, .ite h (.foldl (fun _ _ h => .perf (h.aside.errc ..) ..) _ h)⟩
  | patrolScrub _ _ _ => exact h.execPatrolScrub ..
  | bankSpared _ _ => exact h.execBankSpared ..
  | chRefCompare _ => exact ⟨_, rfl, .ite (h.refCompare ..) h⟩
  | timeHoldover => exact ⟨_, rfl, .ite (h.holdover ..) h⟩
  | chSetPpsEdge => exact h.execChSetPpsEdge
  | chSetTimeout => exact h.execChSetTimeout
  | alarmFire _ => exact ⟨_, rfl, h.alarmFire ..⟩
  | wakeComparatorFire _ _ => exact ⟨_, rfl, .ite h (.ite (h.aside.wakeFire ..) h.aside)⟩
  | lightDetect _ _ _ => exact ⟨_, rfl, .ite h (.ite (.wakeFire (.ite h.aside (h.aside.setBxPort ..)) ..) (.ite h.aside
      (h.aside.setBxPort ..)))⟩
  | countOnlyEntry => exact ⟨_, rfl, .ite h.aside h⟩
  | bankedEntry => exact ⟨_, rfl, .ite h.aside h⟩
  | clTrain _ _ => exact h.execClTrain ..
  | clTrainRetry _ => exact h.execClTrainRetry ..
  | clLockLoss _ => exact ⟨_, rfl, .ite (.retrainLink (.ite (h.treeLinkLost ..) h) ..) h⟩
  | clDataFlit _ _ => exact ⟨_, rfl, .ite h (.ite (h.frameErr ..) (.ite (.ite h (h.clErr ..)) (.ite (.sendNack (h.clErr ..) ..) (.ite
      (.sendNack (h.ackLink ..) ..) (.ite (.retrainLink (.frameErr (h.ackLink ..) ..) ..) (.ite (.frameErr (.setLink (h.ackLink ..) ..)
      ..) (.acceptFlit (.setLink (h.ackLink ..) ..) ..)))))))⟩
  | nack _ _ => exact ⟨_, rfl, h.rxCtl (hf := fun _ h => .ite (h.replayFrom ..) h) ..⟩
  | credit _ _ => exact ⟨_, rfl, h.rxCtl (hf := fun _ h => .ite h (.pumpLink (.setLink (h.ackLink ..) ..) ..)) ..⟩
  | clCreditSend _ => exact ⟨_, rfl, .ite h (.sendCtl (h.setLink ..) ..)⟩
  | clReplayTimeout _ => exact ⟨_, rfl, .ite (h.replayFrom ..) h⟩
  | laneReq _ _ => exact ⟨_, rfl, h.rxCtl (hf := fun _ h => .ite h (.ite (h.retireLink ..) (.sendCtl (.draw (h.adoptMask ..)) ..))) ..⟩
  | laneAck _ _ => exact h.execLaneAck ..
  | laneAckTimeout _ => exact h.execLaneAckTimeout ..
  | down _ _ => exact ⟨_, rfl, h.rxCtl (hf := fun _ h => .ite (h.retrainLink ..) h) ..⟩
  | timeReq _ _ => exact ⟨_, rfl, h.rxCtl (hf := fun _ h => .ite h (h.sendCtl ..)) ..⟩
  | timeResp _ _ => exact h.execTimeResp ..
  | timeReqSend => exact ⟨_, rfl, .ite h (.sendCtl (h.setLink ..) ..)⟩
  | bearingExchangeSend _ => exact h.execBearingExchangeSend ..
  | bearingExchange _ => exact h.execBearingExchange ..
  | aggReportSend => exact h.execAggReportSend
  | aggChildReport _ => exact h.execAggChildReport ..
  | unreach _ => exact h.execUnreach ..
  | controlFrame _ _ => exact h.execControlFrame ..
  | clRelayTimeout _ => exact ⟨_, rfl, .ite (h.aside.endWait ..) h⟩
  | dcopyConfirm _ => exact h.execDcopyConfirm ..
  | dcopyConfirmTimeout => exact ⟨_, rfl, .ite h (h.refuseCopies ..)⟩
  | remoteResetRequest _ => exact h.execRemoteResetRequest ..
  | heaveToMarker _ => exact h.execHeaveToMarker ..
  | commitInstant => exact h.execCommitInstant
  | versionRetire => exact h.execVersionRetire
  | faultPeriodEnd _ _ => exact ⟨_, rfl, .ite (h.endPeriod ..) h⟩
  | quiesceAck _ _ => exact ⟨_, rfl, .ite (h.quiesced ..) h⟩
  | quiesceTimeout _ _ _ _ => exact ⟨_, rfl, .ite h (.ite (.setBlk (.resetOneCore (.forcedReset (h.abortWork ..) ..) ..) ..) (.quiesced
      (.setBlk (.forcedReset (h.abortWork ..) ..) ..) ..))⟩
  | powerOnReset => exact ⟨_, rfl, h.assertSrc ..⟩
  | sysRstN => exact ⟨_, rfl, h.assertSrc ..⟩
  | coreRstN => exact ⟨_, rfl, .ite h (h.assertSrc ..)⟩
  | supplyTrip _ => exact h.execSupplyTrip ..
  | refclkLoss => exact h.execRefclkLoss
  | thermalTrip => exact ⟨_, rfl, .ite h (h.assertSrc ..)⟩
  | thermalWarning _ _ => exact h.execThermalWarning ..
  | watchdogExpiry => exact ⟨_, rfl, .ite h.stopActive h⟩
  | resetRelease _ => exact ⟨_, rfl, .ite (h.releaseSrc ..) h⟩
  | bootRomStart _ _ _ => exact ⟨_, rfl, .ite h (.ite (.foldl (fun _ _ h => h.raiseF ..) _ (.ite (.raiseF (.foldl (fun _ _ h =>
      h.setBxPort ..) _ h.aside) ..) (.foldl (fun _ _ h => h.setBxPort ..) _ h.aside))) (.raiseF (.foldl (fun _ _ h => h.raiseF ..) _
      (.ite (.raiseF (.foldl (fun _ _ h => h.setBxPort ..) _ h.aside) ..) (.foldl (fun _ _ h => h.setBxPort ..) _ h.aside))) ..))⟩
  | firmwareStart _ => exact h.execFirmwareStart ..
  | standbySelfTest _ => exact ⟨_, rfl, .ite h.aside h⟩
  | hbmInitComplete => exact ⟨_, rfl, .ite h.aside h⟩
  | damperMeasure _ _ _ => exact h.execDamperMeasure ..
  | workingCapStep _ => exact h.execWorkingCapStep ..
  | logbookDrain _ => exact ⟨_, rfl, .ite (h.drainLog ..) h⟩
  | heaveToStop => exact ⟨_, rfl, .ite (h.heaveStop ..) h⟩
  | heaveToResume => exact ⟨_, rfl, .ite h.resume h⟩
  | smbusRead _ => exact h.execSmbusRead ..
  | jtagInstruction op dr => exact h.execJtagInstruction op dr fun e => by subst e; cases hc
  | spLaneLock _ _ _ => exact ⟨_, rfl, .ite h (.ite (h.setPort ..) (.ite (.sendTrain (h.setPort ..) ..) h))⟩
  | clLaneLock _ _ _ _ => exact ⟨_, rfl, .ite h (.ite (.ite (h.setLink ..) (.ite (h.failLink ..) (.foldl (fun _ _ h => h.retireLane ..) _
      (.failLink (h.setLink ..) ..)))) (.ite (.sendTrainFlit (h.setLink ..) ..) h))⟩
  | uncorrectableCodeword _ _ _ => exact ⟨_, rfl, .ite h (.ite (.ite h (.ite (h.spPerf ..) (.ite (.loseFraming (h.spErr ..) ..) (h.spErr
      ..)))) (.ite h (.ite (h.perf ..) (.ite (.retireLane (.channelEvent (h.clErr ..) ..) ..) (.channelEvent (h.clErr ..) ..)))))⟩
  | ref10mLoss => exact ⟨_, rfl, h.aside⟩
  | ref10mReturn => exact ⟨_, rfl, h.aside⟩
  | vbkLoss => exact ⟨_, rfl, h.retimed⟩
  | vbkApplied => exact ⟨_, rfl, .ite h h.retimed⟩
  | thermalWarningClear _ => exact h.execThermalWarningClear ..
  | placementReloadComplete _ => exact h.execPlacementReloadComplete ..
  | blockResetDone _ _ => exact h.execBlockResetDone ..
  | coreStoreRewrite _ _ => exact h.execCoreStoreRewrite ..
  | stagedBearingReady => exact ⟨_, rfl, h.onRound ..⟩
  | debugExpiry => exact h.execDebugExpiry
  | mbxSysAssert => exact h.execMbxSysAssert

/-- The vendor's test logic is refused, or the instruction is not available and nothing happens (R503, R558). -/
theorem exec_of_refusable {c : Instr} (hc : refusable c = true) (s : State) : exec c s = .next s ∨ exec c s = .refused .vendorTest := by
  unfold refusable at hc
  split at hc
  next dr =>
    show execJtagInstruction .vendor dr s = _ ∨ execJtagInstruction .vendor dr s = _
    unfold execJtagInstruction
    split
    · exact .inl rfl
    · exact .inr rfl
  next => cases hc

/-- Settles O7: a command answers a steady state, but for the vendor's test logic, which at most leaves the state as it was. -/
theorem execLeavesTheQueue : Obligations.ExecLeavesTheQueue := by
  unfold Obligations.ExecLeavesTheQueue
  intro c s t he
  cases hc : refusable c with
  | false =>
    obtain ⟨u, hu, hk⟩ := exec_steady hc s
    cases hu.symm.trans he
    exact hk.queue
  | true =>
    obtain hn | hr := exec_of_refusable hc s
    · cases hn.symm.trans he
      rfl
    · cases hr.symm.trans he

/-- Settles O8: every command answers a next state, but for the vendor's test logic. -/
theorem onlyVendorTestLogicIsRefused : Obligations.OnlyVendorTestLogicIsRefused := by
  unfold Obligations.OnlyVendorTestLogicIsRefused
  intro c s
  cases hc : refusable c with
  | false =>
    obtain ⟨u, hu, -⟩ := exec_steady hc s
    simp [hu]
  | true => obtain hn | hr := exec_of_refusable hc s <;> simp [*]

/-- Settles O6: a command keeps the form as it answers a steady state, and so does the tick of an empty queue. -/
theorem everyStepKeepsMemoryForm : Obligations.EveryStepKeepsMemoryForm := by
  unfold Obligations.EveryStepKeepsMemoryForm
  intro s t hm hs
  cases hp : s.pending with
  | nil =>
    rw [step, hp] at hs
    cases hs
    exact (tick_steady (τ := False) s).form ((Steady.tickTime (η := True) (.refl s)).form hm)
  | cons c r =>
    rw [step, hp] at hs
    cases hc : refusable c with
    | false =>
      obtain ⟨u, hu, hk⟩ := exec_steady hc (s.withPending r)
      cases hu.symm.trans hs
      exact hk.form hm
    | true =>
      obtain hn | hr := exec_of_refusable hc (s.withPending r)
      · cases hn.symm.trans hs
        exact hm
      · cases hr.symm.trans hs

/-- Settles O2: the tick sets the count once, by the rate word, and everything after that keeps it and the queue. -/
theorem idleStepAdvancesTime : Obligations.IdleStepAdvancesTime := by
  unfold Obligations.IdleStepAdvancesTime
  intro s hq
  have hk := tick_steady (τ := True) s
  refine ⟨tick s, by rw [step, hq], hk.queue.trans ((Steady.tickTime (η := True) (.refl s)).queue.trans hq), fun hv hp hl => ?_⟩
  rw [hk.time trivial, tickTime, if_pos hv]
  have hc : coarse s = false := by simp [coarse, hp, hl]
  simp [tickStep, hc]

/-- Settles O1: the front command runs on the state without it. -/
theorem stepRunsTheFrontCommand : Obligations.StepRunsTheFrontCommand := by
  unfold Obligations.StepRunsTheFrontCommand
  intro c s l hl
  subst hl
  rfl

/-- Settles O5: at reset no byte is stored. -/
theorem resetMemoryForm : Obligations.ResetMemoryForm := by
  unfold Obligations.ResetMemoryForm memForm
  exact ⟨rfl, rfl⟩

end Sys2Proof.Machine
end

section
/-! PROOFS. Wake sources, power states, temperatures and the damper (R386, R387, R390, R513, R551, R552); O49. -/

namespace Sys2Proof.Machine
open Sys2Proof

/-! ### Leaving SLEEP (R390) -/

theorem sysReset_pwr (por : Bool) (s : State) : (sysReset por s).ch.pwr = 0 := by cases por <;> rfl

/-- A source of a system reset stays recorded through the reset, and the part runs. -/
theorem assertSrc1_runs {k : Nat} (hk : srcLevel k = 2) {s : State} (hp : s.ch.pwr = 0) :
    (assertSrc1 k s).ch.pwr = 0 ∧ bit (assertSrc1 k s).sys.srcs k = true := by
  unfold assertSrc1
  extract_lets +onlyGivenNames old new y1 s1 y2 s2 y3 s3
  have h1 : s1.ch.pwr = 0 ∧ bit s1.sys.srcs k = true := ⟨hp, by simp [s1, bit_setBit]⟩
  have h3 : s3.ch.pwr = 0 ∧ bit s3.sys.srcs k = true := by
    suffices h : s2.ch.pwr = 0 ∧ bit s2.sys.srcs k = true from h
    unfold s2
    split
    · exact h1
    · exact h1
  clear_value s3
  split
  · exact h3
  · have hnew : new ≠ 1 := by
      have : 2 ≤ new := hk ▸ Nat.le_max_right ..
      omega
    rw [if_neg hnew]
    extract_lets +onlyGivenNames s4 s5
    have h5 : s5.ch.pwr = 0 ∧ bit s5.sys.srcs k = true := ⟨sysReset_pwr .., h3.2⟩
    clear_value s5
    split
    · exact h5
    · exact h5

section
variable {s : State} {b : Nat}

theorem wakeFire_awake (hp : s.ch.pwr ≠ 2) (ht : s.ch.toSleep = false) : wakeFire b s = s := by simp [wakeFire, hp, ht]

theorem wakeFire_onTheWay (hp : s.ch.pwr ≠ 2) (ht : s.ch.toSleep = true) :
    wakeFire b s = { s with ch := { s.ch with wakeCause := setBit s.ch.wakeCause b } } := by simp [wakeFire, hp, ht]

theorem wakeFire_masked (hp : s.ch.pwr = 2) (hm : bit s.ch.wakeMask b = false) :
    wakeFire b s = { s with ch := { s.ch with wakeCause := setBit s.ch.wakeCause b } } := by simp [wakeFire, hp, hm]

theorem wakeFire_wakes (hp : s.ch.pwr = 2) (hm : bit s.ch.wakeMask b = true) :
    wakeFire b s = leaveSleep { s with ch := { s.ch with wakeCause := setBit s.ch.wakeCause b } } := by simp [wakeFire, hp, hm]

end

/-! ### The damper (R551) -/

section Damper
variable {s u : State} {r : List Nat} {m b : Nat}

theorem exec_damper_above (hd : down s = false) (hu : u = measure r m s) (ha : 1000 * u.pw.work < u.pw.avg) :
    exec (.damperMeasure r m b) s = .next (damperStep b { u with pw := { u.pw with below := none } }) := by
  subst hu
  exact congrArg _ ((if_neg (by simp [hd])).trans (if_pos ha))

theorem exec_damper_near (hd : down s = false) (hu : u = measure r m s) (hl : 970 * u.pw.work ≤ u.pw.avg)
    (ha : u.pw.avg ≤ 1000 * u.pw.work) :
    exec (.damperMeasure r m b) s = .next { u with pw := { u.pw with floor := false, below := none } } := by
  subst hu
  exact congrArg _ ((if_neg (by simp [hd])).trans ((if_neg (by omega)).trans (if_pos hl)))

theorem exec_damper_falls (hd : down s = false) (hu : u = measure r m s) (hl : u.pw.avg < 970 * u.pw.work) (hb : u.pw.below = none) :
    exec (.damperMeasure r m b) s = .next { u with pw := { u.pw with floor := false, below := some (now u) } } := by
  subst hu
  refine congrArg _ ((if_neg (by simp [hd])).trans ((if_neg (by omega)).trans ((if_neg (by exact Nat.not_le.mpr hl)).trans ?_)))
  simp only [hb]
  rfl

theorem exec_damper_low {t : Nat} (hd : down s = false) (hu : u = measure r m s) (hl : u.pw.avg < 970 * u.pw.work)
    (hb : u.pw.below = some t) :
    exec (.damperMeasure r m b) s = .next (if t + 100000 ≤ now u ∧ u.pw.undone + 10000 ≤ now u
      then damperUndo { u with pw := { u.pw with floor := false } } else { u with pw := { u.pw with floor := false } }) := by
  subst hu
  refine congrArg _ ((if_neg (by simp [hd])).trans ((if_neg (by omega)).trans ((if_neg (by exact Nat.not_le.mpr hl)).trans ?_)))
  simp only [hb, Bool.and_eq_true, decide_eq_true_eq]
  rfl

end Damper

/-- Settles O49: the wake sources by what `wakeFire` comes down to, the damper by where the average stands. -/
theorem powerEventsComplete : Obligations.PowerEventsComplete := by
  unfold Obligations.PowerEventsComplete
  refine ⟨?comparator, ?side, ?noComparator, ?awake, ?onTheWay, ?masked, ?wakes, ?light, ?noLight, ?banked, ?notBanked, ?warning,
    ?noWarning, ?clear, ?cap, ?damper⟩
  case comparator =>
    intro n v s u hn hv hu
    subst hu
    exact congrArg _ (if_neg (by simp [hv, hn]))
  case side => intro n v h s; constructor <;> intro hp <;> simp [wakeSide, hp]
  case noComparator =>
    intro n v s h
    exact congrArg _ (if_pos (by simpa using h))
  case awake => exact fun b s hp ht => wakeFire_awake hp ht
  case onTheWay => exact fun b s hp ht => wakeFire_onTheWay hp ht
  case masked => exact fun b s hp hm => wakeFire_masked hp hm
  case wakes =>
    intro b s hp hm
    rw [wakeFire_wakes hp hm]
    exact assertSrc1_runs (k := 9) rfl rfl
  case light =>
    intro p on l s u hp hv hu
    subst hu
    have hn : ¬((decide (2 ≤ p) || !s.ch.vbk) = true) := by simp [hv, hp]
    constructor
    · rintro rfl
      exact congrArg _ (if_neg hn)
    · rintro rfl
      exact congrArg _ (if_neg hn)
  case noLight =>
    intro p on l s h
    exact congrArg _ (if_pos (by simpa using h))
  case banked =>
    intro s hp ht hi hf
    exact congrArg _ (if_pos (by simp [hp, ht, hi, hf]))
  case notBanked =>
    intro s h
    refine congrArg _ (if_neg ?_)
    obtain h | h | h | h := h <;> simp [h]
  case warning =>
    intro k v s hd hk hv
    exact congrArg _ (if_neg (by simp [hd, hk, hv]))
  case noWarning =>
    intro k v s h
    exact congrArg _ (if_pos (by simpa [or_assoc] using h))
  case clear =>
    intro l s hd hl hv
    exact congrArg _ (if_neg (by simpa [hd, hl] using hv))
  case cap =>
    intro l s hd hl
    refine ⟨_, congrArg _ (if_neg (by simp [hd, hl])), fun hh => ?_, ?_⟩
    · exact if_pos ((Bool.or_eq_true ..).mpr hh)
    · split
      · exact .inr (.inl rfl)
      · split
        · exact .inr (.inr rfl)
        · exact .inl rfl
  case damper =>
    intro r m b s u hd hu
    refine ⟨exec_damper_above hd hu, exec_damper_near hd hu, fun t hl hb => ?_, fun hl hb => ?_⟩
    · rw [exec_damper_low hd hu hl hb, hu]
      rfl
    · rw [exec_damper_falls hd hu hl hb, hu]
      rfl

end Sys2Proof.Machine
end

section
/-! PROOFS. The heave-to, the logbooks, SMBus and JTAG (R424, R503, R529, R536, R538, R541, R557, R558); O56. -/

namespace Sys2Proof.Machine
open Sys2Proof

section HeaveRules
variable {s t u : State}

/-! ### What the stop leaves (R536) -/

/-- From `s` to `t` the heave-to, INLINE_OK, the chronometer, the memories and the cores are the same. -/
structure Signals (s t : State) : Prop where
  hv : t.hv = s.hv
  inlineOk : t.inlineOk = s.inlineOk
  ch : t.ch = s.ch
  mem : t.mem = s.mem
  cores : t.cores = s.cores

namespace Signals

theorem refl (s : State) : Signals s s := ⟨rfl, rfl, rfl, rfl, rfl⟩

theorem aside (h : Signals s t) (hh : u.hv = t.hv := by rfl) (hi : u.inlineOk = t.inlineOk := by rfl) (ht : u.ch = t.ch := by rfl)
    (hm : u.mem = t.mem := by rfl) (hc : u.cores = t.cores := by rfl) : Signals s u :=
  ⟨hh.trans h.hv, hi.trans h.inlineOk, ht.trans h.ch, hm.trans h.mem, hc.trans h.cores⟩

theorem ite {p : Prop} [Decidable p] (ht : Signals s t) (hu : Signals s u) : Signals s (if p then t else u) := by
  split
  · exact ht
  · exact hu

theorem foldl {ι : Type} {f : State → ι → State} (hf : ∀ t x, Signals s t → Signals s (f t x)) (l : List ι) (h : Signals s t) :
    Signals s (l.foldl f t) :=
  List.foldlRecOn l f h fun t h x _ => hf t x h

theorem errc (h : Signals s t) (off ovf b n : Nat) : Signals s (errc off ovf b n t) := .ite h.aside h.aside

theorem logRec (h : Signals s t) (k type unit flags : Nat) (b : Bytes) : Signals s (logRec k type unit flags b t) := by
  unfold Machine.logRec logRecAt
  extract_lets +onlyGivenNames x
  refine .ite h ?_
  extract_lets +onlyGivenNames die p y s1 r s2
  have h1 : Signals s s1 := h.aside
  have h2 : Signals s s2 := h.aside
  exact .ite (.ite (h1.errc ..) (h1.errc ..)) (.ite h2.aside h2.aside)

theorem sendMarker (h : Signals s t) (num v n : Nat) : Signals s (sendMarker num v n t) := h.aside

end Signals

/-- The state of the heave-to that the stop leaves. -/
structure Stopped (num v : Nat) (m : Bool) (s t : State) : Prop where
  st : t.hv.st = 2
  num : t.hv.num = num
  instant : t.hv.t = v
  stopT : t.hv.stopT = now s
  byMarker : t.hv.byMarker = m
  inlineOk : t.inlineOk = false
  mem : t.mem = s.mem
  cores : t.cores = s.cores

theorem heaveStop_stops (num v : Nat) (m : Bool) (s : State) : Stopped num v m s (heaveStop num v m s) := by
  unfold heaveStop
  extract_lets +onlyGivenNames isl hl marks s1 y s2 s3
  have h1 : Signals s s1 := .foldl (fun _ _ h => h.logRec ..) _ (.refl s)
  have h4 : Signals s2 (marks.foldl (fun s n => sendMarker num v n s) s3) :=
    .foldl (fun _ _ h => h.sendMarker ..) _ ((Signals.refl s2).errc ..)
  have hnow : now s1 = now s := by unfold now; rw [h1.ch]
  exact ⟨by rw [h4.hv], by rw [h4.hv], by rw [h4.hv], by rw [h4.hv, ← hnow], by rw [h4.hv], h4.inlineOk, h4.mem.trans h1.mem,
    h4.cores.trans h1.cores⟩

/-- After the resume no heave-to is in force (R541). -/
theorem resume_st (s : State) : (resume s).hv.st = 0 := by
  unfold resume
  extract_lets +onlyGivenNames d y s1 z s2 s3 s4 s5 s6
  have h1 : Steady False True s1 s1 := .refl s1
  have h2 : Steady False True s1 s2 := .ite h1.aside.coreReset.coresLeft h1
  have h3 : Steady False True s1 s3 := h2.aside
  have h5 : Steady False True s1 s5 := .foldl (fun _ _ h => h.takeHeld ..) _ (.foldl (fun _ _ h => .ite h (h.loseVerdicts ..)) _ h3)
  have h7 : Steady False True s1 (inlineRise s6) := .inlineRise (.foldl (fun _ _ h => h.releaseHeld ..) _ h5)
  exact h7.heave trivial

theorem exec_heaveToMarker_stops {n k v : Nat} (hm : (link s n).marker = some (k, v)) (hh : holding s = false)
    (hn : s.hv.ever = false ∨ s.hv.num ≠ k) :
    exec (.heaveToMarker n) s = .next (
      let u := heaveStop k v true (setLink n { link s n with marker := none } s)
      { u with hv := { u.hv with links := mupd u.hv.links n {} fun x => { x with got := true, markerT := v } } }) := by
  show execHeaveToMarker n s = _
  unfold execHeaveToMarker
  rw [hm]
  refine congrArg _ ((if_neg ?_).trans (if_neg ?_))
  · exact (Bool.not_eq_true _).mpr hh
  · obtain h | h := hn
    · simp [h]
    · simp [h]

/-! ### Logbooks (R529) -/

theorem exec_logbookDrain {k : Nat} (hd : drainDue s k = true) (hh : holding s = false) (hl : s.sys.level < 2) :
    exec (.logbookDrain k) s = .next (drainLog k s) := congrArg _ (if_pos (by simp [hd, hh, hl]))

theorem drainLog_ring {k : Nat} (hb : (logbook s k).brixvia = false) (hn : drainRoom s (logbook s k) ≠ 0)
    (hh : (logbook s k).chip ≠ chipId s ∨ hbmHeld s (logbook s k).addr (2 ^ (logbook s k).size) = false) :
    drainLog k s = ringOut k (logbook s k) ((logbook s k).buf.take (drainRoom s (logbook s k))) (setLog k { logbook s k with
      buf := (logbook s k).buf.drop (drainRoom s (logbook s k)), wr := (logbook s k).wr + drainRoom s (logbook s k),
      flush := (logbook s k).flush && !((logbook s k).buf.drop (drainRoom s (logbook s k))).isEmpty } s) := by
  refine (if_neg ?_).trans (if_neg ?_)
  · simp [hb]
  · obtain h | h := hh <;> simp [hn, h]

theorem drainLog_held {k : Nat} (hb : (logbook s k).brixvia = false) (hn : drainRoom s (logbook s k) = 0 ∨
    (logbook s k).chip = chipId s ∧ hbmHeld s (logbook s k).addr (2 ^ (logbook s k).size) = true) : drainLog k s = s :=
  (if_neg (by simp [hb])).trans (if_pos (by simpa using hn))

theorem drainLog_session {k : Nat} (hb : (logbook s k).brixvia = true) (ho : (sess s (logbook s k).sess).opened = true)
    (hg : (sess s (logbook s k).sess).gen = (logbook s k).gen) :
    drainLog k s = brixviaOut ((logbook s k).buf.length + 1) (logbook s k) (logbook s k).buf
      (setLog k { logbook s k with buf := [], flush := false } s) :=
  (if_pos hb).trans (if_pos (by simp [ho, hg]))

/-- The records of a session that is gone are lost, and the logbook is empty. -/
theorem drainLog_lost {k : Nat} (hb : (logbook s k).brixvia = true)
    (ho : (sess s (logbook s k).sess).opened = false ∨ (sess s (logbook s k).sess).gen ≠ (logbook s k).gen) :
    (logbook (drainLog k s) k).buf = [] := by
  have hgone : ¬((sess s (logbook s k).sess).opened && decide ((sess s (logbook s k).sess).gen = (logbook s k).gen)) = true := by
    obtain h | h := ho <;> simp [h]
  unfold drainLog
  dsimp only
  rw [if_pos hb, if_neg hgone]
  split <;> simp [logbook, setLog]

/-! ### SMBus and JTAG (R557, R558) -/

theorem exec_smbus (hr : s.sys.rom = true) (hd : down s = false) (c : Nat) : exec (.smbusRead c) s = .next
    (if c = 0x10 then emit (.smbus ([22] ++ (List.range 11).flatMap fun k => le 2 (mgetD s.pw.rails k 0))) s
    else match smbusWord s c with
      | some v => emit (.smbus (le 2 v)) s
      | none => s) := congrArg _ (if_neg (by simp [hr, hd]))

theorem exec_jtag {o : JtagOp} (hl : s.sys.level ≠ 3) (hp : s.ch.pwr ≠ 2) (d : Bytes) :
    jtagMay s o = true → exec (.jtagInstruction o d) s =
      (let s := { s with jtag := { s.jtag with ir := o } }
      match o with
      | .bypass => .next (emit (.jtag d) s)
      | .idcode => .next (emit (.jtag (le 4 idcode)) s)
      | .samplePreload | .ac | .extest | .extestPulse | .extestTrain => .next (scan d s)
      | .access off none => .next (let r := accRead accJtag off s; emit (.jtag (le 4 r.1)) r.2)
      | .access off (some v) => .next (accWrite accJtag off (v % 2 ^ 32) s)
      | .vendor => .refused .vendorTest) :=
  fun hm => if_neg (by simp [hl, hp, hm])

end HeaveRules

/-- Settles O56: the stop and the resume by the frames of what they call, the rest by the equation of each branch. -/
theorem stopsAndReadsComplete : Obligations.StopsAndReadsComplete := by
  unfold Obligations.StopsAndReadsComplete
  refine ⟨?stop, ?resumes, ?noStop, ?noResume, ?noMarker, ?markerHeld, ?markerAgain, ?markerStops, ?notDue, ?noRoom, ?ring, ?session,
    ?lost, ?noWord, ?word, ?rails, ?bypass, ?scans, ?reads, ?writes, ?notAvailable, ?vendor⟩
  case stop =>
    intro s hs ht
    obtain ⟨h1, h2, h3, h4, -, h6, h7, h8⟩ := heaveStop_stops s.hv.armNum s.hv.t false s
    exact ⟨_, congrArg Host.Outcome.next (if_pos (by simp [hs, ht])), h1, h2, h3, h4, h6, h7, h8⟩
  case resumes =>
    intro s hs ht
    exact ⟨_, congrArg Host.Outcome.next (if_pos (by simp [hs, ht])), rfl, resume_st s⟩
  case noStop =>
    intro s h
    refine congrArg _ (if_neg ?_)
    obtain h | h := h
    · simp [h]
    · simp [Nat.not_le.mpr h]
  case noResume =>
    intro s h
    refine congrArg _ (if_neg ?_)
    obtain h | h := h
    · simp [h]
    · simp [Nat.not_le.mpr h]
  case noMarker =>
    intro n s hm
    show execHeaveToMarker n s = _
    unfold execHeaveToMarker
    rw [hm]
  case markerHeld =>
    intro n s k t hm hh
    show execHeaveToMarker n s = _
    unfold execHeaveToMarker
    rw [hm]
    exact congrArg _ (if_pos hh)
  case markerAgain =>
    intro n s k t hm hh he hk
    show execHeaveToMarker n s = _
    unfold execHeaveToMarker
    rw [hm]
    exact congrArg _ ((if_neg ((Bool.not_eq_true _).mpr hh)).trans (if_pos (by simp [he, hk])))
  case markerStops =>
    intro n s k t hm hh hn
    obtain ⟨h1, h2, -, -, h5, -, -, -⟩ := heaveStop_stops k t true (setLink n { link s n with marker := none } s)
    exact ⟨_, exec_heaveToMarker_stops hm hh hn, h1, h2, h5, by simp [mupd]⟩
  case notDue =>
    intro k s h
    refine congrArg _ (if_neg ?_)
    obtain h | h | h := h
    · simp [h]
    · simp [h]
    · simp [Nat.not_lt.mpr h]
  case noRoom =>
    intro k s x hx hd hb hn
    subst hx
    show Host.Outcome.next (if _ then drainLog k s else s) = _
    rw [drainLog_held hb hn, ite_self]
  case ring =>
    intro k s x n hx hd hh hl hb hn hn0 hf
    subst hx hn
    rw [exec_logbookDrain hd hh hl, drainLog_ring hb hn0 hf]
  case session =>
    intro k s x hx hd hh hl hb ho hg
    subst hx
    rw [exec_logbookDrain hd hh hl, drainLog_session hb ho hg]
  case lost =>
    intro k s x hx hd hh hl hb ho
    subst hx
    exact ⟨_, exec_logbookDrain hd hh hl, drainLog_lost hb ho⟩
  case noWord =>
    intro c s h
    by_cases hg : s.sys.rom = false ∨ down s = true
    · exact congrArg _ (if_pos (by simpa using hg))
    · obtain ⟨hr, hd⟩ : s.sys.rom = true ∧ down s = false := by simpa using hg
      obtain ⟨hc, hw⟩ : c ≠ 0x10 ∧ smbusWord s c = none := by simpa [hr, hd] using h
      rw [exec_smbus hr hd, if_neg hc, hw]
  case word =>
    intro c s v hr hd hc hw
    rw [exec_smbus hr hd, if_neg hc, hw]
  case rails => exact fun s hr hd => exec_smbus hr hd 0x10
  case bypass => exact fun d s hl hp => ⟨exec_jtag hl hp d rfl, exec_jtag hl hp d rfl⟩
  case scans =>
    intro o d s hl hp ho
    obtain rfl | rfl | ⟨rfl | rfl | rfl, hi⟩ := ho
    · exact ⟨_, exec_jtag hl hp d rfl, rfl, rfl⟩
    · exact ⟨_, exec_jtag hl hp d rfl, rfl, rfl⟩
    · exact ⟨_, exec_jtag hl hp d (by simp [jtagMay, hi]), rfl, rfl⟩
    · exact ⟨_, exec_jtag hl hp d (by simp [jtagMay, hi]), rfl, rfl⟩
    · exact ⟨_, exec_jtag hl hp d (by simp [jtagMay, hi]), rfl, rfl⟩
  case reads => exact fun f d s hl hp hs => exec_jtag (o := .access f none) hl hp d hs
  case writes => exact fun f v d s hl hp hs => exec_jtag (o := .access f (some v)) hl hp d hs
  case notAvailable =>
    intro o d s h
    refine if_pos ?_
    obtain h | h | h := h <;> simp [h]
  case vendor => exact fun d s hl hp hs => exec_jtag (o := .vendor) hl hp d hs

end Sys2Proof.Machine
end

section
/-! PROOFS. Frames between the chips of a chain (R403, R418, R421, R423, R446, R447, R481, R537); O52. -/

namespace Sys2Proof.Machine
open Sys2Proof

section ChainFrameRules
variable {s u : State} {n i : Nat} {t : InTag}

/-! ### The bearing exchange (R423, R446) -/

theorem exec_bearingExchangeSend_sends {c m : Nat} (hp : (link s n).partner = some (c, m, true)) (hl : linkUp s n = true)
    (hc : s.chip.isSome = true) (hx : (link s n).exch ≤ now s / 2 ^ 30) (hh : holding s = false) (hs : s.sys.level < 2)
    (hv : (link s n).ver = 1 → helmUp s = true) :
    exec (.bearingExchangeSend n) s = .next (
      let x := newTag (if (link s n).ver = 1 then helmUnit s else 0xFE) (if (link s n).ver = 1 then 5 else 8) c (link s n).exchNum (newestNum s)
        0xFFFFFFFF (if (link s n).ver = 1 then 7 else 0) 0 false false
        (setLink n { link s n with exch := now s / 2 ^ 30 + 1, exchNum := ((link s n).exchNum + 1) % 2 ^ 32 } s)
      enqueue n (tableFrame c (tagBytes x.1) (exchangeBody x.2)) x.2) := by
  show execBearingExchangeSend n s = _
  unfold execBearingExchangeSend
  dsimp only
  rw [hp]
  refine congrArg _ ((if_neg ?_).trans rfl)
  have hv' : ((link s n).ver == 1 && !helmUp s) = false := by
    by_cases h : (link s n).ver = 1
    · simp [hv h]
    · simp [h]
  simp [-Nat.reducePow, hl, Option.isNone_eq_false_iff.mpr hc, hx, hh, hs, hv']

theorem exec_bearingExchangeSend_waits (h : (∀ c m, (link s n).partner ≠ some (c, m, true)) ∨ linkUp s n = false ∨ s.chip = none ∨
    now s / 2 ^ 30 < (link s n).exch ∨ holding s = true) : exec (.bearingExchangeSend n) s = .next s := by
  show execBearingExchangeSend n s = _
  unfold execBearingExchangeSend
  refine congrArg _ ?_
  extract_lets +onlyGivenNames x k
  split
  next c m hp =>
    refine if_pos ?_
    obtain h | h | h | h | h := h
    · exact absurd hp (h c m)
    · simp [h]
    · simp [h]
    · simp [-Nat.reducePow, x, k, Nat.succ_le_of_lt h]
    · simp [h]
  next => rfl

/-- The link's agreement after a partner's body: 1 where it names the newest version, 2 where another, 3 where a bearing differs. -/
def agreed (t : InTag) (u : State) (st : Nat) : State :=
  { u with ver := { u.ver with link := mset u.ver.link t.link st, exchRx := mset u.ver.exchRx t.link (now u / 2 ^ 30) } }

theorem exec_bearingExchange (h : takeIn i (fun t => ((tagOf t.tag).kind == 8 && t.body.length == 72) || plainCtl 72 t) s = some (t, u)) :
    exec (.bearingExchange i) s = .next (match bearingDiffers u t.body with
      | some (theirs, mine) => raise1s { code := 0x0602, unit := 0xFE, index := t.link, version := newestNum u,
                                         detail := theirs + 65536 * mine + 2 ^ 32 } (verCount 3 (agreed t u 3))
      | none => agreed t u (if beAt t.body 0 2 = newestNum u then 1 else 2)) := by
  show execBearingExchange i s = _
  unfold execBearingExchange
  rw [h]
  refine congrArg _ ?_
  dsimp only
  cases bearingDiffers u t.body <;> rfl

theorem raise1s_ver (f : FltRec) (s : State) : (raise1s f s).ver = s.ver :=
  (Keeps.raiseLim (view := id) (.refl s) 1000000000 f).ver

/-! ### Reports (R447) -/

/-- `s` with its own counts of the period, read now where they have not been. -/
def selfCounted (s : State) : State := if s.ver.own.any (·.1 == now s / 2 ^ 30) then s else countSelf s

/-- `s` with the report of period `k` sent. -/
def reportSent (k : Nat) (s : State) : State :=
  { s with ver := { s.ver with aggSent := k + 1, reports := s.ver.reports.filter fun r => decide (k < r.1) } }

/-- The children whose reports are awaited, and those of the period that have come. -/
def kids (s : State) : List Nat := (List.range 8).filter (bit s.ver.children)
def gotReports (s : State) : List (Nat × Nat × List Nat) := s.ver.reports.filter fun r => r.1 == now s / 2 ^ 30 && (kids s).contains r.2.1

/-- The sums that are reported. -/
def reportSums (s : State) : List Nat :=
  (gotReports s).foldl (fun a r => addCounts a r.2.2) (addCounts (((selfCounted s).ver.own.map (·.2)).getD [])
    [0, 0, 0, 0, 0, 0, ((kids s).filter fun n => !(gotReports s).any fun r => r.2.1 == n).length])

/-- The state in which the report leaves. -/
def reporting (s : State) : State := reportSent (now s / 2 ^ 30) (selfCounted s)

theorem exec_aggReportSend (hu : helmUp s = true) (ha : s.ver.aggSent ≤ now s / 2 ^ 30) (ht : 1000000 ≤ now s % 2 ^ 30)
    (hk : 1000000 + 2000000 * s.ver.height ≤ now s % 2 ^ 30 ∨ ∀ n ∈ kids s, ∃ r ∈ gotReports s, r.2.1 = n) :
    exec .aggReportSend s = .next (
      if s.ver.parent = 0xFF then
        sendEvent 4 0 (reportBody le (now s / 2 ^ 30) (reportSums s) ++ le 2 (newestNum s) ++ zeros 6 ++ newestBearing s) (reporting s)
      else if s.chip.isNone then reporting s
      else
        let dest := match (link s s.ver.parent).partner with | some (c, _, _) => c | none => 0
        let x := newTag (helmUnit s) 5 dest 0 (newestNum s) 0xFFFFFFFF 7 0 false false (reporting s)
        sendPath (pathFrame (be 2 dest ++ [1, 0] ++ be 6 s.ver.parent) (tagBytes x.1) (reportBody be (now s / 2 ^ 30) (reportSums s))) x.2) := by
  have hall : ((kids s).all (fun n => (gotReports s).any fun r => r.2.1 == n) ||
      decide (1000000 + 2000000 * s.ver.height ≤ now s % 2 ^ 30)) = true := by
    obtain h | h := hk
    · rw [decide_eq_true h, Bool.or_true]
    · have hn : ∀ n ∈ kids s, ((gotReports s).any fun r => r.2.1 == n) = true := fun n hn => by
        obtain ⟨r, hr, he⟩ := h n hn
        exact List.any_eq_true.mpr ⟨r, hr, beq_iff_eq.mpr he⟩
      rw [List.all_eq_true.mpr hn, Bool.true_or]
  have hgo : (!helmUp s || decide (now s / 2 ^ 30 < s.ver.aggSent) || decide (now s % 2 ^ 30 < 1000000) ||
      !((kids s).all (fun n => (gotReports s).any fun r => r.2.1 == n) || decide (1000000 + 2000000 * s.ver.height ≤ now s % 2 ^ 30))) = false := by
    rw [hall, hu, decide_eq_false (Nat.not_lt.mpr ha), decide_eq_false (Nat.not_lt.mpr ht)]
    rfl
  refine congrArg Host.Outcome.next ((if_neg ((Bool.not_eq_true _).mpr hgo)).trans ?_)
  unfold reporting reportSums selfCounted
  cases s.ver.own.any (·.1 == now s / 2 ^ 30)
  · rfl
  · rfl

theorem exec_aggReportSend_waits (h : helmUp s = false ∨ now s / 2 ^ 30 < s.ver.aggSent ∨ now s % 2 ^ 30 < 1000000) :
    exec .aggReportSend s = .next s := by
  refine congrArg Host.Outcome.next (if_pos ?_)
  obtain h | h | h := h
  · simp [h]
  · rw [decide_eq_true h]
    simp
  · rw [decide_eq_true h]
    simp

/-! ### What the others say -/

theorem exec_aggChildReport (h : takeIn i (plainCtl 40) s = some (t, u)) :
    exec (.aggChildReport i) s = .next (if bit u.ver.children t.link = true ∧ now u / 2 ^ 30 ≤ beAt t.body 0 8 ∧
        u.ver.aggSent ≤ beAt t.body 0 8 then { u with
      ver := { u.ver with
        reports := (u.ver.reports.filter fun r => !(r.1 == beAt t.body 0 8 && r.2.1 == t.link)) ++
          [(beAt t.body 0 8, t.link, (List.range 7).map fun j => beAt t.body (8 + 4 * j) 4)] } } else u) := by
  show execAggChildReport i s = _
  unfold execAggChildReport
  rw [h]
  refine congrArg _ ?_
  by_cases hk : bit u.ver.children t.link = true ∧ now u / 2 ^ 30 ≤ beAt t.body 0 8 ∧ u.ver.aggSent ≤ beAt t.body 0 8
  · rw [if_pos hk]
    obtain ⟨hb, ht, ha⟩ := hk
    exact if_neg (by simp [-Nat.reducePow, hb, ht, ha])
  · rw [if_neg hk]
    refine if_pos (by_contra fun hn => hk ?_)
    simpa [-Nat.reducePow, and_assoc] using hn

theorem exec_unreach (h : takeIn i (plainCtl 2) s = some (t, u)) :
    exec (.unreach i) s = .next (
      let k := errc (baseCl + 0x08) (baseCl + 0x0C) 1 1 u
      endLost { k with cl := { k.cl with unreach := mset k.cl.unreach (beAt t.body 0 2) (now k + 10000000) } }) := by
  show execUnreach i s = _
  unfold execUnreach
  rw [h]

theorem exec_controlFrame {cr : Crypto} (hu : helmUp s = true) (h : takeIn i (fun t => ctlWhat t == 1 || ctlWhat t == 2) s = some (t, u)) :
    exec (.controlFrame i cr) s = .next (if ctlWhat t = 2 then relayAnswer t u
      else if holding s && islandOps.contains (innerRq (t.body.drop 8)).op then s else runInner t cr u) := by
  show execControlFrame i cr s = _
  unfold execControlFrame
  rw [h, hu]
  rfl

theorem exec_dcopyConfirm (h : takeIn i (fun t => (tagOf t.tag).kind == 3 && t.body.isEmpty) s = some (t, u)) :
    exec (.dcopyConfirm i) s = .next
      ((oldestCopy (copiesTo u (tagOf t.tag).chip (tagOf t.tag).workId)).elim u fun x => doneEi x.1 12 x.2 u) := by
  show execDcopyConfirm i s = _
  unfold execDcopyConfirm
  rw [h]
  dsimp only
  cases oldestCopy (copiesTo u (tagOf t.tag).chip (tagOf t.tag).workId) <;> rfl

theorem exec_remoteResetRequest (h : takeIn i (fun t => ctlWhat t == 3) s = some (t, u)) :
    exec (.remoteResetRequest i) s = .next (if linkUp u t.link then assertSrc 7 u else u) := by
  show execRemoteResetRequest i s = _
  unfold execRemoteResetRequest
  rw [h]

/-- Without such a frame nothing happens. -/
theorem exec_noFrame (cr : Crypto) (h : ∀ f, takeIn i f s = none) : exec (.bearingExchange i) s = .next s ∧
    exec (.aggChildReport i) s = .next s ∧ exec (.unreach i) s = .next s ∧ exec (.controlFrame i cr) s = .next s ∧
    exec (.dcopyConfirm i) s = .next s ∧ exec (.remoteResetRequest i) s = .next s := by
  refine ⟨?_, ?_, ?_, ?_, ?_, ?_⟩
  · show execBearingExchange i s = _
    rw [execBearingExchange, h]
  · show execAggChildReport i s = _
    rw [execAggChildReport, h]
  · show execUnreach i s = _
    rw [execUnreach, h]
  · show execControlFrame i cr s = _
    rw [execControlFrame, h, ite_self]
  · show execDcopyConfirm i s = _
    rw [execDcopyConfirm, h]
  · show execRemoteResetRequest i s = _
    rw [execRemoteResetRequest, h]

end ChainFrameRules

/-- Settles O52: each frame by the equation of the command that takes it. -/
theorem chainFramesComplete : Obligations.ChainFramesComplete := by
  unfold Obligations.ChainFramesComplete
  refine ⟨?exchange, ?noExchange, ?agrees, ?differs, ?report, ?noReport, ?counts, ?child, ?unreach, ?answer, ?inner, ?innerHeld,
    ?timeout, ?noTimeout, ?copy, ?noCopy, ?copies, ?reset, ?noFrame⟩
  case exchange =>
    intro n s c m x hp hl hc hx hh hs hv he
    subst he
    exact exec_bearingExchangeSend_sends hp hl hc hx hh hs hv
  case noExchange => exact fun n s h => exec_bearingExchangeSend_waits h
  case agrees =>
    intro i s t u h hd
    rw [exec_bearingExchange h, hd]
    rfl
  case differs =>
    intro i s t u a b h hd
    refine ⟨_, exec_bearingExchange h, ?_⟩
    rw [hd]
    simp [raise1s_ver, verCount, agreed]
  case report =>
    intro s k l got u own v hu hk ha ht hl hg hd he ho hv
    subst hk hl hg he ho hv
    have hx := exec_aggReportSend hu ha ht hd
    refine ⟨fun hp => ?_, fun hp hc => ?_, fun c m b x hp hc hq he => ?_⟩
    · rw [hx, if_pos hp]
      rfl
    · rw [hx, if_neg hp, if_pos (Option.isNone_iff_eq_none.mpr hc)]
      rfl
    · subst he
      rw [hx, if_neg hp, if_neg ((Bool.not_eq_true _).mpr (Option.isNone_eq_false_iff.mpr hc)), hq]
      rfl
  case noReport => exact fun s h => exec_aggReportSend_waits h
  case counts => exact fun s => ⟨rfl, rfl, rfl⟩
  case child => exact fun i s t u h => exec_aggChildReport h
  case unreach =>
    intro i s t u k h hk
    subst hk
    exact exec_unreach h
  case answer =>
    intro i cr s t u hu h hw
    rw [exec_controlFrame hu h, if_pos hw]
  case inner =>
    intro i cr s t u hu h hw hn
    rw [exec_controlFrame hu h, if_neg (by omega), if_neg]
    obtain hh | ho := hn
    · simp [hh]
    · simp [ho]
  case innerHeld =>
    intro i cr s t u hu h hw hh ho
    rw [exec_controlFrame hu h, if_neg (by omega), if_pos (by simp [hh, ho])]
  case timeout =>
    intro m s h
    exact congrArg Host.Outcome.next (if_pos (by simpa using h))
  case noTimeout =>
    intro m s h
    exact congrArg Host.Outcome.next (if_neg (by simpa using h))
  case copy =>
    intro i s t u p e h ho
    rw [exec_dcopyConfirm h, ho]
    rfl
  case noCopy =>
    intro i s t u h ho
    rw [exec_dcopyConfirm h, ho]
    rfl
  case copies => exact fun s => rfl
  case reset => exact fun i s t u h => exec_remoteResetRequest h
  case noFrame => exact fun i cr s h => exec_noFrame cr h

end Sys2Proof.Machine
end

section
/-! PROOFS. HELLO, EVT_CTL, REG_READ and REG_WRITE (R9, R452, R465, R466, R469); O9. -/

namespace Sys2Proof.Machine
open Sys2Proof

section HelmCommandRules
variable {r : Req} {s : State} {c : Call}

/-! ### Which registers are mapped does not depend on the mailboxes -/

theorem cwVal_isSome (s t : State) (off : Nat) : (cwVal s off).isSome = (cwVal t off).isSome := by
  unfold cwVal
  dsimp only
  split <;> simp [*]
  split_ifs
  · rfl
  · rfl
  · split <;> simp [*]
  · rfl
  · rfl

theorem mapped_outside {off : Nat} (h : off % 4 ≠ 0 ∨ 2 ^ 24 ≤ off) : mapped s off = false := by
  obtain h | h := h
  · simp [mapped, regVal, h]
  · simp [-Nat.reducePow, mapped, regVal, h]

@[simp] theorem mapped_busy (op : Nat) (off : Nat) : mapped (busy op r s) off = mapped s off := by
  by_cases h : off % 4 ≠ 0 ∨ 2 ^ 24 ≤ off
  · rw [mapped_outside h, mapped_outside h]
  obtain ⟨h4, h24⟩ := not_or.mp h
  simp only [mapped, regVal, not_not.mp h4, h24]
  cases ctrAt off with
  | some x => cases x <;> rfl
  | none =>
    have hcw := cwVal_isSome (busy op r s) s off
    by_cases hw : ((wide s off).isSome || (wideOf off).isSome) = true
    · simp only [wide_busy, hw, if_true]
    · by_cases hb : off < baseTbl
      · simp only [wide_busy, hw, hb, if_true, hcw, apply_ite Option.isSome]
      · rw [if_neg hb, if_neg hb, tblVal_busy, spVal_busy, fltVal_busy, clVal_busy, chVal_busy, hbVal_busy, obsVal_busy, wide_busy]

/-! ### The rows of accepted commands -/

theorem exec_hello (ha : accepted 0x0001 0x10 r s = true) :
    exec (.hello r) s = .next (settled 0x0001 r (hello (callOf r s) (busy 0x0001 r s))) :=
  congrArg _ (mbxRow_accepted (by decide) (by decide) ha)

theorem exec_regRead (ha : accepted 0x0002 0x10 r s = true) :
    exec (.regRead r) s = .next (settled 0x0002 r (regReadCmd (callOf r s) (busy 0x0002 r s))) :=
  congrArg _ (mbxRow_accepted (by decide) (by decide) ha)

theorem exec_regWrite (ha : accepted 0x0003 0x10 r s = true) :
    exec (.regWrite r) s = .next (settled 0x0003 r (regWriteCmd (callOf r s) (busy 0x0003 r s))) :=
  congrArg _ (mbxRow_accepted (by decide) (by decide) ha)

theorem exec_evtCtl (ha : accepted 0x0004 0x11 r s = true) :
    exec (.evtCtl r) s = .next (settled 0x0004 r (evtCtl (callOf r s) (busy 0x0004 r s))) :=
  congrArg _ (mbxRow_accepted (by decide) (by decide) ha)

/-! ### Register accesses in ascending order (R452) -/

theorem foldl_reads (acc : Nat) (k : Nat) (off : Nat) (b : Bytes) (s : State) :
    (List.range k).foldl (fun (a : Bytes × State) i => (a.1 ++ le 4 (regRead acc (off + 4 * i) a.2).1, (regRead acc (off + 4 * i) a.2).2)) (b, s) =
      (b ++ (readRegs acc off k s).1, (readRegs acc off k s).2) := by
  induction k generalizing off b s with
  | zero => simp [readRegs]
  | succ k ih =>
    rw [List.range_succ_eq_map, List.foldl_cons, List.foldl_map]
    have hoff : ∀ i, off + 4 * i.succ = off + 4 + 4 * i := fun i => by omega
    simp only [hoff, Nat.mul_zero, Nat.add_zero, ih, readRegs, List.append_assoc]

theorem leAt_drop (b : Bytes) (m a n : Nat) : leAt (b.drop m) a n = leAt b (m + a) n := by simp [leAt, sub, List.drop_drop]

theorem foldl_writes (acc : Nat) (k : Nat) (off : Nat) (b : Bytes) (s : State) :
    (List.range k).foldl (fun s i => regWrite acc (off + 4 * i) (leAt b (4 * i) 4) s) s = writeRegs acc off b k s := by
  induction k generalizing off b s with
  | zero => rfl
  | succ k ih =>
    rw [List.range_succ_eq_map, List.foldl_cons, List.foldl_map]
    have hoff : ∀ i, off + 4 * i.succ = off + 4 + 4 * i := fun i => by omega
    have hb : ∀ i, leAt b (4 * i.succ) 4 = leAt (b.drop 4) (4 * i) 4 := fun i => by rw [leAt_drop]; congr 1; omega
    simp only [hoff, hb, Nat.mul_zero, Nat.add_zero, ih, writeRegs]

/-- A well-formed range of mapped registers meets none of the rows that both commands share. -/
theorem regRows_pass {n top : Nat} (hlen : c.p.length = n) (h4 : leAt c.p 0 4 % 4 = 0) (hoff : leAt c.p 0 4 < 2 ^ 24)
    (hz : leAt c.p 6 2 = 0) (hk : 1 ≤ leAt c.p 4 2) (htop : leAt c.p 4 2 ≤ top) (hm : allMapped s (leAt c.p 0 4) (leAt c.p 4 2) = true) :
    ∀ e ∈ regRows c n top s, e.2 = false := by
  have hm' : ((List.range (leAt c.p 4 2)).any fun i => !mapped s (leAt c.p 0 4 + 4 * i)) = false := by
    simpa [allMapped] using hm
  simp [-Nat.reducePow, regRows, hlen, h4, hoff, hz, hm', htop, Nat.one_le_iff_ne_zero.mp hk]

theorem regReadCmd_reads (hr : c.relayed = false) (hlen : c.p.length = 8) (h4 : leAt c.p 0 4 % 4 = 0) (hoff : leAt c.p 0 4 < 2 ^ 24)
    (hz : leAt c.p 6 2 = 0) (hk : 1 ≤ leAt c.p 4 2) (htop : leAt c.p 4 2 ≤ 1020)
    (hm : allMapped s (leAt c.p 0 4) (leAt c.p 4 2) = true) :
    regReadCmd c s = reply (readRegs c.sess (leAt c.p 0 4) (leAt c.p 4 2) s).1 (readRegs c.sess (leAt c.p 0 4) (leAt c.p 4 2) s).2 := by
  unfold regReadCmd
  rw [rows_pass (regRows_pass hlen h4 hoff hz hk htop hm), hr]
  have hfold := foldl_reads c.sess (leAt c.p 4 2) (leAt c.p 0 4) [] s
  rw [List.nil_append] at hfold
  exact congrArg (fun x : Bytes × State => reply x.1 x.2) hfold

theorem regWriteCmd_writes (hr : c.relayed = false) (hlen : c.p.length = 8 + 4 * leAt c.p 4 2) (h4 : leAt c.p 0 4 % 4 = 0)
    (hoff : leAt c.p 0 4 < 2 ^ 24) (hz : leAt c.p 6 2 = 0) (hk : 1 ≤ leAt c.p 4 2) (htop : leAt c.p 4 2 ≤ 1018)
    (hm : allMapped s (leAt c.p 0 4) (leAt c.p 4 2) = true)
    (hd : dbgOpen s 1 = true ∨ 0x088 < leAt c.p 0 4 ∨ leAt c.p 0 4 + 4 * leAt c.p 4 2 ≤ 0x080) :
    regWriteCmd c s = okay (writeRegs c.sess (leAt c.p 0 4) (c.p.drop 8) (leAt c.p 4 2) s) := by
  unfold regWriteCmd
  rw [rows_pass, hr, ← foldl_writes]
  · simp only [leAt_drop]
    rfl
  · intro e he
    obtain he | he := List.mem_append.mp he
    · exact regRows_pass hlen h4 hoff hz hk htop hm e he
    · obtain rfl | rfl : e = _ ∨ e = _ := by simpa using he
      · obtain h | h | h := hd
        · simp [h]
        · simp [not_le.mpr h]
        · simp [not_lt.mpr h]
      · simp [hr]

/-! ### HELLO and EVT_CTL (R465, R466, R469) -/

/-- The record of R466. -/
def helloRecord (v i : Nat) (s : State) : Bytes :=
  le 1 v ++ le 1 i ++ le 2 (chipId s) ++ le 4 s.sys.fwVer ++ [32] ++ le 1 s.nv.cores ++ le 2 4080 ++ le 2 (newestNum s) ++
    le 1 (b2n s.chip.isSome + 2 * b2n (newestNum s != 0) + 4 * b2n (unlocked s) + 8 * b2n s.helm.standby +
      16 * b2n (!s.nv.anchors.isEmpty) + 32 * s.helm.active) ++ [0]

theorem hello_answers (hr : c.relayed = false) (hlen : c.p.length = 8) (hz : zeroAt c.p 2 6 = true) (hle : u8 c.p 0 ≤ u8 c.p 1)
    (hlo : u8 c.p 0 / 16 = 1) (hhi : u8 c.p 1 / 16 = 1) (hv : u8 c.p 0 ≤ 0x14) (ho : (sess s c.sess).opened = true)
    (hg : (sess s c.sess).gen = c.gen)
    (hq : ∀ e ∈ s.helm.mbx, e.1 ≠ c.who → e.2.sess = c.sess → e.2.gen = c.gen → e.2.st ≠ 1 ∧ e.2.st ≠ 2) :
    hello c s = reply (helloRecord (min (u8 c.p 1) 0x14) c.sess s)
      (setSess c.sess { sess s c.sess with ifv := min (u8 c.p 1) 0x14 } s) := by
  have hmbx : (s.helm.mbx.any fun e => e.1 != c.who && (e.2.st == 1 || e.2.st == 2) && e.2.sess == c.sess && e.2.gen == c.gen) = false := by
    refine List.any_eq_false.mpr fun e he hb => ?_
    simp only [Bool.and_eq_true, Bool.or_eq_true, bne_iff_ne, beq_iff_eq] at hb
    obtain ⟨⟨⟨hw, hst⟩, hs⟩, hge⟩ := hb
    obtain ⟨h1, h2⟩ := hq e he hw hs hge
    exact hst.elim h1 h2
  unfold hello
  rw [rows_pass]
  · simp only [ho, hg, Bool.true_and, beq_self_eq_true, if_true]
    rfl
  · simp [hlen, hz, hle, hlo, hhi, hv, hmbx, hr]

theorem evtCtl_sets (hr : c.relayed = false) (hlen : c.p.length = 8) (h0 : bit (leAt c.p 0 2) 0 = false) (ht : leAt c.p 0 2 < 256)
    (hz : zeroAt c.p 3 5 = true) (ho : (sess s c.sess).opened = true) (hg : (sess s c.sess).gen = c.gen) :
    evtCtl c s = okay (setSess c.sess { sess s c.sess with types := leAt c.p 0 2, classes := u8 c.p 2 } s) := by
  unfold evtCtl
  rw [rows_pass]
  · simp only [ho, hg, Bool.true_and, beq_self_eq_true, if_true]
  · simp [hlen, h0, ht, hz, hr]

end HelmCommandRules

/-- Settles O9: no row refuses the request, and the accesses in ascending order are the handler's fold. -/
theorem helmCommandsRun : Obligations.HelmCommandsRun := by
  unfold Obligations.HelmCommandsRun
  refine ⟨?hello, ?evtCtl, ?regRead, ?regWrite⟩
  case hello =>
    intro r s ha hlen hz hle hlo hhi hv hq
    rw [exec_hello ha, hello_answers (c := callOf r s) (s := busy 0x0001 r s) rfl hlen hz hle hlo hhi hv ((sess_busy ..).symm ▸ accepted_opened ha) rfl]
    · rfl
    · intro e he hw hs hg
      obtain rfl | he := mset_mem he
      · exact absurd rfl hw
      · exact hq e he hw hs hg
  case evtCtl =>
    intro r s ha hlen h0 ht hz
    rw [exec_evtCtl ha, evtCtl_sets (c := callOf r s) (s := busy 0x0004 r s) rfl hlen h0 ht hz ((sess_busy ..).symm ▸ accepted_opened ha) rfl]
    rfl
  case regRead =>
    intro r s ha hlen h4 hoff hz hk htop hm
    rw [exec_regRead ha, regReadCmd_reads (c := callOf r s) (s := busy 0x0002 r s) rfl hlen h4 hoff hz hk htop]
    · rfl
    · simpa [allMapped] using hm
  case regWrite =>
    intro r s ha hlen h4 hoff hz hk htop hm hd
    rw [exec_regWrite ha, regWriteCmd_writes (c := callOf r s) (s := busy 0x0003 r s) rfl hlen h4 hoff hz hk htop _ hd]
    · rfl
    · simpa [allMapped] using hm

end Sys2Proof.Machine
end

section
/-! PROOFS. VER_OPEN, VER_ABORT, COMMIT_AT, VER_STATUS and VER_CTL (R436, R439, R442, R443, R445, R447); O16. -/

namespace Sys2Proof.Machine
open Sys2Proof

section VersionCommandRules
variable {r : Req} {s : State} {c : Call}

/-! ### The rows of accepted commands -/

theorem exec_verOpen (ha : accepted 0x0C01 0x10 r s = true) :
    exec (.verOpen r) s = .next (settled 0x0C01 r (verOpen (callOf r s) (busy 0x0C01 r s))) :=
  congrArg _ (mbxRow_accepted (by decide) (by decide) ha)

theorem exec_verAbort (ha : accepted 0x0C02 0x10 r s = true) :
    exec (.verAbort r) s = .next (settled 0x0C02 r (verAbort (callOf r s) (busy 0x0C02 r s))) :=
  congrArg _ (mbxRow_accepted (by decide) (by decide) ha)

theorem exec_commitAt (ha : accepted 0x0C03 0x10 r s = true) :
    exec (.commitAt r) s = .next (settled 0x0C03 r (commitAt (callOf r s) (busy 0x0C03 r s))) :=
  congrArg _ (mbxRow_accepted (by decide) (by decide) ha)

theorem exec_verStatus (ha : accepted 0x0C04 0x10 r s = true) :
    exec (.verStatus r) s = .next (settled 0x0C04 r (verStatus (callOf r s) (busy 0x0C04 r s))) :=
  congrArg _ (mbxRow_accepted (by decide) (by decide) ha)

theorem exec_verCtl (ha : accepted 0x0C05 0x14 r s = true) :
    exec (.verCtl r) s = .next (settled 0x0C05 r (verCtl (callOf r s) (busy 0x0C05 r s))) :=
  congrArg _ (mbxRow_accepted (by decide) (by decide) ha)

/-! ### The handlers -/

theorem verOpen_opens (hlen : c.p.length = 4) (hz : leAt c.p 2 2 = 0) (hround : s.ver.round = none) (hready : s.mem.ready = true)
    (holder : s.ver.older = none) (hfree : leAt c.p 0 2 = 0 ∨ liveObjs s (leAt c.p 0 2) = none) :
    verOpen c s = okay (setRound
      { num := if leAt c.p 0 2 = 0 then nextVersion (newestNum s) else leAt c.p 0 2, objs := s.ver.newest.objs } s) := by
  unfold verOpen
  rw [rows_pass]
  have hlive : (leAt c.p 0 2 != 0 && (liveObjs s (leAt c.p 0 2)).isSome) = false := by
    obtain h | h := hfree <;> simp [h]
  simp [hlen, hz, hlive, noRound, hround, hready, holder]

theorem verAbort_discards (hp : c.p = []) (hround : s.ver.round.isSome = true) :
    verAbort c s = okay { s with ver := { s.ver with round := none } } := by
  unfold verAbort
  rw [rows_pass]
  simpa [hp, noRound] using hround

theorem commitAt_arms {x : Round} (hlen : c.p.length = 8) (hround : s.ver.round = some x) (hlo : now s + 10000 ≤ leAt c.p 0 8)
    (hhi : leAt c.p 0 8 ≤ now s + 600000000000) : commitAt c s = okay (setRound { x with armed := some (leAt c.p 0 8) } s) := by
  unfold commitAt
  rw [rows_pass]
  · simp [onRound, hround]
  · simp [hlen, noRound, hround, not_lt.mpr hlo, not_lt.mpr hhi]

theorem verStatus_summary (hlen : c.p.length = 8) (hz : zeroAt c.p 1 3 = true) (hw : u8 c.p 0 = 0) :
    verStatus c s = reply (verSummary s) s := by
  unfold verStatus
  rw [rows_pass]
  · simp [hw]
  · simp [hlen, hz, hw]

/-- The objects that WHAT names: the newest version's, the older one's, or those of a round whose bearing is ready. -/
def NamedObjs (s : State) (w : Nat) (o : Option Objs) : Prop :=
  (w = 1 ∧ o = if newestNum s = 0 then none else some s.ver.newest.objs) ∨
  (w = 2 ∧ ∃ l, s.ver.older = some l ∧ o = some l.1.objs) ∨
  (w = 3 ∧ ∃ x, s.ver.round = some x ∧ x.bearingReady = true ∧ o = some x.objs)

theorem verStatus_records {o : Option Objs} (hlen : c.p.length = 8) (hz : zeroAt c.p 1 3 = true) (ho : NamedObjs s (u8 c.p 0) o)
    (hfirst : (o.elim [] objIds).length = 0 ∨ leAt c.p 4 4 < (o.elim [] objIds).length) :
    verStatus c s = reply (verRecords o (leAt c.p 4 4)) s := by
  have hids : (o.map objIds).getD [] = o.elim [] objIds := by cases o <;> rfl
  have hrange : (o.elim [] objIds).length ≠ 0 → leAt c.p 4 4 < (o.elim [] objIds).length := hfirst.resolve_left
  unfold verStatus
  obtain ⟨hw, rfl⟩ | ⟨hw, l, hl, rfl⟩ | ⟨hw, x, hx, hready, rfl⟩ := ho
  · rw [rows_pass]
    · simp [hw]
    · simp only [hw, hids]
      simpa [hlen, hz] using hrange
  · rw [rows_pass]
    · simp [hw, hl]
    · simpa [hlen, hz, hw, hl] using hrange
  · rw [rows_pass]
    · simp [hw, hx]
    · simpa [hlen, hz, hw, hx, hready] using hrange

theorem verCtl_sets (hlen : c.p.length = 8) (hpol : u8 c.p 0 ≤ 2) (hz : leAt c.p 6 2 = 0)
    (hpar : u8 c.p 1 = 0xFF ∨ (u8 c.p 1 ≤ 7 ∧ bit (u8 c.p 2) (u8 c.p 1) = false ∧ bit s.nv.linkRetired (u8 c.p 1) = false))
    (hlo : 1 ≤ leAt c.p 4 2) (hhi : leAt c.p 4 2 ≤ 1000) (hch : u8 c.p 2 &&& s.nv.linkRetired = 0) :
    verCtl c s = okay { s with ver := { s.ver with
      policy := u8 c.p 0, parent := u8 c.p 1, children := u8 c.p 2, height := u8 c.p 3, retainMs := leAt c.p 4 2 } } := by
  unfold verCtl
  rw [rows_pass]
  have hret : leAt c.p 4 2 ≠ 0 := by omega
  obtain h | ⟨h, hb, hl⟩ := hpar
  · simp [hlen, hz, hch, hret, not_lt.mpr hpol, not_lt.mpr hhi, h]
  · simp [hlen, hz, hch, hret, not_lt.mpr hpol, not_lt.mpr hhi, not_lt.mpr h, hb, hl]

end VersionCommandRules

/-- Settles O16: no row of the command's table refuses the request, so its effect is the handler's last line. -/
theorem versionCommandsComplete : Obligations.VersionCommandsComplete := by
  unfold Obligations.VersionCommandsComplete
  refine ⟨?opens, ?aborts, ?commits, ?status, ?ctl⟩
  case opens =>
    intro r s ha hlen hz hround hready holder hfree
    rw [exec_verOpen ha, verOpen_opens (c := callOf r s) (s := busy 0x0C01 r s) hlen hz hround hready holder hfree]
    rfl
  case aborts =>
    intro r s ha hp hround
    rw [exec_verAbort ha, verAbort_discards (c := callOf r s) (s := busy 0x0C02 r s) hp hround]
    rfl
  case commits =>
    intro r s x ha hlen hround hlo hhi
    rw [exec_commitAt ha, commitAt_arms (c := callOf r s) (s := busy 0x0C03 r s) hlen hround hlo hhi]
    rfl
  case status =>
    intro r s ha hlen hz
    refine ⟨fun hw => ?summary, fun o ho hfirst => ?records⟩
    case summary =>
      rw [exec_verStatus ha, verStatus_summary (c := callOf r s) (s := busy 0x0C04 r s) hlen hz hw]
      rfl
    case records =>
      rw [exec_verStatus ha, verStatus_records (c := callOf r s) (s := busy 0x0C04 r s) hlen hz ho hfirst]
      rfl
  case ctl =>
    intro r s ha hlen hpol hz hpar hlo hhi hch
    rw [exec_verCtl ha, verCtl_sets (c := callOf r s) (s := busy 0x0C05 r s) hlen hpol hz hpar hlo hhi hch]
    rfl

end Sys2Proof.Machine
end

section
/-! PROOFS. CL_CHIP_ID, CL_ROUTE_SET, CL_UNRETIRE and CL_RELAY (R412, R414, R420, R421); O15. -/

namespace Sys2Proof.Machine
open Sys2Proof

section ChainCommandRules
variable {r : Req} {s : State} {c : Call}

/-! ### The rows of accepted commands -/

theorem exec_clChipId (ha : accepted 0x0B01 0x10 r s = true) :
    exec (.clChipId r) s = .next (settled 0x0B01 r (clChipId (callOf r s) (busy 0x0B01 r s))) :=
  congrArg _ (mbxRow_accepted (by decide) (by decide) ha)

theorem exec_clRouteSet (ha : accepted 0x0B02 0x10 r s = true) :
    exec (.clRouteSet r) s = .next (settled 0x0B02 r (clRouteSet (callOf r s) (busy 0x0B02 r s))) :=
  congrArg _ (mbxRow_accepted (by decide) (by decide) ha)

theorem exec_clUnretire (ha : accepted 0x0B03 0x10 r s = true) :
    exec (.clUnretire r) s = .next (settled 0x0B03 r (clUnretire (callOf r s) (busy 0x0B03 r s))) :=
  congrArg _ (mbxRow_accepted (by decide) (by decide) ha)

theorem exec_clRelay (ha : accepted 0x0B10 0x13 r s = true) :
    exec (.clRelay r) s = .next (settled 0x0B10 r (clRelay (callOf r s) (busy 0x0B10 r s))) :=
  congrArg _ (mbxRow_accepted (by decide) (by decide) ha)

/-- The payload of an accepted request fits its mailbox (R463). -/
theorem accepted_payload_le {op since : Nat} (h : accepted op since r s = true) : r.payload.length ≤ 4080 := by
  simp only [accepted, passesChecks, Bool.and_eq_true, decide_eq_true_eq] at h
  grind

/-! ### The handlers -/

theorem clChipId_assigns (hlen : c.p.length = 4) (hz : zeroAt c.p 2 2 = true) (hchip : s.chip = none ∨ s.chip = some (leAt c.p 0 2)) :
    clChipId c s = okay { s with chip := some (leAt c.p 0 2) } := by
  unfold clChipId
  rw [rows_pass]
  obtain h | h := hchip <;> simp [hlen, hz, h]

theorem clRouteSet_writes (hlen : c.p.length = 8 + leAt c.p 2 2) (hz : zeroAt c.p 4 4 = true) (hok : ∀ e ∈ c.p.drop 8, routeOk e = true)
    (hlo : 1 ≤ leAt c.p 2 2) (hhi : leAt c.p 2 2 ≤ 4072) (hend : leAt c.p 0 2 + leAt c.p 2 2 ≤ 65536) (hchip : s.chip.isSome = true) :
    clRouteSet c s = okay (endLost { s with cl := { s.cl with
      route := ((c.p.drop 8).zipIdx).foldl (fun m e => msetD m (leAt c.p 0 2 + e.2) e.1.toNat 0xFF) s.cl.route } }) := by
  have hn : leAt c.p 2 2 ≠ 0 := by omega
  have hall : (c.p.drop 8).all routeOk = true := List.all_eq_true.mpr hok
  unfold clRouteSet
  rw [rows_pass]
  simpa [hlen, hz, hn, hall, not_lt.mpr hhi, not_lt.mpr hend] using hchip

theorem clUnretire_restores (hlen : c.p.length = 4) (hn : u8 c.p 0 ≤ 7) (hm : u8 c.p 1 ≠ 0) (hz : zeroAt c.p 2 2 = true)
    (hold : mgetD s.nv.laneRetired (u8 c.p 0) 0 &&& u8 c.p 1 ≠ 0) :
    clUnretire c s = okay (retrainLink (u8 c.p 0) { s with nv := { s.nv with
      laneRetired := msetD s.nv.laneRetired (u8 c.p 0) (clrMask (mgetD s.nv.laneRetired (u8 c.p 0) 0) (u8 c.p 1)) 0,
      linkRetired := clrBit s.nv.linkRetired (u8 c.p 0) } }) := by
  unfold clUnretire
  rw [rows_pass]
  simp [hlen, not_lt.mpr hn, hm, hz, hold]

/-- What a relay does once no row refuses it: the request waits for its response, and the frame leaves as `send` says. -/
def relayEffect (c : Call) (send : Tag → Bytes → State → State) (chip : Nat) (s : State) : State :=
  let x := newTag (helmUnit s) 5 (leAt c.p 0 2) (leAt (c.p.drop 16) 4 4) (newestNum s) 0xFFFFFFFF 7 0 false false s
  send x.1 (ctlPrefix 1 c.anchored ++ c.p.drop 16) { x.2 with cl := { x.2.cl with relays := x.2.cl.relays ++
    [{ mbx := c.who, wid := leAt (c.p.drop 16) 4 4, ends := now x.2 + leAt c.p 10 2 * 1000000, chip := chip }] } }

theorem clRelay_routed (hmin : 32 ≤ c.p.length) (hmax : c.p.length ≤ 4080) (hlen : c.p.length = 32 + leAt c.p 18 2)
    (hmode : u8 c.p 2 = 0) (hplen : u8 c.p 3 = 0) (hpath : leAt c.p 4 6 = 0) (hlo : 1 ≤ leAt c.p 10 2) (hhi : leAt c.p 10 2 ≤ 10000)
    (hz : zeroAt c.p 12 4 = true) (hchip : s.chip.isSome = true) (hdest : leAt c.p 0 2 ≠ chipId s)
    (hroute : routeLost s (leAt c.p 0 2) = false) :
    clRelay c s = { waits := true, s := relayEffect c (sendTag (leAt c.p 0 2)) (leAt c.p 0 2) s } := by
  have hms : leAt c.p 10 2 ≠ 0 := by omega
  unfold clRelay
  rw [rows_pass]
  · simp only [hmode, if_true]
    rfl
  · have hinner : c.p.length - 16 = 16 + leAt c.p 18 2 := by omega
    simpa [leAt_drop, hinner, not_lt.mpr hmax, hmode, hplen, hpath, hms, not_lt.mpr hhi, hz, hdest, hroute] using hchip

theorem clRelay_pathed (hmin : 32 ≤ c.p.length) (hmax : c.p.length ≤ 4080) (hlen : c.p.length = 32 + leAt c.p 18 2)
    (hmode : u8 c.p 2 = 1) (hplo : 1 ≤ u8 c.p 3) (hphi : u8 c.p 3 ≤ 15) (hlo : 1 ≤ leAt c.p 10 2) (hhi : leAt c.p 10 2 ≤ 10000)
    (hz : zeroAt c.p 12 4 = true) (hchip : s.chip.isSome = true) (hlink : bit s.nv.linkRetired (leAt c.p 4 6 % 8) = false) :
    clRelay c s = { waits := true, s := relayEffect c (fun tag body => sendPath (pathFrame
      (be 2 (leAt c.p 0 2) ++ le 1 (u8 c.p 3) ++ [0] ++ be 6 (leAt c.p 4 6)) (tagBytes tag) body)) 65536 s } := by
  have hms : leAt c.p 10 2 ≠ 0 := by omega
  have hpl : u8 c.p 3 ≠ 0 := by omega
  unfold clRelay
  rw [rows_pass]
  · simp only [hmode, Nat.one_ne_zero, if_false]
    rfl
  · have hinner : c.p.length - 16 = 16 + leAt c.p 18 2 := by omega
    simpa [leAt_drop, hinner, not_lt.mpr hmax, hmode, hpl, not_lt.mpr hphi, hms, not_lt.mpr hhi, hz, hlink] using hchip

theorem relayEffect_busy (send : Tag → Bytes → State → State) (chip : Nat) :
    relayEffect (callOf r s) send chip (busy 0x0B10 r s) = relaySent r send chip s := by
  rfl

end ChainCommandRules

/-- Settles O15: no row of the command's table refuses the request, so its effect is the handler's last line. -/
theorem chainCommandsComplete : Obligations.ChainCommandsComplete := by
  unfold Obligations.ChainCommandsComplete
  refine ⟨?chip, ?route, ?unretire, ?routed, ?pathed⟩
  case chip =>
    intro r s ha hlen _ hz hchip
    rw [exec_clChipId ha, clChipId_assigns (c := callOf r s) (s := busy 0x0B01 r s) hlen hz hchip]
    rfl
  case route =>
    intro r s ha hlen hz hok hlo hhi hend hchip
    rw [exec_clRouteSet ha, clRouteSet_writes (c := callOf r s) (s := busy 0x0B02 r s) hlen hz hok hlo hhi hend hchip]
    rfl
  case unretire =>
    intro r s ha hlen hn hm hz hold
    rw [exec_clUnretire ha, clUnretire_restores (c := callOf r s) (s := busy 0x0B03 r s) hlen hn hm hz hold]
    rfl
  case routed =>
    intro r s ha hmin hlen hmode hplen hpath hlo hhi hz hchip hdest hroute
    rw [exec_clRelay ha, clRelay_routed (c := callOf r s) (s := busy 0x0B10 r s) hmin (accepted_payload_le ha) hlen hmode hplen hpath
      hlo hhi hz hchip hdest hroute, settled_waits, relayEffect_busy]
    rfl
  case pathed =>
    intro r s ha hmin hlen hmode hplo hphi hlo hhi hz hchip hlink
    rw [exec_clRelay ha, clRelay_pathed (c := callOf r s) (s := busy 0x0B10 r s) hmin (accepted_payload_le ha) hlen hmode hplo hphi
      hlo hhi hz hchip hlink, settled_waits, relayEffect_busy]
    rfl

end Sys2Proof.Machine
end

section
/-! PROOFS. RST, BLK_CTL, QUIESCE_SET and RST_REMOTE (R481, R486, R487); O17. -/

namespace Sys2Proof.Machine
open Sys2Proof

section ResetCommandRules
variable {r : Req} {s : State} {c : Call}

/-! ### The rows of accepted commands -/

theorem exec_rst (ha : accepted 0x0D01 0x10 r s = true) :
    exec (.rst r) s = .next (settled 0x0D01 r (rst (callOf r s) (busy 0x0D01 r s))) :=
  congrArg _ (mbxRow_accepted (by decide) (by decide) ha)

theorem exec_blkCtl (ha : accepted 0x0D02 0x10 r s = true) :
    exec (.blkCtl r) s = .next (settled 0x0D02 r (blkCtl (callOf r s) (busy 0x0D02 r s))) :=
  congrArg _ (mbxRow_accepted (by decide) (by decide) ha)

theorem exec_quiesceSet (ha : accepted 0x0D03 0x10 r s = true) :
    exec (.quiesceSet r) s = .next (settled 0x0D03 r (quiesceSet (callOf r s) (busy 0x0D03 r s))) :=
  congrArg _ (mbxRow_accepted (by decide) (by decide) ha)

theorem exec_rstRemote (ha : accepted 0x0D04 0x10 r s = true) :
    exec (.rstRemote r) s = .next (settled 0x0D04 r (rstRemote (callOf r s) (busy 0x0D04 r s))) :=
  congrArg _ (mbxRow_accepted (by decide) (by decide) ha)

/-! ### RST, QUIESCE_SET and RST_REMOTE -/

theorem rst_level1 (hlen : c.p.length = 4) (hl : u8 c.p 0 = 1) (hz : zeroAt c.p 1 3 = true) : rst c s = okay s := by
  unfold rst
  rw [rows_pass]
  · simp [hl]
  · simp [hlen, hl, hz]

theorem rst_level2 (hlen : c.p.length = 4) (hl : u8 c.p 0 = 2) (hz : zeroAt c.p 1 3 = true) :
    rst c s = { waits := true, s := assertSrc 5 { s with sys := { s.sys with rstWait := s.sys.rstWait ++ [c.who] } } } := by
  unfold rst
  rw [rows_pass]
  · simp [hl]
  · simp [hlen, hl, hz]

theorem quiesceSet_sets (hlen : c.p.length = 4) (hlo : 1 ≤ leAt c.p 0 4) (hhi : leAt c.p 0 4 ≤ 10000) :
    quiesceSet c s = okay { s with sys := { s.sys with quiesceUs := leAt c.p 0 4 } } := by
  have h0 : leAt c.p 0 4 ≠ 0 := by omega
  unfold quiesceSet
  rw [rows_pass]
  simp [hlen, h0, not_lt.mpr hhi]

/-- A reset request leaves over link `n` for the chip `d` behind it, and its mailbox waits until the frame has left. -/
def remoteRequest (c : Call) (n d : Nat) (s : State) : State :=
  let x := newTag (helmUnit s) 5 d c.seq (newestNum s) 0xFFFFFFFF 7 0 false false s
  let f := pathFrame (be 2 d ++ [1, 0] ++ be 6 n) (tagBytes x.1) (ctlPrefix 3 c.anchored)
  enqueue n f { x.2 with cl := { x.2.cl with rstReqs := x.2.cl.rstReqs ++ [{ who := c.who, link := n, frame := f }] } }

theorem rstRemote_sends {d l : Nat} {v : Bool} (hlen : c.p.length = 4) (hn : u8 c.p 0 ≤ 7) (hz : zeroAt c.p 1 3 = true)
    (hret : bit s.nv.linkRetired (u8 c.p 0) = false) (hup : linkUp s (u8 c.p 0) = true) (hchip : s.chip.isSome = true)
    (hpart : (link s (u8 c.p 0)).partner = some (d, l, v)) :
    rstRemote c s = { waits := true, s := remoteRequest c (u8 c.p 0) d s } := by
  unfold rstRemote
  rw [rows_pass]
  · simp only [hpart]
    rfl
  · simpa [hlen, not_lt.mpr hn, hz, hret, hup] using hchip

/-! ### BLK_CTL -/

/-- The unit that a request names: of a core its physical number. -/
def blkPlace (c : Call) (s : State) : Nat := if u8 c.p 0 = 0 then physOf s (leAt c.p 2 2) else leAt c.p 2 2

/-- What BLK_CTL does to unit `i` of kind `u` once no row refuses it. -/
def blkEffect (who u op i : Nat) (s : State) : CmdRes :=
  if op = 0 then
    if u = 5 && i = s.helm.active then
      { waits := true, s := setBlk 5 i { blk (takeover s) 5 i with who := some who } (takeover s) }
    else if blkOff s u i then okay (clearUnit u i s)
    else
      { waits := true, s := startQuiesce u i (some 0) (some who) <|
          match u with
          | 2 => if trained (port s i) then setPort i { port s i with st := 7, since := now s } s else s
          | 3 => if (link s i).st = 5 then quiesceLink i s else s
          | _ => s }
  else if op = 1 then
    if blkOff s u i then okay s
    else { waits := true, s := startQuiesce u i (some 1) (some who) (match u with | 2 => clrPortEn i s | 3 => clrLinkEn i s | _ => s) }
  else okay (match u with | 2 => setPortEn i (setBlk u i {} s) | 3 => setLinkEn i (setBlk u i {} s) | _ => setBlk u i {} s)

/-- What the rows of BLK_CTL ask for every operation: a unit that is there, not retired, and with no operation under way. -/
structure BlkNamed (c : Call) (s : State) : Prop where
  length : c.p.length = 8
  zero : zeroAt c.p 4 4 = true
  kind : u8 c.p 0 ≤ 5
  there : leAt c.p 2 2 < blkCount s (u8 c.p 0)
  core : u8 c.p 0 = 0 → bit s.nv.coreRetired (blkPlace c s) = false
  cmp : u8 c.p 0 = 1 → bit s.nv.cmpRetired (blkPlace c s) = false
  link : u8 c.p 0 = 3 → bit s.nv.linkRetired (blkPlace c s) = false
  idle : (blk s (u8 c.p 0) (blkPlace c s)).op = none
  moving : (blk s (u8 c.p 0) (blkPlace c s)).st ≠ 4

/-- What the rows ask of each operation: OP 1 and 2 not on a memory or a helm pair; OP 0 of the active pair only with a
standby; OP 1 of a core only where nothing is placed on it; OP 2 only of a unit that is off. -/
def opMeets (c : Call) (s : State) : Prop :=
  (u8 c.p 1 = 0 ∧ (u8 c.p 0 = 5 → blkPlace c s = s.helm.active → s.helm.standby = true)) ∨
  (u8 c.p 1 = 1 ∧ u8 c.p 0 < 4 ∧ (u8 c.p 0 = 0 → placedOn s (leAt c.p 2 2) = false)) ∨
  (u8 c.p 1 = 2 ∧ u8 c.p 0 < 4 ∧ blkOff s (u8 c.p 0) (blkPlace c s) = true)

theorem blkCtl_effect (h : BlkNamed c s) (hop : opMeets c s) :
    blkCtl c s = blkEffect c.who (u8 c.p 0) (u8 c.p 1) (blkPlace c s) s := by
  obtain ⟨hlen, hz, hu, hn, hcore, hcmp, hlink, hidle, hmov⟩ := h
  have hret : ((u8 c.p 0 == 0 && bit s.nv.coreRetired (blkPlace c s)) || (u8 c.p 0 == 1 && bit s.nv.cmpRetired (blkPlace c s)) ||
      (u8 c.p 0 == 3 && bit s.nv.linkRetired (blkPlace c s))) = false := by
    simp only [Bool.or_eq_false_iff, Bool.and_eq_false_imp, beq_iff_eq]
    exact ⟨⟨hcore, hcmp⟩, hlink⟩
  unfold blkCtl
  rw [rows_pass]
  · rfl
  · change ∀ e ∈ [_, _, _, (_, (u8 c.p 0 == 0 && bit s.nv.coreRetired (blkPlace c s)) ||
      (u8 c.p 0 == 1 && bit s.nv.cmpRetired (blkPlace c s)) || (u8 c.p 0 == 3 && bit s.nv.linkRetired (blkPlace c s))),
      (_, (_ || (_ && !blkOff s (u8 c.p 0) (blkPlace c s)) || (_ && _ && blkPlace c s == _ && _))),
      (_, (blk s (u8 c.p 0) (blkPlace c s)).op.isSome || (blk s (u8 c.p 0) (blkPlace c s)).st == 4)], _
    obtain ⟨h1, hpair⟩ | ⟨h1, h4, hplaced⟩ | ⟨h1, h4, hoff⟩ := hop
    · simpa [hret, hlen, hz, not_lt.mpr hu, not_le.mpr hn, h1, hidle, hmov] using hpair
    · simpa [hret, hlen, hz, not_lt.mpr hu, not_le.mpr hn, h1, not_le.mpr h4, hidle, hmov] using hplaced
    · simp [hret, hlen, hz, not_lt.mpr hu, not_le.mpr hn, h1, not_le.mpr h4, hidle, hmov, hoff]

section Effects
variable {who u i : Nat}

theorem blkEffect_takeover : blkEffect who 5 0 s.helm.active s =
    { waits := true, s := setBlk 5 s.helm.active { blk (takeover s) 5 s.helm.active with who := some who } (takeover s) } := by
  simp [blkEffect]

theorem blkEffect_clears (hpair : ¬(u = 5 ∧ i = s.helm.active)) (hoff : blkOff s u i = true) :
    blkEffect who u 0 i s = okay (clearUnit u i s) := by
  simp [blkEffect, hpair, hoff]

theorem blkEffect_quiesces (hpair : ¬(u = 5 ∧ i = s.helm.active)) (hoff : blkOff s u i = false) :
    blkEffect who u 0 i s = { waits := true, s := startQuiesce u i (some 0) (some who) (
      if u = 2 ∧ trained (port s i) = true then setPort i { port s i with st := 7, since := now s } s
      else if u = 3 ∧ (link s i).st = 5 then quiesceLink i s else s) } := by
  by_cases h2 : u = 2
  · subst h2
    simp [blkEffect, hoff]
  by_cases h3 : u = 3
  · subst h3
    simp [blkEffect, hoff]
  · simp [blkEffect, hpair, hoff, h2, h3]

theorem blkEffect_off_stays (hoff : blkOff s u i = true) : blkEffect who u 1 i s = okay s := by
  simp [blkEffect, hoff]

theorem blkEffect_shuts (hoff : blkOff s u i = false) :
    blkEffect who u 1 i s = { waits := true, s := startQuiesce u i (some 1) (some who) (
      if u = 2 then clrPortEn i s else if u = 3 then clrLinkEn i s else s) } := by
  by_cases h2 : u = 2
  · subst h2
    simp [blkEffect, hoff]
  by_cases h3 : u = 3
  · subst h3
    simp [blkEffect, hoff]
  · simp [blkEffect, hoff, h2, h3]

theorem blkEffect_restores : blkEffect who u 2 i s = okay (
    if u = 2 then setPortEn i (setBlk 2 i {} s) else if u = 3 then setLinkEn i (setBlk 3 i {} s) else setBlk u i {} s) := by
  by_cases h2 : u = 2
  · subst h2
    simp [blkEffect]
  by_cases h3 : u = 3
  · subst h3
    simp [blkEffect]
  · simp [blkEffect, h2, h3]

end Effects

end ResetCommandRules

/-- Settles O17: no row of the command's table refuses the request; what BLK_CTL then does splits by operation and unit. -/
theorem resetCommandsComplete : Obligations.ResetCommandsComplete := by
  unfold Obligations.ResetCommandsComplete
  refine ⟨?level1, ?level2, ?block, ?timeout, ?remote⟩
  case level1 =>
    intro r s ha hlen hl hz
    rw [exec_rst ha, rst_level1 (c := callOf r s) (s := busy 0x0D01 r s) hlen hl hz]
    rfl
  case level2 =>
    intro r s ha hlen hl hz
    rw [exec_rst ha, rst_level2 (c := callOf r s) (s := busy 0x0D01 r s) hlen hl hz]
    rfl
  case block =>
    intro r s u i ha hlen hz hu hle hi hn hcore hcmp hlink hidle hmov
    subst hu
    have hplace : blkPlace (callOf r s) (busy 0x0D02 r s) = i := hi.symm
    have hnamed : BlkNamed (callOf r s) (busy 0x0D02 r s) :=
      ⟨hlen, hz, hle, hn, hplace ▸ hcore, hplace ▸ hcmp, hplace ▸ hlink, hplace ▸ hidle, hplace ▸ hmov⟩
    have hexec (hop : opMeets (callOf r s) (busy 0x0D02 r s)) : exec (.blkCtl r) s =
        .next (settled 0x0D02 r (blkEffect r.mbx (u8 r.payload 0) (u8 r.payload 1) i (busy 0x0D02 r s))) := by
      rw [exec_blkCtl ha, blkCtl_effect hnamed hop, hplace]
      rfl
    refine ⟨fun h1 h5 hact hsb => ?takes, fun h1 hpair hoff => ?clears, fun h1 hpair hoff => ?quiesces, fun h1 h4 hpl hoff => ?stays,
      fun h1 h4 hpl hoff => ?shuts, fun h1 h4 hoff => ?restores⟩
    case takes =>
      rw [hexec (.inl ⟨h1, fun _ _ => hsb⟩), h1, h5, hact]
      exact congrArg (fun x => Host.Outcome.next (settled 0x0D02 r x)) (blkEffect_takeover (s := busy 0x0D02 r s))
    case clears =>
      rw [hexec (.inl ⟨h1, fun h5 h => absurd ⟨h5, hplace ▸ h⟩ hpair⟩), h1, blkEffect_clears (s := busy 0x0D02 r s) hpair hoff]
      rfl
    case quiesces =>
      rw [hexec (.inl ⟨h1, fun h5 h => absurd ⟨h5, hplace ▸ h⟩ hpair⟩), h1, blkEffect_quiesces (s := busy 0x0D02 r s) hpair hoff]
      rfl
    case stays =>
      rw [hexec (.inr (.inl ⟨h1, h4, hpl⟩)), h1, blkEffect_off_stays (s := busy 0x0D02 r s) hoff]
      rfl
    case shuts =>
      rw [hexec (.inr (.inl ⟨h1, h4, hpl⟩)), h1, blkEffect_shuts (s := busy 0x0D02 r s) hoff]
      rfl
    case restores =>
      rw [hexec (.inr (.inr ⟨h1, h4, hplace ▸ hoff⟩)), h1, blkEffect_restores]
      rfl
  case timeout =>
    intro r s ha hlen hlo hhi
    rw [exec_quiesceSet ha, quiesceSet_sets (c := callOf r s) (s := busy 0x0D03 r s) hlen hlo hhi]
    rfl
  case remote =>
    intro r s d l v ha hlen hn hz hret hup hchip hpart
    rw [exec_rstRemote ha, rstRemote_sends (c := callOf r s) (s := busy 0x0D04 r s) hlen hn hz hret hup hchip hpart]
    rfl

end Sys2Proof.Machine
end

section
/-! PROOFS. TA_ADD, TA_REMOVE, ATTEST, CERT_READ, DBG_CHALLENGE and DBG_UNLOCK (R474, R499 to R502, R504); O18. -/

namespace Sys2Proof.Machine
open Sys2Proof

/-! ### Fields of a record -/

@[simp] theorem length_le (n x : Nat) : (le n x).length = n := by simp [le]

theorem le_succ (n x : Nat) : le (n + 1) x = BitVec.ofNat 8 x :: le n (x / 256) := by
  simp [le, List.range_succ_eq_map, Function.comp_def, Nat.pow_succ', Nat.div_div_eq_div_mul]

theorem leNat_le (n x : Nat) : leNat (le n x) = x % 256 ^ n := by
  induction n generalizing x with
  | zero => simp [le, leNat, Nat.mod_one]
  | succ n ih =>
    have hcons : leNat (le (n + 1) x) = x % 256 + 256 * leNat (le n (x / 256)) := by simp [le_succ, leNat]
    rw [hcons, ih, Nat.pow_succ', Nat.mod_mul]

theorem sub_append {a b : Bytes} {n k : Nat} (ha : a.length = n) (hk : k ≤ b.length) (r : Bytes) : sub (a ++ (b ++ r)) n k = b.take k := by
  subst ha
  simp [sub, List.take_append_of_le_length hk]

theorem padTo_of_length {n : Nat} {b : Bytes} (h : b.length = n) : padTo n b = b := by
  simp [padTo, ← h, zeros]

/-! ### A rule for every session -/

/-- Session `i` becomes what `f` makes of it, where it makes something of it. -/
def sessBy (f : Nat → Sess → Option Sess) (s : State) (i : Nat) : State := (f i (sess s i)).elim s (setSess i · s)

theorem sess_sessBy (f : Nat → Sess → Option Sess) (s : State) (i j : Nat) :
    sess (sessBy f s i) j = if j = i then (f i (sess s i)).getD (sess s i) else sess s j := by
  unfold sessBy
  obtain hf | ⟨x, hf⟩ := Option.eq_none_or_eq_some (f i (sess s i))
  · by_cases h : j = i <;> simp [hf, h]
  · by_cases h : j = i
    · simp [hf, h]
    · simp [hf, h, sess_setSess_other]

theorem sess_foldl_sessBy (f : Nat → Sess → Option Sess) (n : Nat) (s : State) (j : Nat) :
    sess ((List.range n).foldl (sessBy f) s) j = if j < n then (f j (sess s j)).getD (sess s j) else sess s j := by
  induction n with
  | zero => rfl
  | succ n ih =>
    simp only [List.range_succ, List.foldl_append, List.foldl_cons, List.foldl_nil, sess_sessBy]
    obtain h | rfl | h := lt_trichotomy j n
    · simp [ih, h, h.ne, h.trans (Nat.lt_succ_self n)]
    · simp [ih]
    · simp [ih, h.ne', not_lt.mpr h.le, not_lt.mpr (Nat.succ_le_of_lt h)]

/-- Only the sessions change. -/
theorem foldl_sessBy (f : Nat → Sess → Option Sess) (l : List Nat) (s : State) :
    l.foldl (sessBy f) s = { s with helm := { s.helm with sess := (l.foldl (sessBy f) s).helm.sess } } := by
  induction l generalizing s with
  | nil => rfl
  | cons i l ih =>
    have hi : sessBy f s i = { s with helm := { s.helm with sess := (sessBy f s i).helm.sess } } := by
      unfold sessBy
      cases f i (sess s i) <;> rfl
    simp only [List.foldl_cons]
    rw [ih]
    generalize (l.foldl (sessBy f) (sessBy f s i)).helm.sess = x
    rw [hi]

theorem nv_foldl_sessBy (f : Nat → Sess → Option Sess) (l : List Nat) (s : State) : (l.foldl (sessBy f) s).nv = s.nv := by
  rw [foldl_sessBy]

section TrustCommandRules
variable {r : Req} {s : State} {c : Call}

/-! ### The rows of accepted commands -/

theorem exec_taAdd (ha : accepted 0x0D10 0x10 r s = true) :
    exec (.taAdd r) s = .next (settled 0x0D10 r (taAdd (callOf r s) (busy 0x0D10 r s))) :=
  congrArg _ (mbxRow_accepted (by decide) (by decide) ha)

theorem exec_taRemove (ha : accepted 0x0D11 0x10 r s = true) :
    exec (.taRemove r) s = .next (settled 0x0D11 r (taRemove (callOf r s) (busy 0x0D11 r s))) :=
  congrArg _ (mbxRow_accepted (by decide) (by decide) ha)

theorem exec_attest (ha : accepted 0x0D20 0x10 r s = true) :
    exec (.attest r) s = .next (settled 0x0D20 r (attest (callOf r s) (busy 0x0D20 r s))) :=
  congrArg _ (mbxRow_accepted (by decide) (by decide) ha)

theorem exec_certRead (ha : accepted 0x0D21 0x10 r s = true) :
    exec (.certRead r) s = .next (settled 0x0D21 r (certRead (callOf r s) (busy 0x0D21 r s))) :=
  congrArg _ (mbxRow_accepted (by decide) (by decide) ha)

theorem exec_dbgChallenge (ha : accepted 0x0D30 0x10 r s = true) :
    exec (.dbgChallenge r) s = .next (settled 0x0D30 r (dbgChallenge (callOf r s) (busy 0x0D30 r s))) :=
  congrArg _ (mbxRow_accepted (by decide) (by decide) ha)

theorem exec_dbgUnlock (ha : accepted 0x0D31 0x10 r s = true) :
    exec (.dbgUnlock r) s = .next (settled 0x0D31 r (dbgUnlock (callOf r s) (busy 0x0D31 r s))) :=
  congrArg _ (mbxRow_accepted (by decide) (by decide) ha)

/-! ### TA_ADD and TA_REMOVE (R474, R501) -/

/-- What a session becomes when anchor `k` is installed: anchored by it where its chain ends in it; to close, where the
anchor is the first and the chain does not. -/
def anchorSess (chain k : Nat) (first : Bool) (i : Nat) (x : Sess) : Option Sess :=
  if !x.opened then none
  else if bit chain i then some { x with anchors := setBit x.anchors k, anchored := true }
  else if first then some { x with doomed := true }
  else none

theorem anchorSess_getD (chain k : Nat) (first : Bool) (i : Nat) (x : Sess) :
    (anchorSess chain k first i x).getD x = if x.opened = true then
      (if bit chain i then { x with anchors := setBit x.anchors k, anchored := true }
       else if first = true then { x with doomed := true } else x) else x := by
  unfold anchorSess
  by_cases ho : x.opened = true
  · simp only [ho, Bool.not_true, Bool.false_eq_true, if_false, if_true]
    split_ifs <;> rfl
  · simp [ho]

theorem taAdd_installs {k : Nat} (hk : k = u8 c.p 0) (hlen : c.p.length = 8 + leAt c.p 4 2) (h7 : k ≤ 7) (hlo : 1 ≤ leAt c.p 4 2)
    (hhi : leAt c.p 4 2 ≤ 1024) (hsig : c.cr.sigOk = true) (hkind : u8 c.p 1 < 2) (hz1 : leAt c.p 2 2 = 0) (hz2 : leAt c.p 6 2 = 0)
    (hfree : mget s.nv.anchors k = none) (hanch : s.nv.anchors = [] ∨ c.anchored = true) :
    taAdd c s = okay
      (let u := (List.range 4).foldl (sessBy (anchorSess c.cr.chain k s.nv.anchors.isEmpty)) s
       { u with nv := { u.nv with anchors := mset u.nv.anchors k (u8 c.p 1, c.p.drop 8) } }) := by
  subst hk
  have hn : leAt c.p 4 2 ≠ 0 := by omega
  have hstep : (fun (t : State) (i : Nat) =>
      if !(sess t i).opened then t
      else if bit c.cr.chain i then setSess i { sess t i with anchors := setBit (sess t i).anchors (u8 c.p 0), anchored := true } t
      else if s.nv.anchors.isEmpty then setSess i { sess t i with doomed := true } t
      else t) = sessBy (anchorSess c.cr.chain (u8 c.p 0) s.nv.anchors.isEmpty) := by
    funext t i
    unfold sessBy anchorSess
    split_ifs <;> rfl
  unfold taAdd
  rw [rows_pass]
  · simp only [hstep]
  · have hrow : (!s.nv.anchors.isEmpty && !c.anchored) = false := by
      obtain h | h := hanch <;> simp [h]
    simp [hlen, hn, hsig, hz1, hz2, hfree, hrow, not_lt.mpr h7, not_lt.mpr hhi, not_le.mpr hkind]

/-- What a session becomes when anchor `k` is taken away: to close, where no other anchors it. -/
def unanchorSess (k : Nat) (_ : Nat) (x : Sess) : Option Sess :=
  if x.opened && bit x.anchors k then
    some { x with anchors := clrBit x.anchors k, doomed := x.doomed || clrBit x.anchors k == 0 }
  else none

theorem unanchorSess_getD (k i : Nat) (x : Sess) :
    (unanchorSess k i x).getD x = if x.opened = true ∧ bit x.anchors k = true then
      { x with anchors := clrBit x.anchors k, doomed := x.doomed || clrBit x.anchors k == 0 } else x := by
  unfold unanchorSess
  simp only [Bool.and_eq_true]
  split_ifs <;> rfl

theorem taRemove_removes {k : Nat} (hk : k = u8 c.p 0) (hlen : c.p.length = 4) (h7 : k ≤ 7) (hz : zeroAt c.p 1 3 = true)
    (hthere : (mget s.nv.anchors k).isSome = true) :
    taRemove c s = okay
      (let u := (List.range 4).foldl (sessBy (unanchorSess k)) s
       { u with nv := { u.nv with anchors := mdel u.nv.anchors k } }) := by
  subst hk
  have hstep : (fun (t : State) (i : Nat) =>
      if (sess t i).opened && bit (sess t i).anchors (u8 c.p 0) then
        setSess i { sess t i with anchors := clrBit (sess t i).anchors (u8 c.p 0),
                                  doomed := (sess t i).doomed || clrBit (sess t i).anchors (u8 c.p 0) == 0 } t
      else t) = sessBy (unanchorSess (u8 c.p 0)) := by
    funext t i
    unfold sessBy unanchorSess
    split_ifs <;> rfl
  unfold taRemove
  rw [rows_pass]
  · simp only [hstep]
  · simpa [hlen, hz, not_lt.mpr h7] using hthere

/-! ### ATTEST and CERT_READ (R499, R500) -/

theorem attest_reports (hlen : c.p.length = 40) (hz : zeroAt c.p 34 6 = true)
    (hfirst : modelEntries s = [] ∨ leAt c.p 32 2 < (modelEntries s).length) :
    attest c s = reply (attestBody s (c.p.take 32) (leAt c.p 32 2) ++ padTo 64 (Config.signature (Config.attestKey s.sys.fwDigest)
      (attestBody s (c.p.take 32) (leAt c.p 32 2)) s.free)) { s with free := s.free + 1 } := by
  unfold attest
  rw [rows_pass]
  · rfl
  · simpa [hlen, hz, or_iff_not_imp_left] using hfirst

/-- The report begins with eight bytes of the chip, the count and the nonce (R500). -/
theorem attestBody_head (nonce : Bytes) (first : Nat) :
    ∃ a rest, a.length = 8 ∧ attestBody s nonce first = a ++ (le 8 (now s) ++ (padTo 32 nonce ++ rest)) := by
  refine ⟨le 2 1 ++ le 2 (chipId s) ++ le 1 (b2n s.chip.isSome + 2 * b2n (unlocked s) + 4 * b2n (!s.nv.anchors.isEmpty) +
    8 * s.helm.active) ++ le 1 (s.sys.strap % 16) ++ zeros 2, ?_⟩
  unfold attestBody
  simp only [List.append_assoc]
  constructor
  exact ⟨by simp [zeros], rfl⟩

theorem attestBody_nonce {nonce : Bytes} (h : nonce.length = 32) (first : Nat) : sub (attestBody s nonce first) 16 32 = nonce := by
  obtain ⟨a, rest, ha, hbody⟩ := attestBody_head (s := s) nonce first
  rw [hbody, ← List.append_assoc, padTo_of_length h, sub_append (by simp [ha]) h.ge, ← h, List.take_length]

theorem attestBody_now (nonce : Bytes) (first : Nat) : leAt (attestBody s nonce first) 8 8 = now s % 2 ^ 64 := by
  obtain ⟨a, rest, ha, hbody⟩ := attestBody_head (s := s) nonce first
  have h8 : (le 8 (now s)).length = 8 := length_le ..
  have htake : (le 8 (now s)).take 8 = le 8 (now s) := List.take_of_length_le h8.le
  rw [leAt, hbody, sub_append ha h8.ge, htake, leNat_le, show 256 ^ 8 = 2 ^ 64 from rfl]

theorem certRead_reads (hp : c.p = []) : certRead c s = reply (Config.certificate.take 1024) s := by
  unfold certRead
  rw [rows_pass]
  simp [hp]

/-! ### DBG_CHALLENGE and DBG_UNLOCK (R502, R504) -/

theorem dbgChallenge_draws (hp : c.p = []) :
    dbgChallenge c s = reply (padTo 32 (Config.entropy s.free) ++ idHash) { s with
      free := s.free + 1, sys := { s.sys with challenge := some (padTo 32 (Config.entropy s.free), now s) } } := by
  unfold dbgChallenge
  rw [rows_pass]
  · rfl
  · simp [hp]

theorem dbgUnlock_token {i : Nat} (hlen : c.p.length = 116 + leAt c.p 48 2) (hlo : 1 ≤ leAt c.p 48 2)
    (hhi : leAt c.p 48 2 ≤ 1024) (hslo : 1 ≤ leAt c.p 40 4) (hshi : leAt c.p 40 4 ≤ 7) (hz : zeroAt c.p 44 4 = true)
    (hz2 : leAt c.p 50 2 = 0) (hch : s.sys.challenge = some (c.p.take 32, i)) (hage : now s ≤ i + 60000000000)
    (hexp : now s < leAt c.p 32 8) (hsig : c.cr.sigOk = true) (hroot : debugRoot s c.cr.chain = true) (hanch : c.anchored = true) :
    dbgUnlock c s = okay (unlockDebug (leAt c.p 40 4) (some (leAt c.p 32 8)) false { s with sys := { s.sys with challenge := none } }) := by
  have hne : c.p.isEmpty = false := List.isEmpty_eq_false_iff.mpr (List.ne_nil_of_length_pos (by omega))
  have hn : leAt c.p 48 2 ≠ 0 := by omega
  have hs : leAt c.p 40 4 ≠ 0 := by omega
  have hroot' : debugRoot { s with sys := { s.sys with challenge := none } } c.cr.chain = true := hroot
  unfold dbgUnlock
  rw [hne, Bool.false_and, if_neg Bool.false_ne_true, rows_pass]
  · dsimp only
    rw [rows_pass]
    simp only [List.mem_cons, List.not_mem_nil, or_false, forall_eq_or_imp, forall_eq, decide_eq_false_iff_not, not_le]
    refine ⟨hexp, ?_⟩
    simp [hsig, hroot', hch, hanch]
  · simp [hlen, hn, hs, hz, hz2, hch, hage, not_lt.mpr hhi, not_lt.mpr hshi]

theorem dbgUnlock_strap (hp : c.p = []) (hfree : dbgFree s = true) (hanch : c.anchored = true) :
    dbgUnlock c s = okay (unlockDebug 7 none true s) := by
  unfold dbgUnlock
  rw [hp, hfree]
  simp [rows, hanch]

end TrustCommandRules

/-- Settles O18: no row of the command's table refuses the request; the sessions take a change of anchors one by one. -/
theorem trustCommandsComplete : Obligations.TrustCommandsComplete := by
  unfold Obligations.TrustCommandsComplete
  refine ⟨?add, ?remove, ?attest, ?cert, ?challenge, ?token, ?strap⟩
  case add =>
    intro r s k ha hk hlen h7 hlo hhi hsig hkind hz1 hz2 hfree hanch
    refine ⟨(List.range 4).foldl (sessBy (anchorSess r.cr.chain k s.nv.anchors.isEmpty)) (busy 0x0D10 r s), ?_, foldl_sessBy .., fun i => ?_⟩
    · rw [exec_taAdd ha, taAdd_installs (c := callOf r s) (s := busy 0x0D10 r s) hk hlen h7 hlo hhi hsig hkind hz1 hz2 hfree hanch,
        settled_okay]
      dsimp only
      rw [nv_foldl_sessBy]
      rfl
    · rw [sess_foldl_sessBy, sess_busy, anchorSess_getD, ite_and]
      simp only [List.isEmpty_iff]
  case remove =>
    intro r s k ha hk hlen h7 hz hthere
    refine ⟨(List.range 4).foldl (sessBy (unanchorSess k)) (busy 0x0D11 r s), ?_, foldl_sessBy .., fun i => ?_⟩
    · rw [exec_taRemove ha, taRemove_removes (c := callOf r s) (s := busy 0x0D11 r s) hk hlen h7 hz hthere, settled_okay]
      dsimp only
      rw [nv_foldl_sessBy]
      rfl
    · rw [sess_foldl_sessBy, sess_busy, unanchorSess_getD, ← ite_and]
  case attest =>
    intro r s b ha hlen hz hfirst hb
    rw [hb]
    refine ⟨?_, attestBody_nonce (by simp [hlen]) _, attestBody_now ..⟩
    rw [exec_attest ha, attest_reports (c := callOf r s) (s := busy 0x0D20 r s) hlen hz hfirst, settled_reply, attestBody_busy]
    rfl
  case cert =>
    intro r s ha hp
    rw [exec_certRead ha, certRead_reads (c := callOf r s) (s := busy 0x0D21 r s) hp]
    rfl
  case challenge =>
    intro r s ha hp
    rw [exec_dbgChallenge ha, dbgChallenge_draws (c := callOf r s) (s := busy 0x0D30 r s) hp]
    rfl
  case token =>
    intro r s i ha _ hlen hlo hhi hslo hshi hz hz2 hch hage hexp hsig hroot hanch
    rw [exec_dbgUnlock ha, dbgUnlock_token (c := callOf r s) (s := busy 0x0D31 r s) hlen hlo hhi hslo hshi hz hz2 hch hage hexp hsig
      hroot hanch]
    rfl
  case strap =>
    intro r s ha hp hfree hanch
    rw [exec_dbgUnlock ha, dbgUnlock_strap (c := callOf r s) (s := busy 0x0D31 r s) hp hfree hanch]
    rfl

end Sys2Proof.Machine
end

section
/-! PROOFS. The firmware, fault-ring and observation commands (R496 to R498, R506, R525, R526, R532, R536, R540); O19. -/

namespace Sys2Proof.Machine
open Sys2Proof

/-! ### Bytes that are all zero -/

theorem zeroAt_sub {b : Bytes} {o n o' n' : Nat} (h : zeroAt b o n = true) (ho : o ≤ o') (hn : o' + n' ≤ o + n) : zeroAt b o' n' = true := by
  simp only [zeroAt, sub, List.all_eq_true] at h ⊢
  intro x hx
  refine h x ?_
  have hd : (b.drop o').take n' = (((b.drop o).take n).drop (o' - o)).take n' := by
    rw [List.drop_take, List.drop_drop, List.take_take, Nat.min_eq_left (by omega), Nat.add_sub_cancel' ho]
  rw [hd] at hx
  exact List.mem_of_mem_drop (List.mem_of_mem_take hx)

theorem leNat_zero {b : Bytes} (h : b.all (· == 0) = true) : leNat b = 0 := by
  induction b with
  | nil => rfl
  | cons x b ih =>
    simp only [List.all_cons, Bool.and_eq_true, beq_iff_eq] at h
    obtain ⟨rfl, hb⟩ := h
    have hcons : leNat (0 :: b) = 256 * leNat b := by simp [leNat]
    rw [hcons, ih hb]

theorem leAt_of_zeroAt {b : Bytes} {o n : Nat} (h : zeroAt b o n = true) : leAt b o n = 0 := leNat_zero h

section FirmwareAndObservationRules
variable {r : Req} {s : State} {c : Call}

/-! ### The rows of accepted commands -/

theorem exec_fwLoad (ha : accepted 0x0D40 0x10 r s = true) :
    exec (.fwLoad r) s = .next (settled 0x0D40 r (fwLoad (callOf r s) (busy 0x0D40 r s))) :=
  congrArg _ (mbxRow_accepted (by decide) (by decide) ha)

theorem exec_fwInstall (ha : accepted 0x0D41 0x10 r s = true) :
    exec (.fwInstall r) s = .next (settled 0x0D41 r (fwInstall (callOf r s) (busy 0x0D41 r s))) :=
  congrArg _ (mbxRow_accepted (by decide) (by decide) ha)

theorem exec_fwConfirm (ha : accepted 0x0D42 0x10 r s = true) :
    exec (.fwConfirm r) s = .next (settled 0x0D42 r (fwConfirm (callOf r s) (busy 0x0D42 r s))) :=
  congrArg _ (mbxRow_accepted (by decide) (by decide) ha)

theorem exec_fltRingRead (ha : accepted 0x0E02 0x10 r s = true) :
    exec (.fltRingRead r) s = .next (settled 0x0E02 r (fltRingRead (callOf r s) (busy 0x0E02 r s))) :=
  congrArg _ (mbxRow_accepted (by decide) (by decide) ha)

theorem exec_obsCoreRead (ha : accepted 0x0F01 0x10 r s = true) :
    exec (.obsCoreRead r) s = .next (settled 0x0F01 r (obsCoreRead (callOf r s) (busy 0x0F01 r s))) :=
  congrArg _ (mbxRow_accepted (by decide) (by decide) ha)

theorem exec_logCtl (ha : accepted 0x0F02 0x10 r s = true) :
    exec (.logCtl r) s = .next (settled 0x0F02 r (logCtl (callOf r s) (busy 0x0F02 r s))) :=
  congrArg _ (mbxRow_accepted (by decide) (by decide) ha)

theorem exec_dumpArm (ha : accepted 0x0F10 0x10 r s = true) :
    exec (.dumpArm r) s = .next (settled 0x0F10 r (dumpArm (callOf r s) (busy 0x0F10 r s))) :=
  congrArg _ (mbxRow_accepted (by decide) (by decide) ha)

theorem exec_hvArm (ha : accepted 0x0F20 0x10 r s = true) :
    exec (.hvArm r) s = .next (settled 0x0F20 r (hvArm (callOf r s) (busy 0x0F20 r s))) :=
  congrArg _ (mbxRow_accepted (by decide) (by decide) ha)

theorem exec_hvRead (ha : accepted 0x0F21 0x10 r s = true) :
    exec (.hvRead r) s = .next (settled 0x0F21 r (hvRead (callOf r s) (busy 0x0F21 r s))) :=
  congrArg _ (mbxRow_accepted (by decide) (by decide) ha)

/-! ### Firmware (R496 to R498) -/

theorem fwLoad_writes {t : State} (hp : partOk r 0 4194304 = true) (hz : zeroAt r.payload 8 8 = true) :
    fwLoad (callOf r s) t = okay
      (let old := if leAt r.payload 0 4 = 0 then ([], 0) else (t.sys.load, t.sys.loaded)
       { t with sys := { t.sys with
        load := Mem.store old.1 (leAt r.payload 0 4) (r.payload.drop 16),
        loaded := (List.range ((r.payload.drop 16).length / 32)).foldl (fun m k => setBit m (leAt r.payload 0 4 / 32 + k)) old.2 } }) := by
  have hmore : (!zeroAt r.payload 8 8) = false := by rw [hz]; rfl
  unfold fwLoad
  rw [callOf_p]
  dsimp only
  rw [rows_pass (stageRows_pass hp hmore)]

/-- What FW_INSTALL asks of the load buffer: a well-formed image, loaded whole, signed, and not older than the rollback counter. -/
structure ImageFits (c : Call) (s : State) : Prop where
  formed : imageFault s.sys.load = none
  whole : loadedAll s (128 + Mem.leAt s.sys.load 16 4) = true
  signed : c.cr.sigOk = true
  recent : s.nv.rollback ≤ Mem.leAt s.sys.load 12 4

/-- The slot that an image goes to: the one that is not ACTIVE. -/
def spareSlot (s : State) : Nat := if s.nv.active = some 0 then 1 else 0

theorem fwInstall_installs (hlen : c.p.length = 4) (hz : zeroAt c.p 1 3 = true) (himg : ImageFits c s) (hop : u8 c.p 0 = 0)
    (hboot : s.sys.boot = 2 ∨ s.sys.boot = 3 ∨ s.sys.boot = 4) :
    fwInstall c s = okay { s with nv := { s.nv with
      slots := mset s.nv.slots (spareSlot s)
        { len := 128 + Mem.leAt s.sys.load 16 4, data := s.sys.load.filter fun e => e.1 < 128 + Mem.leAt s.sys.load 16 4 },
      pending := some (spareSlot s) } } := by
  obtain ⟨hform, hwhole, hsig, hrec⟩ := himg
  have hrom : (romMode s && s.sys.boot != 3 && s.sys.boot != 4) = false := by
    obtain h | h | h := hboot <;> simp [romMode, h]
  unfold fwInstall
  rw [rows_pass]
  · simp only [hform, Option.isSome_none, Bool.false_eq_true, if_false]
    rw [rows_pass]
    · simp only [hop, Nat.zero_ne_one, if_false]
      rfl
    · simpa [hwhole, hsig, hop, not_lt.mpr hrec] using hrom
  · simp [hlen, hz, hop]

theorem fwInstall_starts (hlen : c.p.length = 4) (hz : zeroAt c.p 1 3 = true) (himg : ImageFits c s) (hop : u8 c.p 0 = 1)
    (hboot : s.sys.boot ≠ 2) : fwInstall c s = okay (startFw s.sys.load none s) := by
  obtain ⟨hform, hwhole, hsig, hrec⟩ := himg
  unfold fwInstall
  rw [rows_pass]
  · simp only [hform, Option.isSome_none, Bool.false_eq_true, if_false]
    rw [rows_pass]
    · simp only [hop, if_true]
    · simp [hwhole, hsig, hop, romMode, hboot, not_lt.mpr hrec]
  · simp [hlen, hz, hop]

theorem fwConfirm_confirms (hp : c.p = []) (hnew : (∃ k, s.sys.fwSlot = some k ∧ s.nv.active ≠ some k) ∨ s.nv.rollback < s.sys.svn) :
    fwConfirm c s = okay { s with nv := { s.nv with
      active := if s.sys.fwSlot = none then s.nv.active else s.sys.fwSlot, rollback := max s.nv.rollback s.sys.svn } } := by
  have hrow : ((s.sys.fwSlot.isNone || s.sys.fwSlot == s.nv.active) && decide (s.sys.svn ≤ s.nv.rollback)) = false := by
    obtain ⟨k, hk, hact⟩ | h := hnew
    · simp [hk, Ne.symm hact]
    · simp [not_le.mpr h]
  unfold fwConfirm
  rw [rows_pass]
  · cases s.sys.fwSlot <;> rfl
  · simp [hp, hrow]

/-! ### The fault ring and a core's counters (R506, R525) -/

theorem fltRingRead_reads (hlen : c.p.length = 4) (hflags : u8 c.p 3 < 2) (hf : leAt c.p 0 2 ≤ 4095) (hlo : 1 ≤ u8 c.p 2) (hhi : u8 c.p 2 ≤ 127) :
    fltRingRead c s = reply ((List.range (u8 c.p 2)).flatMap fun i =>
        match mget s.flt.ring ((leAt c.p 0 2 + i) % 4096) with
        | some f => fltBytes f
        | none => zeros 32)
      (if u8 c.p 3 = 1 then { s with flt := { s.flt with rd := (leAt c.p 0 2 + u8 c.p 2) % 4096 } } else s) := by
  have hn : u8 c.p 2 ≠ 0 := by omega
  unfold fltRingRead
  rw [rows_pass]
  · obtain h | h : u8 c.p 3 = 0 ∨ u8 c.p 3 = 1 := by omega
    all_goals simp only [h]; rfl
  · simp [hlen, hn, not_le.mpr hflags, not_lt.mpr hf, not_lt.mpr hhi]

theorem obsCoreRead_reads (hlen : c.p.length = 4) (hflags : u8 c.p 1 < 2) (hz : zeroAt c.p 2 2 = true) (hcore : u8 c.p 0 < s.nv.cores) :
    obsCoreRead c s = reply (utilRecord s (physOf s (u8 c.p 0))) (if u8 c.p 1 = 1 then utilClear (physOf s (u8 c.p 0)) s else s) := by
  unfold obsCoreRead
  rw [rows_pass]
  · obtain h | h : u8 c.p 1 = 0 ∨ u8 c.p 1 = 1 := by omega
    all_goals simp only [h]; rfl
  · simp [hlen, hflags, hz, not_le.mpr hcore]

/-! ### LOG_CTL (R526) -/

theorem logCtl_flushes {k : Nat} (hk : k = u8 c.p 0) (hlen : c.p.length = 24) (hle : k ≤ 0x81) (hcore : 0x80 ≤ k ∨ k < s.nv.cores)
    (h17 : u8 c.p 17 = 0) (hop : u8 c.p 1 = 1 ∨ u8 c.p 1 = 2) (hz : zeroAt c.p 2 22 = true) :
    logCtl c s = okay (setLog k { logbook s k with
      flush := true, types := if u8 c.p 1 = 2 then 0 else (logbook s k).types } s) := by
  subst hk
  have hplace : (!decide (0x80 ≤ u8 c.p 0) && decide (s.nv.cores ≤ u8 c.p 0)) = false := by
    obtain h | h := hcore <;> simp [h, not_le.mpr]
  have hop0 : u8 c.p 1 ≠ 0 := by omega
  have hop2 : u8 c.p 1 ≤ 2 := by omega
  unfold logCtl
  rw [rows_pass]
  · simp only [hop0, if_true, ne_eq, not_false_eq_true]
  · simp only [hop0, decide_false, Bool.false_and, Bool.or_false, hplace]
    simp [hlen, not_lt.mpr hle, not_lt.mpr hop2, h17, hz, hop0]

/-- The logbook that LOG_CTL OP 0 makes of a drained one. -/
def logSetUp (c : Call) (s : State) (x : Logbook) : Logbook :=
  { x with
    types := leAt c.p 2 2, sample := u8 c.p 4, mark := u8 c.p 5, brixvia := u8 c.p 6 == 1, sess := u8 c.p 7,
    gen := (sess s (u8 c.p 7)).gen, addr := leAt c.p 8 8, size := u8 c.p 16, chip := leAt c.p 18 2, xid := leAt c.p 20 4, wr := 0, flush := false }

/-- What OP 0 asks of a destination in HBM. -/
def ringFits (c : Call) (s : State) : Prop :=
  u8 c.p 7 = 0 ∧ zeroAt c.p 20 4 = true ∧ leAt c.p 8 8 % 32 = 0 ∧ 16 ≤ u8 c.p 16 ∧
    u8 c.p 16 ≤ 32 ∧ (leAt c.p 18 2 = chipId s → openHbm s (leAt c.p 8 8) (2 ^ u8 c.p 16) = true)

theorem logCtl_sets {k : Nat} (hk : k = u8 c.p 0) (hlen : c.p.length = 24) (hle : k ≤ 0x81) (hcore : 0x80 ≤ k ∨ k < s.nv.cores)
    (h17 : u8 c.p 17 = 0) (hop : u8 c.p 1 = 0) (hdst : u8 c.p 6 ≤ 1) (htypes : logTypesBad k (leAt c.p 2 2) = false)
    (hsample : u8 c.p 4 ≤ 20) (hmark : u8 c.p 5 ≤ 24) (hdie : k < 0x80 → u8 c.p 4 = 0 ∧ u8 c.p 5 = 0)
    (hring : u8 c.p 6 = 0 → ringFits c s)
    (hsess : u8 c.p 6 = 1 → zeroAt c.p 8 12 = true ∧ u8 c.p 7 ≤ 3 ∧ (sess s (u8 c.p 7)).opened = true) :
    logCtl c s = okay (setLog k (logSetUp c (drainLog k s) (logbook (drainLog k s) k)) (drainLog k s)) := by
  subst hk
  have hplace : (!decide (0x80 ≤ u8 c.p 0) && decide (s.nv.cores ≤ u8 c.p 0)) = false := by
    obtain h | h := hcore <;> simp [h, not_le.mpr]
  have hmarks : (!decide (0x80 ≤ u8 c.p 0) && (u8 c.p 4 != 0 || u8 c.p 5 != 0)) = false := by
    simpa using hdie
  unfold logCtl
  rw [rows_pass]
  · simp only [hop, ne_eq, not_true_eq_false, if_false]
    rfl
  · simp only [hplace, hmarks, htypes, hop]
    obtain h6 | h6 : u8 c.p 6 = 0 ∨ u8 c.p 6 = 1 := by omega
    · obtain ⟨h7, hz, halign, hslo, hshi, hopen⟩ := hring h6
      simpa [hlen, not_lt.mpr hle, h17, h6, h7, hz, halign, not_lt.mpr hsample, not_lt.mpr hmark, not_lt.mpr hslo, not_lt.mpr hshi] using hopen
    · obtain ⟨hz, h3, ho⟩ := hsess h6
      simp [hlen, not_lt.mpr hle, h17, h6, hz, not_lt.mpr h3, ho, not_lt.mpr hsample, not_lt.mpr hmark]

/-! ### DUMP_ARM (R532) -/

theorem dumpArm_arms (hlen : c.p.length = 32) (hop : u8 c.p 2 = 0) (hi : u8 c.p 1 ≤ 3) (h3 : u8 c.p 3 = 0) (h14 : leAt c.p 14 2 = 0)
    (h28 : leAt c.p 28 4 = 0) (haddr : leAt c.p 16 8 % 32 = 0) (hbytes : leAt c.p 24 4 % 32 = 0) (hcore : u8 c.p 0 < s.nv.cores)
    (hn : leAt c.p 12 2 ≠ 0) (hlo : 64 ≤ leAt c.p 24 4) (hhi : leAt c.p 24 4 ≤ 2097184)
    (hopen : openHbm s (leAt c.p 16 8) (leAt c.p 12 2 * leAt c.p 24 4) = true) (hdbg : dbgOpen s 0 = true)
    (hfree : mget (core s (physOf s (u8 c.p 0))).dumps (u8 c.p 1) = none) :
    dumpArm c s = okay (setCore (physOf s (u8 c.p 0)) { core s (physOf s (u8 c.p 0)) with
      dumps := mset (core s (physOf s (u8 c.p 0))).dumps (u8 c.p 1)
        { symbol := leAt c.p 4 4, step := leAt c.p 8 4, count := leAt c.p 12 2, addr := leAt c.p 16 8, bytes := leAt c.p 24 4 } } s) := by
  unfold dumpArm
  rw [rows_pass]
  · simp only [hop, if_true]
  · simp [hlen, hop, not_lt.mpr hi, h3, h14, h28, haddr, hbytes, not_le.mpr hcore, hn, not_lt.mpr hlo, not_lt.mpr hhi, hopen, hdbg, hfree]

theorem dumpArm_clears (hlen : c.p.length = 32) (hop : u8 c.p 2 = 1) (hi : u8 c.p 1 ≤ 3) (hz : zeroAt c.p 3 29 = true)
    (hcore : u8 c.p 0 < s.nv.cores) (hdbg : dbgOpen s 0 = true)
    (harmed : (mget (core s (physOf s (u8 c.p 0))).dumps (u8 c.p 1)).isSome = true) :
    dumpArm c s = okay (setCore (physOf s (u8 c.p 0)) { core s (physOf s (u8 c.p 0)) with
      dumps := mdel (core s (physOf s (u8 c.p 0))).dumps (u8 c.p 1) } s) := by
  have h3 : u8 c.p 3 = 0 := (zeroAt_succ hz).1
  have h14 : leAt c.p 14 2 = 0 := leAt_of_zeroAt (zeroAt_sub hz (by decide) (by decide))
  have h16 : leAt c.p 16 8 = 0 := leAt_of_zeroAt (zeroAt_sub hz (by decide) (by decide))
  have h24 : leAt c.p 24 4 = 0 := leAt_of_zeroAt (zeroAt_sub hz (by decide) (by decide))
  have h28 : leAt c.p 28 4 = 0 := leAt_of_zeroAt (zeroAt_sub hz (by decide) (by decide))
  unfold dumpArm
  rw [rows_pass]
  · simp only [hop, Nat.one_ne_zero, if_false]
  · simpa [hlen, hop, not_lt.mpr hi, h3, h14, h16, h24, h28, not_le.mpr hcore, hdbg, hz] using harmed

/-! ### HV_ARM and HV_READ (R536, R540) -/

theorem hvArm_arms (hlen : c.p.length = 16) (hz : zeroAt c.p 1 3 = true) (hdbg : dbgOpen s 1 = true) (hop : u8 c.p 0 = 0) (hst : s.hv.st = 0)
    (hpwr : s.ch.pwr ≠ 1) (hlo : now s + 10000 ≤ leAt c.p 8 8) (hhi : leAt c.p 8 8 ≤ now s + 600000000000) :
    hvArm c s = okay { s with hv := { s.hv with st := 1, t := leAt c.p 8 8, armNum := leAt c.p 4 4 } } := by
  unfold hvArm
  rw [rows_pass]
  · simp only [hop]
    rfl
  · simp [hlen, hz, hdbg, hop, hst, hpwr, not_lt.mpr hlo, not_lt.mpr hhi]

theorem hvArm_cancels (hlen : c.p.length = 16) (hz : zeroAt c.p 1 3 = true) (hdbg : dbgOpen s 1 = true) (hop : u8 c.p 0 = 1)
    (hnum : leAt c.p 4 4 = 0) (ht : leAt c.p 8 8 = 0) (hst : s.hv.st = 1) : hvArm c s = okay { s with hv := { s.hv with st := 0 } } := by
  unfold hvArm
  rw [rows_pass]
  · simp only [hop]
  · simp [hlen, hz, hdbg, hop, hst, hnum, ht]

theorem hvArm_resumes (hlen : c.p.length = 16) (hz : zeroAt c.p 1 3 = true) (hdbg : dbgOpen s 1 = true) (hop : u8 c.p 0 = 2)
    (hnum : leAt c.p 4 4 = 0) (hst : s.hv.st = 2) (hlo : now s + 10000 ≤ leAt c.p 8 8) (hhi : leAt c.p 8 8 ≤ now s + 600000000000) :
    hvArm c s = okay { s with hv := { s.hv with st := 3, r := leAt c.p 8 8 } } := by
  unfold hvArm
  rw [rows_pass]
  · simp only [hop]
  · simp [hlen, hz, hdbg, hop, hst, hnum, not_lt.mpr hlo, not_lt.mpr hhi]

theorem hvRead_reads {b : Bytes} (hlen : c.p.length = 12) (hsec : u8 c.p 0 ≤ 4) (hz : u8 c.p 1 = 0) (hdbg : dbgOpen s 1 = true)
    (hhold : holding s = true) (hrec : hvRecord s (u8 c.p 0) (leAt c.p 2 2) = some b) (hoff : leAt c.p 4 4 < b.length)
    (hlo : 1 ≤ leAt c.p 8 4) (hhi : leAt c.p 8 4 ≤ 4064) : hvRead c s = reply (sub b (leAt c.p 4 4) (leAt c.p 8 4)) s := by
  have hn : leAt c.p 8 4 ≠ 0 := by omega
  have hst : s.hv.st = 2 ∨ s.hv.st = 3 := by simpa [holding] using hhold
  unfold hvRead
  rw [rows_pass]
  · simp [hrec]
  · simpa [hlen, not_lt.mpr hsec, hz, hdbg, hrec, not_le.mpr hoff, hn, not_lt.mpr hhi, or_iff_not_imp_left] using hst

end FirmwareAndObservationRules

/-- Settles O19: no row of the command's table refuses the request, so its effect is the handler's last line. -/
theorem firmwareAndObservationCommandsComplete : Obligations.FirmwareAndObservationCommandsComplete := by
  unfold Obligations.FirmwareAndObservationCommandsComplete
  refine ⟨?load, ?loadFirst, ?install, ?confirm, ?ring, ?core, ?log, ?dump, ?dumpClear, ?heave, ?capture⟩
  case load =>
    intro r s ha hp hz h0
    rw [exec_fwLoad ha, fwLoad_writes hp hz, if_neg h0]
    rfl
  case loadFirst =>
    intro r s ha hp hz h0
    rw [exec_fwLoad ha, fwLoad_writes hp hz, if_pos h0, h0]
    simp only [Nat.zero_div, Nat.zero_add]
    rfl
  case install =>
    intro r s ha hlen hz hform hwhole hsig hrec
    have himg : ImageFits (callOf r s) (busy 0x0D41 r s) := ⟨hform, hwhole, hsig, hrec⟩
    refine ⟨fun hop hboot => ?slot, fun hop hboot => ?start⟩
    case slot =>
      rw [exec_fwInstall ha, fwInstall_installs (c := callOf r s) (s := busy 0x0D41 r s) hlen hz himg hop hboot]
      rfl
    case start =>
      rw [exec_fwInstall ha, fwInstall_starts (c := callOf r s) (s := busy 0x0D41 r s) hlen hz himg hop hboot]
      rfl
  case confirm =>
    intro r s ha hp hnew
    rw [exec_fwConfirm ha, fwConfirm_confirms (c := callOf r s) (s := busy 0x0D42 r s) hp hnew]
    rfl
  case ring =>
    intro r s ha hlen hflags hf hlo hhi
    rw [exec_fltRingRead ha, fltRingRead_reads (c := callOf r s) (s := busy 0x0E02 r s) hlen hflags hf hlo hhi]
    rfl
  case core =>
    intro r s ha hlen hflags _ hz hcore
    rw [exec_obsCoreRead ha, obsCoreRead_reads (c := callOf r s) (s := busy 0x0F01 r s) hlen hflags hz hcore]
    rfl
  case log =>
    intro r s k ha hlen hk hle hcore h17
    refine ⟨fun hop hz => ?flush, fun hop hdst htypes hsample hmark hdie hring hsess => ?set⟩
    case flush =>
      rw [exec_logCtl ha, logCtl_flushes (c := callOf r s) (s := busy 0x0F02 r s) hk hlen hle hcore h17 hop hz]
      rfl
    case set =>
      rw [exec_logCtl ha, logCtl_sets (c := callOf r s) (s := busy 0x0F02 r s) hk hlen hle hcore h17 hop hdst htypes hsample hmark hdie
        hring hsess]
      rfl
  case dump =>
    intro r s ha hlen hop hi h3 h14 h28 haddr hbytes hcore hn hlo hhi hopen hdbg hfree
    rw [exec_dumpArm ha, dumpArm_arms (c := callOf r s) (s := busy 0x0F10 r s) hlen hop hi h3 h14 h28 haddr hbytes hcore hn hlo hhi hopen
      hdbg hfree]
    rfl
  case dumpClear =>
    intro r s p ha hlen hop hi hz hcore hdbg hp harmed
    subst hp
    rw [exec_dumpArm ha, dumpArm_clears (c := callOf r s) (s := busy 0x0F10 r s) hlen hop hi hz hcore hdbg harmed]
    rfl
  case heave =>
    intro r s ha hlen hz hdbg
    refine ⟨fun hop hst hpwr hlo hhi => ?arm, fun hop hnum ht hst => ?cancel, fun hop hnum hst hlo hhi => ?resume⟩
    case arm =>
      rw [exec_hvArm ha, hvArm_arms (c := callOf r s) (s := busy 0x0F20 r s) hlen hz hdbg hop hst hpwr hlo hhi]
      rfl
    case cancel =>
      rw [exec_hvArm ha, hvArm_cancels (c := callOf r s) (s := busy 0x0F20 r s) hlen hz hdbg hop hnum ht hst]
      rfl
    case resume =>
      rw [exec_hvArm ha, hvArm_resumes (c := callOf r s) (s := busy 0x0F20 r s) hlen hz hdbg hop hnum hst hlo hhi]
      rfl
  case capture =>
    intro r s b ha hlen hsec hz hdbg hhold hrec hoff hlo hhi
    rw [exec_hvRead ha, hvRead_reads (c := callOf r s) (s := busy 0x0F21 r s) hlen hsec hz hdbg hhold hrec hoff hlo hhi]
    rfl

end Sys2Proof.Machine
end

section
/-! PROOFS. A queued request starts, and its response is kept and sent (R459, R461, R463); O25. -/

namespace Sys2Proof.Machine
open Sys2Proof

section MailboxRules
variable {s : State} {m : Nat} {q : Rq} {a : Resp}

/-! ### Starting -/

theorem exec_mbxStart (hm : m < 32) (hq : (mbx s m).rq = some q) (cr : Crypto) :
    exec (.mbxStart m cr) s = .next (startMbx (handlerOf q.op) m cr s) := by
  change Host.Outcome.next _ = _
  simp only [hq, hm, if_true]

/-- A queued request that a check refuses answers that status and has no effect (R463). -/
theorem startMbx_refuses {h : Call → State → CmdRes} {cr : Crypto} {n : Nat} (hup : helmUp s = true) (hst : (mbx s m).st = 1)
    (hf : fenceOpen s m = true) (hq : (mbx s m).rq = some q) (ho : (sess s (mbx s m).sess).opened = true)
    (hg : (sess s (mbx s m).sess).gen = (mbx s m).gen)
    (hc : reqChecks s (sess s (mbx s m).sess).ifv (sess s (mbx s m).sess).anchored q = some n) :
    startMbx h m cr s = setMbx m { mbx s m with
      st := 2, ready := some { op := q.op, seq := q.seq, status := n }, stalled := false } s := by
  simp only [startMbx, hup, hst, hf, hq, ho, hg, hc, Bool.not_true, Bool.false_or, decide_true, Bool.and_self, Bool.true_or,
    beq_self_eq_true, if_true, Bool.false_eq_true, if_false]

/-! ### Completing -/

@[simp] theorem countCmd_helm (n : Nat) : (countCmd n s).helm = s.helm := by
  unfold countCmd
  split
  · exact perf_helm ..
  · exact errc_helm ..

@[simp] theorem sess_countCmd (n i : Nat) : sess (countCmd n s) i = sess s i := by
  unfold sess
  rw [countCmd_helm]

/-- The mailbox with its response kept, and the command counted. -/
def mbxKept (m : Nat) (a : Resp) (s : State) : State :=
  countCmd a.status (setMbx m { mbx s m with st := 3, resp := some a, ready := none } s)

/-- The response goes to the session that rang, while it is open (R459). -/
def mbxAnswered (m : Nat) (a : Resp) (s : State) : State :=
  if (sess s (mbx s m).sess).opened && (sess s (mbx s m).sess).gen == (mbx s m).gen then sendResp m (mbx s m).sess 0 a (mbxKept m a s)
  else mbxKept m a s

theorem completeMbx_ready (hst : (mbx s m).st = 2) (hr : (mbx s m).ready = some a) : completeMbx m s = mbxAnswered m a s := by
  have hsess : sess (mbxKept m a s) (mbx s m).sess = sess s (mbx s m).sess := by
    unfold mbxKept
    rw [sess_countCmd]
    rfl
  unfold completeMbx mbxAnswered
  simp only [hst, hr]
  rw [← mbxKept, hsess]
  rfl

theorem completeMbx_not_ready (hr : (mbx s m).ready = none) : completeMbx m s = s := by
  unfold completeMbx
  dsimp only
  split
  next hready => exact absurd (hready.symm.trans hr) (Option.some_ne_none _)
  next => rfl

theorem finishing_not_ready (hr : (mbx s m).ready = none) : finishing s m = none := by
  unfold finishing
  dsimp only
  split
  next hready _ => exact absurd (hready.symm.trans hr) (Option.some_ne_none _)
  next => rfl

theorem exec_mbxComplete (hup : helmUp s = true) : exec (.mbxComplete m) s = .next (finishMbx m s) :=
  congrArg Host.Outcome.next (if_pos hup)

theorem finishMbx_no_effect (hf : finishing s m = none) : finishMbx m s = completeMbx m s := by
  simp only [finishMbx, hf]

theorem finishMbx_effect {op : Nat} {p : Bytes} (hf : finishing s m = some (op, p)) : finishMbx m s = afterCmd op p (completeMbx m s) := by
  simp only [finishMbx, hf]

end MailboxRules

/-- Settles O25: a start meets the checks or none of them; a completion keeps and sends the response, and then has the effect that
waits for it. -/
theorem mailboxesStartAndComplete : Obligations.MailboxesStartAndComplete := by
  unfold Obligations.MailboxesStartAndComplete
  refine ⟨?start, ?gone, ?failed, ?succeeded, ?unready⟩
  case start =>
    intro m cr s q hm hup hst hf hq ho hg hhold
    have hisl : (holding s && islandOps.contains q.op) = false := by
      obtain h | h := hhold
      · rw [h, Bool.false_and]
      · rw [h, Bool.and_false]
    refine ⟨fun hc => ?runs, fun n hc => ?refused⟩
    case runs =>
      rw [exec_mbxStart hm hq, startMbx_runs hup hst hf hq ho hg hc hisl]
    case refused =>
      rw [exec_mbxStart hm hq, startMbx_refuses hup hst hf hq ho hg hc]
  case gone =>
    intro m s a hup hst hr hq
    rw [exec_mbxComplete hup, finishMbx_no_effect (by simp only [finishing, hst, hr, hq]), completeMbx_ready hst hr]
    rfl
  case failed =>
    intro m s a q hup hst hr hq hstatus
    rw [exec_mbxComplete hup, finishMbx_no_effect (by simp only [finishing, hst, hr, hq, hstatus, if_false]), completeMbx_ready hst hr]
    rfl
  case succeeded =>
    intro m s a q hup hst hr hq hstatus
    rw [exec_mbxComplete hup, finishMbx_effect (by simp only [finishing, hst, hr, hq, hstatus, if_true]; rfl), completeMbx_ready hst hr]
    rfl
  case unready =>
    intro m s hup hr
    rw [exec_mbxComplete hup, finishMbx_no_effect (finishing_not_ready hr), completeMbx_not_ready hr]

end Sys2Proof.Machine
end

section
/-! PROOFS. The frames of an open session (R459, R471, R472, R475 to R477); O26. -/

namespace Sys2Proof.Machine
open Sys2Proof

section BrixviaRules
variable {f : BxFrame} {s : State} {i : Nat} {b : Bytes}

/-! ### Receiving (R471, R472) -/

theorem authentic_ok (h : frameOk f s = true) : authentic f s = (true, heardFrame f s) := by
  simp only [frameOk, Bool.and_eq_true, decide_eq_true_eq] at h
  obtain ⟨⟨⟨⟨hport, hsess⟩, hopen⟩, htag⟩, hpn⟩ := h
  have hknown : (decide (4 ≤ f.sess) || !(sess s f.sess).opened) = false := by simp [hsess, hopen]
  have hgood : (!f.tagOk || !pnOk (sess s f.sess) f.pn) = false := by simp [htag, hpn]
  simp only [authentic, hport, hknown, hgood, Bool.not_true, Bool.false_eq_true, if_false]
  rfl

theorem rxPlain_ok (h : frameOk f s = true) : rxPlain f s = heardFrame f s := by
  rw [rxPlain, authentic_ok h]

/-- A frame with the FSEQ that is expected is taken. -/
theorem rxSeq_inSequence (h : inSequence f s = true) (k : State → State) : rxSeq f k s = k (sequenced f s) := by
  simp only [inSequence, Bool.and_eq_true, beq_iff_eq] at h
  obtain ⟨⟨hok, hopen⟩, hseq⟩ := h
  have hgo : (!true || !(sess (heardFrame f s) f.sess).opened) = false := by simp [hopen]
  simp only [rxSeq, authentic_ok hok, hgo, Bool.false_eq_true, if_false]
  exact if_pos hseq

/-- A duplicate is acknowledged again, and has no other effect. -/
theorem rxSeq_duplicate (hok : frameOk f s = true) (hopen : (sess (heardFrame f s) f.sess).opened = true)
    (hseq : 2 ^ 31 ≤ (f.fseq + 2 ^ 32 - (sess (heardFrame f s) f.sess).fseqRx) % 2 ^ 32) (k : State → State) :
    rxSeq f k s = setSess f.sess { sess (heardFrame f s) f.sess with
      ackDue := some ((sess (heardFrame f s) f.sess).ackDue.getD (now (heardFrame f s))) } (heardFrame f s) := by
  have h0 : (f.fseq + 2 ^ 32 - (sess (heardFrame f s) f.sess).fseqRx) % 2 ^ 32 ≠ 0 :=
    Nat.ne_of_gt (lt_of_lt_of_le (Nat.two_pow_pos 31) hseq)
  have hgo : (!true || !(sess (heardFrame f s) f.sess).opened) = false := by simp [hopen]
  simp only [rxSeq, authentic_ok hok, hgo, Bool.false_eq_true, if_false]
  rw [if_neg h0, if_pos hseq]

theorem rxSeq_portOff (h : portUp s f.port = false) (k : State → State) : rxSeq f k s = s := by
  simp only [rxSeq, authentic, h, Bool.not_false, if_true, Bool.true_or]

/-! ### Mailbox frames (R459) -/

theorem mbxWrite_writes (hlen : 8 ≤ b.length) (hm : u8 b 0 ≤ 31) (hring : u8 b 1 ≤ 1) (hz2 : zeroAt b 2 2 = true) (hz6 : zeroAt b 6 2 = true)
    (hend : beAt b 4 2 + (b.drop 8).length ≤ 4096) (hoff : beAt b 4 2 < 4096) :
    mbxWrite i b s =
      let m := u8 b 0
      let w := setMbx m { mbx s m with area := Mem.store (mbx s m).area (beAt b 4 2) (b.drop 8) } s
      if (mbx s m).st = 1 ∨ (mbx s m).st = 2 then
        if u8 b 1 = 1 then ringMbx m i (areaRq w m) s
        else errc 0x314 0x32C 1 1 { s with helm := { s.helm with collide := setBit s.helm.collide m } }
      else if u8 b 1 = 1 then ringMbx m i (areaRq w m) w else w := by
  have hbit : bit (u8 b 1) 0 = decide (u8 b 1 = 1) := by
    obtain h | h : u8 b 1 = 0 ∨ u8 b 1 = 1 := by omega
    all_goals rw [h]; rfl
  have hring2 : ¬2 ≤ u8 b 1 := by omega
  simp only [mbxWrite, not_lt.mpr hlen, not_lt.mpr hm, hring2, hz2, hz6, not_lt.mpr hend, not_le.mpr hoff, hbit, decide_false, Bool.not_true,
    Bool.or_self, Bool.false_eq_true, if_false, Bool.or_eq_true, decide_eq_true_eq]

theorem mbxRead_answers (hlen : b.length = 8) (hm : u8 b 0 ≤ 31) (hz : zeroAt b 1 7 = true) :
    mbxRead i b s = sendResp (u8 b 0) i 0 ((mbx s (u8 b 0)).resp.getD { op := 0, seq := 0, status := 13 }) s := by
  simp only [mbxRead, hlen, not_lt.mpr hm, hz, ne_eq, not_true_eq_false, decide_false, Bool.not_true, Bool.or_self, Bool.false_eq_true, if_false]

/-! ### Bulk transfers (R476) -/

theorem bulkWrite_stores {last : Bool} (hmin : 16 ≤ b.length) (hmax : b.length ≤ 8192) (hz : zeroAt b 4 4 = true) (ha : beAt b 8 8 % 32 = 0)
    (hlast : (b.drop 16).length % 32 = 0 ∨ last = true)
    (hold : ∀ x, bulkOf s i (beAt b 0 4) = some x → x.ended = false ∧ x.reading = false)
    (hbar : bulkBar s i = none) (hhold : holding s = false) (hopen : openHbm s (beAt b 8 8) (b.drop 16).length = true) :
    bulkWrite i last b s =
      let t := hbmWrite (beAt b 8 8) (b.drop 16) s
      let x := sess t i
      let rest := x.bulk.filter (·.xid != beAt b 0 4)
      if last then sendSeq i 0x23 0 (be 4 (beAt b 0 4) ++ zeros 12) (setSess i { x with bulk := rest } t)
      else setSess i { x with bulk := rest ++ [{ xid := beAt b 0 4, reading := false }] } t := by
  have hended : ((bulkOf s i (beAt b 0 4)).map (·.ended)).getD false = false ∧
      ((bulkOf s i (beAt b 0 4)).map (·.reading)).getD false = false := by
    cases hx : bulkOf s i (beAt b 0 4) with
    | none => exact ⟨rfl, rfl⟩
    | some x => exact hold x hx
  obtain ⟨hended, hreading⟩ := hended
  have hmul : (!last && decide ((b.drop 16).length % 32 ≠ 0)) = false := by
    obtain h | h := hlast
    · simp only [h, ne_eq, not_true_eq_false, decide_false, Bool.and_false]
    · rw [h, Bool.not_true, Bool.false_and]
  simp only [bulkWrite, hended, hreading, hmul, not_lt.mpr hmin, not_lt.mpr hmax, hz, ha, hbar, hhold, hopen, ne_eq, not_true_eq_false,
    decide_false, Bool.not_true, Bool.or_self, Bool.false_eq_true, if_false]

theorem bulkRead_opens (hlen : b.length = 24) (hz : zeroAt b 4 4 = true) (ha : beAt b 8 8 % 32 = 0)
    (hnew : bulkOf s i (beAt b 0 4) = none) (hbar : bulkBar s i = none) (hlo : 1 ≤ beAt b 16 8) (hhi : beAt b 16 8 ≤ 2 ^ 32)
    (hmem : (inMem s (beAt b 8 8) (beAt b 16 8) || inTbl (beAt b 8 8) (beAt b 16 8)) = true) :
    bulkRead i b s = pumpBulk 4096 i (setSess i { sess s i with
      bulk := (sess s i).bulk ++ [{ xid := beAt b 0 4, reading := true, addr := beAt b 8 8, left := beAt b 16 8 }] } s) := by
  have hn : beAt b 16 8 ≠ 0 := Nat.one_le_iff_ne_zero.mp hlo
  simp only [bulkRead, hnew, hbar, hlen, hz, ha, hn, not_lt.mpr hhi, hmem, Option.map_none, Option.getD_none, Option.isSome_none, ne_eq,
    not_true_eq_false, decide_false, Bool.not_true, Bool.or_self, Bool.false_eq_true, if_false]

end BrixviaRules

/-- Settles O26: a frame in sequence has the effect of its type, a duplicate and a frame on a port that is off none. -/
theorem brixviaFramesComplete : Obligations.BrixviaFramesComplete := by
  unfold Obligations.BrixviaFramesComplete
  refine ⟨?mbxWrite, ?mbxRead, ?bulkWrite, ?bulkRead, ?plain, ?close, ?duplicate, ?off⟩
  case mbxWrite =>
    intro f s h hlen hm hring hz2 hz6 hend hoff
    exact congrArg Host.Outcome.next ((rxSeq_inSequence h _).trans (mbxWrite_writes hlen hm hring hz2 hz6 hend hoff))
  case mbxRead =>
    intro f s h hlen hm hz
    exact congrArg Host.Outcome.next ((rxSeq_inSequence h _).trans (mbxRead_answers hlen hm hz))
  case bulkWrite =>
    intro f s h hmin hmax hz ha hlast hold hbar hhold hheld hopen
    have hgo : exec (.bulkWrite f) s = .next (rxSeq f (bulkWrite f.sess (bit f.flags 0) f.body) s) :=
      congrArg Host.Outcome.next (if_neg ((Bool.not_eq_true _).mpr hheld))
    rw [hgo, rxSeq_inSequence h, bulkWrite_stores hmin hmax hz ha hlast hold hbar hhold hopen]
  case bulkRead =>
    intro f s h hlen hz ha hnew hbar hlo hhi hmem
    exact congrArg Host.Outcome.next ((rxSeq_inSequence h _).trans (bulkRead_opens hlen hz ha hnew hbar hlo hhi hmem))
  case plain =>
    intro f s h
    have hgo : Host.Outcome.next (pumpBulk 4096 f.sess (rxPlain f s)) =
        (Host.Outcome.next (pumpBulk 4096 f.sess (heardFrame f s)) : Host.Outcome State Fault Refusal) := by rw [rxPlain_ok h]
    exact ⟨hgo, hgo⟩
  case close =>
    intro f s h
    exact congrArg Host.Outcome.next (rxSeq_inSequence h _)
  case duplicate =>
    intro f s hok hopen hheld hseq c hc
    simp only [List.mem_cons, List.not_mem_nil, or_false] at hc
    have hdup := rxSeq_duplicate hok hopen hseq
    obtain rfl | rfl | rfl | rfl | rfl := hc
    · exact congrArg Host.Outcome.next (hdup _)
    · exact congrArg Host.Outcome.next (hdup _)
    · exact congrArg Host.Outcome.next ((if_neg ((Bool.not_eq_true _).mpr hheld)).trans (hdup _))
    · exact congrArg Host.Outcome.next (hdup _)
    · exact congrArg Host.Outcome.next (hdup _)
  case off =>
    intro f s hoff c hc
    simp only [List.mem_cons, List.not_mem_nil, or_false] at hc
    obtain rfl | rfl | rfl | rfl | rfl := hc
    · exact congrArg Host.Outcome.next (rxSeq_portOff hoff _)
    · exact congrArg Host.Outcome.next (rxSeq_portOff hoff _)
    · refine congrArg Host.Outcome.next ?_
      split
      · rfl
      · exact rxSeq_portOff hoff _
    · exact congrArg Host.Outcome.next (rxSeq_portOff hoff _)
    · exact congrArg Host.Outcome.next (rxSeq_portOff hoff _)

end Sys2Proof.Machine
end

section
/-! PROOFS. Handshakes (R473, R474) and PTP messages (R379); O28. -/

namespace Sys2Proof.Machine
open Sys2Proof

section HandshakeRules
variable {s : State} {port i : Nat} {body : Bytes}

/-! ### HS_INIT (R473) -/

/-- The HS_INITs of port `port` in the last second. -/
def recentInits (s : State) (port : Nat) : List Nat := (bxPort s port).inits.filter fun t => now s < t + 1000000000

/-- The first part of HS_RESP: the device's share, the session index and the certificate's length. -/
def respHead (i : Nat) (s : State) : Bytes :=
  padTo 97 (Config.entropy s.free) ++ le 1 i ++ be 2 (Config.certificate.take 1024).length

/-- HS_RESP to an HS_INIT. -/
def respOf (i : Nat) (body : Bytes) (s : State) : Bytes :=
  respHead i s ++ padTo 64 (Config.signature idKey (sha256 (body ++ respHead i s)) s.free) ++ Config.certificate.take 1024

/-- The state in which a port has taken an HS_INIT. -/
def initTaken (port : Nat) (s : State) : State := setBxPort port { bxPort s port with inits := now s :: recentInits s port } s

/-- The answer to an HS_INIT, and the handshake kept for HS_FIN. -/
def handshakeBegun (port i : Nat) (body : Bytes) (s : State) : State :=
  emit (.bx port i 0x02 0 0 0 0 (respOf i body s)) { initTaken port s with
    free := s.free + 1
    helm := { (initTaken port s).helm with
      hs := (s.helm.hs.filter (·.sess != i)) ++
        [{ port := port, start := now s, sess := i, init := body, resp := respOf i body s }] } }

theorem hsInit_answers (hport : portUp s port = true) (hid : s.sys.idOk = true) (hlen : body.length = 100) (hz : zeroAt body 97 3 = true)
    (hfree : freeSess s = some i) (hfew : (recentInits s port).length < 16) :
    exec (.hsInit port body) s = .next (handshakeBegun port i body s) := by
  have hid' : (initTaken port s).sys.idOk = true := hid
  have hfree' : freeSess (initTaken port s) = some i := hfree
  have hform : (decide (body.length ≠ 100) || !zeroAt body 97 3) = false := by simp [hlen, hz]
  have hmany : ¬16 < (now s :: recentInits s port).length := by rw [List.length_cons]; omega
  change Host.Outcome.next (if !portUp s port then s
    else if !(initTaken port s).sys.idOk then hsFail port 0xFF 8 (initTaken port s)
    else if decide (body.length ≠ 100) || !zeroAt body 97 3 then discard (initTaken port s)
    else match freeSess (initTaken port s) with
      | none => hsFail port 0xFF 5 (initTaken port s)
      | some i => if 16 < (now s :: recentInits s port).length then hsFail port 0xFF 6 (initTaken port s) else handshakeBegun port i body s) = _
  simp only [hport, hid', hform, hfree', Bool.not_true, Bool.false_eq_true, if_false]
  rw [if_neg hmany]

/-! ### HS_FIN (R473, R474) -/

/-- The anchors that a chain ends in. -/
def chainAnchors (s : State) (cr : Crypto) : Nat :=
  (s.nv.anchors.map (·.1)).foldl (fun a k => if bit cr.chain k then setBit a k else a) 0

/-- The session that HS_FIN opens. -/
def newSession (port peer mine : Nat) (s : State) : Sess :=
  { opened := true, gen := s.helm.gens + 1, port := port, peer := peer % 2 ^ 32, anchored := mine != 0, anchors := mine,
    heard := [(port, now s)] }

/-- The state in which session index `i` is new: its handshake and its latches are gone. -/
def sessionCleared (i : Nat) (s : State) : State :=
  { s with
    helm := { s.helm with hs := s.helm.hs.filter (·.sess != i), gens := s.helm.gens + 1 }
    latch := s.latch.filter fun e => e.1 / 2 ^ 24 != i }

/-- What HS_FIN does where its handshake is there. -/
def hsFinEffect (port i : Nat) (body : Bytes) (peer : Nat) (cr : Crypto) (s : State) : State :=
  if body.length ≠ 68 + beAt body 0 2 || beAt body 0 2 = 0 || 1024 < beAt body 0 2 || !zeroAt body 2 2 || !cr.sigOk ||
      (!s.nv.anchors.isEmpty && chainAnchors s cr == 0) then
    hsFail port i 8 (errc 0x31C 0x32C 3 1 { s with helm := { s.helm with hs := s.helm.hs.filter (·.sess != i) } })
  else if (sess s i).opened then hsFail port i 5 { s with helm := { s.helm with hs := s.helm.hs.filter (·.sess != i) } }
  else sendPlain i 0x40 [] (setSess i (newSession port peer (chainAnchors s cr) s) (sessionCleared i s))

theorem exec_hsFin (peer : Nat) (cr : Crypto) (hport : portUp s port = true) : exec (.hsFin port i body peer cr) s = .next
    (match s.helm.hs.find? fun h => h.sess == i && decide (now s < h.start + 100000000) with
      | none => discard s
      | some _ => hsFinEffect port i body peer cr s) := by
  have hgo : ¬(!portUp s port) = true := by rw [hport]; exact Bool.false_ne_true
  exact congrArg Host.Outcome.next (if_neg hgo)

theorem hsFin_opens (peer : Nat) (cr : Crypto) (hport : portUp s port = true)
    (hthere : (s.helm.hs.any fun h => h.sess == i && decide (now s < h.start + 100000000)) = true) (hlen : body.length = 68 + beAt body 0 2)
    (hlo : 1 ≤ beAt body 0 2) (hhi : beAt body 0 2 ≤ 1024) (hz : zeroAt body 2 2 = true) (hsig : cr.sigOk = true)
    (hanch : s.nv.anchors = [] ∨ chainAnchors s cr ≠ 0) (hfree : (sess s i).opened = false) :
    exec (.hsFin port i body peer cr) s = .next
      (sendPlain i 0x40 [] (setSess i (newSession port peer (chainAnchors s cr) s) (sessionCleared i s))) := by
  have hfind : (s.helm.hs.find? fun h => h.sess == i && decide (now s < h.start + 100000000)).isSome = true := by
    rw [List.find?_isSome]
    exact List.any_eq_true.mp hthere
  obtain ⟨h, hfind⟩ := Option.isSome_iff_exists.mp hfind
  have hn : beAt body 0 2 ≠ 0 := Nat.one_le_iff_ne_zero.mp hlo
  have hform : (decide (body.length ≠ 68 + beAt body 0 2) || decide (beAt body 0 2 = 0) || decide (1024 < beAt body 0 2) ||
      !zeroAt body 2 2 || !cr.sigOk || (!s.nv.anchors.isEmpty && chainAnchors s cr == 0)) = false := by
    have hrow : (!s.nv.anchors.isEmpty && chainAnchors s cr == 0) = false := by
      obtain h | h := hanch <;> simp [h]
    simp [hlen, hn, not_lt.mpr hhi, hz, hsig, hrow]
  rw [exec_hsFin peer cr hport, hfind]
  simp only [hsFinEffect, hform, hfree, Bool.false_eq_true, if_false]

theorem hsFin_late (peer : Nat) (cr : Crypto) (hport : portUp s port = true)
    (hlate : ∀ h ∈ s.helm.hs, h.sess = i → h.start + 100000000 ≤ now s) :
    exec (.hsFin port i body peer cr) s = .next (discard s) := by
  have hfind : (s.helm.hs.find? fun h => h.sess == i && decide (now s < h.start + 100000000)) = none := by
    rw [List.find?_eq_none]
    intro h hmem hb
    simp only [Bool.and_eq_true, beq_iff_eq, decide_eq_true_eq] at hb
    exact absurd hb.2 (not_lt.mpr (hlate h hmem hb.1))
  rw [exec_hsFin peer cr hport, hfind]

end HandshakeRules

section PtpRules
variable {s : State} {port : Nat} {m : PtpMsg}

/-- What a PTP message of the selected domain and profile does. -/
def ptpEffect (port : Nat) (m : PtpMsg) (s : State) : State :=
  match m.kind with
  | .pdelayReq => emit (.ptp port .pdelayRespFollowUp) (emit (.ptp port .pdelayResp) s)
  | .announce => match m.ds with
    | some d => setCh { s.ch with
        masters := (mastersNow s).filter (·.src != m.src) ++ [{ src := m.src, ds := d, till := now s + m.ttl }] } s
    | none => s
  | .sync | .followUp =>
    if followed s ≠ some m.src then s
    else
      let ask := if s.ch.profile = 1 then PtpKind.pdelayReq else .delayReq
      let t := if m.kind = .sync then emit (.ptp port ask) s else s
      match m.off with
      | some o => if servoUp t then refCompare o t else t
      | none => t
  | _ => s

/-- The messages that a port has no use for. -/
def ptpBarred (port : Nat) (m : PtpMsg) (s : State) : Bool :=
  port ≠ ptpPort s || s.ch.source ≠ 2 || m.barred || !ptpUses s m.kind || m.domain ≠ s.ch.domain

theorem exec_ptpMessage (hport : portUp s port = true) :
    exec (.ptpMessage port m) s = .next (if ptpBarred port m s then discard s else ptpEffect port m s) := by
  have hgo : ¬(!portUp s port) = true := by rw [hport]; exact Bool.false_ne_true
  exact congrArg Host.Outcome.next (if_neg hgo)

theorem exec_ptpMessage_used (hport : portUp s port = true) (hp : port = ptpPort s) (hsrc : s.ch.source = 2) (hbar : m.barred = false)
    (hdom : m.domain = s.ch.domain) (huse : ptpUses s m.kind = true) : exec (.ptpMessage port m) s = .next (ptpEffect port m s) := by
  have hno : ptpBarred port m s = false := by simp [ptpBarred, ← hp, hsrc, hbar, hdom, huse]
  rw [exec_ptpMessage hport, hno, if_neg Bool.false_ne_true]

theorem ptpEffect_other_master (hkind : m.kind = .sync ∨ m.kind = .followUp) (hm : followed s ≠ some m.src) : ptpEffect port m s = s := by
  unfold ptpEffect
  obtain h | h := hkind
  all_goals
    simp only [h]
    exact if_pos hm

theorem ptpEffect_sync_asks (hkind : m.kind = .sync) (hm : followed s = some m.src) (hoff : m.off = none) :
    ptpEffect port m s = emit (.ptp port (if s.ch.profile = 1 then .pdelayReq else .delayReq)) s := by
  simp only [ptpEffect, hkind, hm, hoff, ne_eq, not_true_eq_false, if_false, if_true]

theorem ptpEffect_sync_compares {o : Int} (hkind : m.kind = .sync) (hm : followed s = some m.src) (hoff : m.off = some o)
    (hup : servoUp s = true) :
    ptpEffect port m s = refCompare o (emit (.ptp port (if s.ch.profile = 1 then .pdelayReq else .delayReq)) s) := by
  have hup' (k : PtpKind) : servoUp (emit (.ptp port k) s) = true := hup
  simp only [ptpEffect, hkind, hm, hoff, hup', ne_eq, not_true_eq_false, if_false, if_true]

theorem ptpEffect_followUp_compares {o : Int} (hkind : m.kind = .followUp) (hm : followed s = some m.src) (hoff : m.off = some o)
    (hup : servoUp s = true) : ptpEffect port m s = refCompare o s := by
  simp only [ptpEffect, hkind, hm, hoff, hup, ne_eq, not_true_eq_false, reduceCtorEq, if_false, if_true]

theorem ptpEffect_response (hkind : m.kind = .delayResp ∨ m.kind = .pdelayResp ∨ m.kind = .pdelayRespFollowUp) : ptpEffect port m s = s := by
  unfold ptpEffect
  obtain h | h | h := hkind
  all_goals simp only [h]

end PtpRules

/-- Settles O28: a handshake is answered, finished or discarded; a PTP message that the port uses has the effect of its kind. -/
theorem handshakesAndTimeComplete : Obligations.HandshakesAndTimeComplete := by
  unfold Obligations.HandshakesAndTimeComplete
  refine ⟨?init, ?fin, ?late, ?ptp, ?barred⟩
  case init =>
    intro port body s i hport hid hlen hz hfree hfew
    exact hsInit_answers hport hid hlen hz hfree hfew
  case fin =>
    intro port i body peer cr s mine hport hthere hlen hlo hhi hz hsig hmine hanch hfree
    rw [hmine] at hanch ⊢
    exact hsFin_opens peer cr hport hthere hlen hlo hhi hz hsig hanch hfree
  case late =>
    intro port i body peer cr s hport hlate
    exact hsFin_late peer cr hport hlate
  case ptp =>
    intro port m s hport hp hsrc hbar hdom
    have huse := exec_ptpMessage_used (m := m) hport hp hsrc hbar hdom
    refine ⟨fun hk hprof => ?request, fun d hk hd => ?announce, fun hk hm => ?other, fun hk hm hoff => ?asks, fun o hk hm hoff hup => ?compares,
      fun o hk hm hoff hup => ?follows, fun hk hprof => ?response, fun hk hprof => ?peerResponse⟩
    case request =>
      rw [huse (by simp [ptpUses, hk, hprof])]
      simp only [ptpEffect, hk]
    case announce =>
      rw [huse (by simp [ptpUses, hk])]
      simp only [ptpEffect, hk, hd]
    case other =>
      rw [huse (by obtain h | h := hk <;> simp [ptpUses, h]), ptpEffect_other_master hk hm]
    case asks =>
      rw [huse (by simp [ptpUses, hk]), ptpEffect_sync_asks hk hm hoff]
    case compares =>
      rw [huse (by simp [ptpUses, hk]), ptpEffect_sync_compares hk hm hoff hup]
    case follows =>
      rw [huse (by simp [ptpUses, hk]), ptpEffect_followUp_compares hk hm hoff hup]
    case response =>
      rw [huse (by simp [ptpUses, hk, hprof]), ptpEffect_response (.inl hk)]
    case peerResponse =>
      rw [huse (by obtain h | h := hk <;> simp [ptpUses, h, hprof]), ptpEffect_response (.inr hk)]
  case barred =>
    intro port m s hport hbar
    have hyes : ptpBarred port m s = true := by
      obtain h | h | h | h | h := hbar <;> simp [ptpBarred, ptpUses, h]
    rw [exec_ptpMessage hport, hyes, if_pos rfl]
    rfl

end Sys2Proof.Machine
end
